-- ==== Sys2Proof/Word.lean ====
section
/-!
DEFINITION. The word types of the PL-880: bytes, dwords, qwords and submission entries (spec 00 R11).
-/
namespace Sys2Proof

/-- One byte. -/
abbrev Byte := BitVec 8

/-- A 32-bit register or field. -/
abbrev Word := BitVec 32

/-- A 64-bit register or field. -/
abbrev QWord := BitVec 64

/-- A v2 submission entry of 256 bytes, byte 0 in the low bits (R11, R126). -/
abbrev Packet := BitVec 2048

end Sys2Proof
end

