-- ==== Sys2Proof/Config.lean ====
section
/-!
DEFINITION. What an implementation fixes and the spec leaves open: the free values. Each is a constant with no body,
so no proof can lean on a value of it (DESIGN CHOICE, notes/assumptions/4.md).
-/
namespace Sys2Proof

/-- A value that the spec leaves open, numbered by the model's own counter `Dev.free`: a fresh 64-bit value for each use. -/
opaque Config.freeQWord : Nat → QWord

/-- A free bit (for a choice the spec leaves open). -/
opaque Config.freeBit : Nat → Bool

/-- A free string: what the device prints where the spec does not give the text (23 R596). -/
opaque Config.freeText : Nat → String

/-- The contents of vendor SFU table slot `s`, 1,088 bytes, which the spec does not give (10 R273). -/
opaque Config.sfuVendorByte : (slot byte : Nat) → Byte

/-- The instruction words of vendor page 15 of the VE program store, which the spec does not give (09 R263). -/
opaque Config.vePage15 : (word : Nat) → Word

/-- Whether an ECDSA P-384 signature over a message verifies with a fused key (20 R536, 23 R595): the keys are fuses
that the spec does not give. -/
opaque Config.signatureOk : (keyIndex : Nat) → (message signature : List Byte) → Bool

/-- SHA-384 of a message, 48 bytes: FIPS 180-4 defines it, outside the spec (20 R536). -/
opaque Config.sha384 : List Byte → List Byte

/-- Bytes of a management or SPDM reply whose contents the spec leaves to the standards it names (21 R551, R559):
the UUID, the PDRs, the certificate chain and the like. -/
opaque Config.standardBytes : (what : Nat) → List Byte

/-- The response status by which a waystation host says that a slot is too small, less 6 (17 R471): 15 R399 gives none. -/
opaque Config.waySmallStatus : Byte

/-- The response status by which a home says that its push table is full, less 6 (07 R198): 15 R399 gives none. -/
opaque Config.mirrorFullStatus : Byte

/-- The fused VDD_CD voltage in mV that a CCLK frequency in MHz needs (19 R516): fuses that the spec does not give. -/
opaque Config.fusedVdd : (mhz : Nat) → Nat

/-- The temperature guard band of the AVS loop (19 R516), of which the spec gives the range 0–15 mV alone; of 16 steps. -/
opaque Config.avsGuard : (tenths : Int) → Fin 16

end Sys2Proof
end

