-- ==== Sys2Proof/Machine/Bits.lean ====
section
/-!
DEFINITION. Bit fields of numbers, little-endian byte lists, saturation: the helpers every other file uses (R11).
-/
namespace Sys2Proof.Machine

/-- Bits [lo + len - 1 : lo] of a number. -/
def bits (x lo len : Nat) : Nat := x / 2 ^ lo % 2 ^ len

/-- Bit `i` of a number. -/
def bitAt (x i : Nat) : Bool := x / 2 ^ i % 2 == 1

/-- One for true, zero for false. -/
def b2n (b : Bool) : Nat := if b then 1 else 0

/-- `x` with bits [lo + len - 1 : lo] replaced by the low bits of `v`. -/
def setBits (x lo len v : Nat) : Nat :=
  x - bits x lo len * 2 ^ lo + v % 2 ^ len * 2 ^ lo

/-- Ceiling division. -/
def cdiv (a b : Nat) : Nat := (a + b - 1) / b

/-- The low `n` bytes of a number, least significant first (R11). -/
def leBytes : (n x : Nat) → List Byte
  | 0, _ => []
  | n + 1, x => BitVec.ofNat 8 x :: leBytes n (x / 256)

/-- A little-endian byte list as a number (R11). -/
def leNat : List Byte → Nat
  | [] => 0
  | b :: bs => b.toNat + 256 * leNat bs

/-- Bytes [off, off + len) of a list as a little-endian number; bytes past its end read 0. -/
def fieldAt (bs : List Byte) (off len : Nat) : Nat := leNat ((bs.drop off).take len)

/-- `len` zero bytes. -/
def zeros (len : Nat) : List Byte := List.replicate len 0

/-- Add, and stay at the maximum of an `len`-bit field (R574). -/
def satAdd (len x n : Nat) : Nat := min (x + n) (2 ^ len - 1)

/-- The numbers from `lo` up to, not including, `hi`. -/
def rangeFrom (lo hi : Nat) : List Nat := (List.range (hi - lo)).map (lo + ·)

/-- Two's-complement value of the low `w` bits. -/
def toSigned (w x : Nat) : Int :=
  let v := x % 2 ^ w
  if v < 2 ^ (w - 1) then (v : Int) else (v : Int) - (2 ^ w : Nat)

/-- The `w`-bit two's-complement code of an integer, wrapping. -/
def ofSigned (w : Nat) (z : Int) : Nat := (z % ((2 ^ w : Nat) : Int)).toNat

/-- Put an element in its place in a sorted list, before its equals. -/
def insertBy {α : Type} (le : α → α → Bool) (x : α) : List α → List α
  | [] => [x]
  | y :: ys => if le x y then x :: y :: ys else y :: insertBy le x ys

/-- Sort a list; equal elements keep their order. -/
def sortBy {α : Type} (le : α → α → Bool) (l : List α) : List α := l.foldr (insertBy le) []

/-- Split a list into pieces of `n` (`n` > 0); the fuel is the list's length. -/
def chunksOf {α : Type} (n : Nat) (l : List α) : List (List α) :=
  (List.range (cdiv l.length (max n 1))).map fun i => (l.drop (i * n)).take n

end Sys2Proof.Machine
end

