-- ==== Sys2Proof/Machine/Map.lean ====
section
/-!
DEFINITION. Sparse data by key: lists with strictly rising keys, and the byte memory built on them, in which no entry
equals what an unlisted address reads as.
-/
namespace Sys2Proof.Machine

/-- A finite map from numbers, kept with strictly rising keys. -/
abbrev KV (α : Type) := List (Nat × α)

/-- The value at a key. -/
def kvGet {α : Type} (k : Nat) : KV α → Option α
  | [] => none
  | (k', v) :: m => if k = k' then some v else kvGet k m

/-- The map with `k` bound to `v`. -/
def kvPut {α : Type} (k : Nat) (v : α) : KV α → KV α
  | [] => [(k, v)]
  | (k', v') :: m =>
    if k < k' then (k, v) :: (k', v') :: m
    else if k = k' then (k, v) :: m
    else (k', v') :: kvPut k v m

/-- The map without `k`. -/
def kvDel {α : Type} (k : Nat) : KV α → KV α
  | [] => []
  | (k', v') :: m => if k = k' then kvDel k m else (k', v') :: kvDel k m

/-- The keys rise strictly. -/
abbrev kvWf {α : Type} (m : KV α) : Prop := m.Pairwise fun a b => a.1 < b.1

/-- Byte memory: listed cells hold non-zero bytes; an unlisted address reads `Mem.unlisted`. -/
abbrev Mem := List Host.Cell

/-- What an address that nothing has written reads as: COLD reset fills HBM and the scratchpads with zeros (20 R528). -/
def memUnlisted : Byte := 0

/-- The byte at an address. -/
def memGet (m : Mem) (a : Nat) : Byte := (kvGet a m).getD memUnlisted

/-- Write one byte, keeping the canonical form. -/
def memPut (m : Mem) (a : Nat) (b : Byte) : Mem := if b = memUnlisted then kvDel a m else kvPut a b m

/-- Write bytes at consecutive addresses. -/
def memPutList (m : Mem) (a : Nat) : List Byte → Mem
  | [] => m
  | b :: bs => memPutList (memPut m a b) (a + 1) bs

/-- Read `n` bytes from consecutive addresses. -/
def memGetList (m : Mem) (a : Nat) : (n : Nat) → List Byte
  | 0 => []
  | n + 1 => memGet m a :: memGetList m (a + 1) n

/-- Forget every byte of [lo, lo + len): they read as unlisted. -/
def memClear (m : Mem) (lo len : Nat) : Mem := m.filter fun c => c.1 < lo || lo + len ≤ c.1

/-- The canonical form of a memory: addresses rise strictly and no listed byte equals what an unlisted address reads as. -/
abbrev Memory.wf (m : Mem) : Prop := kvWf m ∧ ∀ c ∈ m, c.2 ≠ memUnlisted

end Sys2Proof.Machine
end

