-- ==== Sys2Proof/Machine/Regs.lean ====
section
/-!
DEFINITION. Where every register field of the spec stands: BAR0 offset of its register, low bit, width. Written out from the
register tables of spec/ (each register's docstring names its file and rule).
-/
namespace Sys2Proof.Machine

/-- A register field: the BAR0 offset of its register, its low bit and its width. -/
structure Fld where
  reg : Nat
  lo  : Nat
  len : Nat
  deriving DecidableEq, Repr

/-- CTL_ASSEMBLY (02 R32). -/
def Reg.CTL_ASSEMBLY.CODE : Fld := ⟨0x10, 0, 4⟩
/-- CTL_ASSEMBLY.STACKS. -/
def Reg.CTL_ASSEMBLY.STACKS : Fld := ⟨0x10, 4, 4⟩
/-- CTL_ASSEMBLY.IODIES. -/
def Reg.CTL_ASSEMBLY.IODIES : Fld := ⟨0x10, 8, 3⟩
/-- CTL_ASSEMBLY.BOARD_W. -/
def Reg.CTL_ASSEMBLY.BOARD_W : Fld := ⟨0x10, 16, 10⟩
/-- CLK_REF_STATUS (02 R55). -/
def Reg.CLK_REF_STATUS.CORE_OK : Fld := ⟨0x100000, 0, 1⟩
/-- CLK_REF_STATUS.PCIE_OK. -/
def Reg.CLK_REF_STATUS.PCIE_OK : Fld := ⟨0x100000, 1, 1⟩
/-- CLK_REF_STATUS.FAB_OK. -/
def Reg.CLK_REF_STATUS.FAB_OK : Fld := ⟨0x100000, 2, 1⟩
/-- CLK_REF_STATUS.ON_OSC. -/
def Reg.CLK_REF_STATUS.ON_OSC : Fld := ⟨0x100000, 3, 1⟩
/-- CLK_REF_STATUS.CORE_LOST. -/
def Reg.CLK_REF_STATUS.CORE_LOST : Fld := ⟨0x100000, 8, 1⟩
/-- CLK_REF_STATUS.PCIE_LOST. -/
def Reg.CLK_REF_STATUS.PCIE_LOST : Fld := ⟨0x100000, 9, 1⟩
/-- CLK_REF_STATUS.FAB_LOST. -/
def Reg.CLK_REF_STATUS.FAB_LOST : Fld := ⟨0x100000, 10, 1⟩
/-- CLK_PLL_LOCK (02 R56). -/
def Reg.CLK_PLL_LOCK.CCLK0 : Fld := ⟨0x100004, 0, 1⟩
/-- CLK_PLL_LOCK.CCLK1. -/
def Reg.CLK_PLL_LOCK.CCLK1 : Fld := ⟨0x100004, 1, 1⟩
/-- CLK_PLL_LOCK.NCLK. -/
def Reg.CLK_PLL_LOCK.NCLK : Fld := ⟨0x100004, 2, 1⟩
/-- CLK_PLL_LOCK.XCLK. -/
def Reg.CLK_PLL_LOCK.XCLK : Fld := ⟨0x100004, 3, 1⟩
/-- CLK_PLL_LOCK.HCLK. -/
def Reg.CLK_PLL_LOCK.HCLK : Fld := ⟨0x100004, 4, 1⟩
/-- CLK_PLL_LOCK.FCLK. -/
def Reg.CLK_PLL_LOCK.FCLK : Fld := ⟨0x100004, 8, 4⟩
/-- CLK_PLL_LOCK.MCLK. -/
def Reg.CLK_PLL_LOCK.MCLK : Fld := ⟨0x100004, 16, 12⟩
/-- CLK_CCLK (02 R57). -/
def Reg.CLK_CCLK.CUR_MHZ (i : Nat) : Fld := ⟨0x100010 + 0x4 * i, 0, 12⟩
/-- CLK_CCLK.TGT_MHZ. -/
def Reg.CLK_CCLK.TGT_MHZ (i : Nat) : Fld := ⟨0x100010 + 0x4 * i, 16, 12⟩
/-- CLK_CCLK.SLEWING. -/
def Reg.CLK_CCLK.SLEWING (i : Nat) : Fld := ⟨0x100010 + 0x4 * i, 31, 1⟩
/-- CLK_MEAS_CTL (02 R58). -/
def Reg.CLK_MEAS_CTL.SEL : Fld := ⟨0x100020, 0, 5⟩
/-- CLK_MEAS_CTL.WINDOW. -/
def Reg.CLK_MEAS_CTL.WINDOW : Fld := ⟨0x100020, 8, 8⟩
/-- CLK_MEAS_CTL.ERR. -/
def Reg.CLK_MEAS_CTL.ERR : Fld := ⟨0x100020, 30, 1⟩
/-- CLK_MEAS_CTL.START. -/
def Reg.CLK_MEAS_CTL.START : Fld := ⟨0x100020, 31, 1⟩
/-- CLK_MEAS_RESULT (02 R58). -/
def Reg.CLK_MEAS_RESULT.COUNT : Fld := ⟨0x100024, 0, 32⟩
/-- CLK_REF_LOSS_COUNT (02 R59). -/
def Reg.CLK_REF_LOSS_COUNT.CORE : Fld := ⟨0x100030, 0, 8⟩
/-- CLK_REF_LOSS_COUNT.PCIE. -/
def Reg.CLK_REF_LOSS_COUNT.PCIE : Fld := ⟨0x100030, 8, 8⟩
/-- CLK_REF_LOSS_COUNT.FAB. -/
def Reg.CLK_REF_LOSS_COUNT.FAB : Fld := ⟨0x100030, 16, 8⟩
/-- HOST_BAR2_BASE (03 R75). -/
def Reg.HOST_BAR2_BASE.BASE : Fld := ⟨0x5F0000, 30, 18⟩
/-- HOST_BAR_ERR (03 R75). -/
def Reg.HOST_BAR_ERR.PARTIAL : Fld := ⟨0x5F0008, 0, 8⟩
/-- HOST_BAR_ERR.BAR2_BLOCKED. -/
def Reg.HOST_BAR_ERR.BAR2_BLOCKED : Fld := ⟨0x5F0008, 8, 8⟩
/-- HOST_BAR_ERR.HELD. -/
def Reg.HOST_BAR_ERR.HELD : Fld := ⟨0x5F0008, 16, 8⟩
/-- HOST_BAR_ERR.FORM. -/
def Reg.HOST_BAR_ERR.FORM : Fld := ⟨0x5F0008, 24, 8⟩
/-- HOST_BAR_ERR_ADDR (03 R75). -/
def Reg.HOST_BAR_ERR_ADDR.OFFSET : Fld := ⟨0x5F0010, 0, 48⟩
/-- HOST_BAR_ERR_ADDR.BAR. -/
def Reg.HOST_BAR_ERR_ADDR.BAR : Fld := ⟨0x5F0010, 56, 2⟩
/-- MEM_GLOBAL_CFG (03 R76). -/
def Reg.MEM_GLOBAL_CFG.INTERLEAVE : Fld := ⟨0x10C0000, 0, 2⟩
/-- MEM_RESV_BASE (03 R76). -/
def Reg.MEM_RESV_BASE.BASE : Fld := ⟨0x10C0008, 30, 18⟩
/-- CTX_HBM_WIN_LO (03 R78). -/
def Reg.CTX_HBM_WIN_LO.EN (i j : Nat) : Fld := ⟨0x600000 + 0x1000 * i + 0x10 * j, 0, 1⟩
/-- CTX_HBM_WIN_LO.RD. -/
def Reg.CTX_HBM_WIN_LO.RD (i j : Nat) : Fld := ⟨0x600000 + 0x1000 * i + 0x10 * j, 1, 1⟩
/-- CTX_HBM_WIN_LO.WR. -/
def Reg.CTX_HBM_WIN_LO.WR (i j : Nat) : Fld := ⟨0x600000 + 0x1000 * i + 0x10 * j, 2, 1⟩
/-- CTX_HBM_WIN_LO.BASE. -/
def Reg.CTX_HBM_WIN_LO.BASE (i j : Nat) : Fld := ⟨0x600000 + 0x1000 * i + 0x10 * j, 16, 32⟩
/-- CTX_HBM_WIN_HI (03 R78). -/
def Reg.CTX_HBM_WIN_HI.LAST (i j : Nat) : Fld := ⟨0x600008 + 0x1000 * i + 0x10 * j, 16, 32⟩
/-- CTX_SPM (03 R78). -/
def Reg.CTX_SPM.BASE_U (i j : Nat) : Fld := ⟨0x600100 + 0x1000 * i + 0x4 * j, 0, 10⟩
/-- CTX_SPM.SIZE_U. -/
def Reg.CTX_SPM.SIZE_U (i j : Nat) : Fld := ⟨0x600100 + 0x1000 * i + 0x4 * j, 16, 11⟩
/-- CTX_SO (03 R78). -/
def Reg.CTX_SO.FIRST (i : Nat) : Fld := ⟨0x600108 + 0x1000 * i, 0, 12⟩
/-- CTX_SO.COUNT. -/
def Reg.CTX_SO.COUNT (i : Nat) : Fld := ⟨0x600108 + 0x1000 * i, 16, 13⟩
/-- CTX_FAB (03 R78). -/
def Reg.CTX_FAB.ACCEPT (i : Nat) : Fld := ⟨0x60010C + 0x1000 * i, 0, 1⟩
/-- CTX_HOST_BASE (03 R78). -/
def Reg.CTX_HOST_BASE.BASE (i : Nat) : Fld := ⟨0x600110 + 0x1000 * i, 12, 52⟩
/-- CTX_HOST_SIZE (03 R78). -/
def Reg.CTX_HOST_SIZE.SIZE (i : Nat) : Fld := ⟨0x600118 + 0x1000 * i, 12, 34⟩
/-- CTX_WIN_STATUS (03 R78). -/
def Reg.CTX_WIN_STATUS.VIOLATIONS (i : Nat) : Fld := ⟨0x600120 + 0x1000 * i, 0, 16⟩
/-- CTX_WIN_STATUS.CFG_ERR. -/
def Reg.CTX_WIN_STATUS.CFG_ERR (i : Nat) : Fld := ⟨0x600120 + 0x1000 * i, 16, 1⟩
/-- CTX_WIN_STATUS.LOCKED_WRITE. -/
def Reg.CTX_WIN_STATUS.LOCKED_WRITE (i : Nat) : Fld := ⟨0x600120 + 0x1000 * i, 17, 1⟩
/-- CTX_WIN_LAST (03 R78). -/
def Reg.CTX_WIN_LAST.ADDR (i : Nat) : Fld := ⟨0x600128 + 0x1000 * i, 0, 48⟩
/-- CTX_WIN_LAST.DETAIL. -/
def Reg.CTX_WIN_LAST.DETAIL (i : Nat) : Fld := ⟨0x600128 + 0x1000 * i, 48, 16⟩
/-- HOST_MSIX_MOD (04 R96). -/
def Reg.HOST_MSIX_MOD.HOLDOFF_US (i : Nat) : Fld := ⟨0x5E1000 + 0x4 * i, 0, 8⟩
/-- HOST_MSIX_MOD.COUNT. -/
def Reg.HOST_MSIX_MOD.COUNT (i : Nat) : Fld := ⟨0x5E1000 + 0x4 * i, 8, 8⟩
/-- HOST_LINK_STATUS (04 R109). -/
def Reg.HOST_LINK_STATUS.SPEED : Fld := ⟨0x5F0020, 0, 4⟩
/-- HOST_LINK_STATUS.WIDTH. -/
def Reg.HOST_LINK_STATUS.WIDTH : Fld := ⟨0x5F0020, 4, 5⟩
/-- HOST_LINK_STATUS.FLIT. -/
def Reg.HOST_LINK_STATUS.FLIT : Fld := ⟨0x5F0020, 9, 1⟩
/-- HOST_LINK_STATUS.DL_ACTIVE. -/
def Reg.HOST_LINK_STATUS.DL_ACTIVE : Fld := ⟨0x5F0020, 10, 1⟩
/-- HOST_LINK_STATUS.BELOW_RATED. -/
def Reg.HOST_LINK_STATUS.BELOW_RATED : Fld := ⟨0x5F0020, 11, 1⟩
/-- HOST_LINK_STATUS.HOLDING. -/
def Reg.HOST_LINK_STATUS.HOLDING : Fld := ⟨0x5F0020, 12, 1⟩
/-- HOST_LINK_STATUS.IN_L1. -/
def Reg.HOST_LINK_STATUS.IN_L1 : Fld := ⟨0x5F0020, 13, 1⟩
/-- HOST_HOLD_STATUS (04 R109). -/
def Reg.HOST_HOLD_STATUS.USED : Fld := ⟨0x5F0024, 0, 15⟩
/-- HOST_HOLD_STATUS.FULL. -/
def Reg.HOST_HOLD_STATUS.FULL : Fld := ⟨0x5F0024, 15, 1⟩
/-- HOST_HOLD_DROPS (04 R109). -/
def Reg.HOST_HOLD_DROPS.COUNT : Fld := ⟨0x5F0028, 0, 32⟩
/-- QP_SQ_BASE (05 R113). -/
def Reg.QP_SQ_BASE.BASE (i : Nat) : Fld := ⟨0x400000 + 0x40 * i, 12, 36⟩
/-- QP_CQ_BASE (05 R113). -/
def Reg.QP_CQ_BASE.BASE (i : Nat) : Fld := ⟨0x400008 + 0x40 * i, 12, 36⟩
/-- QP_CFG (05 R113). -/
def Reg.QP_CFG.CTX (i : Nat) : Fld := ⟨0x400010 + 0x40 * i, 0, 4⟩
/-- QP_CFG.LEGACY. -/
def Reg.QP_CFG.LEGACY (i : Nat) : Fld := ⟨0x400010 + 0x40 * i, 4, 1⟩
/-- QP_CFG.SQ_LOG2. -/
def Reg.QP_CFG.SQ_LOG2 (i : Nat) : Fld := ⟨0x400010 + 0x40 * i, 8, 4⟩
/-- QP_CFG.CQ_LOG2. -/
def Reg.QP_CFG.CQ_LOG2 (i : Nat) : Fld := ⟨0x400010 + 0x40 * i, 12, 4⟩
/-- QP_CFG.VECTOR. -/
def Reg.QP_CFG.VECTOR (i : Nat) : Fld := ⟨0x400010 + 0x40 * i, 16, 6⟩
/-- QP_CFG.EN. -/
def Reg.QP_CFG.EN (i : Nat) : Fld := ⟨0x400010 + 0x40 * i, 31, 1⟩
/-- QP_STATUS (05 R113). -/
def Reg.QP_STATUS.STATE (i : Nat) : Fld := ⟨0x400014 + 0x40 * i, 0, 3⟩
/-- QP_STATUS.FAULT. -/
def Reg.QP_STATUS.FAULT (i : Nat) : Fld := ⟨0x400014 + 0x40 * i, 8, 4⟩
/-- QP_STATUS.INFLIGHT. -/
def Reg.QP_STATUS.INFLIGHT (i : Nat) : Fld := ⟨0x400014 + 0x40 * i, 16, 7⟩
/-- QP_SQ_PTRS (05 R113). -/
def Reg.QP_SQ_PTRS.HEAD (i : Nat) : Fld := ⟨0x400018 + 0x40 * i, 0, 13⟩
/-- QP_SQ_PTRS.TAIL. -/
def Reg.QP_SQ_PTRS.TAIL (i : Nat) : Fld := ⟨0x400018 + 0x40 * i, 16, 13⟩
/-- QP_CQ_PTRS (05 R113). -/
def Reg.QP_CQ_PTRS.TAIL (i : Nat) : Fld := ⟨0x40001C + 0x40 * i, 0, 13⟩
/-- QP_CQ_PTRS.PHASE. -/
def Reg.QP_CQ_PTRS.PHASE (i : Nat) : Fld := ⟨0x40001C + 0x40 * i, 13, 1⟩
/-- QP_CQ_PTRS.HEAD. -/
def Reg.QP_CQ_PTRS.HEAD (i : Nat) : Fld := ⟨0x40001C + 0x40 * i, 16, 13⟩
/-- QP_ERR (05 R113). -/
def Reg.QP_ERR.BAD_DOORBELL (i : Nat) : Fld := ⟨0x400020 + 0x40 * i, 0, 8⟩
/-- QP_ERR.DOORBELL_OFF. -/
def Reg.QP_ERR.DOORBELL_OFF (i : Nat) : Fld := ⟨0x400020 + 0x40 * i, 8, 8⟩
/-- QP_ERR.CFG_REFUSED. -/
def Reg.QP_ERR.CFG_REFUSED (i : Nat) : Fld := ⟨0x400020 + 0x40 * i, 16, 8⟩
/-- QP_DONE (05 R113). -/
def Reg.QP_DONE.COUNT (i : Nat) : Fld := ⟨0x400028 + 0x40 * i, 0, 64⟩
/-- CTX_CFG (05 R114). -/
def Reg.CTX_CFG.CLASS (i : Nat) : Fld := ⟨0x410000 + 0x40 * i, 0, 2⟩
/-- CTX_CFG.PRIV. -/
def Reg.CTX_CFG.PRIV (i : Nat) : Fld := ⟨0x410000 + 0x40 * i, 2, 1⟩
/-- CTX_CFG.WEIGHT. -/
def Reg.CTX_CFG.WEIGHT (i : Nat) : Fld := ⟨0x410000 + 0x40 * i, 8, 8⟩
/-- CTX_CFG.DEF_TIMEOUT_MS. -/
def Reg.CTX_CFG.DEF_TIMEOUT_MS (i : Nat) : Fld := ⟨0x410000 + 0x40 * i, 16, 16⟩
/-- CTX_STATE (05 R114). -/
def Reg.CTX_STATE.STATE (i : Nat) : Fld := ⟨0x410004 + 0x40 * i, 0, 2⟩
/-- CTX_STATE.QUEUES. -/
def Reg.CTX_STATE.QUEUES (i : Nat) : Fld := ⟨0x410004 + 0x40 * i, 8, 9⟩
/-- CTX_STATE.CFG_REFUSED. -/
def Reg.CTX_STATE.CFG_REFUSED (i : Nat) : Fld := ⟨0x410004 + 0x40 * i, 17, 1⟩
/-- CTX_INFLIGHT (05 R114). -/
def Reg.CTX_INFLIGHT.COUNT (i : Nat) : Fld := ⟨0x410008 + 0x40 * i, 0, 12⟩
/-- CTX_CMD_OK (05 R114). -/
def Reg.CTX_CMD_OK.COUNT (i : Nat) : Fld := ⟨0x410010 + 0x40 * i, 0, 64⟩
/-- CTX_CMD_FAIL (05 R114). -/
def Reg.CTX_CMD_FAIL.COUNT (i : Nat) : Fld := ⟨0x410018 + 0x40 * i, 0, 64⟩
/-- CTX_TIMEOUTS (05 R114). -/
def Reg.CTX_TIMEOUTS.COUNT (i : Nat) : Fld := ⟨0x410020 + 0x40 * i, 0, 32⟩
/-- HOST_ARB_AGE (05 R143). -/
def Reg.HOST_ARB_AGE.AGE_BULK : Fld := ⟨0x420000, 0, 7⟩
/-- HOST_ARB_AGE.AGE_NORMAL. -/
def Reg.HOST_ARB_AGE.AGE_NORMAL : Fld := ⟨0x420000, 8, 5⟩
/-- HOST_ARB_DISP_DL (05 R143). -/
def Reg.HOST_ARB_DISP_DL.COUNT : Fld := ⟨0x420008, 0, 64⟩
/-- HOST_ARB_DISP_NM (05 R143). -/
def Reg.HOST_ARB_DISP_NM.COUNT : Fld := ⟨0x420010, 0, 64⟩
/-- HOST_ARB_DISP_BK (05 R143). -/
def Reg.HOST_ARB_DISP_BK.COUNT : Fld := ⟨0x420018, 0, 64⟩
/-- HOST_ARB_AGED (05 R143). -/
def Reg.HOST_ARB_AGED.BULK : Fld := ⟨0x420020, 0, 16⟩
/-- HOST_ARB_AGED.NORMAL. -/
def Reg.HOST_ARB_AGED.NORMAL : Fld := ⟨0x420020, 16, 16⟩
/-- CTX_LIST_ERR (06 R157). -/
def Reg.CTX_LIST_ERR.INDEX (i : Nat) : Fld := ⟨0x410028 + 0x40 * i, 0, 32⟩
/-- CTX_LIST_ERR.BYTE. -/
def Reg.CTX_LIST_ERR.BYTE (i : Nat) : Fld := ⟨0x410028 + 0x40 * i, 32, 6⟩
/-- CTX_LIST_ERR.DETAIL. -/
def Reg.CTX_LIST_ERR.DETAIL (i : Nat) : Fld := ⟨0x410028 + 0x40 * i, 48, 16⟩
/-- SEQ_TQ_STATUS (06 R172). -/
def Reg.SEQ_TQ_STATUS.DEPTH (i j : Nat) : Fld := ⟨0x800000 + 0x400000 * i + 0x4 * j, 0, 8⟩
/-- SEQ_TQ_STATUS.WAITING. -/
def Reg.SEQ_TQ_STATUS.WAITING (i j : Nat) : Fld := ⟨0x800000 + 0x400000 * i + 0x4 * j, 8, 1⟩
/-- SEQ_TQ_STATUS.SUSPENDED. -/
def Reg.SEQ_TQ_STATUS.SUSPENDED (i j : Nat) : Fld := ⟨0x800000 + 0x400000 * i + 0x4 * j, 9, 1⟩
/-- SEQ_PREEMPT_CNT (06 R172). -/
def Reg.SEQ_PREEMPT_CNT.COUNT (i : Nat) : Fld := ⟨0x800020 + 0x400000 * i, 0, 64⟩
/-- SEQ_PREEMPT_MAX (06 R172). -/
def Reg.SEQ_PREEMPT_MAX.MAX_NS (i : Nat) : Fld := ⟨0x800028 + 0x400000 * i, 0, 20⟩
/-- SEQ_OVERRUN (06 R172). -/
def Reg.SEQ_OVERRUN.COUNT (i : Nat) : Fld := ⟨0x80002C + 0x400000 * i, 0, 16⟩
/-- SO_CFG (07 R190). -/
def Reg.SO_CFG.KIND (i : Nat) : Fld := ⟨0x1C00008 + 0x10 * i, 0, 2⟩
/-- SO_CFG.WRAPPED. -/
def Reg.SO_CFG.WRAPPED (i : Nat) : Fld := ⟨0x1C00008 + 0x10 * i, 2, 1⟩
/-- SO_CFG.STALE. -/
def Reg.SO_CFG.STALE (i : Nat) : Fld := ⟨0x1C00008 + 0x10 * i, 3, 1⟩
/-- SO_CFG.ARG. -/
def Reg.SO_CFG.ARG (i : Nat) : Fld := ⟨0x1C00008 + 0x10 * i, 4, 12⟩
/-- SO_CFG.HOME_DEV. -/
def Reg.SO_CFG.HOME_DEV (i : Nat) : Fld := ⟨0x1C00008 + 0x10 * i, 16, 12⟩
/-- SO_STATUS (07 R204). -/
def Reg.SO_STATUS.WAITERS : Fld := ⟨0x1C10000, 0, 11⟩
/-- SO_STATUS.MIRRORS. -/
def Reg.SO_STATUS.MIRRORS : Fld := ⟨0x1C10000, 16, 13⟩
/-- SO_ERR (07 R204). -/
def Reg.SO_ERR.CFG_REFUSED : Fld := ⟨0x1C10004, 0, 8⟩
/-- SO_ERR.REMOTE_REFUSED. -/
def Reg.SO_ERR.REMOTE_REFUSED : Fld := ⟨0x1C10004, 8, 8⟩
/-- SO_ERR.STALE. -/
def Reg.SO_ERR.STALE : Fld := ⟨0x1C10004, 16, 8⟩
/-- SO_ERR.STALE_WRITES. -/
def Reg.SO_ERR.STALE_WRITES : Fld := ⟨0x1C10004, 24, 8⟩
/-- SO_OPS (07 R204). -/
def Reg.SO_OPS.COUNT : Fld := ⟨0x1C10008, 0, 64⟩
/-- SO_PUSH_STATUS (07 R204). -/
def Reg.SO_PUSH_STATUS.ENTRIES : Fld := ⟨0x1C10010, 0, 13⟩
/-- SO_PUSH_DROPS (07 R204). -/
def Reg.SO_PUSH_DROPS.COUNT : Fld := ⟨0x1C10014, 0, 32⟩
/-- ARR_COLS (08 R239). -/
def Reg.ARR_COLS.COLS (i : Nat) : Fld := ⟨0x810000 + 0x400000 * i, 0, 8⟩
/-- ARR_COLS.BYPASSED. -/
def Reg.ARR_COLS.BYPASSED (i : Nat) : Fld := ⟨0x810000 + 0x400000 * i, 8, 4⟩
/-- ARR_STATUS (08 R239). -/
def Reg.ARR_STATUS.IN_SERVICE (i : Nat) : Fld := ⟨0x810004 + 0x400000 * i, 0, 1⟩
/-- ARR_STATUS.FAULTED. -/
def Reg.ARR_STATUS.FAULTED (i : Nat) : Fld := ⟨0x810004 + 0x400000 * i, 1, 1⟩
/-- ARR_STATUS.LOAD_BUSY. -/
def Reg.ARR_STATUS.LOAD_BUSY (i : Nat) : Fld := ⟨0x810004 + 0x400000 * i, 2, 1⟩
/-- ARR_STATUS.PASS_BUSY. -/
def Reg.ARR_STATUS.PASS_BUSY (i : Nat) : Fld := ⟨0x810004 + 0x400000 * i, 3, 1⟩
/-- ARR_STATUS.FLIP_WAIT. -/
def Reg.ARR_STATUS.FLIP_WAIT (i : Nat) : Fld := ⟨0x810004 + 0x400000 * i, 4, 1⟩
/-- ARR_STATUS.FRONT. -/
def Reg.ARR_STATUS.FRONT (i : Nat) : Fld := ⟨0x810004 + 0x400000 * i, 5, 1⟩
/-- ARR_STATUS.MODE. -/
def Reg.ARR_STATUS.MODE (i : Nat) : Fld := ⟨0x810004 + 0x400000 * i, 6, 1⟩
/-- ARR_STATUS.FAULT_COL. -/
def Reg.ARR_STATUS.FAULT_COL (i : Nat) : Fld := ⟨0x810004 + 0x400000 * i, 8, 8⟩
/-- ARR_STATUS.OWNER_CTX. -/
def Reg.ARR_STATUS.OWNER_CTX (i : Nat) : Fld := ⟨0x810004 + 0x400000 * i, 16, 4⟩
/-- ARR_STATUS.OWNED. -/
def Reg.ARR_STATUS.OWNED (i : Nat) : Fld := ⟨0x810004 + 0x400000 * i, 20, 1⟩
/-- ARR_BYPASS_MAP (08 R239). -/
def Reg.ARR_BYPASS_MAP.COLS (i j : Nat) : Fld := ⟨0x810010 + 0x400000 * i + 0x4 * j, 0, 32⟩
/-- ARR_TEST_MAP (08 R239). -/
def Reg.ARR_TEST_MAP.COLS (i j : Nat) : Fld := ⟨0x810030 + 0x400000 * i + 0x4 * j, 0, 32⟩
/-- ARR_ROWS (08 R239). -/
def Reg.ARR_ROWS.COUNT (i : Nat) : Fld := ⟨0x810060 + 0x400000 * i, 0, 64⟩
/-- ARR_FREEZE (08 R239). -/
def Reg.ARR_FREEZE.COUNT (i : Nat) : Fld := ⟨0x810068 + 0x400000 * i, 0, 64⟩
/-- ARR_STALL (08 R239). -/
def Reg.ARR_STALL.COUNT (i : Nat) : Fld := ⟨0x810070 + 0x400000 * i, 0, 64⟩
/-- ARR_FLIP_WAIT (08 R239). -/
def Reg.ARR_FLIP_WAIT.COUNT (i : Nat) : Fld := ⟨0x810078 + 0x400000 * i, 0, 64⟩
/-- ARR_LOADS (08 R239). -/
def Reg.ARR_LOADS.COUNT (i : Nat) : Fld := ⟨0x810080 + 0x400000 * i, 0, 32⟩
/-- ARR_FAULTS (08 R239). -/
def Reg.ARR_FAULTS.COLUMN (i : Nat) : Fld := ⟨0x810084 + 0x400000 * i, 0, 8⟩
/-- ARR_BLOCK (08 R239). -/
def Reg.ARR_BLOCK.ROW_FIRST (i j : Nat) : Fld := ⟨0x810100 + 0x400000 * i + 0x8 * j, 0, 8⟩
/-- ARR_BLOCK.ROW_COUNT. -/
def Reg.ARR_BLOCK.ROW_COUNT (i j : Nat) : Fld := ⟨0x810100 + 0x400000 * i + 0x8 * j, 8, 8⟩
/-- ARR_BLOCK.COL_FIRST. -/
def Reg.ARR_BLOCK.COL_FIRST (i j : Nat) : Fld := ⟨0x810100 + 0x400000 * i + 0x8 * j, 16, 8⟩
/-- ARR_BLOCK.COL_COUNT. -/
def Reg.ARR_BLOCK.COL_COUNT (i j : Nat) : Fld := ⟨0x810100 + 0x400000 * i + 0x8 * j, 24, 8⟩
/-- ARR_BLOCK.VALID. -/
def Reg.ARR_BLOCK.VALID (i j : Nat) : Fld := ⟨0x810100 + 0x400000 * i + 0x8 * j, 32, 1⟩
/-- ARR_BLOCK.PENDING. -/
def Reg.ARR_BLOCK.PENDING (i j : Nat) : Fld := ⟨0x810100 + 0x400000 * i + 0x8 * j, 33, 1⟩
/-- VE_STATUS (09 R269). -/
def Reg.VE_STATUS.BUSY (i : Nat) : Fld := ⟨0x820000 + 0x400000 * i, 0, 1⟩
/-- VE_STATUS.WAIT_IN. -/
def Reg.VE_STATUS.WAIT_IN (i : Nat) : Fld := ⟨0x820000 + 0x400000 * i, 1, 1⟩
/-- VE_STATUS.WAIT_OUT. -/
def Reg.VE_STATUS.WAIT_OUT (i : Nat) : Fld := ⟨0x820000 + 0x400000 * i, 2, 1⟩
/-- VE_STATUS.SOURCE. -/
def Reg.VE_STATUS.SOURCE (i : Nat) : Fld := ⟨0x820000 + 0x400000 * i, 3, 2⟩
/-- VE_STATUS.VL. -/
def Reg.VE_STATUS.VL (i : Nat) : Fld := ⟨0x820000 + 0x400000 * i, 8, 8⟩
/-- VE_STATUS.CTX. -/
def Reg.VE_STATUS.CTX (i : Nat) : Fld := ⟨0x820000 + 0x400000 * i, 16, 4⟩
/-- VE_BODY (09 R269). -/
def Reg.VE_BODY.PC (i : Nat) : Fld := ⟨0x820004 + 0x400000 * i, 0, 10⟩
/-- VE_BODY.L. -/
def Reg.VE_BODY.L (i : Nat) : Fld := ⟨0x820004 + 0x400000 * i, 16, 10⟩
/-- VE_PAGES (09 R269). -/
def Reg.VE_PAGES.USED (i : Nat) : Fld := ⟨0x820008 + 0x400000 * i, 0, 16⟩
/-- VE_PAGE_OWNER (09 R269). -/
def Reg.VE_PAGE_OWNER.CTX (i : Nat) : Fld := ⟨0x820010 + 0x400000 * i, 0, 64⟩
/-- VE_TILEQ (09 R269). -/
def Reg.VE_TILEQ.DEPTH (i : Nat) : Fld := ⟨0x820018 + 0x400000 * i, 0, 4⟩
/-- VE_TILEQ.HELD. -/
def Reg.VE_TILEQ.HELD (i : Nat) : Fld := ⟨0x820018 + 0x400000 * i, 4, 1⟩
/-- VE_TILEQ.NEXT. -/
def Reg.VE_TILEQ.NEXT (i : Nat) : Fld := ⟨0x820018 + 0x400000 * i, 5, 8⟩
/-- VE_TILE_HEAD (09 R269). -/
def Reg.VE_TILE_HEAD.REF (i : Nat) : Fld := ⟨0x82001C + 0x400000 * i, 0, 32⟩
/-- VE_ILLEGAL (09 R269). -/
def Reg.VE_ILLEGAL.PC (i : Nat) : Fld := ⟨0x820020 + 0x400000 * i, 0, 10⟩
/-- VE_ILLEGAL.REASON. -/
def Reg.VE_ILLEGAL.REASON (i : Nat) : Fld := ⟨0x820020 + 0x400000 * i, 16, 4⟩
/-- VE_ILLEGAL.CTX. -/
def Reg.VE_ILLEGAL.CTX (i : Nat) : Fld := ⟨0x820020 + 0x400000 * i, 24, 4⟩
/-- VE_ITERS (09 R269). -/
def Reg.VE_ITERS.COUNT (i : Nat) : Fld := ⟨0x820028 + 0x400000 * i, 0, 64⟩
/-- VE_ISSUED (09 R269). -/
def Reg.VE_ISSUED.COUNT (i : Nat) : Fld := ⟨0x820030 + 0x400000 * i, 0, 64⟩
/-- VE_WAIT_IN (09 R269). -/
def Reg.VE_WAIT_IN.COUNT (i : Nat) : Fld := ⟨0x820038 + 0x400000 * i, 0, 64⟩
/-- VE_WAIT_OUT (09 R269). -/
def Reg.VE_WAIT_OUT.COUNT (i : Nat) : Fld := ⟨0x820040 + 0x400000 * i, 0, 64⟩
/-- VE_SAT (09 R269). -/
def Reg.VE_SAT.COUNT (i : Nat) : Fld := ⟨0x820048 + 0x400000 * i, 0, 32⟩
/-- VE_ERR (09 R269). -/
def Reg.VE_ERR.ILLEGAL (i : Nat) : Fld := ⟨0x82004C + 0x400000 * i, 0, 8⟩
/-- VE_ERR.OVERRUN. -/
def Reg.VE_ERR.OVERRUN (i : Nat) : Fld := ⟨0x82004C + 0x400000 * i, 8, 8⟩
/-- VE_ERR.HANDOFF. -/
def Reg.VE_ERR.HANDOFF (i : Nat) : Fld := ⟨0x82004C + 0x400000 * i, 16, 8⟩
/-- SFU_SLOT (10 R287). -/
def Reg.SFU_SLOT.LOADED (i j : Nat) : Fld := ⟨0x830000 + 0x400000 * i + 0x4 * j, 0, 1⟩
/-- SFU_SLOT.MODE. -/
def Reg.SFU_SLOT.MODE (i j : Nat) : Fld := ⟨0x830000 + 0x400000 * i + 0x4 * j, 1, 2⟩
/-- SFU_SLOT.OWNED. -/
def Reg.SFU_SLOT.OWNED (i j : Nat) : Fld := ⟨0x830000 + 0x400000 * i + 0x4 * j, 3, 1⟩
/-- SFU_SLOT.OWNER_CTX. -/
def Reg.SFU_SLOT.OWNER_CTX (i j : Nat) : Fld := ⟨0x830000 + 0x400000 * i + 0x4 * j, 4, 4⟩
/-- SFU_SLOT.ID. -/
def Reg.SFU_SLOT.ID (i j : Nat) : Fld := ⟨0x830000 + 0x400000 * i + 0x4 * j, 16, 16⟩
/-- SFU_PENDING (10 R287). -/
def Reg.SFU_PENDING.SLOTS (i : Nat) : Fld := ⟨0x830040 + 0x400000 * i, 0, 16⟩
/-- SFU_LOAD_ERR (10 R287). -/
def Reg.SFU_LOAD_ERR.BYTE (i : Nat) : Fld := ⟨0x830044 + 0x400000 * i, 0, 11⟩
/-- SFU_LOAD_ERR.SLOT. -/
def Reg.SFU_LOAD_ERR.SLOT (i : Nat) : Fld := ⟨0x830044 + 0x400000 * i, 16, 4⟩
/-- SFU_LOAD_ERR.CTX. -/
def Reg.SFU_LOAD_ERR.CTX (i : Nat) : Fld := ⟨0x830044 + 0x400000 * i, 20, 4⟩
/-- RU_STATUS (10 R287). -/
def Reg.RU_STATUS.BUSY0 (i : Nat) : Fld := ⟨0x840000 + 0x400000 * i, 0, 1⟩
/-- RU_STATUS.BUSY1. -/
def Reg.RU_STATUS.BUSY1 (i : Nat) : Fld := ⟨0x840000 + 0x400000 * i, 1, 1⟩
/-- RU_STATUS.CTX0. -/
def Reg.RU_STATUS.CTX0 (i : Nat) : Fld := ⟨0x840000 + 0x400000 * i, 8, 4⟩
/-- RU_STATUS.CTX1. -/
def Reg.RU_STATUS.CTX1 (i : Nat) : Fld := ⟨0x840000 + 0x400000 * i, 12, 4⟩
/-- RU_ROWS (10 R287). -/
def Reg.RU_ROWS.COUNT (i : Nat) : Fld := ⟨0x840008 + 0x400000 * i, 0, 64⟩
/-- RU_NONFINITE (10 R287). -/
def Reg.RU_NONFINITE.COUNT (i : Nat) : Fld := ⟨0x840010 + 0x400000 * i, 0, 64⟩
/-- RU_ERR (10 R287). -/
def Reg.RU_ERR.CFG (i : Nat) : Fld := ⟨0x840018 + 0x400000 * i, 0, 8⟩
/-- SU_STATUS (11 R312). -/
def Reg.SU_STATUS.BUSY (i : Nat) : Fld := ⟨0x850000 + 0x400000 * i, 0, 1⟩
/-- SU_STATUS.OP. -/
def Reg.SU_STATUS.OP (i : Nat) : Fld := ⟨0x850000 + 0x400000 * i, 1, 2⟩
/-- SU_STATUS.COMPLEX. -/
def Reg.SU_STATUS.COMPLEX (i : Nat) : Fld := ⟨0x850000 + 0x400000 * i, 3, 1⟩
/-- SU_STATUS.SPLIT. -/
def Reg.SU_STATUS.SPLIT (i : Nat) : Fld := ⟨0x850000 + 0x400000 * i, 4, 1⟩
/-- SU_STATUS.CTX. -/
def Reg.SU_STATUS.CTX (i : Nat) : Fld := ⟨0x850000 + 0x400000 * i, 8, 4⟩
/-- SU_STEPS (11 R312). -/
def Reg.SU_STEPS.COUNT (i : Nat) : Fld := ⟨0x850008 + 0x400000 * i, 0, 64⟩
/-- SU_ERR (11 R312). -/
def Reg.SU_ERR.CFG (i : Nat) : Fld := ⟨0x850010 + 0x400000 * i, 0, 8⟩
/-- CARRY_SLOT (11 R312). -/
def Reg.CARRY_SLOT.BOUND (i : Nat) : Fld := ⟨0x850100 + 0x8 * i, 0, 1⟩
/-- CARRY_SLOT.RUNNING. -/
def Reg.CARRY_SLOT.RUNNING (i : Nat) : Fld := ⟨0x850100 + 0x8 * i, 1, 1⟩
/-- CARRY_SLOT.CTX. -/
def Reg.CARRY_SLOT.CTX (i : Nat) : Fld := ⟨0x850100 + 0x8 * i, 4, 4⟩
/-- CARRY_SLOT.ENTRIES. -/
def Reg.CARRY_SLOT.ENTRIES (i : Nat) : Fld := ⟨0x850100 + 0x8 * i, 8, 13⟩
/-- CARRY_SLOT.EPOCH_LO. -/
def Reg.CARRY_SLOT.EPOCH_LO (i : Nat) : Fld := ⟨0x850100 + 0x8 * i, 32, 32⟩
/-- CARRY_READS (11 R312). -/
def Reg.CARRY_READS.COUNT : Fld := ⟨0x850180, 0, 64⟩
/-- CARRY_WAITS (11 R312). -/
def Reg.CARRY_WAITS.COUNT : Fld := ⟨0x850188, 0, 64⟩
/-- CARRY_FAILS (11 R312). -/
def Reg.CARRY_FAILS.COUNT : Fld := ⟨0x850190, 0, 16⟩
/-- CARRY_FAILS.REFUSED. -/
def Reg.CARRY_FAILS.REFUSED : Fld := ⟨0x850190, 16, 16⟩
/-- CARRY_LAST_FAIL (11 R312). -/
def Reg.CARRY_LAST_FAIL.CHUNK : Fld := ⟨0x850198, 0, 32⟩
/-- CARRY_LAST_FAIL.REASON. -/
def Reg.CARRY_LAST_FAIL.REASON : Fld := ⟨0x850198, 32, 3⟩
/-- CARRY_LAST_FAIL.DEV. -/
def Reg.CARRY_LAST_FAIL.DEV : Fld := ⟨0x850198, 48, 12⟩
/-- SLV_STATUS (12 R329). -/
def Reg.SLV_STATUS.BUSY (i : Nat) : Fld := ⟨0x860000 + 0x400000 * i, 0, 1⟩
/-- SLV_STATUS.ROUTINE. -/
def Reg.SLV_STATUS.ROUTINE (i : Nat) : Fld := ⟨0x860000 + 0x400000 * i, 1, 2⟩
/-- SLV_STATUS.CTX. -/
def Reg.SLV_STATUS.CTX (i : Nat) : Fld := ⟨0x860000 + 0x400000 * i, 8, 4⟩
/-- SLV_STEP (12 R329). -/
def Reg.SLV_STEP.STEP (i : Nat) : Fld := ⟨0x860004 + 0x400000 * i, 0, 32⟩
/-- SLV_STEPS (12 R329). -/
def Reg.SLV_STEPS.COUNT (i : Nat) : Fld := ⟨0x860008 + 0x400000 * i, 0, 64⟩
/-- SLV_DIVSQRT (12 R329). -/
def Reg.SLV_DIVSQRT.COUNT (i : Nat) : Fld := ⟨0x860010 + 0x400000 * i, 0, 64⟩
/-- SLV_QSAT (12 R329). -/
def Reg.SLV_QSAT.COUNT (i : Nat) : Fld := ⟨0x860018 + 0x400000 * i, 0, 32⟩
/-- SLV_PROBLEMS (12 R329). -/
def Reg.SLV_PROBLEMS.FLAGGED (i : Nat) : Fld := ⟨0x86001C + 0x400000 * i, 0, 16⟩
/-- SLV_PROBLEMS.NOT_PD. -/
def Reg.SLV_PROBLEMS.NOT_PD (i : Nat) : Fld := ⟨0x86001C + 0x400000 * i, 16, 16⟩
/-- SLV_ERR (12 R329). -/
def Reg.SLV_ERR.CFG (i : Nat) : Fld := ⟨0x860020 + 0x400000 * i, 0, 8⟩
/-- MEM_CMD_ENGINES (13 R350). -/
def Reg.MEM_CMD_ENGINES.ENGINES : Fld := ⟨0x10C0010, 0, 5⟩
/-- MEM_CMD_ENGINES.PORTERS. -/
def Reg.MEM_CMD_ENGINES.PORTERS : Fld := ⟨0x10C0010, 8, 3⟩
/-- MEM_STATUS (13 R355). -/
def Reg.MEM_STATUS.TRAINED (i : Nat) : Fld := ⟨0x1000000 + 0x10000 * i, 0, 1⟩
/-- MEM_STATUS.SELF_REFRESH. -/
def Reg.MEM_STATUS.SELF_REFRESH (i : Nat) : Fld := ⟨0x1000000 + 0x10000 * i, 1, 1⟩
/-- MEM_STATUS.REFRESH_2X. -/
def Reg.MEM_STATUS.REFRESH_2X (i : Nat) : Fld := ⟨0x1000000 + 0x10000 * i, 2, 1⟩
/-- MEM_STATUS.BW_CAPPED. -/
def Reg.MEM_STATUS.BW_CAPPED (i : Nat) : Fld := ⟨0x1000000 + 0x10000 * i, 3, 1⟩
/-- MEM_STATUS.TEMP_C. -/
def Reg.MEM_STATUS.TEMP_C (i : Nat) : Fld := ⟨0x1000000 + 0x10000 * i, 8, 8⟩
/-- MEM_CE_COUNT (13 R355). -/
def Reg.MEM_CE_COUNT.COUNT (i : Nat) : Fld := ⟨0x1000008 + 0x10000 * i, 0, 64⟩
/-- MEM_UE_COUNT (13 R355). -/
def Reg.MEM_UE_COUNT.COUNT (i : Nat) : Fld := ⟨0x1000010 + 0x10000 * i, 0, 32⟩
/-- MEM_SCRUB_CFG (13 R355). -/
def Reg.MEM_SCRUB_CFG.PERIOD_H (i : Nat) : Fld := ⟨0x1000014 + 0x10000 * i, 0, 8⟩
/-- MEM_SCRUB_STATUS (13 R355). -/
def Reg.MEM_SCRUB_STATUS.PASSES (i : Nat) : Fld := ⟨0x1000018 + 0x10000 * i, 0, 16⟩
/-- MEM_SCRUB_STATUS.PROGRESS. -/
def Reg.MEM_SCRUB_STATUS.PROGRESS (i : Nat) : Fld := ⟨0x1000018 + 0x10000 * i, 16, 7⟩
/-- MEM_POISON_STATUS (13 R355). -/
def Reg.MEM_POISON_STATUS.COUNT (i : Nat) : Fld := ⟨0x1000020 + 0x10000 * i, 0, 9⟩
/-- MEM_POISON_STATUS.OVERFLOW. -/
def Reg.MEM_POISON_STATUS.OVERFLOW (i : Nat) : Fld := ⟨0x1000020 + 0x10000 * i, 9, 1⟩
/-- MEM_LAST_UE (13 R355). -/
def Reg.MEM_LAST_UE.ADDR (i : Nat) : Fld := ⟨0x1000028 + 0x10000 * i, 0, 48⟩
/-- MEM_LAST_UE.SOURCE. -/
def Reg.MEM_LAST_UE.SOURCE (i : Nat) : Fld := ⟨0x1000028 + 0x10000 * i, 48, 3⟩
/-- MEM_RD_BYTES (13 R355). -/
def Reg.MEM_RD_BYTES.COUNT (i : Nat) : Fld := ⟨0x1000030 + 0x10000 * i, 0, 64⟩
/-- MEM_WR_BYTES (13 R355). -/
def Reg.MEM_WR_BYTES.COUNT (i : Nat) : Fld := ⟨0x1000038 + 0x10000 * i, 0, 64⟩
/-- MEM_POISON (13 R355). -/
def Reg.MEM_POISON.ADDR (i j : Nat) : Fld := ⟨0x1000100 + 0x10000 * i + 0x8 * j, 0, 48⟩
/-- PRT_STATUS (13 R356). -/
def Reg.PRT_STATUS.BUSY (i : Nat) : Fld := ⟨0x1400000 + 0x40 * i, 0, 1⟩
/-- PRT_STATUS.WAITING. -/
def Reg.PRT_STATUS.WAITING (i : Nat) : Fld := ⟨0x1400000 + 0x40 * i, 1, 1⟩
/-- PRT_STATUS.CLASS. -/
def Reg.PRT_STATUS.CLASS (i : Nat) : Fld := ⟨0x1400000 + 0x40 * i, 2, 2⟩
/-- PRT_STATUS.CORE. -/
def Reg.PRT_STATUS.CORE (i : Nat) : Fld := ⟨0x1400000 + 0x40 * i, 4, 1⟩
/-- PRT_STATUS.CTX. -/
def Reg.PRT_STATUS.CTX (i : Nat) : Fld := ⟨0x1400000 + 0x40 * i, 8, 4⟩
/-- PRT_STATUS.INDEX. -/
def Reg.PRT_STATUS.INDEX (i : Nat) : Fld := ⟨0x1400000 + 0x40 * i, 12, 12⟩
/-- PRT_BYTES (13 R356). -/
def Reg.PRT_BYTES.COUNT (i : Nat) : Fld := ⟨0x1400008 + 0x40 * i, 0, 64⟩
/-- PRT_DESCS (13 R356). -/
def Reg.PRT_DESCS.COUNT (i : Nat) : Fld := ⟨0x1400010 + 0x40 * i, 0, 64⟩
/-- PRT_ERR (13 R356). -/
def Reg.PRT_ERR.CFG (i : Nat) : Fld := ⟨0x1400018 + 0x40 * i, 0, 8⟩
/-- PRT_ERR.DATA. -/
def Reg.PRT_ERR.DATA (i : Nat) : Fld := ⟨0x1400018 + 0x40 * i, 8, 8⟩
/-- PRT_LAST_ERR (13 R356). -/
def Reg.PRT_LAST_ERR.ADDR (i : Nat) : Fld := ⟨0x1400020 + 0x40 * i, 0, 48⟩
/-- PRT_LAST_ERR.DETAIL. -/
def Reg.PRT_LAST_ERR.DETAIL (i : Nat) : Fld := ⟨0x1400020 + 0x40 * i, 48, 16⟩
/-- SPM_CONFLICT (13 R356). -/
def Reg.SPM_CONFLICT.COUNT (i : Nat) : Fld := ⟨0x870000 + 0x400000 * i, 0, 64⟩
/-- SPM_CE (13 R356). -/
def Reg.SPM_CE.COUNT (i : Nat) : Fld := ⟨0x870008 + 0x400000 * i, 0, 32⟩
/-- SPM_UE (13 R356). -/
def Reg.SPM_UE.COUNT (i : Nat) : Fld := ⟨0x87000C + 0x400000 * i, 0, 32⟩
/-- SPM_LAST_UE (13 R356). -/
def Reg.SPM_LAST_UE.ADDR (i : Nat) : Fld := ⟨0x870010 + 0x400000 * i, 0, 48⟩
/-- INN_STATUS (14 R385). -/
def Reg.INN_STATUS.QUARTERS_ON : Fld := ⟨0x1800000, 0, 4⟩
/-- INN_STATUS.READY. -/
def Reg.INN_STATUS.READY : Fld := ⟨0x1800000, 4, 1⟩
/-- INN_BACKING (14 R385). -/
def Reg.INN_BACKING.BASE : Fld := ⟨0x1800008, 30, 18⟩
/-- INN_BACKING.SIZE. -/
def Reg.INN_BACKING.SIZE : Fld := ⟨0x1800008, 56, 8⟩
/-- INN_ROOMS (14 R385). -/
def Reg.INN_ROOMS.LODGED : Fld := ⟨0x1800010, 0, 25⟩
/-- INN_CAPACITY (14 R385). -/
def Reg.INN_CAPACITY.SUM : Fld := ⟨0x1800014, 0, 25⟩
/-- INN_HALL (14 R385). -/
def Reg.INN_HALL.USED : Fld := ⟨0x1800018, 0, 17⟩
/-- INN_HALL_PINNED (14 R385). -/
def Reg.INN_HALL_PINNED.UNITS : Fld := ⟨0x180001C, 0, 17⟩
/-- INN_CHECKINS (14 R385). -/
def Reg.INN_CHECKINS.COUNT : Fld := ⟨0x1800020, 0, 64⟩
/-- INN_CHECKOUTS (14 R385). -/
def Reg.INN_CHECKOUTS.COUNT : Fld := ⟨0x1800028, 0, 64⟩
/-- INN_HALL_HITS (14 R385). -/
def Reg.INN_HALL_HITS.COUNT : Fld := ⟨0x1800030, 0, 64⟩
/-- INN_HALL_MISSES (14 R385). -/
def Reg.INN_HALL_MISSES.COUNT : Fld := ⟨0x1800038, 0, 64⟩
/-- INN_EVICTIONS (14 R385). -/
def Reg.INN_EVICTIONS.COUNT : Fld := ⟨0x1800040, 0, 64⟩
/-- INN_ERR (14 R385). -/
def Reg.INN_ERR.POISONED : Fld := ⟨0x1800048, 0, 8⟩
/-- INN_ERR.LOCK_EXPIRED. -/
def Reg.INN_ERR.LOCK_EXPIRED : Fld := ⟨0x1800048, 8, 8⟩
/-- INN_ERR.PIN_REFUSED. -/
def Reg.INN_ERR.PIN_REFUSED : Fld := ⟨0x1800048, 16, 8⟩
/-- INN_ERR.CFG_REFUSED. -/
def Reg.INN_ERR.CFG_REFUSED : Fld := ⟨0x1800048, 24, 8⟩
/-- INN_LAST_POISON (14 R385). -/
def Reg.INN_LAST_POISON.GUEST : Fld := ⟨0x180004C, 0, 24⟩
/-- INN_LAST_POISON.CLASS. -/
def Reg.INN_LAST_POISON.CLASS : Fld := ⟨0x180004C, 24, 4⟩
/-- INN_CLAMPS (14 R385). -/
def Reg.INN_CLAMPS.COUNT : Fld := ⟨0x1800050, 0, 32⟩
/-- INN_CE (14 R385). -/
def Reg.INN_CE.COUNT : Fld := ⟨0x1800054, 0, 32⟩
/-- INN_PIN_QUOTA (14 R385). -/
def Reg.INN_PIN_QUOTA.QUOTA (i : Nat) : Fld := ⟨0x1800100 + 0x4 * i, 0, 9⟩
/-- INN_PIN_QUOTA.CEIL. -/
def Reg.INN_PIN_QUOTA.CEIL (i : Nat) : Fld := ⟨0x1800100 + 0x4 * i, 16, 9⟩
/-- INN_CLASS (14 R385). -/
def Reg.INN_CLASS.EXISTS (i : Nat) : Fld := ⟨0x1800200 + 0x10 * i, 0, 1⟩
/-- INN_CLASS.SIZE_LOG2. -/
def Reg.INN_CLASS.SIZE_LOG2 (i : Nat) : Fld := ⟨0x1800200 + 0x10 * i, 1, 5⟩
/-- INN_CLASS.CTX. -/
def Reg.INN_CLASS.CTX (i : Nat) : Fld := ⟨0x1800200 + 0x10 * i, 8, 4⟩
/-- INN_CLASS.AUTO_LODGE. -/
def Reg.INN_CLASS.AUTO_LODGE (i : Nat) : Fld := ⟨0x1800200 + 0x10 * i, 12, 1⟩
/-- INN_CLASS.DEFAULT. -/
def Reg.INN_CLASS.DEFAULT (i : Nat) : Fld := ⟨0x1800200 + 0x10 * i, 13, 1⟩
/-- INN_CLASS.COMMIT_BOUND. -/
def Reg.INN_CLASS.COMMIT_BOUND (i : Nat) : Fld := ⟨0x1800200 + 0x10 * i, 14, 1⟩
/-- INN_CLASS.LOCK_TIMEOUT_MS. -/
def Reg.INN_CLASS.LOCK_TIMEOUT_MS (i : Nat) : Fld := ⟨0x1800200 + 0x10 * i, 16, 16⟩
/-- INN_CLASS.CAPACITY. -/
def Reg.INN_CLASS.CAPACITY (i : Nat) : Fld := ⟨0x1800200 + 0x10 * i, 32, 25⟩
/-- INN_CLASS_USE (14 R385). -/
def Reg.INN_CLASS_USE.LODGED (i : Nat) : Fld := ⟨0x1800208 + 0x10 * i, 0, 25⟩
/-- INN_CLASS_USE.IN_HALL. -/
def Reg.INN_CLASS_USE.IN_HALL (i : Nat) : Fld := ⟨0x1800208 + 0x10 * i, 32, 17⟩
/-- FAB_ID (15 R424). -/
def Reg.FAB_ID.DEVICE_ID : Fld := ⟨0x2000000, 0, 12⟩
/-- FAB_STATUS (15 R424). -/
def Reg.FAB_STATUS.COLLS : Fld := ⟨0x2000004, 0, 4⟩
/-- FAB_STATUS.GROUPS. -/
def Reg.FAB_STATUS.GROUPS : Fld := ⟨0x2000004, 4, 17⟩
/-- FAB_TIMEOUT (15 R424). -/
def Reg.FAB_TIMEOUT.MEM_MS : Fld := ⟨0x2000008, 0, 16⟩
/-- FAB_PKT_DROPS (15 R424). -/
def Reg.FAB_PKT_DROPS.COUNT : Fld := ⟨0x2000010, 0, 64⟩
/-- FAB_UNROUTABLE (15 R424). -/
def Reg.FAB_UNROUTABLE.COUNT : Fld := ⟨0x2000018, 0, 32⟩
/-- FAB_LATE_RSP (15 R424). -/
def Reg.FAB_LATE_RSP.COUNT : Fld := ⟨0x200001C, 0, 32⟩
/-- FAB_COLL_DROPS (15 R424). -/
def Reg.FAB_COLL_DROPS.COUNT : Fld := ⟨0x2000020, 0, 32⟩
/-- FAB_PORT_STATUS (15 R424). -/
def Reg.FAB_PORT_STATUS.STATE (i : Nat) : Fld := ⟨0x2010000 + 0x100 * i, 0, 3⟩
/-- FAB_PORT_STATUS.GEN. -/
def Reg.FAB_PORT_STATUS.GEN (i : Nat) : Fld := ⟨0x2010000 + 0x100 * i, 3, 2⟩
/-- FAB_PORT_STATUS.WIDTH. -/
def Reg.FAB_PORT_STATUS.WIDTH (i : Nat) : Fld := ⟨0x2010000 + 0x100 * i, 5, 3⟩
/-- FAB_PORT_STATUS.DEGRADED. -/
def Reg.FAB_PORT_STATUS.DEGRADED (i : Nat) : Fld := ⟨0x2010000 + 0x100 * i, 8, 1⟩
/-- FAB_PORT_PEER (15 R424). -/
def Reg.FAB_PORT_PEER.DEV (i : Nat) : Fld := ⟨0x2010004 + 0x100 * i, 0, 12⟩
/-- FAB_PORT_PEER.PORT. -/
def Reg.FAB_PORT_PEER.PORT (i : Nat) : Fld := ⟨0x2010004 + 0x100 * i, 16, 5⟩
/-- FAB_PORT_FEC (15 R424). -/
def Reg.FAB_PORT_FEC.CORRECTED (i : Nat) : Fld := ⟨0x2010008 + 0x100 * i, 0, 32⟩
/-- FAB_PORT_FEC.UNCORRECTED. -/
def Reg.FAB_PORT_FEC.UNCORRECTED (i : Nat) : Fld := ⟨0x2010008 + 0x100 * i, 32, 32⟩
/-- FAB_PORT_LINK (15 R424). -/
def Reg.FAB_PORT_LINK.CRC_ERR (i : Nat) : Fld := ⟨0x2010010 + 0x100 * i, 0, 16⟩
/-- FAB_PORT_LINK.REPLAYS. -/
def Reg.FAB_PORT_LINK.REPLAYS (i : Nat) : Fld := ⟨0x2010010 + 0x100 * i, 16, 16⟩
/-- FAB_PORT_TRAIN (15 R424). -/
def Reg.FAB_PORT_TRAIN.FAIL (i : Nat) : Fld := ⟨0x2010014 + 0x100 * i, 0, 16⟩
/-- FAB_PORT_TRAIN.RETRAINS. -/
def Reg.FAB_PORT_TRAIN.RETRAINS (i : Nat) : Fld := ⟨0x2010014 + 0x100 * i, 16, 16⟩
/-- FAB_PORT_TX (15 R424). -/
def Reg.FAB_PORT_TX.FLITS (i : Nat) : Fld := ⟨0x2010018 + 0x100 * i, 0, 64⟩
/-- FAB_PORT_RX (15 R424). -/
def Reg.FAB_PORT_RX.FLITS (i : Nat) : Fld := ⟨0x2010020 + 0x100 * i, 0, 64⟩
/-- TRN_TT (16 R447). -/
def Reg.TRN_TT.LOADED (i : Nat) : Fld := ⟨0x2B00000 + 0x8 * i, 0, 1⟩
/-- TRN_TT.RUNNING. -/
def Reg.TRN_TT.RUNNING (i : Nat) : Fld := ⟨0x2B00000 + 0x8 * i, 1, 1⟩
/-- TRN_TT.CTX. -/
def Reg.TRN_TT.CTX (i : Nat) : Fld := ⟨0x2B00000 + 0x8 * i, 4, 4⟩
/-- TRN_TT.ENTRIES. -/
def Reg.TRN_TT.ENTRIES (i : Nat) : Fld := ⟨0x2B00000 + 0x8 * i, 8, 13⟩
/-- TRN_TT.MBATCHES. -/
def Reg.TRN_TT.MBATCHES (i : Nat) : Fld := ⟨0x2B00000 + 0x8 * i, 32, 12⟩
/-- TRN_TT.STAGES. -/
def Reg.TRN_TT.STAGES (i : Nat) : Fld := ⟨0x2B00000 + 0x8 * i, 44, 9⟩
/-- TRN_TT.STAGE. -/
def Reg.TRN_TT.STAGE (i : Nat) : Fld := ⟨0x2B00000 + 0x8 * i, 53, 9⟩
/-- TRN_CTX_STATUS (16 R447). -/
def Reg.TRN_CTX_STATUS.PHASE (i : Nat) : Fld := ⟨0x2B00100 + 0x20 * i, 0, 3⟩
/-- TRN_CTX_STATUS.ENTRY. -/
def Reg.TRN_CTX_STATUS.ENTRY (i : Nat) : Fld := ⟨0x2B00100 + 0x20 * i, 8, 13⟩
/-- TRN_NORM (16 R447). -/
def Reg.TRN_NORM.G2 (i : Nat) : Fld := ⟨0x2B00108 + 0x20 * i, 0, 32⟩
/-- TRN_NORM.NONFINITE. -/
def Reg.TRN_NORM.NONFINITE (i : Nat) : Fld := ⟨0x2B00108 + 0x20 * i, 32, 1⟩
/-- TRN_NORM.VALID. -/
def Reg.TRN_NORM.VALID (i : Nat) : Fld := ⟨0x2B00108 + 0x20 * i, 33, 1⟩
/-- TRN_SEED (16 R447). -/
def Reg.TRN_SEED.SEED (i : Nat) : Fld := ⟨0x2B00110 + 0x20 * i, 0, 64⟩
/-- TRN_LAST_ROOM (16 R447). -/
def Reg.TRN_LAST_ROOM.GUEST (i : Nat) : Fld := ⟨0x2B00118 + 0x20 * i, 0, 24⟩
/-- TRN_LAST_ROOM.OUTCOME. -/
def Reg.TRN_LAST_ROOM.OUTCOME (i : Nat) : Fld := ⟨0x2B00118 + 0x20 * i, 24, 8⟩
/-- TRN_ENTRIES_RUN (16 R447). -/
def Reg.TRN_ENTRIES_RUN.COUNT : Fld := ⟨0x2B00300, 0, 64⟩
/-- TRN_BUCKETS (16 R447). -/
def Reg.TRN_BUCKETS.COUNT : Fld := ⟨0x2B00308, 0, 64⟩
/-- TRN_OPT_ELEMS (16 R447). -/
def Reg.TRN_OPT_ELEMS.COUNT : Fld := ⟨0x2B00310, 0, 64⟩
/-- TRN_ERR (16 R447). -/
def Reg.TRN_ERR.STAGE_TIMEOUT : Fld := ⟨0x2B00318, 0, 8⟩
/-- TRN_ERR.SKIPPED. -/
def Reg.TRN_ERR.SKIPPED : Fld := ⟨0x2B00318, 8, 8⟩
/-- LEDG_STATUS (17 R478). -/
def Reg.LEDG_STATUS.STATE : Fld := ⟨0x2800000, 0, 3⟩
/-- LEDG_STATUS.CUR. -/
def Reg.LEDG_STATUS.CUR : Fld := ⟨0x2800000, 3, 1⟩
/-- LEDG_STATUS.RETAIN. -/
def Reg.LEDG_STATUS.RETAIN : Fld := ⟨0x2800000, 4, 1⟩
/-- LEDG_STATUS.REVERTIBLE. -/
def Reg.LEDG_STATUS.REVERTIBLE : Fld := ⟨0x2800000, 5, 1⟩
/-- LEDG_STATUS.CTX. -/
def Reg.LEDG_STATUS.CTX : Fld := ⟨0x2800000, 8, 4⟩
/-- LEDG_STATUS.SCALE_E. -/
def Reg.LEDG_STATUS.SCALE_E : Fld := ⟨0x2800000, 16, 8⟩
/-- LEDG_EPOCH (17 R478). -/
def Reg.LEDG_EPOCH.EPOCH : Fld := ⟨0x2800008, 0, 64⟩
/-- LEDG_STEP (17 R478). -/
def Reg.LEDG_STEP.STEP : Fld := ⟨0x2800010, 0, 32⟩
/-- LEDG_SCALE_CFG (17 R478). -/
def Reg.LEDG_SCALE_CFG.MIN : Fld := ⟨0x2800014, 0, 8⟩
/-- LEDG_SCALE_CFG.MAX. -/
def Reg.LEDG_SCALE_CFG.MAX : Fld := ⟨0x2800014, 8, 8⟩
/-- LEDG_SCALE_CFG.INIT. -/
def Reg.LEDG_SCALE_CFG.INIT : Fld := ⟨0x2800014, 16, 8⟩
/-- LEDG_CLEAN_CFG (17 R478). -/
def Reg.LEDG_CLEAN_CFG.CLEAN_STEPS : Fld := ⟨0x2800018, 0, 16⟩
/-- LEDG_CLEAN_CFG.CLEAN. -/
def Reg.LEDG_CLEAN_CFG.CLEAN : Fld := ⟨0x2800018, 16, 16⟩
/-- LEDG_CFG (17 R478). -/
def Reg.LEDG_CFG.COMMIT_MS : Fld := ⟨0x280001C, 0, 16⟩
/-- LEDG_CFG.DIGEST. -/
def Reg.LEDG_CFG.DIGEST : Fld := ⟨0x280001C, 16, 1⟩
/-- NONFINITE_SKIPS (17 R478). -/
def Reg.NONFINITE_SKIPS.COUNT : Fld := ⟨0x2800020, 0, 32⟩
/-- LEDG_ABORTS (17 R478). -/
def Reg.LEDG_ABORTS.COUNT : Fld := ⟨0x2800024, 0, 32⟩
/-- LEDG_LAST_VOTE (17 R478). -/
def Reg.LEDG_LAST_VOTE.OUTCOME : Fld := ⟨0x2800028, 0, 2⟩
/-- LEDG_LAST_VOTE.OWN. -/
def Reg.LEDG_LAST_VOTE.OWN : Fld := ⟨0x2800028, 2, 2⟩
/-- LEDG_LAST_VOTE.MISSING. -/
def Reg.LEDG_LAST_VOTE.MISSING : Fld := ⟨0x2800028, 4, 12⟩
/-- LEDG_LAST_VOTE.RANK. -/
def Reg.LEDG_LAST_VOTE.RANK : Fld := ⟨0x2800028, 16, 16⟩
/-- LEDG_WAY_STATUS (17 R478). -/
def Reg.LEDG_WAY_STATUS.PARTNER : Fld := ⟨0x2800030, 0, 12⟩
/-- LEDG_WAY_STATUS.SENDER. -/
def Reg.LEDG_WAY_STATUS.SENDER : Fld := ⟨0x2800030, 12, 1⟩
/-- LEDG_WAY_STATUS.HOST. -/
def Reg.LEDG_WAY_STATUS.HOST : Fld := ⟨0x2800030, 13, 1⟩
/-- LEDG_WAY_STATUS.SLOT0. -/
def Reg.LEDG_WAY_STATUS.SLOT0 : Fld := ⟨0x2800030, 14, 2⟩
/-- LEDG_WAY_STATUS.SLOT1. -/
def Reg.LEDG_WAY_STATUS.SLOT1 : Fld := ⟨0x2800030, 16, 2⟩
/-- LEDG_WAY_STATUS.BUSY. -/
def Reg.LEDG_WAY_STATUS.BUSY : Fld := ⟨0x2800030, 18, 1⟩
/-- LEDG_WAY_CFG (17 R478). -/
def Reg.LEDG_WAY_CFG.RATE_GBS : Fld := ⟨0x2800034, 0, 8⟩
/-- LEDG_WAY_STEP (17 R478). -/
def Reg.LEDG_WAY_STEP.STEP : Fld := ⟨0x2800038, 0, 32⟩
/-- LEDG_WAY_FAILS (17 R478). -/
def Reg.LEDG_WAY_FAILS.COUNT : Fld := ⟨0x280003C, 0, 32⟩
/-- SRV_CFG (18 R481). -/
def Reg.SRV_CFG.GAP_POLICY (i : Nat) : Fld := ⟨0x1801000 + 0x40 * i, 0, 2⟩
/-- SRV_CFG.CORES. -/
def Reg.SRV_CFG.CORES (i : Nat) : Fld := ⟨0x1801000 + 0x40 * i, 2, 2⟩
/-- SRV_CFG.FMT. -/
def Reg.SRV_CFG.FMT (i : Nat) : Fld := ⟨0x1801000 + 0x40 * i, 4, 1⟩
/-- SRV_CFG.CFG_REFUSED. -/
def Reg.SRV_CFG.CFG_REFUSED (i : Nat) : Fld := ⟨0x1801000 + 0x40 * i, 5, 1⟩
/-- SRV_CFG.MAX_FILL. -/
def Reg.SRV_CFG.MAX_FILL (i : Nat) : Fld := ⟨0x1801000 + 0x40 * i, 8, 8⟩
/-- SRV_CFG.GAP_US. -/
def Reg.SRV_CFG.GAP_US (i : Nat) : Fld := ⟨0x1801000 + 0x40 * i, 16, 16⟩
/-- SRV_BATCH (18 R481). -/
def Reg.SRV_BATCH.BATCH_US (i : Nat) : Fld := ⟨0x1801004 + 0x40 * i, 0, 10⟩
/-- SRV_BATCH.MAX_SAMPLES. -/
def Reg.SRV_BATCH.MAX_SAMPLES (i : Nat) : Fld := ⟨0x1801004 + 0x40 * i, 16, 10⟩
/-- SRV_RESERVE (18 R481). -/
def Reg.SRV_RESERVE.SC0_KRPS (i : Nat) : Fld := ⟨0x1801008 + 0x40 * i, 0, 11⟩
/-- SRV_RESERVE.SC1_KRPS. -/
def Reg.SRV_RESERVE.SC1_KRPS (i : Nat) : Fld := ⟨0x1801008 + 0x40 * i, 16, 11⟩
/-- SRV_RING_HEAD (18 R481). -/
def Reg.SRV_RING_HEAD.HEAD (i : Nat) : Fld := ⟨0x180100C + 0x40 * i, 0, 20⟩
/-- SRV_LIST (18 R481). -/
def Reg.SRV_LIST.ADDR (i : Nat) : Fld := ⟨0x1801010 + 0x40 * i, 0, 48⟩
/-- SRV_LIST_INFO (18 R481). -/
def Reg.SRV_LIST_INFO.COUNT (i : Nat) : Fld := ⟨0x1801018 + 0x40 * i, 0, 17⟩
/-- SRV_SPM (18 R481). -/
def Reg.SRV_SPM.BASE_U (i : Nat) : Fld := ⟨0x180101C + 0x40 * i, 0, 10⟩
/-- SRV_SPM.SIZE_U. -/
def Reg.SRV_SPM.SIZE_U (i : Nat) : Fld := ⟨0x180101C + 0x40 * i, 16, 11⟩
/-- SRV_RING_TAIL (18 R481). -/
def Reg.SRV_RING_TAIL.TAIL (i : Nat) : Fld := ⟨0x1801020 + 0x40 * i, 0, 20⟩
/-- SRV_RING_TAIL.PHASE. -/
def Reg.SRV_RING_TAIL.PHASE (i : Nat) : Fld := ⟨0x1801020 + 0x40 * i, 20, 1⟩
/-- SRV_DROP_A (18 R481). -/
def Reg.SRV_DROP_A.STALE (i : Nat) : Fld := ⟨0x1801028 + 0x40 * i, 0, 16⟩
/-- SRV_DROP_A.DUPLICATE. -/
def Reg.SRV_DROP_A.DUPLICATE (i : Nat) : Fld := ⟨0x1801028 + 0x40 * i, 16, 16⟩
/-- SRV_DROP_A.RANGE. -/
def Reg.SRV_DROP_A.RANGE (i : Nat) : Fld := ⟨0x1801028 + 0x40 * i, 32, 16⟩
/-- SRV_DROP_A.TIME. -/
def Reg.SRV_DROP_A.TIME (i : Nat) : Fld := ⟨0x1801028 + 0x40 * i, 48, 16⟩
/-- SRV_DROP_B (18 R481). -/
def Reg.SRV_DROP_B.SKIPPED (i : Nat) : Fld := ⟨0x1801030 + 0x40 * i, 0, 16⟩
/-- SRV_DROP_B.POOL_FULL. -/
def Reg.SRV_DROP_B.POOL_FULL (i : Nat) : Fld := ⟨0x1801030 + 0x40 * i, 16, 16⟩
/-- SRV_DROP_B.TIMEOUT. -/
def Reg.SRV_DROP_B.TIMEOUT (i : Nat) : Fld := ⟨0x1801030 + 0x40 * i, 32, 16⟩
/-- SRV_GAP (18 R481). -/
def Reg.SRV_GAP.GAPS (i : Nat) : Fld := ⟨0x1801038 + 0x40 * i, 0, 16⟩
/-- SRV_GAP.FILL_STEPS. -/
def Reg.SRV_GAP.FILL_STEPS (i : Nat) : Fld := ⟨0x1801038 + 0x40 * i, 16, 16⟩
/-- SRV_GAP.GAP_LONG. -/
def Reg.SRV_GAP.GAP_LONG (i : Nat) : Fld := ⟨0x1801038 + 0x40 * i, 32, 16⟩
/-- PWR_DOM (19 R523). -/
def Reg.PWR_DOM.STATE (i : Nat) : Fld := ⟨0x200000 + 0x4 * i, 0, 3⟩
/-- PWR_DOM.TARGET. -/
def Reg.PWR_DOM.TARGET (i : Nat) : Fld := ⟨0x200000 + 0x4 * i, 3, 2⟩
/-- PWR_DOM.PENDING. -/
def Reg.PWR_DOM.PENDING (i : Nat) : Fld := ⟨0x200000 + 0x4 * i, 5, 1⟩
/-- PWR_DOM.PEND_TARGET. -/
def Reg.PWR_DOM.PEND_TARGET (i : Nat) : Fld := ⟨0x200000 + 0x4 * i, 6, 2⟩
/-- PWR_DOM.FIXED. -/
def Reg.PWR_DOM.FIXED (i : Nat) : Fld := ⟨0x200000 + 0x4 * i, 8, 1⟩
/-- PWR_DOM.RET_OK. -/
def Reg.PWR_DOM.RET_OK (i : Nat) : Fld := ⟨0x200000 + 0x4 * i, 9, 1⟩
/-- PWR_DOM.OFF_OK. -/
def Reg.PWR_DOM.OFF_OK (i : Nat) : Fld := ⟨0x200000 + 0x4 * i, 10, 1⟩
/-- PWR_DOM.TRANSITIONS. -/
def Reg.PWR_DOM.TRANSITIONS (i : Nat) : Fld := ⟨0x200000 + 0x4 * i, 16, 16⟩
/-- PWR_LIMIT (19 R524). -/
def Reg.PWR_LIMIT.WATTS : Fld := ⟨0x201000, 0, 10⟩
/-- PWR_CTL (19 R524). -/
def Reg.PWR_CTL.BOOST : Fld := ⟨0x201004, 0, 1⟩
/-- PWR_STATUS (19 R524). -/
def Reg.PWR_STATUS.CFG_ERR : Fld := ⟨0x201008, 0, 1⟩
/-- PWR_STATUS.BOARD_W_MEAS. -/
def Reg.PWR_STATUS.BOARD_W_MEAS : Fld := ⟨0x201008, 8, 10⟩
/-- PWR_STATUS.TJ_MAX_C. -/
def Reg.PWR_STATUS.TJ_MAX_C : Fld := ⟨0x201008, 24, 8⟩
/-- PWR_CCLK_PIN (19 R524). -/
def Reg.PWR_CCLK_PIN.MHZ (i : Nat) : Fld := ⟨0x201010 + 0x8 * i, 0, 12⟩
/-- PWR_CCLK_PIN.EN. -/
def Reg.PWR_CCLK_PIN.EN (i : Nat) : Fld := ⟨0x201010 + 0x8 * i, 31, 1⟩
/-- PWR_CCLK_RANGE (19 R524). -/
def Reg.PWR_CCLK_RANGE.FLOOR (i : Nat) : Fld := ⟨0x201014 + 0x8 * i, 0, 12⟩
/-- PWR_CCLK_RANGE.CEIL. -/
def Reg.PWR_CCLK_RANGE.CEIL (i : Nat) : Fld := ⟨0x201014 + 0x8 * i, 16, 12⟩
/-- PWR_AVS (19 R524). -/
def Reg.PWR_AVS.MARGIN : Fld := ⟨0x201020, 0, 3⟩
/-- PWR_AVS.VDD_MV. -/
def Reg.PWR_AVS.VDD_MV : Fld := ⟨0x201020, 16, 12⟩
/-- PWR_HBM_POLICY (19 R524). -/
def Reg.PWR_HBM_POLICY.CEIL (i : Nat) : Fld := ⟨0x201040 + 0x4 * i, 0, 4⟩
/-- PWR_HBM_POLICY.PIN_FULL. -/
def Reg.PWR_HBM_POLICY.PIN_FULL (i : Nat) : Fld := ⟨0x201040 + 0x4 * i, 31, 1⟩
/-- PWR_LANE_POLICY (19 R524). -/
def Reg.PWR_LANE_POLICY.PIN (i : Nat) : Fld := ⟨0x201080 + 0x4 * i, 0, 2⟩
/-- PWR_LANE_POLICY.FLOOR. -/
def Reg.PWR_LANE_POLICY.FLOOR (i : Nat) : Fld := ⟨0x201080 + 0x4 * i, 2, 2⟩
/-- PWR_LANE_POLICY.CEIL. -/
def Reg.PWR_LANE_POLICY.CEIL (i : Nat) : Fld := ⟨0x201080 + 0x4 * i, 4, 2⟩
/-- PWR_CLAMP_REASON (19 R524). -/
def Reg.PWR_CLAMP_REASON.REASON : Fld := ⟨0x201100, 0, 8⟩
/-- PWR_CLAMP_REASON.LOOP. -/
def Reg.PWR_CLAMP_REASON.LOOP : Fld := ⟨0x201100, 8, 3⟩
/-- PWR_CLAMP_REASON.TARGET. -/
def Reg.PWR_CLAMP_REASON.TARGET : Fld := ⟨0x201100, 16, 8⟩
/-- PWR_CLAMP_REASON.PINNED. -/
def Reg.PWR_CLAMP_REASON.PINNED : Fld := ⟨0x201100, 32, 16⟩
/-- PWR_CLAMP_REASON.HELD. -/
def Reg.PWR_CLAMP_REASON.HELD : Fld := ⟨0x201100, 48, 16⟩
/-- PWR_CLAMP_COUNT (19 R524). -/
def Reg.PWR_CLAMP_COUNT.COUNT (i : Nat) : Fld := ⟨0x201110 + 0x4 * i, 0, 32⟩
/-- PWR_CLAMP_ACTIVE (19 R524). -/
def Reg.PWR_CLAMP_ACTIVE.LOOPS : Fld := ⟨0x201130, 0, 5⟩
/-- RST_STATUS (20 R546). -/
def Reg.RST_STATUS.READY : Fld := ⟨0x300000, 0, 1⟩
/-- RST_STATUS.STAGE. -/
def Reg.RST_STATUS.STAGE : Fld := ⟨0x300000, 1, 4⟩
/-- RST_STATUS.FAIL. -/
def Reg.RST_STATUS.FAIL : Fld := ⟨0x300000, 8, 8⟩
/-- RST_STATUS.FW_SLOT. -/
def Reg.RST_STATUS.FW_SLOT : Fld := ⟨0x300000, 16, 1⟩
/-- RST_STATUS.FALLBACK. -/
def Reg.RST_STATUS.FALLBACK : Fld := ⟨0x300000, 17, 1⟩
/-- RST_STATUS.TRIAL. -/
def Reg.RST_STATUS.TRIAL : Fld := ⟨0x300000, 18, 1⟩
/-- RST_STATUS.LAST_KIND. -/
def Reg.RST_STATUS.LAST_KIND : Fld := ⟨0x300000, 19, 3⟩
/-- RST_CTL (20 R546). -/
def Reg.RST_CTL.KIND : Fld := ⟨0x300004, 0, 3⟩
/-- RST_CTL.TARGET. -/
def Reg.RST_CTL.TARGET : Fld := ⟨0x300004, 4, 4⟩
/-- RST_CTL.KEY. -/
def Reg.RST_CTL.KEY : Fld := ⟨0x300004, 16, 16⟩
/-- RST_CAUSE (20 R546). -/
def Reg.RST_CAUSE.CAUSE : Fld := ⟨0x300008, 0, 8⟩
/-- RST_COUNT (20 R546). -/
def Reg.RST_COUNT.WARM : Fld := ⟨0x30000C, 0, 8⟩
/-- RST_COUNT.FLR. -/
def Reg.RST_COUNT.FLR : Fld := ⟨0x30000C, 8, 8⟩
/-- RST_COUNT.CORE. -/
def Reg.RST_COUNT.CORE : Fld := ⟨0x30000C, 16, 8⟩
/-- RST_COUNT.CONTEXT. -/
def Reg.RST_COUNT.CONTEXT : Fld := ⟨0x30000C, 24, 8⟩
/-- RST_BUSY (20 R546). -/
def Reg.RST_BUSY.CORE : Fld := ⟨0x300010, 0, 2⟩
/-- RST_BUSY.CONTEXT. -/
def Reg.RST_BUSY.CONTEXT : Fld := ⟨0x300010, 16, 16⟩
/-- RST_ERR (20 R546). -/
def Reg.RST_ERR.KEY_REFUSED : Fld := ⟨0x300014, 0, 8⟩
/-- RST_ERR.ABSORBED. -/
def Reg.RST_ERR.ABSORBED : Fld := ⟨0x300014, 8, 8⟩
/-- RST_BOOT_US (20 R546). -/
def Reg.RST_BOOT_US.TIME : Fld := ⟨0x300018, 0, 32⟩
/-- RST_FW (20 R546). -/
def Reg.RST_FW.VERSION : Fld := ⟨0x300020, 0, 32⟩
/-- RST_FW.SVN_FUSE. -/
def Reg.RST_FW.SVN_FUSE : Fld := ⟨0x300020, 32, 6⟩
/-- RST_FW.A_STATE. -/
def Reg.RST_FW.A_STATE : Fld := ⟨0x300020, 40, 2⟩
/-- RST_FW.B_STATE. -/
def Reg.RST_FW.B_STATE : Fld := ⟨0x300020, 42, 2⟩
/-- RST_FW.ACTIVE. -/
def Reg.RST_FW.ACTIVE : Fld := ⟨0x300020, 44, 1⟩
/-- RST_FW.ACT_PENDING. -/
def Reg.RST_FW.ACT_PENDING : Fld := ⟨0x300020, 45, 1⟩
/-- RST_FW_VER (20 R546). -/
def Reg.RST_FW_VER.VERSION (i : Nat) : Fld := ⟨0x300028 + 0x4 * i, 0, 32⟩
/-- MGT_STATUS (21 R570). -/
def Reg.MGT_STATUS.EID : Fld := ⟨0x2C00000, 0, 8⟩
/-- MGT_STATUS.SMB_ADDR. -/
def Reg.MGT_STATUS.SMB_ADDR : Fld := ⟨0x2C00000, 8, 7⟩
/-- MGT_STATUS.VDM_UP. -/
def Reg.MGT_STATUS.VDM_UP : Fld := ⟨0x2C00000, 15, 1⟩
/-- MGT_STATUS.UPDATE. -/
def Reg.MGT_STATUS.UPDATE : Fld := ⟨0x2C00000, 16, 1⟩
/-- MGT_STATUS.RECEIVER. -/
def Reg.MGT_STATUS.RECEIVER : Fld := ⟨0x2C00000, 17, 1⟩
/-- MGT_STATUS.POLLING. -/
def Reg.MGT_STATUS.POLLING : Fld := ⟨0x2C00000, 18, 1⟩
/-- MGT_ALERT_STATUS (21 R570). -/
def Reg.MGT_ALERT_STATUS.RAIL : Fld := ⟨0x2C00004, 0, 1⟩
/-- MGT_ALERT_STATUS.REFCLK. -/
def Reg.MGT_ALERT_STATUS.REFCLK : Fld := ⟨0x2C00004, 1, 1⟩
/-- MGT_ALERT_STATUS.BOOT_FAIL. -/
def Reg.MGT_ALERT_STATUS.BOOT_FAIL : Fld := ⟨0x2C00004, 2, 1⟩
/-- MGT_ALERT_STATUS.REGULATOR. -/
def Reg.MGT_ALERT_STATUS.REGULATOR : Fld := ⟨0x2C00004, 3, 1⟩
/-- MGT_ALERT_STATUS.QUARANTINE. -/
def Reg.MGT_ALERT_STATUS.QUARANTINE : Fld := ⟨0x2C00004, 4, 1⟩
/-- MGT_ALERT_STATUS.HOST_PATH. -/
def Reg.MGT_ALERT_STATUS.HOST_PATH : Fld := ⟨0x2C00004, 5, 1⟩
/-- MGT_ALERT_STATUS.SENSOR. -/
def Reg.MGT_ALERT_STATUS.SENSOR : Fld := ⟨0x2C00004, 6, 1⟩
/-- MGT_ALERT_MASK (21 R570). -/
def Reg.MGT_ALERT_MASK.MASK : Fld := ⟨0x2C00008, 0, 7⟩
/-- MGT_ERR (21 R570). -/
def Reg.MGT_ERR.SMB_DROPS : Fld := ⟨0x2C00010, 0, 8⟩
/-- MGT_ERR.VDM_DROPS. -/
def Reg.MGT_ERR.VDM_DROPS : Fld := ⟨0x2C00010, 8, 8⟩
/-- MGT_ERR.PMBUS_ERR. -/
def Reg.MGT_ERR.PMBUS_ERR : Fld := ⟨0x2C00010, 16, 8⟩
/-- MGT_ERR.SENSOR_DROPS. -/
def Reg.MGT_ERR.SENSOR_DROPS : Fld := ⟨0x2C00010, 24, 8⟩
/-- MGT_DISAGREE (21 R570). -/
def Reg.MGT_DISAGREE.COUNT : Fld := ⟨0x2C00014, 0, 32⟩
/-- MGT_EVT_DROPS (21 R570). -/
def Reg.MGT_EVT_DROPS.COUNT : Fld := ⟨0x2C00018, 0, 32⟩
/-- MGT_UNIT (21 R570). -/
def Reg.MGT_UNIT.WORK (i : Nat) : Fld := ⟨0x2C01000 + 0x8 * i, 0, 1⟩
/-- MGT_UNIT.SAFETY. -/
def Reg.MGT_UNIT.SAFETY (i : Nat) : Fld := ⟨0x2C01000 + 0x8 * i, 1, 1⟩
/-- MGT_UNIT.STATE. -/
def Reg.MGT_UNIT.STATE (i : Nat) : Fld := ⟨0x2C01000 + 0x8 * i, 2, 2⟩
/-- MGT_UNIT.PWR_TARGET. -/
def Reg.MGT_UNIT.PWR_TARGET (i : Nat) : Fld := ⟨0x2C01000 + 0x8 * i, 4, 2⟩
/-- MGT_UNIT.PWR_BY_MGMT. -/
def Reg.MGT_UNIT.PWR_BY_MGMT (i : Nat) : Fld := ⟨0x2C01000 + 0x8 * i, 6, 1⟩
/-- MGT_UNIT.GEN. -/
def Reg.MGT_UNIT.GEN (i : Nat) : Fld := ⟨0x2C01000 + 0x8 * i, 32, 32⟩
/-- ERR_EVT_BASE (22 R590). -/
def Reg.ERR_EVT_BASE.BASE : Fld := ⟨0x3000000, 12, 36⟩
/-- ERR_EVT_CFG (22 R590). -/
def Reg.ERR_EVT_CFG.LOG2 : Fld := ⟨0x3000008, 0, 5⟩
/-- ERR_EVT_CFG.EN. -/
def Reg.ERR_EVT_CFG.EN : Fld := ⟨0x3000008, 8, 1⟩
/-- ERR_EVT_HEAD (22 R590). -/
def Reg.ERR_EVT_HEAD.HEAD : Fld := ⟨0x300000C, 0, 16⟩
/-- ERR_EVT_TAIL (22 R590). -/
def Reg.ERR_EVT_TAIL.TAIL : Fld := ⟨0x3000010, 0, 16⟩
/-- ERR_EVT_TAIL.PHASE. -/
def Reg.ERR_EVT_TAIL.PHASE : Fld := ⟨0x3000010, 16, 1⟩
/-- ERR_EVT_PENDING (22 R590). -/
def Reg.ERR_EVT_PENDING.COUNT : Fld := ⟨0x3000014, 0, 9⟩
/-- ERR_EVT_DROPS (22 R590). -/
def Reg.ERR_EVT_DROPS.COUNT : Fld := ⟨0x3000018, 0, 32⟩
/-- ERR_EVT_SEQ (22 R590). -/
def Reg.ERR_EVT_SEQ.SEQ : Fld := ⟨0x300001C, 0, 32⟩
/-- ERR_CLASS_COUNT (22 R590). -/
def Reg.ERR_CLASS_COUNT.COUNT (i : Nat) : Fld := ⟨0x3000020 + 0x8 * i, 0, 64⟩
/-- ERR_LAST_FATAL (22 R590). -/
def Reg.ERR_LAST_FATAL.CODE : Fld := ⟨0x3000048, 0, 16⟩
/-- ERR_LAST_FATAL.SUB. -/
def Reg.ERR_LAST_FATAL.SUB : Fld := ⟨0x3000048, 16, 8⟩
/-- ERR_LAST_FATAL.SEQ. -/
def Reg.ERR_LAST_FATAL.SEQ : Fld := ⟨0x3000048, 32, 32⟩
/-- ERR_CE_LIMIT (22 R590). -/
def Reg.ERR_CE_LIMIT.LIMIT : Fld := ⟨0x3000050, 0, 16⟩
/-- DBG_STATUS (23 R605). -/
def Reg.DBG_STATUS.LEVEL : Fld := ⟨0x3400000, 0, 2⟩
/-- DBG_STATUS.DISABLED. -/
def Reg.DBG_STATUS.DISABLED : Fld := ⟨0x3400000, 2, 1⟩
/-- DBG_STATUS.TRACING. -/
def Reg.DBG_STATUS.TRACING : Fld := ⟨0x3400000, 3, 1⟩
/-- DBG_STATUS.OWNER. -/
def Reg.DBG_STATUS.OWNER : Fld := ⟨0x3400000, 4, 2⟩
/-- DBG_STATUS.BAUD. -/
def Reg.DBG_STATUS.BAUD : Fld := ⟨0x3400000, 6, 3⟩
/-- DBG_UNLOCK (23 R605). -/
def Reg.DBG_UNLOCK.FAILS : Fld := ⟨0x3400004, 0, 8⟩
/-- DBG_UNLOCK.BACKOFF. -/
def Reg.DBG_UNLOCK.BACKOFF : Fld := ⟨0x3400004, 8, 1⟩
/-- DBG_TRACE_WR (23 R605). -/
def Reg.DBG_TRACE_WR.INDEX : Fld := ⟨0x3400008, 0, 17⟩
/-- DBG_TRACE_WR.WRAPPED. -/
def Reg.DBG_TRACE_WR.WRAPPED : Fld := ⟨0x3400008, 17, 1⟩
/-- DBG_TRACE_DROPS (23 R605). -/
def Reg.DBG_TRACE_DROPS.COUNT : Fld := ⟨0x340000C, 0, 32⟩
/-- DBG_TRACE_LAST (23 R605). -/
def Reg.DBG_TRACE_LAST.INDEX : Fld := ⟨0x3400010, 0, 17⟩
/-- DBG_HEHUS (23 R605). -/
def Reg.DBG_HEHUS.CMDS : Fld := ⟨0x3400014, 0, 32⟩
/-- SO_VALUE (07 R189). -/
def Reg.SO_VALUE.VALUE (i : Nat) : Fld := ⟨0x1C00000 + 0x10 * i, 0, 64⟩
/-- SO_ADD (07 R189). -/
def Reg.SO_ADD.ADD (i : Nat) : Fld := ⟨0x1C0000C + 0x10 * i, 0, 32⟩
/-- PWR_DOM_ON (19 R523). -/
def Reg.PWR_DOM_ON.ON : Fld := ⟨0x200100, 0, 64⟩
/-- MSIX_ADDR (04 R95). -/
def Reg.MSIX_ADDR.ADDR (i : Nat) : Fld := ⟨0x5E0000 + 0x10 * i, 0, 64⟩
/-- MSIX_DATA (04 R95). -/
def Reg.MSIX_DATA.DATA (i : Nat) : Fld := ⟨0x5E0008 + 0x10 * i, 0, 32⟩
/-- MSIX_CTL (04 R95). -/
def Reg.MSIX_CTL.MASK (i : Nat) : Fld := ⟨0x5E000C + 0x10 * i, 0, 1⟩
/-- MSIX_PBA (04 R95). -/
def Reg.MSIX_PBA.PENDING : Fld := ⟨0x5E0800, 0, 64⟩

end Sys2Proof.Machine
end

