-- ==== Sys2Proof/Machine/RegTable.lean ====
section
/-!
DEFINITION. The register map: for every register of spec/ its place, width, and per field the access code of R6 and the
reset value of its table; and the lookups over it.
Choices: DESIGN CHOICE, notes/assumptions/8.md.
-/
namespace Sys2Proof.Machine

/-- The access codes of R6. -/
inductive Acc where
  | ro | rw | wo | w1c | w1s | rc | hw
  deriving DecidableEq, Repr

/-- One field of a register: low bit, width, access code, reset value. -/
structure FieldDesc where
  lo  : Nat
  len : Nat
  acc : Acc
  rst : Nat
  deriving DecidableEq, Repr

/-- A register, or an array of them: base offset, the two array sizes and strides, whether it is 64 bits wide, its fields. -/
structure RegDesc where
  base : Nat
  n1   : Nat
  s1   : Nat
  n2   : Nat
  s2   : Nat
  wide : Bool
  flds : List FieldDesc
  deriving DecidableEq, Repr

/-- The registers of the CTL block (R9). -/
def regTableCtl : List RegDesc := [
  ⟨0x10, 1, 0x0, 1, 0x0, false, [⟨0, 4, .ro, 0⟩, ⟨4, 4, .ro, 0⟩, ⟨8, 3, .ro, 0⟩, ⟨16, 10, .ro, 0⟩]⟩ /- CTL_ASSEMBLY -/]

/-- The registers of the CLK block (R9). -/
def regTableClk : List RegDesc := [
  ⟨0x100000, 1, 0x0, 1, 0x0, false, [⟨0, 1, .hw, 1⟩, ⟨1, 1, .hw, 1⟩, ⟨2, 1, .hw, 1⟩, ⟨3, 1, .hw, 0⟩, ⟨8, 1, .w1c, 0⟩, ⟨9, 1, .w1c, 0⟩, ⟨10, 1, .w1c, 0⟩]⟩ /- CLK_REF_STATUS -/,
  ⟨0x100004, 1, 0x0, 1, 0x0, false, [⟨0, 1, .hw, 0⟩, ⟨1, 1, .hw, 0⟩, ⟨2, 1, .hw, 0⟩, ⟨3, 1, .hw, 0⟩, ⟨4, 1, .hw, 0⟩, ⟨8, 4, .hw, 0⟩, ⟨16, 12, .hw, 0⟩]⟩ /- CLK_PLL_LOCK -/,
  ⟨0x100010, 1, 0x0, 2, 0x4, false, [⟨0, 12, .hw, 0x1F4⟩, ⟨16, 12, .hw, 0x1F4⟩, ⟨31, 1, .hw, 0⟩]⟩ /- CLK_CCLK -/,
  ⟨0x100020, 1, 0x0, 1, 0x0, false, [⟨0, 5, .rw, 0⟩, ⟨8, 8, .rw, 1⟩, ⟨30, 1, .hw, 0⟩, ⟨31, 1, .w1s, 0⟩]⟩ /- CLK_MEAS_CTL -/,
  ⟨0x100024, 1, 0x0, 1, 0x0, false, [⟨0, 32, .hw, 0⟩]⟩ /- CLK_MEAS_RESULT -/,
  ⟨0x100030, 1, 0x0, 1, 0x0, false, [⟨0, 8, .rc, 0⟩, ⟨8, 8, .rc, 0⟩, ⟨16, 8, .rc, 0⟩]⟩ /- CLK_REF_LOSS_COUNT -/]

/-- The registers of the PWR block (R9). -/
def regTablePwr : List RegDesc := [
  ⟨0x200000, 1, 0x0, 64, 0x4, false, [⟨0, 3, .hw, 0⟩, ⟨3, 2, .hw, 0⟩, ⟨5, 1, .hw, 0⟩, ⟨6, 2, .hw, 0⟩, ⟨8, 1, .ro, 0⟩, ⟨9, 1, .ro, 0⟩, ⟨10, 1, .ro, 0⟩, ⟨16, 16, .hw, 0⟩]⟩ /- PWR_DOM -/,
  ⟨0x200100, 1, 0x0, 1, 0x0, true, [⟨0, 64, .hw, 0⟩]⟩ /- PWR_DOM_ON -/,
  ⟨0x201000, 1, 0x0, 1, 0x0, false, [⟨0, 10, .rw, 0⟩]⟩ /- PWR_LIMIT -/,
  ⟨0x201004, 1, 0x0, 1, 0x0, false, [⟨0, 1, .rw, 1⟩]⟩ /- PWR_CTL -/,
  ⟨0x201008, 1, 0x0, 1, 0x0, false, [⟨0, 1, .w1c, 0⟩, ⟨8, 10, .hw, 0⟩, ⟨24, 8, .hw, 0⟩]⟩ /- PWR_STATUS -/,
  ⟨0x201010, 1, 0x0, 2, 0x8, false, [⟨0, 12, .rw, 0⟩, ⟨31, 1, .rw, 0⟩]⟩ /- PWR_CCLK_PIN -/,
  ⟨0x201014, 1, 0x0, 2, 0x8, false, [⟨0, 12, .rw, 0⟩, ⟨16, 12, .rw, 0⟩]⟩ /- PWR_CCLK_RANGE -/,
  ⟨0x201020, 1, 0x0, 1, 0x0, false, [⟨0, 3, .rw, 0⟩, ⟨16, 12, .hw, 0⟩]⟩ /- PWR_AVS -/,
  ⟨0x201040, 1, 0x0, 12, 0x4, false, [⟨0, 4, .rw, 0⟩, ⟨31, 1, .rw, 0⟩]⟩ /- PWR_HBM_POLICY -/,
  ⟨0x201080, 1, 0x0, 32, 0x4, false, [⟨0, 2, .rw, 0⟩, ⟨2, 2, .rw, 0⟩, ⟨4, 2, .rw, 0⟩]⟩ /- PWR_LANE_POLICY -/,
  ⟨0x201100, 1, 0x0, 1, 0x0, true, [⟨0, 8, .hw, 0⟩, ⟨8, 3, .hw, 0⟩, ⟨16, 8, .hw, 0⟩, ⟨32, 16, .hw, 0⟩, ⟨48, 16, .hw, 0⟩]⟩ /- PWR_CLAMP_REASON -/,
  ⟨0x201110, 1, 0x0, 5, 0x4, false, [⟨0, 32, .rc, 0⟩]⟩ /- PWR_CLAMP_COUNT -/,
  ⟨0x201130, 1, 0x0, 1, 0x0, false, [⟨0, 5, .hw, 0⟩]⟩ /- PWR_CLAMP_ACTIVE -/]

/-- The registers of the RST block (R9). -/
def regTableRst : List RegDesc := [
  ⟨0x300000, 1, 0x0, 1, 0x0, false, [⟨0, 1, .hw, 0⟩, ⟨1, 4, .hw, 0⟩, ⟨8, 8, .hw, 0⟩, ⟨16, 1, .hw, 0⟩, ⟨17, 1, .hw, 0⟩, ⟨18, 1, .hw, 0⟩, ⟨19, 3, .hw, 0⟩]⟩ /- RST_STATUS -/,
  ⟨0x300004, 1, 0x0, 1, 0x0, false, [⟨0, 3, .wo, 0⟩, ⟨4, 4, .wo, 0⟩, ⟨16, 16, .wo, 0⟩]⟩ /- RST_CTL -/,
  ⟨0x300008, 1, 0x0, 1, 0x0, false, [⟨0, 8, .hw, 0⟩]⟩ /- RST_CAUSE -/,
  ⟨0x30000C, 1, 0x0, 1, 0x0, false, [⟨0, 8, .rc, 0⟩, ⟨8, 8, .rc, 0⟩, ⟨16, 8, .rc, 0⟩, ⟨24, 8, .rc, 0⟩]⟩ /- RST_COUNT -/,
  ⟨0x300010, 1, 0x0, 1, 0x0, false, [⟨0, 2, .hw, 0⟩, ⟨16, 16, .hw, 0⟩]⟩ /- RST_BUSY -/,
  ⟨0x300014, 1, 0x0, 1, 0x0, false, [⟨0, 8, .rc, 0⟩, ⟨8, 8, .rc, 0⟩]⟩ /- RST_ERR -/,
  ⟨0x300018, 1, 0x0, 1, 0x0, false, [⟨0, 32, .hw, 0⟩]⟩ /- RST_BOOT_US -/,
  ⟨0x300020, 1, 0x0, 1, 0x0, true, [⟨0, 32, .hw, 0⟩, ⟨32, 6, .hw, 0⟩, ⟨40, 2, .hw, 0⟩, ⟨42, 2, .hw, 0⟩, ⟨44, 1, .hw, 0⟩, ⟨45, 1, .hw, 0⟩]⟩ /- RST_FW -/,
  ⟨0x300028, 1, 0x0, 2, 0x4, false, [⟨0, 32, .hw, 0⟩]⟩ /- RST_FW_VER -/]

/-- The registers of the HOST block (R9). -/
def regTableHost : List RegDesc := [
  ⟨0x400000, 1, 0x0, 256, 0x40, true, [⟨12, 36, .rw, 0⟩]⟩ /- QP_SQ_BASE -/,
  ⟨0x400008, 1, 0x0, 256, 0x40, true, [⟨12, 36, .rw, 0⟩]⟩ /- QP_CQ_BASE -/,
  ⟨0x400010, 1, 0x0, 256, 0x40, false, [⟨0, 4, .rw, 0⟩, ⟨4, 1, .rw, 0⟩, ⟨8, 4, .rw, 0⟩, ⟨12, 4, .rw, 0⟩, ⟨16, 6, .rw, 0⟩, ⟨31, 1, .rw, 0⟩]⟩ /- QP_CFG -/,
  ⟨0x400014, 1, 0x0, 256, 0x40, false, [⟨0, 3, .hw, 0⟩, ⟨8, 4, .hw, 0⟩, ⟨16, 7, .hw, 0⟩]⟩ /- QP_STATUS -/,
  ⟨0x400018, 1, 0x0, 256, 0x40, false, [⟨0, 13, .hw, 0⟩, ⟨16, 13, .hw, 0⟩]⟩ /- QP_SQ_PTRS -/,
  ⟨0x40001C, 1, 0x0, 256, 0x40, false, [⟨0, 13, .hw, 0⟩, ⟨13, 1, .hw, 1⟩, ⟨16, 13, .hw, 0⟩]⟩ /- QP_CQ_PTRS -/,
  ⟨0x400020, 1, 0x0, 256, 0x40, false, [⟨0, 8, .rc, 0⟩, ⟨8, 8, .rc, 0⟩, ⟨16, 8, .rc, 0⟩]⟩ /- QP_ERR -/,
  ⟨0x400028, 1, 0x0, 256, 0x40, true, [⟨0, 64, .hw, 0⟩]⟩ /- QP_DONE -/,
  ⟨0x410000, 1, 0x0, 16, 0x40, false, [⟨0, 2, .rw, 1⟩, ⟨2, 1, .rw, 0⟩, ⟨8, 8, .rw, 1⟩, ⟨16, 16, .rw, 0⟩]⟩ /- CTX_CFG -/,
  ⟨0x410004, 1, 0x0, 16, 0x40, false, [⟨0, 2, .hw, 0⟩, ⟨8, 9, .hw, 0⟩, ⟨17, 1, .w1c, 0⟩]⟩ /- CTX_STATE -/,
  ⟨0x410008, 1, 0x0, 16, 0x40, false, [⟨0, 12, .hw, 0⟩]⟩ /- CTX_INFLIGHT -/,
  ⟨0x410010, 1, 0x0, 16, 0x40, true, [⟨0, 64, .rc, 0⟩]⟩ /- CTX_CMD_OK -/,
  ⟨0x410018, 1, 0x0, 16, 0x40, true, [⟨0, 64, .rc, 0⟩]⟩ /- CTX_CMD_FAIL -/,
  ⟨0x410020, 1, 0x0, 16, 0x40, false, [⟨0, 32, .rc, 0⟩]⟩ /- CTX_TIMEOUTS -/,
  ⟨0x410028, 1, 0x0, 16, 0x40, true, [⟨0, 32, .hw, 0⟩, ⟨32, 6, .hw, 0⟩, ⟨48, 16, .hw, 0⟩]⟩ /- CTX_LIST_ERR -/,
  ⟨0x420000, 1, 0x0, 1, 0x0, false, [⟨0, 7, .hw, 0⟩, ⟨8, 5, .hw, 0⟩]⟩ /- HOST_ARB_AGE -/,
  ⟨0x420008, 1, 0x0, 1, 0x0, true, [⟨0, 64, .rc, 0⟩]⟩ /- HOST_ARB_DISP_DL -/,
  ⟨0x420010, 1, 0x0, 1, 0x0, true, [⟨0, 64, .rc, 0⟩]⟩ /- HOST_ARB_DISP_NM -/,
  ⟨0x420018, 1, 0x0, 1, 0x0, true, [⟨0, 64, .rc, 0⟩]⟩ /- HOST_ARB_DISP_BK -/,
  ⟨0x420020, 1, 0x0, 1, 0x0, false, [⟨0, 16, .rc, 0⟩, ⟨16, 16, .rc, 0⟩]⟩ /- HOST_ARB_AGED -/,
  ⟨0x5E0000, 1, 0x0, 64, 0x10, true, [⟨0, 64, .rw, 0⟩]⟩ /- MSIX_ADDR -/,
  ⟨0x5E0008, 1, 0x0, 64, 0x10, false, [⟨0, 32, .rw, 0⟩]⟩ /- MSIX_DATA -/,
  ⟨0x5E000C, 1, 0x0, 64, 0x10, false, [⟨0, 1, .rw, 1⟩]⟩ /- MSIX_CTL -/,
  ⟨0x5E0800, 1, 0x0, 1, 0x0, true, [⟨0, 64, .hw, 0⟩]⟩ /- MSIX_PBA -/,
  ⟨0x5E1000, 1, 0x0, 64, 0x4, false, [⟨0, 8, .rw, 0⟩, ⟨8, 8, .rw, 0⟩]⟩ /- HOST_MSIX_MOD -/,
  ⟨0x5F0000, 1, 0x0, 1, 0x0, true, [⟨30, 18, .rw, 0⟩]⟩ /- HOST_BAR2_BASE -/,
  ⟨0x5F0008, 1, 0x0, 1, 0x0, false, [⟨0, 8, .rc, 0⟩, ⟨8, 8, .rc, 0⟩, ⟨16, 8, .rc, 0⟩, ⟨24, 8, .rc, 0⟩]⟩ /- HOST_BAR_ERR -/,
  ⟨0x5F0010, 1, 0x0, 1, 0x0, true, [⟨0, 48, .hw, 0⟩, ⟨56, 2, .hw, 0⟩]⟩ /- HOST_BAR_ERR_ADDR -/,
  ⟨0x5F0020, 1, 0x0, 1, 0x0, false, [⟨0, 4, .hw, 0⟩, ⟨4, 5, .hw, 0⟩, ⟨9, 1, .hw, 0⟩, ⟨10, 1, .hw, 0⟩, ⟨11, 1, .hw, 0⟩, ⟨12, 1, .hw, 0⟩, ⟨13, 1, .hw, 0⟩]⟩ /- HOST_LINK_STATUS -/,
  ⟨0x5F0024, 1, 0x0, 1, 0x0, false, [⟨0, 15, .hw, 0⟩, ⟨15, 1, .hw, 0⟩]⟩ /- HOST_HOLD_STATUS -/,
  ⟨0x5F0028, 1, 0x0, 1, 0x0, false, [⟨0, 32, .rc, 0⟩]⟩ /- HOST_HOLD_DROPS -/,
  ⟨0x600000, 16, 0x1000, 16, 0x10, true, [⟨0, 1, .rw, 0⟩, ⟨1, 1, .rw, 0⟩, ⟨2, 1, .rw, 0⟩, ⟨16, 32, .rw, 0⟩]⟩ /- CTX_HBM_WIN_LO -/,
  ⟨0x600008, 16, 0x1000, 16, 0x10, true, [⟨16, 32, .rw, 0⟩]⟩ /- CTX_HBM_WIN_HI -/,
  ⟨0x600100, 16, 0x1000, 2, 0x4, false, [⟨0, 10, .rw, 0⟩, ⟨16, 11, .rw, 0⟩]⟩ /- CTX_SPM -/,
  ⟨0x600108, 1, 0x0, 16, 0x1000, false, [⟨0, 12, .rw, 0⟩, ⟨16, 13, .rw, 0⟩]⟩ /- CTX_SO -/,
  ⟨0x60010C, 1, 0x0, 16, 0x1000, false, [⟨0, 1, .rw, 0⟩]⟩ /- CTX_FAB -/,
  ⟨0x600110, 1, 0x0, 16, 0x1000, true, [⟨12, 52, .rw, 0⟩]⟩ /- CTX_HOST_BASE -/,
  ⟨0x600118, 1, 0x0, 16, 0x1000, true, [⟨12, 34, .rw, 0⟩]⟩ /- CTX_HOST_SIZE -/,
  ⟨0x600120, 1, 0x0, 16, 0x1000, false, [⟨0, 16, .rc, 0⟩, ⟨16, 1, .hw, 0⟩, ⟨17, 1, .w1c, 0⟩]⟩ /- CTX_WIN_STATUS -/,
  ⟨0x600128, 1, 0x0, 16, 0x1000, true, [⟨0, 48, .hw, 0⟩, ⟨48, 16, .hw, 0⟩]⟩ /- CTX_WIN_LAST -/]

/-- The registers of the CORE block (R9). -/
def regTableCore : List RegDesc := [
  ⟨0x800000, 2, 0x400000, 4, 0x4, false, [⟨0, 8, .hw, 0⟩, ⟨8, 1, .hw, 0⟩, ⟨9, 1, .hw, 0⟩]⟩ /- SEQ_TQ_STATUS -/,
  ⟨0x800020, 1, 0x0, 2, 0x400000, true, [⟨0, 64, .rc, 0⟩]⟩ /- SEQ_PREEMPT_CNT -/,
  ⟨0x800028, 1, 0x0, 2, 0x400000, false, [⟨0, 20, .rc, 0⟩]⟩ /- SEQ_PREEMPT_MAX -/,
  ⟨0x80002C, 1, 0x0, 2, 0x400000, false, [⟨0, 16, .rc, 0⟩]⟩ /- SEQ_OVERRUN -/,
  ⟨0x810000, 1, 0x0, 2, 0x400000, false, [⟨0, 8, .hw, 0⟩, ⟨8, 4, .hw, 0⟩]⟩ /- ARR_COLS -/,
  ⟨0x810004, 1, 0x0, 2, 0x400000, false, [⟨0, 1, .hw, 0⟩, ⟨1, 1, .hw, 0⟩, ⟨2, 1, .hw, 0⟩, ⟨3, 1, .hw, 0⟩, ⟨4, 1, .hw, 0⟩, ⟨5, 1, .hw, 0⟩, ⟨6, 1, .hw, 0⟩, ⟨8, 8, .hw, 0xFF⟩, ⟨16, 4, .hw, 0⟩, ⟨20, 1, .hw, 0⟩]⟩ /- ARR_STATUS -/,
  ⟨0x810010, 2, 0x400000, 6, 0x4, false, [⟨0, 32, .hw, 0⟩]⟩ /- ARR_BYPASS_MAP -/,
  ⟨0x810030, 2, 0x400000, 6, 0x4, false, [⟨0, 32, .hw, 0⟩]⟩ /- ARR_TEST_MAP -/,
  ⟨0x810060, 1, 0x0, 2, 0x400000, true, [⟨0, 64, .rc, 0⟩]⟩ /- ARR_ROWS -/,
  ⟨0x810068, 1, 0x0, 2, 0x400000, true, [⟨0, 64, .rc, 0⟩]⟩ /- ARR_FREEZE -/,
  ⟨0x810070, 1, 0x0, 2, 0x400000, true, [⟨0, 64, .rc, 0⟩]⟩ /- ARR_STALL -/,
  ⟨0x810078, 1, 0x0, 2, 0x400000, true, [⟨0, 64, .rc, 0⟩]⟩ /- ARR_FLIP_WAIT -/,
  ⟨0x810080, 1, 0x0, 2, 0x400000, false, [⟨0, 32, .rc, 0⟩]⟩ /- ARR_LOADS -/,
  ⟨0x810084, 1, 0x0, 2, 0x400000, false, [⟨0, 8, .rc, 0⟩]⟩ /- ARR_FAULTS -/,
  ⟨0x810100, 2, 0x400000, 16, 0x8, true, [⟨0, 8, .hw, 0⟩, ⟨8, 8, .hw, 0⟩, ⟨16, 8, .hw, 0⟩, ⟨24, 8, .hw, 0⟩, ⟨32, 1, .hw, 0⟩, ⟨33, 1, .hw, 0⟩]⟩ /- ARR_BLOCK -/,
  ⟨0x820000, 1, 0x0, 2, 0x400000, false, [⟨0, 1, .hw, 0⟩, ⟨1, 1, .hw, 0⟩, ⟨2, 1, .hw, 0⟩, ⟨3, 2, .hw, 0⟩, ⟨8, 8, .hw, 0⟩, ⟨16, 4, .hw, 0⟩]⟩ /- VE_STATUS -/,
  ⟨0x820004, 1, 0x0, 2, 0x400000, false, [⟨0, 10, .hw, 0⟩, ⟨16, 10, .hw, 0⟩]⟩ /- VE_BODY -/,
  ⟨0x820008, 1, 0x0, 2, 0x400000, false, [⟨0, 16, .hw, 0x8000⟩]⟩ /- VE_PAGES -/,
  ⟨0x820010, 1, 0x0, 2, 0x400000, true, [⟨0, 64, .hw, 0⟩]⟩ /- VE_PAGE_OWNER -/,
  ⟨0x820018, 1, 0x0, 2, 0x400000, false, [⟨0, 4, .hw, 0⟩, ⟨4, 1, .hw, 0⟩, ⟨5, 8, .hw, 0⟩]⟩ /- VE_TILEQ -/,
  ⟨0x82001C, 1, 0x0, 2, 0x400000, false, [⟨0, 32, .hw, 0⟩]⟩ /- VE_TILE_HEAD -/,
  ⟨0x820020, 1, 0x0, 2, 0x400000, true, [⟨0, 10, .hw, 0⟩, ⟨16, 4, .hw, 0⟩, ⟨24, 4, .hw, 0⟩]⟩ /- VE_ILLEGAL -/,
  ⟨0x820028, 1, 0x0, 2, 0x400000, true, [⟨0, 64, .rc, 0⟩]⟩ /- VE_ITERS -/,
  ⟨0x820030, 1, 0x0, 2, 0x400000, true, [⟨0, 64, .rc, 0⟩]⟩ /- VE_ISSUED -/,
  ⟨0x820038, 1, 0x0, 2, 0x400000, true, [⟨0, 64, .rc, 0⟩]⟩ /- VE_WAIT_IN -/,
  ⟨0x820040, 1, 0x0, 2, 0x400000, true, [⟨0, 64, .rc, 0⟩]⟩ /- VE_WAIT_OUT -/,
  ⟨0x820048, 1, 0x0, 2, 0x400000, false, [⟨0, 32, .rc, 0⟩]⟩ /- VE_SAT -/,
  ⟨0x82004C, 1, 0x0, 2, 0x400000, false, [⟨0, 8, .rc, 0⟩, ⟨8, 8, .rc, 0⟩, ⟨16, 8, .rc, 0⟩]⟩ /- VE_ERR -/,
  ⟨0x830000, 2, 0x400000, 16, 0x4, false, [⟨0, 1, .hw, 0⟩, ⟨1, 2, .hw, 0⟩, ⟨3, 1, .hw, 0⟩, ⟨4, 4, .hw, 0⟩, ⟨16, 16, .hw, 0⟩]⟩ /- SFU_SLOT -/,
  ⟨0x830040, 1, 0x0, 2, 0x400000, false, [⟨0, 16, .hw, 0⟩]⟩ /- SFU_PENDING -/,
  ⟨0x830044, 1, 0x0, 2, 0x400000, false, [⟨0, 11, .hw, 0⟩, ⟨16, 4, .hw, 0⟩, ⟨20, 4, .hw, 0⟩]⟩ /- SFU_LOAD_ERR -/,
  ⟨0x840000, 1, 0x0, 2, 0x400000, false, [⟨0, 1, .hw, 0⟩, ⟨1, 1, .hw, 0⟩, ⟨8, 4, .hw, 0⟩, ⟨12, 4, .hw, 0⟩]⟩ /- RU_STATUS -/,
  ⟨0x840008, 1, 0x0, 2, 0x400000, true, [⟨0, 64, .rc, 0⟩]⟩ /- RU_ROWS -/,
  ⟨0x840010, 1, 0x0, 2, 0x400000, true, [⟨0, 64, .rc, 0⟩]⟩ /- RU_NONFINITE -/,
  ⟨0x840018, 1, 0x0, 2, 0x400000, false, [⟨0, 8, .rc, 0⟩]⟩ /- RU_ERR -/,
  ⟨0x850000, 1, 0x0, 2, 0x400000, false, [⟨0, 1, .hw, 0⟩, ⟨1, 2, .hw, 0⟩, ⟨3, 1, .hw, 0⟩, ⟨4, 1, .hw, 0⟩, ⟨8, 4, .hw, 0⟩]⟩ /- SU_STATUS -/,
  ⟨0x850008, 1, 0x0, 2, 0x400000, true, [⟨0, 64, .rc, 0⟩]⟩ /- SU_STEPS -/,
  ⟨0x850010, 1, 0x0, 2, 0x400000, false, [⟨0, 8, .rc, 0⟩]⟩ /- SU_ERR -/,
  ⟨0x850100, 1, 0x0, 16, 0x8, true, [⟨0, 1, .hw, 0⟩, ⟨1, 1, .hw, 0⟩, ⟨4, 4, .hw, 0⟩, ⟨8, 13, .hw, 0⟩, ⟨32, 32, .hw, 0⟩]⟩ /- CARRY_SLOT -/,
  ⟨0x850180, 1, 0x0, 1, 0x0, true, [⟨0, 64, .rc, 0⟩]⟩ /- CARRY_READS -/,
  ⟨0x850188, 1, 0x0, 1, 0x0, true, [⟨0, 64, .rc, 0⟩]⟩ /- CARRY_WAITS -/,
  ⟨0x850190, 1, 0x0, 1, 0x0, false, [⟨0, 16, .rc, 0⟩, ⟨16, 16, .rc, 0⟩]⟩ /- CARRY_FAILS -/,
  ⟨0x850198, 1, 0x0, 1, 0x0, true, [⟨0, 32, .hw, 0⟩, ⟨32, 3, .hw, 0⟩, ⟨48, 12, .hw, 0⟩]⟩ /- CARRY_LAST_FAIL -/,
  ⟨0x860000, 1, 0x0, 2, 0x400000, false, [⟨0, 1, .hw, 0⟩, ⟨1, 2, .hw, 0⟩, ⟨8, 4, .hw, 0⟩]⟩ /- SLV_STATUS -/,
  ⟨0x860004, 1, 0x0, 2, 0x400000, false, [⟨0, 32, .hw, 0⟩]⟩ /- SLV_STEP -/,
  ⟨0x860008, 1, 0x0, 2, 0x400000, true, [⟨0, 64, .rc, 0⟩]⟩ /- SLV_STEPS -/,
  ⟨0x860010, 1, 0x0, 2, 0x400000, true, [⟨0, 64, .rc, 0⟩]⟩ /- SLV_DIVSQRT -/,
  ⟨0x860018, 1, 0x0, 2, 0x400000, false, [⟨0, 32, .rc, 0⟩]⟩ /- SLV_QSAT -/,
  ⟨0x86001C, 1, 0x0, 2, 0x400000, false, [⟨0, 16, .rc, 0⟩, ⟨16, 16, .rc, 0⟩]⟩ /- SLV_PROBLEMS -/,
  ⟨0x860020, 1, 0x0, 2, 0x400000, false, [⟨0, 8, .rc, 0⟩]⟩ /- SLV_ERR -/,
  ⟨0x870000, 1, 0x0, 2, 0x400000, true, [⟨0, 64, .rc, 0⟩]⟩ /- SPM_CONFLICT -/,
  ⟨0x870008, 1, 0x0, 2, 0x400000, false, [⟨0, 32, .rc, 0⟩]⟩ /- SPM_CE -/,
  ⟨0x87000C, 1, 0x0, 2, 0x400000, false, [⟨0, 32, .rc, 0⟩]⟩ /- SPM_UE -/,
  ⟨0x870010, 1, 0x0, 2, 0x400000, true, [⟨0, 48, .hw, 0⟩]⟩ /- SPM_LAST_UE -/]

/-- The registers of the MEM block (R9). -/
def regTableMem : List RegDesc := [
  ⟨0x1000000, 1, 0x0, 12, 0x10000, false, [⟨0, 1, .hw, 0⟩, ⟨1, 1, .hw, 0⟩, ⟨2, 1, .hw, 0⟩, ⟨3, 1, .hw, 0⟩, ⟨8, 8, .hw, 0⟩]⟩ /- MEM_STATUS -/,
  ⟨0x1000008, 1, 0x0, 12, 0x10000, true, [⟨0, 64, .rc, 0⟩]⟩ /- MEM_CE_COUNT -/,
  ⟨0x1000010, 1, 0x0, 12, 0x10000, false, [⟨0, 32, .rc, 0⟩]⟩ /- MEM_UE_COUNT -/,
  ⟨0x1000014, 1, 0x0, 12, 0x10000, false, [⟨0, 8, .rw, 0xC⟩]⟩ /- MEM_SCRUB_CFG -/,
  ⟨0x1000018, 1, 0x0, 12, 0x10000, false, [⟨0, 16, .hw, 0⟩, ⟨16, 7, .hw, 0⟩]⟩ /- MEM_SCRUB_STATUS -/,
  ⟨0x1000020, 1, 0x0, 12, 0x10000, false, [⟨0, 9, .hw, 0⟩, ⟨9, 1, .w1c, 0⟩]⟩ /- MEM_POISON_STATUS -/,
  ⟨0x1000028, 1, 0x0, 12, 0x10000, true, [⟨0, 48, .hw, 0⟩, ⟨48, 3, .hw, 0⟩]⟩ /- MEM_LAST_UE -/,
  ⟨0x1000030, 1, 0x0, 12, 0x10000, true, [⟨0, 64, .rc, 0⟩]⟩ /- MEM_RD_BYTES -/,
  ⟨0x1000038, 1, 0x0, 12, 0x10000, true, [⟨0, 64, .rc, 0⟩]⟩ /- MEM_WR_BYTES -/,
  ⟨0x1000100, 12, 0x10000, 256, 0x8, true, [⟨0, 48, .hw, 0⟩]⟩ /- MEM_POISON -/,
  ⟨0x10C0000, 1, 0x0, 1, 0x0, false, [⟨0, 2, .ro, 0⟩]⟩ /- MEM_GLOBAL_CFG -/,
  ⟨0x10C0008, 1, 0x0, 1, 0x0, true, [⟨30, 18, .hw, 0⟩]⟩ /- MEM_RESV_BASE -/,
  ⟨0x10C0010, 1, 0x0, 1, 0x0, false, [⟨0, 5, .rw, 1⟩, ⟨8, 3, .rw, 1⟩]⟩ /- MEM_CMD_ENGINES -/]

/-- The registers of the PRT block (R9). -/
def regTablePrt : List RegDesc := [
  ⟨0x1400000, 1, 0x0, 24, 0x40, false, [⟨0, 1, .hw, 0⟩, ⟨1, 1, .hw, 0⟩, ⟨2, 2, .ro, 0⟩, ⟨4, 1, .ro, 0⟩, ⟨8, 4, .hw, 0⟩, ⟨12, 12, .hw, 0⟩]⟩ /- PRT_STATUS -/,
  ⟨0x1400008, 1, 0x0, 24, 0x40, true, [⟨0, 64, .rc, 0⟩]⟩ /- PRT_BYTES -/,
  ⟨0x1400010, 1, 0x0, 24, 0x40, true, [⟨0, 64, .rc, 0⟩]⟩ /- PRT_DESCS -/,
  ⟨0x1400018, 1, 0x0, 24, 0x40, false, [⟨0, 8, .rc, 0⟩, ⟨8, 8, .rc, 0⟩]⟩ /- PRT_ERR -/,
  ⟨0x1400020, 1, 0x0, 24, 0x40, true, [⟨0, 48, .hw, 0⟩, ⟨48, 16, .hw, 0⟩]⟩ /- PRT_LAST_ERR -/]

/-- The registers of the INN block (R9). -/
def regTableInn : List RegDesc := [
  ⟨0x1800000, 1, 0x0, 1, 0x0, false, [⟨0, 4, .hw, 0⟩, ⟨4, 1, .hw, 0⟩]⟩ /- INN_STATUS -/,
  ⟨0x1800008, 1, 0x0, 1, 0x0, true, [⟨30, 18, .hw, 0⟩, ⟨56, 8, .hw, 0⟩]⟩ /- INN_BACKING -/,
  ⟨0x1800010, 1, 0x0, 1, 0x0, false, [⟨0, 25, .hw, 0⟩]⟩ /- INN_ROOMS -/,
  ⟨0x1800014, 1, 0x0, 1, 0x0, false, [⟨0, 25, .hw, 0⟩]⟩ /- INN_CAPACITY -/,
  ⟨0x1800018, 1, 0x0, 1, 0x0, false, [⟨0, 17, .hw, 0⟩]⟩ /- INN_HALL -/,
  ⟨0x180001C, 1, 0x0, 1, 0x0, false, [⟨0, 17, .hw, 0⟩]⟩ /- INN_HALL_PINNED -/,
  ⟨0x1800020, 1, 0x0, 1, 0x0, true, [⟨0, 64, .rc, 0⟩]⟩ /- INN_CHECKINS -/,
  ⟨0x1800028, 1, 0x0, 1, 0x0, true, [⟨0, 64, .rc, 0⟩]⟩ /- INN_CHECKOUTS -/,
  ⟨0x1800030, 1, 0x0, 1, 0x0, true, [⟨0, 64, .rc, 0⟩]⟩ /- INN_HALL_HITS -/,
  ⟨0x1800038, 1, 0x0, 1, 0x0, true, [⟨0, 64, .rc, 0⟩]⟩ /- INN_HALL_MISSES -/,
  ⟨0x1800040, 1, 0x0, 1, 0x0, true, [⟨0, 64, .rc, 0⟩]⟩ /- INN_EVICTIONS -/,
  ⟨0x1800048, 1, 0x0, 1, 0x0, false, [⟨0, 8, .rc, 0⟩, ⟨8, 8, .rc, 0⟩, ⟨16, 8, .rc, 0⟩, ⟨24, 8, .rc, 0⟩]⟩ /- INN_ERR -/,
  ⟨0x180004C, 1, 0x0, 1, 0x0, false, [⟨0, 24, .hw, 0⟩, ⟨24, 4, .hw, 0⟩]⟩ /- INN_LAST_POISON -/,
  ⟨0x1800050, 1, 0x0, 1, 0x0, false, [⟨0, 32, .rc, 0⟩]⟩ /- INN_CLAMPS -/,
  ⟨0x1800054, 1, 0x0, 1, 0x0, false, [⟨0, 32, .rc, 0⟩]⟩ /- INN_CE -/,
  ⟨0x1800100, 1, 0x0, 16, 0x4, false, [⟨0, 9, .rw, 0⟩, ⟨16, 9, .rw, 0⟩]⟩ /- INN_PIN_QUOTA -/,
  ⟨0x1800200, 1, 0x0, 16, 0x10, true, [⟨0, 1, .hw, 0⟩, ⟨1, 5, .hw, 0⟩, ⟨8, 4, .hw, 0⟩, ⟨12, 1, .hw, 0⟩, ⟨13, 1, .hw, 0⟩, ⟨14, 1, .hw, 0⟩, ⟨16, 16, .hw, 0⟩, ⟨32, 25, .hw, 0⟩]⟩ /- INN_CLASS -/,
  ⟨0x1800208, 1, 0x0, 16, 0x10, true, [⟨0, 25, .hw, 0⟩, ⟨32, 17, .hw, 0⟩]⟩ /- INN_CLASS_USE -/,
  ⟨0x1801000, 1, 0x0, 16, 0x40, false, [⟨0, 2, .rw, 0⟩, ⟨2, 2, .rw, 0⟩, ⟨4, 1, .rw, 0⟩, ⟨5, 1, .w1c, 0⟩, ⟨8, 8, .rw, 8⟩, ⟨16, 16, .rw, 0x7D0⟩]⟩ /- SRV_CFG -/,
  ⟨0x1801004, 1, 0x0, 16, 0x40, false, [⟨0, 10, .rw, 0x3E8⟩, ⟨16, 10, .rw, 0x40⟩]⟩ /- SRV_BATCH -/,
  ⟨0x1801008, 1, 0x0, 16, 0x40, false, [⟨0, 11, .rw, 0⟩, ⟨16, 11, .rw, 0⟩]⟩ /- SRV_RESERVE -/,
  ⟨0x180100C, 1, 0x0, 16, 0x40, false, [⟨0, 20, .rw, 0⟩]⟩ /- SRV_RING_HEAD -/,
  ⟨0x1801010, 1, 0x0, 16, 0x40, true, [⟨0, 48, .rw, 0⟩]⟩ /- SRV_LIST -/,
  ⟨0x1801018, 1, 0x0, 16, 0x40, false, [⟨0, 17, .rw, 0⟩]⟩ /- SRV_LIST_INFO -/,
  ⟨0x180101C, 1, 0x0, 16, 0x40, false, [⟨0, 10, .rw, 0⟩, ⟨16, 11, .rw, 0⟩]⟩ /- SRV_SPM -/,
  ⟨0x1801020, 1, 0x0, 16, 0x40, false, [⟨0, 20, .hw, 0⟩, ⟨20, 1, .hw, 1⟩]⟩ /- SRV_RING_TAIL -/,
  ⟨0x1801028, 1, 0x0, 16, 0x40, true, [⟨0, 16, .rc, 0⟩, ⟨16, 16, .rc, 0⟩, ⟨32, 16, .rc, 0⟩, ⟨48, 16, .rc, 0⟩]⟩ /- SRV_DROP_A -/,
  ⟨0x1801030, 1, 0x0, 16, 0x40, true, [⟨0, 16, .rc, 0⟩, ⟨16, 16, .rc, 0⟩, ⟨32, 16, .rc, 0⟩]⟩ /- SRV_DROP_B -/,
  ⟨0x1801038, 1, 0x0, 16, 0x40, true, [⟨0, 16, .rc, 0⟩, ⟨16, 16, .rc, 0⟩, ⟨32, 16, .rc, 0⟩]⟩ /- SRV_GAP -/]

/-- The registers of the SO block (R9). -/
def regTableSo : List RegDesc := [
  ⟨0x1C00000, 1, 0x0, 4096, 0x10, true, [⟨0, 64, .rw, 0⟩]⟩ /- SO_VALUE -/,
  ⟨0x1C00008, 1, 0x0, 4096, 0x10, false, [⟨0, 2, .rw, 0⟩, ⟨2, 1, .w1c, 0⟩, ⟨3, 1, .hw, 0⟩, ⟨4, 12, .rw, 0⟩, ⟨16, 12, .hw, 0⟩]⟩ /- SO_CFG -/,
  ⟨0x1C0000C, 1, 0x0, 4096, 0x10, false, [⟨0, 32, .wo, 0⟩]⟩ /- SO_ADD -/,
  ⟨0x1C10000, 1, 0x0, 1, 0x0, false, [⟨0, 11, .hw, 0⟩, ⟨16, 13, .hw, 0⟩]⟩ /- SO_STATUS -/,
  ⟨0x1C10004, 1, 0x0, 1, 0x0, false, [⟨0, 8, .rc, 0⟩, ⟨8, 8, .rc, 0⟩, ⟨16, 8, .rc, 0⟩, ⟨24, 8, .rc, 0⟩]⟩ /- SO_ERR -/,
  ⟨0x1C10008, 1, 0x0, 1, 0x0, true, [⟨0, 64, .rc, 0⟩]⟩ /- SO_OPS -/,
  ⟨0x1C10010, 1, 0x0, 1, 0x0, false, [⟨0, 13, .hw, 0⟩]⟩ /- SO_PUSH_STATUS -/,
  ⟨0x1C10014, 1, 0x0, 1, 0x0, false, [⟨0, 32, .rc, 0⟩]⟩ /- SO_PUSH_DROPS -/]

/-- The registers of the FAB block (R9). -/
def regTableFab : List RegDesc := [
  ⟨0x2000000, 1, 0x0, 1, 0x0, false, [⟨0, 12, .hw, 0⟩]⟩ /- FAB_ID -/,
  ⟨0x2000004, 1, 0x0, 1, 0x0, false, [⟨0, 4, .hw, 0⟩, ⟨4, 17, .hw, 0⟩]⟩ /- FAB_STATUS -/,
  ⟨0x2000008, 1, 0x0, 1, 0x0, false, [⟨0, 16, .rw, 0xA⟩]⟩ /- FAB_TIMEOUT -/,
  ⟨0x2000010, 1, 0x0, 1, 0x0, true, [⟨0, 64, .rc, 0⟩]⟩ /- FAB_PKT_DROPS -/,
  ⟨0x2000018, 1, 0x0, 1, 0x0, false, [⟨0, 32, .rc, 0⟩]⟩ /- FAB_UNROUTABLE -/,
  ⟨0x200001C, 1, 0x0, 1, 0x0, false, [⟨0, 32, .rc, 0⟩]⟩ /- FAB_LATE_RSP -/,
  ⟨0x2000020, 1, 0x0, 1, 0x0, false, [⟨0, 32, .rc, 0⟩]⟩ /- FAB_COLL_DROPS -/,
  ⟨0x2010000, 1, 0x0, 32, 0x100, false, [⟨0, 3, .hw, 0⟩, ⟨3, 2, .hw, 0⟩, ⟨5, 3, .hw, 0⟩, ⟨8, 1, .hw, 0⟩]⟩ /- FAB_PORT_STATUS -/,
  ⟨0x2010004, 1, 0x0, 32, 0x100, false, [⟨0, 12, .hw, 0⟩, ⟨16, 5, .hw, 0⟩]⟩ /- FAB_PORT_PEER -/,
  ⟨0x2010008, 1, 0x0, 32, 0x100, true, [⟨0, 32, .rc, 0⟩, ⟨32, 32, .rc, 0⟩]⟩ /- FAB_PORT_FEC -/,
  ⟨0x2010010, 1, 0x0, 32, 0x100, false, [⟨0, 16, .rc, 0⟩, ⟨16, 16, .rc, 0⟩]⟩ /- FAB_PORT_LINK -/,
  ⟨0x2010014, 1, 0x0, 32, 0x100, false, [⟨0, 16, .rc, 0⟩, ⟨16, 16, .rc, 0⟩]⟩ /- FAB_PORT_TRAIN -/,
  ⟨0x2010018, 1, 0x0, 32, 0x100, true, [⟨0, 64, .rc, 0⟩]⟩ /- FAB_PORT_TX -/,
  ⟨0x2010020, 1, 0x0, 32, 0x100, true, [⟨0, 64, .rc, 0⟩]⟩ /- FAB_PORT_RX -/]

/-- The registers of the LEDG block (R9). -/
def regTableLedg : List RegDesc := [
  ⟨0x2800000, 1, 0x0, 1, 0x0, false, [⟨0, 3, .hw, 0⟩, ⟨3, 1, .hw, 0⟩, ⟨4, 1, .hw, 0⟩, ⟨5, 1, .hw, 0⟩, ⟨8, 4, .hw, 0⟩, ⟨16, 8, .hw, 0⟩]⟩ /- LEDG_STATUS -/,
  ⟨0x2800008, 1, 0x0, 1, 0x0, true, [⟨0, 64, .hw, 0⟩]⟩ /- LEDG_EPOCH -/,
  ⟨0x2800010, 1, 0x0, 1, 0x0, false, [⟨0, 32, .hw, 0⟩]⟩ /- LEDG_STEP -/,
  ⟨0x2800014, 1, 0x0, 1, 0x0, false, [⟨0, 8, .rw, 0⟩, ⟨8, 8, .rw, 0x18⟩, ⟨16, 8, .rw, 0xD⟩]⟩ /- LEDG_SCALE_CFG -/,
  ⟨0x2800018, 1, 0x0, 1, 0x0, false, [⟨0, 16, .rw, 0x3E8⟩, ⟨16, 16, .hw, 0⟩]⟩ /- LEDG_CLEAN_CFG -/,
  ⟨0x280001C, 1, 0x0, 1, 0x0, false, [⟨0, 16, .rw, 0x32⟩, ⟨16, 1, .rw, 1⟩]⟩ /- LEDG_CFG -/,
  ⟨0x2800020, 1, 0x0, 1, 0x0, false, [⟨0, 32, .hw, 0⟩]⟩ /- NONFINITE_SKIPS -/,
  ⟨0x2800024, 1, 0x0, 1, 0x0, false, [⟨0, 32, .hw, 0⟩]⟩ /- LEDG_ABORTS -/,
  ⟨0x2800028, 1, 0x0, 1, 0x0, false, [⟨0, 2, .hw, 0⟩, ⟨2, 2, .hw, 0⟩, ⟨4, 12, .hw, 0⟩, ⟨16, 16, .hw, 0xFFFF⟩]⟩ /- LEDG_LAST_VOTE -/,
  ⟨0x2800030, 1, 0x0, 1, 0x0, false, [⟨0, 12, .hw, 0⟩, ⟨12, 1, .hw, 0⟩, ⟨13, 1, .hw, 0⟩, ⟨14, 2, .hw, 0⟩, ⟨16, 2, .hw, 0⟩, ⟨18, 1, .hw, 0⟩]⟩ /- LEDG_WAY_STATUS -/,
  ⟨0x2800034, 1, 0x0, 1, 0x0, false, [⟨0, 8, .rw, 0x16⟩]⟩ /- LEDG_WAY_CFG -/,
  ⟨0x2800038, 1, 0x0, 1, 0x0, false, [⟨0, 32, .hw, 0⟩]⟩ /- LEDG_WAY_STEP -/,
  ⟨0x280003C, 1, 0x0, 1, 0x0, false, [⟨0, 32, .rc, 0⟩]⟩ /- LEDG_WAY_FAILS -/,
  ⟨0x2B00000, 1, 0x0, 8, 0x8, true, [⟨0, 1, .hw, 0⟩, ⟨1, 1, .hw, 0⟩, ⟨4, 4, .hw, 0⟩, ⟨8, 13, .hw, 0⟩, ⟨32, 12, .hw, 0⟩, ⟨44, 9, .hw, 0⟩, ⟨53, 9, .hw, 0⟩]⟩ /- TRN_TT -/,
  ⟨0x2B00100, 1, 0x0, 16, 0x20, false, [⟨0, 3, .hw, 0⟩, ⟨8, 13, .hw, 0⟩]⟩ /- TRN_CTX_STATUS -/,
  ⟨0x2B00108, 1, 0x0, 16, 0x20, true, [⟨0, 32, .hw, 0⟩, ⟨32, 1, .hw, 0⟩, ⟨33, 1, .hw, 0⟩]⟩ /- TRN_NORM -/,
  ⟨0x2B00110, 1, 0x0, 16, 0x20, true, [⟨0, 64, .hw, 0⟩]⟩ /- TRN_SEED -/,
  ⟨0x2B00118, 1, 0x0, 16, 0x20, false, [⟨0, 24, .hw, 0⟩, ⟨24, 8, .hw, 0⟩]⟩ /- TRN_LAST_ROOM -/,
  ⟨0x2B00300, 1, 0x0, 1, 0x0, true, [⟨0, 64, .rc, 0⟩]⟩ /- TRN_ENTRIES_RUN -/,
  ⟨0x2B00308, 1, 0x0, 1, 0x0, true, [⟨0, 64, .rc, 0⟩]⟩ /- TRN_BUCKETS -/,
  ⟨0x2B00310, 1, 0x0, 1, 0x0, true, [⟨0, 64, .rc, 0⟩]⟩ /- TRN_OPT_ELEMS -/,
  ⟨0x2B00318, 1, 0x0, 1, 0x0, false, [⟨0, 8, .rc, 0⟩, ⟨8, 8, .rc, 0⟩]⟩ /- TRN_ERR -/]

/-- The registers of the MGT block (R9). -/
def regTableMgt : List RegDesc := [
  ⟨0x2C00000, 1, 0x0, 1, 0x0, false, [⟨0, 8, .hw, 0⟩, ⟨8, 7, .hw, 0⟩, ⟨15, 1, .hw, 0⟩, ⟨16, 1, .hw, 0⟩, ⟨17, 1, .hw, 0⟩, ⟨18, 1, .hw, 0⟩]⟩ /- MGT_STATUS -/,
  ⟨0x2C00004, 1, 0x0, 1, 0x0, false, [⟨0, 1, .w1c, 0⟩, ⟨1, 1, .w1c, 0⟩, ⟨2, 1, .w1c, 0⟩, ⟨3, 1, .w1c, 0⟩, ⟨4, 1, .w1c, 0⟩, ⟨5, 1, .w1c, 0⟩, ⟨6, 1, .w1c, 0⟩]⟩ /- MGT_ALERT_STATUS -/,
  ⟨0x2C00008, 1, 0x0, 1, 0x0, false, [⟨0, 7, .rw, 0⟩]⟩ /- MGT_ALERT_MASK -/,
  ⟨0x2C00010, 1, 0x0, 1, 0x0, false, [⟨0, 8, .rc, 0⟩, ⟨8, 8, .rc, 0⟩, ⟨16, 8, .rc, 0⟩, ⟨24, 8, .rc, 0⟩]⟩ /- MGT_ERR -/,
  ⟨0x2C00014, 1, 0x0, 1, 0x0, false, [⟨0, 32, .rc, 0⟩]⟩ /- MGT_DISAGREE -/,
  ⟨0x2C00018, 1, 0x0, 1, 0x0, false, [⟨0, 32, .rc, 0⟩]⟩ /- MGT_EVT_DROPS -/,
  ⟨0x2C01000, 1, 0x0, 96, 0x8, true, [⟨0, 1, .hw, 0⟩, ⟨1, 1, .hw, 0⟩, ⟨2, 2, .hw, 0⟩, ⟨4, 2, .hw, 0⟩, ⟨6, 1, .hw, 0⟩, ⟨32, 32, .hw, 0⟩]⟩ /- MGT_UNIT -/]

/-- The registers of the ERR block (R9). -/
def regTableErr : List RegDesc := [
  ⟨0x3000000, 1, 0x0, 1, 0x0, true, [⟨12, 36, .hw, 0⟩]⟩ /- ERR_EVT_BASE -/,
  ⟨0x3000008, 1, 0x0, 1, 0x0, false, [⟨0, 5, .hw, 0⟩, ⟨8, 1, .hw, 0⟩]⟩ /- ERR_EVT_CFG -/,
  ⟨0x300000C, 1, 0x0, 1, 0x0, false, [⟨0, 16, .rw, 0⟩]⟩ /- ERR_EVT_HEAD -/,
  ⟨0x3000010, 1, 0x0, 1, 0x0, false, [⟨0, 16, .hw, 0⟩, ⟨16, 1, .hw, 1⟩]⟩ /- ERR_EVT_TAIL -/,
  ⟨0x3000014, 1, 0x0, 1, 0x0, false, [⟨0, 9, .hw, 0⟩]⟩ /- ERR_EVT_PENDING -/,
  ⟨0x3000018, 1, 0x0, 1, 0x0, false, [⟨0, 32, .rc, 0⟩]⟩ /- ERR_EVT_DROPS -/,
  ⟨0x300001C, 1, 0x0, 1, 0x0, false, [⟨0, 32, .hw, 0⟩]⟩ /- ERR_EVT_SEQ -/,
  ⟨0x3000020, 1, 0x0, 5, 0x8, true, [⟨0, 64, .rc, 0⟩]⟩ /- ERR_CLASS_COUNT -/,
  ⟨0x3000048, 1, 0x0, 1, 0x0, true, [⟨0, 16, .hw, 0xFFFF⟩, ⟨16, 8, .hw, 0⟩, ⟨32, 32, .hw, 0⟩]⟩ /- ERR_LAST_FATAL -/,
  ⟨0x3000050, 1, 0x0, 1, 0x0, false, [⟨0, 16, .rw, 0x3E8⟩]⟩ /- ERR_CE_LIMIT -/]

/-- The registers of the DBG block (R9). -/
def regTableDbg : List RegDesc := [
  ⟨0x3400000, 1, 0x0, 1, 0x0, false, [⟨0, 2, .hw, 0⟩, ⟨2, 1, .hw, 0⟩, ⟨3, 1, .hw, 0⟩, ⟨4, 2, .hw, 0⟩, ⟨6, 3, .hw, 0⟩]⟩ /- DBG_STATUS -/,
  ⟨0x3400004, 1, 0x0, 1, 0x0, false, [⟨0, 8, .rc, 0⟩, ⟨8, 1, .hw, 0⟩]⟩ /- DBG_UNLOCK -/,
  ⟨0x3400008, 1, 0x0, 1, 0x0, false, [⟨0, 17, .hw, 0⟩, ⟨17, 1, .hw, 0⟩]⟩ /- DBG_TRACE_WR -/,
  ⟨0x340000C, 1, 0x0, 1, 0x0, false, [⟨0, 32, .rc, 0⟩]⟩ /- DBG_TRACE_DROPS -/,
  ⟨0x3400010, 1, 0x0, 1, 0x0, false, [⟨0, 17, .hw, 0⟩]⟩ /- DBG_TRACE_LAST -/,
  ⟨0x3400014, 1, 0x0, 1, 0x0, false, [⟨0, 32, .rc, 0⟩]⟩ /- DBG_HEHUS -/]

/-- Every register of the device (R9). -/
def regTable : List RegDesc :=
  regTableCtl ++ regTableClk ++ regTablePwr ++ regTableRst ++ regTableHost ++ regTableCore ++ regTableMem ++ regTablePrt ++ regTableInn ++ regTableSo ++ regTableFab ++ regTableLedg ++ regTableMgt ++ regTableErr ++ regTableDbg

/-- The register whose dwords a BAR0 offset falls in: its descriptor and the offset of its first byte. -/
def RegDesc.hit (r : RegDesc) (off : Nat) : Option Nat :=
  if off < r.base then none
  else
    let x := off - r.base
    let i := if r.s1 = 0 then 0 else min (x / r.s1) (r.n1 - 1)
    let y := x - i * r.s1
    let j := if r.s2 = 0 then 0 else min (y / r.s2) (r.n2 - 1)
    let z := y - j * r.s2
    if z < (if r.wide then 8 else 4) then some (off - z) else none

/-- Look a BAR0 byte offset up in a table. -/
def findReg (off : Nat) : List RegDesc → Option (RegDesc × Nat)
  | [] => none
  | r :: rs =>
    match r.hit off with
    | some b => some (r, b)
    | none => findReg off rs

/-- The block of R9 that an offset lies in, as its part of the table. -/
def regTableOf (off : Nat) : List RegDesc :=
  if off < 0x100000 then regTableCtl
  else if off < 0x200000 then regTableClk
  else if off < 0x300000 then regTablePwr
  else if off < 0x400000 then regTableRst
  else if off < 0x800000 then regTableHost
  else if off < 0x1000000 then regTableCore
  else if off < 0x1400000 then regTableMem
  else if off < 0x1800000 then regTablePrt
  else if off < 0x1C00000 then regTableInn
  else if off < 0x2000000 then regTableSo
  else if off < 0x2800000 then regTableFab
  else if off < 0x2C00000 then regTableLedg
  else if off < 0x3000000 then regTableMgt
  else if off < 0x3400000 then regTableErr
  else regTableDbg

/-- The register at a BAR0 byte offset, if the spec defines one there. -/
def regAt (off : Nat) : Option (RegDesc × Nat) := findReg off (regTableOf off)

/-- The value that a list of fields with their reset values makes. -/
def fieldsReset : List FieldDesc → Nat
  | [] => 0
  | f :: fs => f.rst * 2 ^ f.lo + fieldsReset fs

/-! The registers of `regTable` whose reset value is not 0, by the blocks of R9. -/

def regResetClk : List RegDesc := [
  ⟨0x100000, 1, 0x0, 1, 0x0, false, [⟨0, 1, .hw, 1⟩, ⟨1, 1, .hw, 1⟩, ⟨2, 1, .hw, 1⟩, ⟨3, 1, .hw, 0⟩, ⟨8, 1, .w1c, 0⟩, ⟨9, 1, .w1c, 0⟩, ⟨10, 1, .w1c, 0⟩]⟩ /- CLK_REF_STATUS -/,
  ⟨0x100010, 1, 0x0, 2, 0x4, false, [⟨0, 12, .hw, 0x1F4⟩, ⟨16, 12, .hw, 0x1F4⟩, ⟨31, 1, .hw, 0⟩]⟩ /- CLK_CCLK -/,
  ⟨0x100020, 1, 0x0, 1, 0x0, false, [⟨0, 5, .rw, 0⟩, ⟨8, 8, .rw, 1⟩, ⟨30, 1, .hw, 0⟩, ⟨31, 1, .w1s, 0⟩]⟩ /- CLK_MEAS_CTL -/,
  ⟨0x201004, 1, 0x0, 1, 0x0, false, [⟨0, 1, .rw, 1⟩]⟩ /- PWR_CTL -/]
def regResetHost : List RegDesc := [
  ⟨0x40001C, 1, 0x0, 256, 0x40, false, [⟨0, 13, .hw, 0⟩, ⟨13, 1, .hw, 1⟩, ⟨16, 13, .hw, 0⟩]⟩ /- QP_CQ_PTRS -/,
  ⟨0x410000, 1, 0x0, 16, 0x40, false, [⟨0, 2, .rw, 1⟩, ⟨2, 1, .rw, 0⟩, ⟨8, 8, .rw, 1⟩, ⟨16, 16, .rw, 0⟩]⟩ /- CTX_CFG -/,
  ⟨0x5E000C, 1, 0x0, 64, 0x10, false, [⟨0, 1, .rw, 1⟩]⟩ /- MSIX_CTL -/]
def regResetCore : List RegDesc := [
  ⟨0x810004, 1, 0x0, 2, 0x400000, false, [⟨0, 1, .hw, 0⟩, ⟨1, 1, .hw, 0⟩, ⟨2, 1, .hw, 0⟩, ⟨3, 1, .hw, 0⟩, ⟨4, 1, .hw, 0⟩, ⟨5, 1, .hw, 0⟩, ⟨6, 1, .hw, 0⟩, ⟨8, 8, .hw, 0xFF⟩, ⟨16, 4, .hw, 0⟩, ⟨20, 1, .hw, 0⟩]⟩ /- ARR_STATUS -/,
  ⟨0x820008, 1, 0x0, 2, 0x400000, false, [⟨0, 16, .hw, 0x8000⟩]⟩ /- VE_PAGES -/]
def regResetMem : List RegDesc := [
  ⟨0x1000014, 1, 0x0, 12, 0x10000, false, [⟨0, 8, .rw, 0xC⟩]⟩ /- MEM_SCRUB_CFG -/,
  ⟨0x10C0010, 1, 0x0, 1, 0x0, false, [⟨0, 5, .rw, 1⟩, ⟨8, 3, .rw, 1⟩]⟩ /- MEM_CMD_ENGINES -/,
  ⟨0x1801000, 1, 0x0, 16, 0x40, false, [⟨0, 2, .rw, 0⟩, ⟨2, 2, .rw, 0⟩, ⟨4, 1, .rw, 0⟩, ⟨5, 1, .w1c, 0⟩, ⟨8, 8, .rw, 8⟩, ⟨16, 16, .rw, 0x7D0⟩]⟩ /- SRV_CFG -/,
  ⟨0x1801004, 1, 0x0, 16, 0x40, false, [⟨0, 10, .rw, 0x3E8⟩, ⟨16, 10, .rw, 0x40⟩]⟩ /- SRV_BATCH -/,
  ⟨0x1801020, 1, 0x0, 16, 0x40, false, [⟨0, 20, .hw, 0⟩, ⟨20, 1, .hw, 1⟩]⟩ /- SRV_RING_TAIL -/]
def regResetFab : List RegDesc := [
  ⟨0x2000008, 1, 0x0, 1, 0x0, false, [⟨0, 16, .rw, 0xA⟩]⟩ /- FAB_TIMEOUT -/,
  ⟨0x2800014, 1, 0x0, 1, 0x0, false, [⟨0, 8, .rw, 0⟩, ⟨8, 8, .rw, 0x18⟩, ⟨16, 8, .rw, 0xD⟩]⟩ /- LEDG_SCALE_CFG -/,
  ⟨0x2800018, 1, 0x0, 1, 0x0, false, [⟨0, 16, .rw, 0x3E8⟩, ⟨16, 16, .hw, 0⟩]⟩ /- LEDG_CLEAN_CFG -/,
  ⟨0x280001C, 1, 0x0, 1, 0x0, false, [⟨0, 16, .rw, 0x32⟩, ⟨16, 1, .rw, 1⟩]⟩ /- LEDG_CFG -/,
  ⟨0x2800028, 1, 0x0, 1, 0x0, false, [⟨0, 2, .hw, 0⟩, ⟨2, 2, .hw, 0⟩, ⟨4, 12, .hw, 0⟩, ⟨16, 16, .hw, 0xFFFF⟩]⟩ /- LEDG_LAST_VOTE -/,
  ⟨0x2800034, 1, 0x0, 1, 0x0, false, [⟨0, 8, .rw, 0x16⟩]⟩ /- LEDG_WAY_CFG -/]
def regResetErr : List RegDesc := [
  ⟨0x3000010, 1, 0x0, 1, 0x0, false, [⟨0, 16, .hw, 0⟩, ⟨16, 1, .hw, 1⟩]⟩ /- ERR_EVT_TAIL -/,
  ⟨0x3000048, 1, 0x0, 1, 0x0, true, [⟨0, 16, .hw, 0xFFFF⟩, ⟨16, 8, .hw, 0⟩, ⟨32, 32, .hw, 0⟩]⟩ /- ERR_LAST_FATAL -/,
  ⟨0x3000050, 1, 0x0, 1, 0x0, false, [⟨0, 16, .rw, 0x3E8⟩]⟩ /- ERR_CE_LIMIT -/]

/-- Those of the blocks that an offset lies in; SO, MGT and DBG have none. -/
def regResetOf (off : Nat) : List RegDesc :=
  if off < 0x400000 then regResetClk
  else if off < 0x800000 then regResetHost
  else if off < 0x1000000 then regResetCore
  else if off < 0x1C00000 then regResetMem
  else if off < 0x2000000 then []
  else if off < 0x2C00000 then regResetFab
  else if off < 0x3000000 then []
  else if off < 0x3400000 then regResetErr
  else []

/-- FIXED, RET_OK and OFF_OK of a power domain, with STATE ON: the classes of 19 R500. -/
def domClassBits (n : Nat) : Nat :=
  if n = 0 ∨ n = 1 ∨ n = 48 ∨ n = 58 ∨ n = 59 ∨ n = 63 then 0x100
  else if 30 ≤ n ∧ n ≤ 41 then 0x200
  else if n = 51 ∨ n = 54 ∨ n = 57 ∨ n = 60 ∨ n = 61 then 0x400
  else 0x600

/-- CLASS and CORE of a porter (13 R342, R356). -/
def porterFixedBits (p : Nat) : Nat :=
  if p < 8 then 0 else if p < 16 then 0x10 else if p < 18 then 0x04 else if p < 20 then 0x14 else if p < 22 then 0x08 else 0x18

/-- The reset value that the register tables give the register at an offset; 0 where they give none. -/
def regReset (off : Nat) : Nat :=
  if 0x200000 ≤ off ∧ off < 0x200100 then domClassBits ((off - 0x200000) / 4)
  else if off = 0x200100 then 0xFFFFFFFFFFFFFFFF
  else if 0x1400000 ≤ off ∧ off < 0x1400600 ∧ off % 0x40 = 0 then porterFixedBits ((off - 0x1400000) / 0x40)
  else
    match findReg off (regResetOf off) with
    | some (r, _) => fieldsReset r.flds
    | none => 0

end Sys2Proof.Machine
end

