-- ==== Sys2Proof/Machine/Dev.lean ====
section
/-!
DEFINITION. The state of the block: every piece of state that spec/ gives the PL-880, as plain data (INVENTORY.md, State).
Registers stand in `Dev.regs`; what no register holds stands in one structure per chapter.
-/
namespace Sys2Proof.Machine

/-- How a read of host memory ends (04 R105). -/
inductive HostRead where
  | ok | timeout | poisoned | urCa
  deriving DecidableEq, Repr

/-- What the code of a stored word says when it is read (13 R333, R334). -/
inductive Ecc where
  | clean | corrected | uncorrectable
  deriving DecidableEq, Repr

/-- A packet of the fabric (15 R399). -/
structure FabPkt where
  typ    : Nat
  adaptive : Bool
  dst    : Nat
  src    : Nat
  dctx   : Nat
  sctx   : Nat
  hops   : Nat
  tag    : Nat
  status : Nat
  addr   : Nat
  epoch  : Nat
  arg    : Nat
  data   : List Byte
  port   : Nat                  -- the port it came in on, 32 for this device's own
  deriving DecidableEq, Repr

/-- A flit of the fabric's link layer (15 R394); `body` holds its 244 body bytes, `crcOk` whether its CRC is good. -/
structure Flit where
  kind   : Nat
  vcFlags : Nat
  seq    : Nat
  ack    : Nat
  credits : Nat
  bodyLen : Nat
  body   : List Byte
  crcOk  : Bool
  deriving DecidableEq, Repr

/-- An event of 22 R580: its 32-byte entry before PHASE is known; `more` is the second entry of a two-entry event. -/
structure Event where
  code : Nat
  cls  : Nat
  ctx  : Option Nat
  seq  : Nat
  time : Nat
  sub  : Nat
  arg0 : Nat
  arg1 : Nat
  arg2 : Nat
  more : Option (Nat × Nat × Nat × Nat)
  deriving DecidableEq, Repr

/-- What the device sends out. `Dev.out` keeps it in order, newest last. -/
inductive OutMsg where
  /-- An MSI-X message (04 R95). -/
  | msix (vector : Nat) (addr data : Nat)
  /-- The answer to a host read of a BAR: the bytes, and whether the completion is poisoned (03 R71, 22 R586). -/
  | barRead (data : List Byte) (poisoned : Bool)
  /-- A completer abort (03 R68). -/
  | completerAbort
  /-- An AER report: 0 Completer Abort, 1 Poisoned TLP Received (03 R68, 04 R105). -/
  | aer (kind : Nat)
  /-- A request to enter ASPM L1 (04 R98). -/
  | requestL1
  /-- A flit leaving a fabric port (15 R394). -/
  | flit (port : Nat) (f : Flit)
  /-- A management or SPDM answer: protocol (0 MCTP control, 1 PLDM, 5 SPDM), command, completion code, fields. -/
  | mgmt (proto cmd code : Nat) (fields : List Byte)
  /-- A management event delivered or polled (21 R552). -/
  | mgmtEvent (e : Event)
  /-- A line printed by Hehus (23 R593). -/
  | hehus (line : String)
  /-- Bytes printed by Hehus (23 R596): a label and the value. -/
  | hehusData (label : String) (value : Nat)
  /-- An AVSBus voltage request in mV (21 R561). -/
  | avsVoltage (mv : Nat)
  /-- What the TAP shifts out (23 R603). -/
  | tdo (value : Nat)
  deriving DecidableEq, Repr

/-- The five reset kinds (20 R526). -/
inductive ResetKind where
  | cold | warm | flr | core | context
  deriving DecidableEq, Repr

/-- The state of the host link (04 R101, R102). -/
inductive Link where
  | down | active | recovery
  deriving DecidableEq, Repr

/-- What a held write is (04 R102). -/
inductive HeldKind where
  | completion | result (cls guest step : Nat) (seq : Nat) | output | event | message (vector : Nat)
  deriving DecidableEq, Repr

/-- A write that waits in the hold buffer (04 R102-R104). `down` is the moment its 100 ms count from, 0 while not yet known. -/
structure Held where
  kind    : HeldKind
  addr    : Nat
  data    : List Byte
  vector  : Option Nat
  arrived : Nat
  deriving DecidableEq, Repr

/-- The board side and the fuses (02 R32-R43, R49-R52; 20 R536; 23 R594). -/
structure Board where
  assembly    : Nat            -- CTL_ASSEMBLY as fused
  serial      : Nat            -- Device Serial Number
  strap       : Nat            -- MGT_ADDR straps
  svnFuse     : Nat            -- fused SVN counter
  keysRevoked : Nat            -- key revocation fuses
  debugDisable : Bool
  alertLow    : Bool           -- ALERT_N driven low
  tripLow     : Bool           -- THERM_TRIP_N driven low
  pwrgd       : Bool           -- SYS_PWRGD high
  railsOut    : List Nat       -- rails absent or out of tolerance
  refMissing  : List Nat       -- 0 core, 1 PCIe, 2 fabric: references out of their window
  coldHeld    : Bool           -- held in COLD reset (rail absent or too cold)
  domHeld     : Bool           -- CCLK, NCLK, XCLK, MCLK held (R41, R51)
  hclkHeld    : Bool
  fclkHeld    : Bool
  tripped     : Bool           -- every clock except SCLK stopped (R43)
  bootFailed  : Bool           -- stopped before READY (20 R541)
  measSel     : Nat            -- clock measurement in progress: selected clock
  measWindow  : Nat            -- and its window
  selfRefresh : List Nat       -- stacks in self-refresh
  deriving DecidableEq, Repr

/-- Reset and boot progress, firmware and flash (20 R526-R545). -/
structure Boot where
  running    : Option ResetKind  -- a COLD or WARM boot sequence in progress
  cause      : Nat               -- its cause code
  startNs    : Nat               -- device time at its start
  flr        : Bool              -- an FLR runs
  selA       : List Byte         -- slot selector record copies, 64 B each
  selB       : List Byte
  cfgA       : List Byte         -- boot configuration record copies, 256 B each
  cfgB       : List Byte
  slotA      : List Byte         -- firmware slot contents
  slotB      : List Byte
  coldCfg    : List Byte         -- the boot configuration record latched at the last COLD, empty before
  fellBack   : Bool              -- the last trial failed (R544)
  actPending : Bool              -- a MODE 0 activation awaits a reset
  deriving DecidableEq, Repr

/-- PCIe link, configuration state and the hold buffer (04). -/
structure Pci where
  link       : Link
  busMaster  : Bool
  msixEnable : Bool
  funcMask   : Bool
  d3hot      : Bool
  l1Enable   : Bool
  bar2Log2   : Nat              -- log2 of the BAR2 size in bytes, 30-39
  wasDown    : Bool             -- a DL_Down since the host path last returned
  downNs     : Nat              -- device time of the last DL_Down
  hold       : List Held
  dropped    : Nat              -- held writes dropped since the last return
  lostResults : List (Nat × Nat × Nat × Nat)  -- kept dropped results: class, guest, step, SEQ
  unsignalled : KV Nat          -- per vector: entries not yet signalled
  stage      : KV Nat           -- low dwords staged, keyed by issuer and register (03 R70)
  latch      : KV Nat           -- high dwords latched, keyed alike
  reserved   : Nat              -- hold-buffer units reserved for steps checked out (04 R103)
  deriving DecidableEq, Repr

/-- The event ring and its pending buffer (22 R579-R583) and the management buffer (21 R552). -/
structure Evt where
  ringHost   : Bool             -- the ring lies in host memory
  ringAddr   : Nat              -- its latched device or host address
  pending    : List Event
  lost       : Nat              -- events lost and not yet reported
  lostFirst  : Nat              -- SEQ of the first of them
  mgmt       : List Event       -- pending for management
  ceCount    : KV Nat           -- corrected errors of each source in the present second
  ceSecond   : Nat              -- that second
  fatalCode  : Nat              -- the service processor's record behind ERR_LAST_FATAL
  fatalSub   : Nat
  fatalSeq   : Nat
  deriving DecidableEq, Repr

/-- Where a command stands (05 R118, R127, 06 R164). -/
inductive CmdPhase where
  | fetching | ready | waiting | running | ended
  deriving DecidableEq, Repr

/-- How a command ended: major, detail, RESULT. -/
structure Finish where
  major  : Nat
  detail : Nat
  result : Nat
  deriving DecidableEq, Repr

/-- A command in flight (05). -/
structure Cmd where
  slot   : Nat                  -- the device tag
  qp     : Nat
  ctx    : Nat
  pkt    : Packet               -- as a v2 packet
  sqIdx  : Nat
  phase  : CmdPhase
  bellNs : Nat                  -- when the doorbell that exposed it was seen
  fin    : Option Finish        -- the first cause that ended it
  stop   : Option (Nat × Nat)   -- a stop asked for: major and detail
  maySignal : Bool              -- the header signal may be made (R128)
  cores  : List Nat             -- cores it has been assigned (06 R145, R146)
  suspended : List Nat          -- cores its share is suspended on (06 R162)
  rested : Bool                 -- resumed and not yet through one stage (06 R164)
  preempt : List Nat            -- cores with a DEADLINE request pending
  preemptNs : Nat               -- when the pending request, suspending or stopping, was made
  suspNs : Nat
  total  : Nat                  -- stages or chunks in all
  done   : Nat                  -- stages or chunks completed
  todo   : List (Nat × BitVec 512)  -- descriptors still to be written, with their core
  targets : List Nat            -- ABORT: the commands it ended and waits for
  hits   : Nat                  -- ABORT: how many of them ended because of it
  tab    : Option Nat           -- the tab slot it holds
  saved  : Nat                  -- chunks its tab records
  cursor : Nat                  -- routine position of the next chunk (06 R168)
  rstate : List Byte            -- routine state its tab keeps (06 R168)
  aux    : List Nat             -- routine state
  deriving DecidableEq, Repr

/-- CP0's bookkeeping (05 R121, R141). -/
structure Cp0 where
  cmds    : List Cmd            -- in flight, oldest first
  nextSlot : Nat
  bells   : KV (List (Nat × Nat))  -- per queue pair: exposed entries and when
  deficit : KV Nat              -- per context: dispatches left in this round
  lastCtx : List Nat            -- per class: the context served last
  lastQp  : KV Nat              -- per context: the queue pair served last
  deriving DecidableEq, Repr

/-- A descriptor in a task queue (06 R145-R152). -/
structure Td where
  id     : Nat
  cmd    : Nat                  -- device tag of the owning command
  core   : Nat
  tq     : Nat
  td     : BitVec 512
  started : Bool
  finished : Bool               -- its unit has finished (06 R148)
  fail   : Option Finish        -- it failed (06 R149)
  signalled : Bool              -- its header signal has been made
  deriving DecidableEq, Repr

/-- The Sequencers, EXEC_LIST snapshots and tabs (06). -/
structure Seq where
  tds      : List Td            -- all task queues, oldest first
  nextId   : Nat
  snapshots : List Nat          -- commands that hold a snapshot
  tabs     : KV (List Byte × List Byte)  -- tab slot 16·c + n: copies A and B
  tabHolder : KV Nat            -- the in-flight command that holds a tab
  ages     : KV (Nat × Nat)     -- aging counters of each unit: BULK and NORMAL (06 R147)
  deriving DecidableEq, Repr

/-- Who waits on a sync object (07 R193). -/
inductive WaitWho where
  | cmd (slot : Nat) | td (id : Nat) | porter (p : Nat)
  deriving DecidableEq, Repr

/-- A registered wait (07 R193). -/
structure Waiter where
  so   : Nat
  cond : Nat                    -- 0 GE, 1 EQ, 2 CHANGED
  cmp  : Nat
  who  : WaitWho
  deriving DecidableEq, Repr

/-- A push-table entry (07 R198). -/
structure PushEntry where
  home   : Nat
  dev    : Nat
  mirror : Nat
  ctx    : Nat                  -- the mirror's context (routing of the push)
  lastNs : Nat                  -- when it last was pushed
  deriving DecidableEq, Repr

/-- A bind under way (07 R198). -/
structure Bind where
  cmd     : Nat
  so      : Nat
  dev     : Nat
  home    : Nat
  homeCtx : Nat
  timeout : Nat
  deriving DecidableEq, Repr

/-- What a bound mirror remembers (07 R199, R201). -/
structure Mirror where
  homeCtx : Nat
  timeout : Nat
  lastSeq : Nat
  lastNs  : Nat
  ctx     : Nat
  deriving DecidableEq, Repr

/-- The sync-object banks beside VALUE and CFG (07). -/
structure So where
  waiters : List Waiter
  woken   : List WaitWho        -- waits satisfied and not yet taken up
  failed  : List (WaitWho × Nat × Nat)  -- waits ended with a major and a detail
  pushes  : List PushEntry
  pushSeq : KV Nat              -- per home: the last push sequence number
  mirrors : KV Mirror
  binds   : List Bind
  ue      : List Nat            -- uncorrectable objects (22 R586)
  deriving DecidableEq, Repr

/-- Who holds a fabric transaction open (15 R406). -/
inductive TxnWho where
  | porter (p : Nat)
  | cmd (slot : Nat)
  | td (id : Nat)
  | bind (slot : Nat)
  | carry (walk : Nat)
  | way (restore : Bool)
  | none
  deriving DecidableEq, Repr

/-- An entry of the transaction table (15 R406). For a read, `dst` is where its data go. -/
structure Txn where
  tag  : Nat
  typ  : Nat
  dev  : Nat
  who  : TxnWho
  ctx  : Nat
  dst  : Nat
  len  : Nat
  group : Nat                   -- which descriptor of its list it belongs to
  deriving DecidableEq, Repr

/-- What a fabric port holds beside its registers (15 R391-R397). -/
structure Port where
  maxGen   : Nat
  c2m      : Bool
  txSeq    : Nat                -- SEQ of the next flit sent
  ackIn    : Nat                -- last SEQ the peer acknowledged
  rxSeq    : Nat                -- SEQ expected next
  nakSent  : Bool
  retry    : List Flit          -- sent and not acknowledged, oldest first, at most 128
  tries    : Nat                -- replays of the oldest without acknowledgement
  credits  : List Nat           -- flit credits held per VC
  queue    : List FabPkt        -- packets waiting for credits
  asm      : KV (List Byte)     -- packet bytes gathered per VC
  badLanes : Nat                -- lanes without signal, bit per lane
  eqSaved  : Bool
  gen1Tried : Bool
  rxFrom   : Nat                -- flits to credit back, packed per VC, 16 bits each
  lastTurn : Nat                -- VC served last
  flushing : Bool               -- a disable waits for the retry buffer (15 R421)
  drain    : Bool               -- its group's shutdown waits for the retry buffer (19 R503)
  gen      : Nat                -- generation trained, 1 or 2
  width    : Nat                -- lanes trained
  deriving DecidableEq, Repr

/-- A collective that runs on this device (15 R410-R418). -/
structure Coll where
  cmd    : Nat                  -- the command it belongs to
  part   : Nat                  -- 0 a COLL_RUN, 1 + b the exchange of bucket b, 0x10000 the NORM of a training step
  ctx    : Nat
  slot   : Nat                  -- group slot
  seq    : Nat
  epoch  : Nat
  op     : Nat
  src    : Nat
  dst    : Nat
  count  : Nat
  inFmt  : Nat
  outFmt : Nat
  scale  : Nat                  -- SCALE as a byte
  stages : Nat
  stage  : Nat
  busy   : Bool                 -- its stage has begun and is not complete
  got    : KV Nat               -- elements received, by 2 × stage + phase
  recs   : KV (List Byte)       -- NORM records by rank
  deriving DecidableEq, Repr

/-- The votes of a commit, held per rank (15 R417, 17 R456). -/
structure Vote where
  epoch : Nat
  step  : Nat
  rank  : Nat
  vote  : Nat
  deriving DecidableEq, Repr

/-- A group table in force (15 R411). -/
structure Group where
  id    : Nat
  n     : Nat
  rings : List (List Nat)
  deriving DecidableEq, Repr

/-- The fabric beside its registers (15). -/
structure Fab where
  ports   : KV Port
  routes  : KV (Nat × Bool)     -- device: port mask and VALID
  groups  : KV Group
  inbox   : List FabPkt         -- packets for this device, by arrival
  arrived : List FabPkt         -- packets at the switch, first flit seen
  txns    : List Txn
  nextTag : Nat
  colls   : List Coll
  early   : List (FabPkt × Nat) -- the early buffer, with the moment of arrival
  deriving DecidableEq, Repr

/-- A porter that runs a list (13 R344-R348). -/
structure PorterRun where
  td      : Nat
  cmd     : Nat
  ctx     : Nat
  list    : Nat                 -- address of descriptor 0
  count   : Nat
  index   : Nat
  waitOk  : Bool                -- the present descriptor's wait has been satisfied
  pos     : Nat                 -- pieces of the present descriptor already issued
  crc     : Nat                 -- running CRC register of a CHECK
  signals : List (Nat × Nat × Nat)  -- signals still to make: of descriptor, SO, add
  deriving DecidableEq, Repr

/-- A clamp in force (19 R520). -/
structure Clamp where
  loop   : Nat
  target : Nat
  reason : Nat
  pinned : Nat
  held   : Nat
  deriving DecidableEq, Repr

/-- The governors' measurements, the AVS bus, requests under way (19 R502-R520, 21 R561). -/
structure Pwr where
  power1s   : Nat               -- 1 s average board power, W
  power1ms  : Nat
  overEdc   : Bool              -- the regulator current is at EDC
  hot       : Bool              -- the compute die reached 105 °C and has not come down to 102 °C
  hotIod    : List Nat          -- I/O dies of which the same holds
  caps      : KV Nat            -- per core: the MHz a safety limit holds it to
  why       : Nat               -- reason of the newest of those limits
  pref      : KV Nat            -- per core: what the governor itself prefers, MHz
  want      : KV Nat            -- per core: the target it has decided on, MHz
  clamps    : List Clamp
  avsWanted : Nat               -- mV requested
  avsSettled : Bool
  avsOpen   : Bool              -- a Voltage write has not had its VDone
  avsFails  : Nat               -- failed frames in a row
  avsFault  : Bool
  waiting   : List (Nat × Nat × Nat)  -- PWR_DOMAIN_SETs with WAIT: command, domain, target
  policy    : List (Nat × Nat × Nat)  -- PWR_POLICY_SETs waiting for an evaluation: command, loop, target
  dwell     : List Nat          -- domains whose minimum dwell has ended
  fromOff   : List Nat          -- domains that wake from OFF
  deriving DecidableEq, Repr

/-- A sensor (21 R553, R554). -/
structure Sensor where
  value : Int
  bad   : Nat                   -- discarded or missed readings in a row
  unavailable : Bool
  deriving DecidableEq, Repr

/-- The PLDM firmware update (21 R557). -/
structure Update where
  active    : Bool
  state     : Nat               -- 0 idle, 1 learn, 2 ready, 3 download, 4 verify, 5 apply, 6 it waits for the WARM reset
  offset    : Nat
  total     : Nat
  piece     : Nat
  image     : List Byte
  verified  : Bool
  deriving DecidableEq, Repr

/-- The management endpoint (21). -/
structure Mgt where
  asm       : KV (List Byte)    -- messages being reassembled, by message type
  busy      : List Nat          -- message types with a request in progress
  requests  : List (Nat × List Byte)  -- requests served one at a time, by arrival
  mode      : Nat               -- 0 disabled, 1 async, 2 polling
  binding   : Nat               -- 0 SMBus, 1 VDM
  polled    : Bool              -- the oldest pending event has been returned to a poll
  sensors   : KV Sensor
  regFault  : List Nat          -- rails with a fault bit
  upd       : Update
  spdm      : Nat               -- 0 nothing, 1 version, 2 capabilities, 3 algorithms negotiated
  measured  : List Byte         -- measurement blocks latched at READY
  deriving DecidableEq, Repr

/-- A `dump` or `trace dump` that Hehus runs: one line after another (23 R593). -/
structure HehusDump where
  trace : Bool
  next  : Nat                   -- next address
  left  : Nat                   -- bytes still to print
  recs  : List (List Byte)      -- trace records still to print
  deriving DecidableEq, Repr

/-- Hehus, the trace unit and the TAP (23). -/
structure Dbg where
  nonce     : Option (Nat × Nat)  -- live nonce: level and the 256-bit value
  failRun   : Nat
  baudNext  : Option Nat
  dump      : Option HehusDump
  buf       : List Byte         -- input that waits for a running dump, at most 256 bytes
  trSources : Nat
  trWrap    : Bool
  trFilter  : Nat
  trace     : List (List Byte)  -- records, oldest first
  trBurst   : KV (Nat × Nat)    -- per source: an instant and the records taken at it
  trLost    : KV Nat            -- records lost per source and not yet reported
  tapInstr  : Nat               -- 0 IDCODE, 1 BYPASS, 2 SAMPLE, 3 EXTEST, 4 CLAMP, 5 HIGHZ, 6 EXTEST_PULSE, 7 EXTEST_TRAIN, 8 DBG_AUTH, 9 DBG_MEM
  pinsTaken : Bool
  deriving DecidableEq, Repr

/-- A range of memory whose contents the spec does not give: byte `a` is byte `a - origin` of the free values from number
`num` on. -/
structure Undef where
  base   : Nat
  len    : Nat
  origin : Nat
  num    : Nat
  deriving DecidableEq, Repr

/-- A range of the array: first row, rows, first logical column, columns (08 R209). -/
structure Geo where
  row  : Nat
  rows : Nat
  col  : Nat
  cols : Nat
  deriving DecidableEq, Repr

/-- The pass that streams through an array (08 R214, R227). -/
structure PassRun where
  td    : Nat
  next  : Nat                   -- input rows issued
  geos  : List Geo              -- the geometry latched for its blocks
  first : Nat                   -- first entry it wrote in the present tile
  deriving DecidableEq, Repr

/-- A reference of the finished-tile queue (09 R252). -/
structure TileRef where
  bank  : Nat
  tile  : Nat
  first : Nat
  rows  : Nat
  deriving DecidableEq, Repr

/-- One core's matrix array (08). Weights are bfloat16 patterns by row and logical column; accumulator entries are binary32
patterns by 2048 × bank + entry and column; what is absent reads +0. -/
structure Arr where
  owner   : Option Nat          -- device tag of the owning command (R213)
  active  : KV (KV Nat)
  shadow  : KV (KV Nat)
  pendGeo : KV Geo              -- shadow geometry of the blocks
  acc     : KV (KV Nat)
  pass    : Option PassRun
  fused   : List (KV Nat)       -- the VE input buffer, at most 8 rows (09 R251)
  tiles   : List TileRef        -- the finished-tile queue, at most 8 (09 R252)
  taken   : Nat                 -- rows of the head tile consumed
  deriving DecidableEq, Repr

/-- An entry of a carry table (11 R301): STATE 0 INCOMPLETE, 1 AGGREGATE, 2 INCLUSIVE, 3 FAILED. -/
structure CarryEntry where
  state  : Nat
  form   : Nat
  lanes  : Nat
  steps  : Nat
  reason : Nat
  p      : List Nat
  q      : List Nat
  h      : List Nat
  deriving DecidableEq, Repr

/-- A bound carry-table slot (11 R301); `entries` by chunk number. -/
structure CarrySlot where
  ctx     : Nat
  epoch   : Nat
  entries : KV CarryEntry
  deriving DecidableEq, Repr

/-- An entry of a segment map (11 R309). -/
structure Segment where
  dev    : Nat
  ctx    : Nat
  home   : Nat
  mirror : Nat
  first  : Nat
  chunks : Nat
  deriving DecidableEq, Repr

/-- A look-back walk (11 R305): `pending` holds the summaries to apply, oldest first. -/
structure Walk where
  j       : Nat
  pending : List (List Nat × List Nat)
  seen    : Nat                 -- the segment SO's value before entry j was read
  asked   : Bool                -- a carry read is out
  waiting : Bool
  deriving DecidableEq, Repr

/-- The share of a SCAN_RUN that one core runs: chunks [lo, hi) of the sequence, and the phase of 11 R311. -/
structure ScanShare where
  core  : Nat
  lo    : Nat
  hi    : Nat
  phase : Nat
  pos   : Nat
  h0    : List Nat              -- the state that enters its first chunk
  walk  : Option Walk
  deriving DecidableEq, Repr

/-- A SCAN_RUN in progress: its segment map and its shares (11 R309-R311). -/
structure ScanRun where
  segs   : List Segment
  shares : List ScanShare
  deriving DecidableEq, Repr

/-- A VE run (09 R241-R253). -/
structure VeRun where
  td     : Nat
  cmd    : Nat
  ctx    : Nat
  source : Nat
  tbl    : List Byte            -- the stream table
  body   : List Nat             -- SETVL and the L instructions after it
  total  : Nat                  -- ITERATIONS
  done   : Nat
  pos    : Nat                  -- 0 before SETVL; else the position of the next instruction, L + 1 for LOOP
  vl     : Nat
  row    : Nat                  -- driver row and position in it of the present iteration
  col    : Nat
  ins    : List (List Nat)      -- vectors of S0-S3
  acc    : KV Nat               -- the accumulator row it reads
  res    : List (List Nat)      -- results of the iteration, newest first
  seed   : Nat                  -- the context's mask seed, latched at the start (16 R438)
  deriving DecidableEq, Repr

/-- What the steps of a solver routine have left in its work area (12 R319, R327): the undefined range that stands for it, the
block and the routine it belongs to, the next step, and what has been read of the present problem's inputs. -/
structure SlvWork where
  num     : Nat
  blk     : List Byte
  routine : Nat
  n       : Nat
  next    : Nat
  a       : List Nat
  b       : List Nat
  deriving DecidableEq, Repr

/-- States of a room (14 R367, R375); a FREE room has no record. -/
inductive RoomState where
  | idle | locked | staged | busy | poisoned
  deriving DecidableEq, Repr

/-- A lodged room (14 R361–R382). Its images lie in memory. -/
structure Room where
  cls    : Nat
  guest  : Nat
  state  : RoomState
  bad    : Bool                 -- poisoned while its lock holds
  step   : Nat
  epoch  : Nat
  addr   : Nat                  -- the published image
  slot   : Nat                  -- its backing slot
  lock   : Option Nat           -- tag of the command that locked it
  expired : Option Nat          -- tag of the command whose lock expired
  resv   : Option Nat           -- hall slot reserved for the new image
  staged : Option Nat           -- the staged image
  prev   : Option (Nat × Nat × Nat)  -- kept previous image: address, step, epoch
  pinned : Bool
  clamped : Bool                -- its pin is clamped (R380)
  lastMs : Nat                  -- when it was last checked in
  deriving DecidableEq, Repr

/-- What a room class holds beside INN_CLASS: its backing run and its template, empty for zero state (14 R360, R363). -/
structure InnClass where
  base : Nat
  tmpl : List Byte
  deriving DecidableEq, Repr

/-- The Inn (14). Rooms by class × 2^24 + guest. -/
structure Inn where
  classes : KV InnClass
  rooms   : KV Room
  deriving DecidableEq, Repr

/-- A timetable slot (16 R426): the copied timetable, and the patches of its entries as (address, WHAT) pairs. -/
structure TimeTab where
  bytes   : List Byte
  patches : KV (List (Nat × Nat))
  deriving DecidableEq, Repr

/-- A training command in progress (16 R431–R446, 17 R477): the parameter blocks it runs, what it latched, how far it is. -/
structure TrainRun where
  cmd     : Nat
  ctx     : Nat
  train   : List Byte           -- TRAIN_STEP's parameter block, empty for an OPT_STEP
  opt     : List Byte           -- OPT_STEP's parameter block, empty for a TRAIN_STEP
  replay  : Bool
  step    : Nat
  epoch   : Nat
  scaleE  : Nat                 -- E as a byte
  seed    : Nat
  phase   : Nat                 -- 1 timetable, 2 exchange, 3 norm, 4 optimizer
  entry   : Nat
  part    : Nat                 -- of the entry: 0 it waits for its neighbour, 1 CHECK_IN, 2 lists, 3 CHECK_OUT
  base    : Nat                 -- descriptors of the entries before
  started : Nat                 -- buckets whose reduce-scatter has started
  sums    : KV (Nat × Nat)      -- sum of squares and flag, by bucket
  g2      : Nat
  flags   : Nat
  diverged : Bool
  optDone : Nat × Nat           -- chunks done on SC0 and on SC1
  clip    : Nat                 -- s of R444
  buckets : List Byte           -- the bucket table
  shards  : List Byte           -- the shard table
  snap    : List (List (BitVec 512))  -- the checked lists of the next entry, RC_LIST before LIST
  deriving DecidableEq, Repr

/-- The training machinery (16). -/
structure Trn where
  slots : KV TimeTab
  runs  : List TrainRun
  norms : KV Nat                -- per context: STEP of the kept norm record (R441)
  deriving DecidableEq, Repr

/-- A copy of the ledger record (17 R451). -/
structure LedRec where
  state   : Nat                 -- 0 FREE, 1 READY, 2 STEP_OPEN, 3 VOTING, 4 RESTORING
  cur     : Nat
  scaleE  : Nat                 -- E as a byte
  ctx     : Nat
  step    : Nat
  epoch   : Nat
  clean   : Nat
  last    : Nat                 -- 0 COMMIT, 1 SKIP, 2 ABORT, 255 none
  retain  : Bool
  gen     : Nat
  skips   : Nat
  aborts  : Nat
  prevE   : Nat
  revertible : Bool
  prevClean : Nat
  deriving DecidableEq, Repr

/-- A commit whose vote has been cast (17 R456). -/
structure Ballot where
  cmd    : Option Nat           -- the LEDGER_COMMIT it completes
  group  : Nat                  -- group slot
  own    : Nat
  votes  : KV Vote              -- by rank
  deriving DecidableEq, Repr

/-- The ledger (17 R449–R464, R475). -/
structure Led where
  recA    : LedRec
  recB    : LedRec
  failed  : Bool                -- a command of its context has failed since the step opened (R455)
  scrubbed : List Nat           -- uncorrectable words that scrubbing found
  steps   : KV (List Byte)      -- step records, 256 bytes each, by entry
  ballot  : Option Ballot
  deriving DecidableEq, Repr

/-- An entry of a shard table (16 R443). -/
structure Shard where
  w0 : Nat
  w1 : Nat
  m0 : Nat
  m1 : Nat
  v0 : Nat
  v1 : Nat
  grad  : Nat
  count : Nat
  index : Nat
  deriving DecidableEq, Repr

/-- A shard table as WAYSTATION_SET binds it (17 R465). -/
structure ShardTab where
  shards : List Shard
  algo   : Nat
  f32    : Bool
  deriving DecidableEq, Repr

/-- The fields of a slot header (17 R466). -/
structure WayHead where
  state  : Nat
  kind   : Nat
  owner  : Nat
  seq    : Nat
  epoch  : Nat
  step   : Nat
  scaleE : Nat
  cur    : Nat
  entries : Nat
  body   : Nat
  ledger : List Byte
  shardCrc : Nat
  roomsCrc : Nat
  shardOff : Nat
  recordsOff : Nat
  roomsOff : Nat
  deriving DecidableEq, Repr

/-- A transfer of a checkpoint (17 R467–R473): to the partner's slot, or of a hosted slot to the device being restored. -/
structure WayJob where
  cmd    : Option Nat           -- none for a FAST checkpoint
  slot   : Nat
  dev    : Nat
  ctx    : Nat
  head   : WayHead
  segs   : List (Nat × Nat)     -- the body from memory: address and length, in order
  tail   : List Byte            -- what follows them
  sent   : Nat                  -- body bytes issued
  upto   : Nat                  -- body bytes that may be issued now
  phase  : Nat                  -- 0 header WRITING is out, 1 body, 2 header VALID is out
  crc    : Nat                  -- CRC register over the shard section
  deriving DecidableEq, Repr

/-- A checkpoint of this device on its partner: SEQ, step counter, VALID. -/
structure WaySent where
  seq   : Nat
  step  : Nat
  valid : Bool
  deriving DecidableEq, Repr

/-- The waystation (17 R465–R474). -/
structure Way where
  sender  : Option ShardTab
  host    : Bool
  partner : Nat
  pctx    : Nat
  hostDev : Nat
  hostCtx : Nat
  cadence : Nat
  slotGib : Nat
  seq     : Nat                 -- SEQ of the last checkpoint
  sent    : KV WaySent          -- by slot of the partner
  due     : Option Nat          -- a FAST checkpoint waits: its step counter
  job     : Option WayJob       -- FAST or FULL
  rjob    : Option WayJob       -- a restore sent to the partner
  accept  : Option ShardTab     -- a restore is accepted (RESTORING)
  acceptCmd : Option Nat
  buf     : Mem                 -- what has come of the restored body behind its shard section
  head    : Option WayHead
  deriving DecidableEq, Repr

/-- A frame that CP2 holds (18 R483, R484): copied samples, the doorbell it came by, the SAMPLE_BATCH it belongs to. A fill step has
neither. `passed`: the gap right before it has been given up (R485), or its guest's room was checked in by another command. -/
structure Frame where
  guest  : Nat
  seq    : Nat
  ts     : Nat
  samples : Nat
  data   : List Byte
  fill   : Bool
  passed : Bool
  cmd    : Option Nat
  bell   : Option Nat
  deriving DecidableEq, Repr

/-- What CP2 tracks of a guest (18 R484–R486). -/
structure SrvGuest where
  infl : Option (Nat × Nat)     -- SEQ and timestamp of the frame in flight
  held : List Frame             -- the reorder window, by arrival
  mark : Option (Nat × Nat)     -- watermark that a gap policy has moved: SEQ and timestamp
  base : Option (Nat × Nat)     -- what its first frame followed, when its step did not publish
  deriving DecidableEq, Repr

/-- A snapshot of a serving list, and the batch area it was checked against (18 R482). -/
structure SrvList where
  lists : List (BitVec 512) × List (BitVec 512)
  cores : List Nat
  unit0 : Nat                   -- first 64 KiB unit of half A
  units : Nat                   -- units of a half
  cls   : Nat
  rows  : Nat                   -- MAX_SAMPLES
  out   : Nat                   -- OUT_BYTES
  deriving DecidableEq, Repr

/-- A batch (18 R487–R489). -/
structure Batch where
  tag    : Nat                  -- device tag of its descriptors
  ctx    : Nat
  frames : List Frame
  due    : Bool                 -- its window has passed
  flush  : Bool
  layout : Option SrvList       -- latched at closing
  core   : Nat
  half   : Nat
  step   : Nat                  -- 0 it has not begun, 1 CHECK_IN, 2 list, 3 CHECK_OUT, 4 results
  sts    : List (Option (Nat × Nat))  -- by frame: status and detail
  resv   : List Nat             -- by frame: hold-buffer units reserved (04 R103)
  pos    : Nat                  -- results written
  deriving DecidableEq, Repr

/-- A context's result ring (18 R490). -/
structure SrvRing where
  ring : Nat
  out  : Nat
  log2 : Nat
  vec  : Nat
  size : Nat                    -- OUT_BYTES
  deriving DecidableEq, Repr

/-- A RESHARD in progress (18 R496): its plan, the next chunk, the rooms it has marked. -/
structure Reshard where
  cmd   : Nat
  plan  : List Byte
  next  : Nat
  marks : List (Nat × Nat)      -- class and guest
  deriving DecidableEq, Repr

/-- Serving (18). -/
structure Srv where
  rings   : KV SrvRing          -- per context
  lists   : KV SrvList          -- per context
  guests  : KV (KV SrvGuest)    -- per context and guest
  batches : List Batch          -- open and closed, oldest first
  turn    : KV Nat              -- by 2 × context + core: the half whose turn it is
  last    : KV Nat              -- by 2 × context + core: when its last batch finished, as a count of batches
  ends    : Nat                 -- batches finished
  served  : KV Nat              -- by 2 × context + core: results in the present reservation period
  switches : KV (List Byte)     -- switch records per context (R497)
  reshards : List Reshard
  deriving DecidableEq, Repr

end Sys2Proof.Machine
end

