-- ==== Sys2Proof/Syntax.lean ====
section
/-!
DEFINITION. The commands of the block: one constructor per row of spec/opcode_table.json, with the row's operands.
-/
namespace Sys2Proof

open Sys2Proof.Machine (HostRead Ecc Flit)

/-- A command from outside, or an event of the device's surroundings or clock. -/
inductive Instr where
  /-- SYS_PWRGD_RISE (R40): The board raises SYS_PWRGD; the device checks every rail and either starts COLD reset or holds it. -/
  | sysPwrgdRise (missing : List Nat) (cold : Bool)
  /-- RAIL_OUT_OF_RANGE (R41): A rail has been outside its tolerance for 10 µs; both CCLKs drop to 0.50 GHz, ALERT_N goes low and the event is raised. -/
  | railOutOfRange (rail : Nat) (mv : Nat)
  /-- RAIL_HOLD (R41): A rail has stayed out of tolerance for 1 ms; the stacks enter self-refresh and the core, network, CP and HBM domains are held. -/
  | railHold (rail : Nat)
  /-- THERM_TRIP (R43): A junction reaches 115 °C or a stack reaches 105 °C; every clock except SCLK stops and THERM_TRIP_N is asserted until COLD. -/
  | thermTrip
  /-- HBM_TEMP_READ (R336): The 1 ms readout of a stack's temperature; the HBM thermal loop sets refresh rate and bandwidth cap. -/
  | hbmTempRead (stack : Nat) (temp : Nat)
  /-- CLK_REF_LOST (R51): The reference monitor declares a reference clock lost after 4 bad windows; the matching LOST bit, count, ALERT_N and event follow. -/
  | clkRefLost (ref : Nat)
  /-- REF_CORE_DOMAINS_HELD (R51): After self-refresh entry following loss of REFCLK_CORE, the device gates and holds CCLK, NCLK, XCLK and MCLK domains. -/
  | refCoreDomainsHeld
  /-- CLK_REF_OK (R52): A reference has stayed inside its window for 1 ms; its OK bit sets and PCIe or fabric domains restart and retrain. -/
  | clkRefOk (ref : Nat)
  /-- CCLK_TARGET_REACHED (R48): A slewing CCLK PLL reaches the governor's newest target and SLEWING clears. -/
  | cclkTargetReached (core : Nat)
  /-- CLK_MEAS_START (R58): A write of 1 to CLK_MEAS_CTL.START begins counting edges of the selected clock. -/
  | clkMeasStart (value : Word)
  /-- CLK_MEAS_DONE (R58): The measurement window expires; COUNT or ERR is written and START clears. -/
  | clkMeasDone (count : Nat)
  /-- CLOCK_GOVERNOR_EVAL (R514): The 10 µs evaluation of a core's clock governor, resolving preference, pins, floors, ceilings and safety limits. -/
  | clockGovernorEval (core : Nat) (w1s : Nat) (w1ms : Nat) (idle : Bool)
  /-- POLICY_RELEASED (R520): A clamp's cause has been clear for 1 ms; the clamp ends and the loop returns to its setting. -/
  | policyReleased (loop : Nat) (target : Nat)
  /-- AVS_CURRENT_READ (R561): The 2 µs AVSBus current reading that drives the regulator current responses of R515. -/
  | avsCurrentRead (amps : Nat) (ok : Bool)
  /-- AVS_VOLTAGE_SETTLED (R561): After a Voltage write the regulator reports VDone or 10 µs pass, and the voltage counts as settled. -/
  | avsVoltageSettled (vdone : Bool)
  /-- AVS_VDONE_TIMEOUT (R561): No VDone within 20 µs, or three failed frames; a regulator fault stops CCLK raises. -/
  | avsVdoneTimeout
  /-- LANE_WIDTH_EVAL (R518): The 1 ms evaluation of a port's lane-width loop. -/
  | laneWidthEval (port : Nat) (util : Nat) (stalled : Bool)
  /-- PMBUS_POLL (R562): The 10 ms PMBus read of voltage, current, temperature and status of every rail. -/
  | pmbusPoll (rail : Nat) (mv : Nat) (status : Nat) (ok : Bool) (fault : Bool)
  /-- SENSOR_UPDATE (R553): A periodic sensor reading, discarded if implausible, else kept and reported on threshold crossing. -/
  | sensorUpdate (sensor : Nat) (present : Bool) (value : Int)
  /-- SENSOR_FENCE (R555): A stack or I/O-die temperature sensor unavailable for 100 ms sets the matching units' safety view OFFLINE. -/
  | sensorFence (sensor : Nat)
  /-- BAR0_WRITE (R68): A host write to BAR0 registers that have no row of their own, performed dword by dword in ascending order. -/
  | bar0Write (off : Nat) (dwords : List (Word × Bool))
  /-- REG64_LOW_WRITE (R70): A 32-bit write of a 64-bit register's low dword is staged per issuer. -/
  | reg64LowWrite (issuer : Nat) (off : Nat) (value : Word)
  /-- REG64_HIGH_WRITE (R70): A 32-bit write of a 64-bit register's high dword writes the whole register with the staged or present low half. -/
  | reg64HighWrite (issuer : Nat) (off : Nat) (value : Word)
  /-- REG64_LOW_READ (R70): A read of a 64-bit register's low dword latches the high dword and clears the register's RC fields. -/
  | reg64LowRead (issuer : Nat) (off : Nat)
  /-- RC_READ (R6): A read of an RC field returns its value and clears it, the hardware set winning a same-cycle race. -/
  | rcRead (issuer : Nat) (off : Nat) (wide : Bool)
  /-- BAR2_READ (R71): A host read through BAR2 reaches HBM, blocked bytes read 0 and an uncorrectable word poisons its completion. -/
  | bar2Read (off : Nat) (len : Nat)
  /-- BAR2_WRITE (R71): A host write through BAR2 reaches HBM, blocked bytes are discarded and counted. -/
  | bar2Write (off : Nat) (data : List Byte)
  /-- BAR2_RESIZE (R73): The host writes a new BAR2 size; HOST_BAR2_BASE is kept and offsets past the size are no longer decoded. -/
  | bar2Resize (log2 : Nat)
  /-- CTX_WINDOW_WRITE (R81): A write to a context's window registers, accepted only while the context is IDLE, else LOCKED_WRITE. -/
  | ctxWindowWrite (ctx : Nat) (off : Nat) (value : QWord)
  /-- CTX_CFG_WRITE (R115): A write to CTX_CFG, accepted only while the context is IDLE and CLASS is not 3. -/
  | ctxCfgWrite (ctx : Nat) (value : Word)
  /-- QP_CONFIG_WRITE (R115): A write to QP_SQ_BASE, QP_CQ_BASE or QP_CFG other than an enable or disable, accepted only while DISABLED. -/
  | qpConfigWrite (qp : Nat) (off : Nat) (value : QWord)
  /-- QP_ENABLE (R117): EN written 1 on a DISABLED queue pair; enable checks pass to ACTIVE or fail with a FAULT code. -/
  | qpEnable (qp : Nat) (value : Word)
  /-- QP_DISABLE (R117): EN written 0; an ACTIVE or FAULTED queue pair enters DRAINING and stops fetching. -/
  | qpDisable (qp : Nat)
  /-- SQ_TAIL_DOORBELL (R121): The host writes SQ_TAIL in BAR4, making entries available or faulting the queue with SQ_TAIL_RANGE. -/
  | sqTailDoorbell (qp : Nat) (value : Word)
  /-- CQ_HEAD_DOORBELL (R121): The host writes CQ_HEAD in BAR4, releasing completion entries or faulting the queue with CQ_HEAD_RANGE. -/
  | cqHeadDoorbell (qp : Nat) (value : Word)
  /-- SQ_FETCH (R124): CP0 issues a read of available submission entries once it can reserve a completion slot and in-flight limits allow. -/
  | sqFetch (qp : Nat) (count : Nat)
  /-- SQ_FETCH_DATA (R135): Fetched entry data arrive and CP0 checks each packet in the fixed order, refusing the first failure. -/
  | sqFetchData (slot : Nat) (outcome : HostRead)
  /-- CMD_DISPATCH (R141): CP0 chooses class, context and queue pair by priority, aging and round robin and dispatches one command. -/
  | cmdDispatch
  /-- HEADER_WAIT_SATISFIED (R127): A command's header wait sees its SO at or above WAIT_VALUE with acquire ordering and the command starts. -/
  | headerWaitSatisfied (slot : Nat)
  /-- CMD_TIMEOUT (R138): A command's timer expires; the command is stopped at its next permitted point and completes with TIMEOUT. -/
  | cmdTimeout (slot : Nat)
  /-- CMD_END (R139): An executor ends a command; the first cause is recorded, the header signal made, and CP0 writes the completion. -/
  | cmdEnd (slot : Nat)
  /-- MSIX_HOLDOFF_EXPIRY (R96): A vector's HOLDOFF_US expires after its first unsignalled entry and the MSI-X message is sent. -/
  | msixHoldoffExpiry (vector : Nat)
  /-- MSIX_UNMASK (R97): A vector is unmasked with its PBA bit set and one message is sent. -/
  | msixUnmask (vector : Nat)
  /-- BUS_MASTER_ENABLE (R102): Bus Master Enable is set; held writes are delivered in order and pending messages may signal. -/
  | busMasterEnable (msix : Bool) (fmask : Bool) (l1 : Bool)
  /-- D3HOT_ENTRY (R99): The host places the device in D3hot; CP0 stops fetching and writes are held. -/
  | d3hotEntry
  /-- D0_ENTRY (R99): The host returns the device to D0 with all state kept. -/
  | d0Entry
  /-- ASPM_L1_REQUEST (R98): After 20 µs with no traffic and no DEADLINE queue enabled, the device requests ASPM L1. -/
  | aspmL1Request
  /-- FLR (R100): A PCIe Function Level Reset resets the host interface, every context's work and the held writes. -/
  | flr
  /-- LINK_UP (R90): PCIe training ends and the link becomes DL_Active. -/
  | linkUp (speed : Nat) (width : Nat) (flit : Bool)
  /-- LINK_RECOVERY (R102): The link enters Recovery; writes the PCIe core cannot accept go to the hold buffer. -/
  | linkRecovery
  /-- DL_DOWN (R101): The data link reports DL_Down; PCIe config state resets, fetching stops and writes are held. -/
  | dlDown
  /-- HELD_WRITE_EXPIRY (R104): A held write expires 100 ms after DL_Down or its arrival and is dropped and counted. -/
  | heldWriteExpiry
  /-- HOST_PATH_RETURN (R104): The host path returns; the device writes RESULT_WRITE_LOST events and HOST_PATH_RESTORED. -/
  | hostPathReturn
  /-- HOST_READ_TIMEOUT (R105): A host read's completion timeout expires and the issuing command fails with HOST_READ_TIMEOUT. -/
  | hostReadTimeout (slot : Nat)
  /-- HOST_READ_ERROR (R105): A host read completes poisoned, UR or CA and the issuing command fails with DATA_ERROR. -/
  | hostReadError (slot : Nat) (poisoned : Bool)
  /-- POISONED_WRITE_RECEIVED (R105): A poisoned host write into a BAR is discarded and reported through AER. -/
  | poisonedWriteReceived (bar : Nat) (off : Nat)
  /-- NOP (R132): NOP completes with OK and RESULT 0. -/
  | nop (slot : Nat)
  /-- ABORT (R134): ABORT ends the in-flight commands of its scope with HOST_ABORT and counts them. -/
  | abort (slot : Nat)
  /-- TIMESTAMP (R132): TIMESTAMP returns the device time in ns since COLD reset. -/
  | timestamp (slot : Nat)
  /-- RESULT_RING_SET (R490): Sets a context's result ring and output slab. -/
  | resultRingSet (slot : Nat)
  /-- EVENT_RING_SET (R579): Sets or disables the event ring. -/
  | eventRingSet (slot : Nat)
  /-- MEM_COPY (R351): Copies a byte range through general porters in chunks. -/
  | memCopy (slot : Nat)
  /-- MEM_FILL (R351): Fills a range with an 8-byte pattern. -/
  | memFill (slot : Nat)
  /-- MEM_COPY_2D (R351): Copies strided rows. -/
  | memCopy2d (slot : Nat)
  /-- MEM_TRANSPOSE (R351): Transposes a matrix through turn porters. -/
  | memTranspose (slot : Nat)
  /-- MEM_CHECK (R351): Computes the CRC-64 of a range in order on one porter. -/
  | memCheck (slot : Nat)
  /-- RESHARD (R495): Moves weights and rooms to a destination layout and switches the context to it. -/
  | reshard (slot : Nat)
  /-- EXEC_LIST (R155): Snapshots and validates a descriptor list, then dispatches it. -/
  | execList (slot : Nat)
  /-- ARRAY_RUN (R237): Computes a bfloat16 matrix product in stages on the array. -/
  | arrayRun (slot : Nat)
  /-- SCAN_RUN (R311): Runs one segment of a chunked scan in summary, carry and output phases. -/
  | scanRun (slot : Nat)
  /-- SOLVE (R328): Runs a solver routine as packed SOLVE descriptors. -/
  | solve (slot : Nat)
  /-- VE_RUN (R267): Runs a stream-only VE program in stages. -/
  | veRun (slot : Nat)
  /-- INN_CLASS_SET (R360): Creates or deletes a room class. -/
  | innClassSet (slot : Nat)
  /-- INN_TEMPLATE_LOAD (R363): Sets a class's template. -/
  | innTemplateLoad (slot : Nat)
  /-- INN_LODGE (R364): Lodges or replaces one guest's room. -/
  | innLodge (slot : Nat)
  /-- INN_RELEASE (R366): Frees a guest's room. -/
  | innRelease (slot : Nat)
  /-- INN_PIN (R379): Pins a room in the hall within the context's quota. -/
  | innPin (slot : Nat)
  /-- INN_UNPIN (R366): Removes a room's pin. -/
  | innUnpin (slot : Nat)
  /-- INN_READ_ROOM (R366): Copies a room's published image whole. -/
  | innReadRoom (slot : Nat) (bad : List (Nat × Bool))
  /-- INN_QUERY (R367): Reports a guest's or class's state. -/
  | innQuery (slot : Nat)
  /-- SAMPLE_BATCH (R483): Ingests a frame table into held frames and batches, completing once every frame is resolved. -/
  | sampleBatch (slot : Nat)
  /-- TIMETABLE_LOAD (R426): Loads or releases a timetable slot. -/
  | timetableLoad (slot : Nat)
  /-- TRAIN_STEP (R431): Runs the timetable, bucket exchange and norm of one training step. -/
  | trainStep (slot : Nat)
  /-- OPT_STEP (R444): Clips and updates the device's shard into the B banks. -/
  | optStep (slot : Nat)
  /-- LEDGER_VOTE (R456): LEDGER_COMMIT VOTE contributes the device's vote and applies the outcome. -/
  | ledgerVote (slot : Nat)
  /-- LEDGER_OPEN (R453): LEDGER_COMMIT OPEN binds the ledger to the context. -/
  | ledgerOpen (slot : Nat)
  /-- LEDGER_ADOPT (R459): LEDGER_COMMIT ADOPT applies late an outcome other members reached. -/
  | ledgerAdopt (slot : Nat)
  /-- LEDGER_CLOSE (R453): LEDGER_COMMIT CLOSE frees the ledger. -/
  | ledgerClose (slot : Nat)
  /-- LEDGER_REVERT (R461): LEDGER_COMMIT REVERT undoes the device's last COMMIT in one record write. -/
  | ledgerRevert (slot : Nat)
  /-- LEDGER_QUERY (R463): Reports ledger state, epoch or step digests. -/
  | ledgerQuery (slot : Nat)
  /-- MASK_SEED_SET (R438): Sets the context's mask-generator seed. -/
  | maskSeedSet (slot : Nat)
  /-- SCALE_SET (R462): Sets the gradient-scale exponent E. -/
  | scaleSet (slot : Nat)
  /-- FAB_ROUTE_LOAD (R420): Loads a route table or a group table, or clears a group slot. -/
  | fabRouteLoad (slot : Nat)
  /-- COLL_RUN (R415): Runs a reduce-scatter, all-gather, all-reduce or NORM collective. -/
  | collRun (slot : Nat)
  /-- REMOTE_COPY (R422): Copies a range to or from another device through fabric porters. -/
  | remoteCopy (slot : Nat)
  /-- FAB_PORT_CTL (R421): Disables, enables or retrains a fabric port. -/
  | fabPortCtl (slot : Nat)
  /-- SO_MIRROR_BIND (R198): SO_MIRROR_BIND OP 0 sends a bind request to the home device. -/
  | soMirrorBind (slot : Nat)
  /-- SO_MIRROR_UNBIND (R202): SO_MIRROR_BIND OP 1 turns a mirror back into a COUNTER and sends an unbind. -/
  | soMirrorUnbind (slot : Nat)
  /-- PWR_POLICY_SET (R522): Writes one pin, floor or ceiling of a power loop. -/
  | pwrPolicySet (slot : Nat)
  /-- PWR_DOMAIN_SET (R511): Requests a power domain's target state. -/
  | pwrDomainSet (slot : Nat)
  /-- UNIT_STATE_SET (R569): Writes a unit's work view. -/
  | unitStateSet (slot : Nat)
  /-- UNIT_STATE_QUERY (R569): Reads a Unit State Table entry. -/
  | unitStateQuery (slot : Nat)
  /-- DIAG_ARRAY_TEST (R238): Runs the array column test on one core. -/
  | diagArrayTest (slot : Nat) (fails : List Nat)
  /-- DIAG_MEM_TEST (R352): Overwrites and checks an HBM range with test patterns. -/
  | diagMemTest (slot : Nat) (bad : List (Nat × Bool))
  /-- DIAG_LOOPBACK (R423): Runs near- or far-end loopback on a port. -/
  | diagLoopback (slot : Nat) (bad : Nat)
  /-- TRACE_CTL (R601): Starts, stops, clears or dumps the trace unit. -/
  | traceCtl (slot : Nat)
  /-- WAYSTATION_SET (R465): Binds, hosts, unbinds or accepts a restore for a waystation partner. -/
  | waystationSet (slot : Nat)
  /-- WAYSTATION_FULL (R471): Writes a FULL checkpoint with rooms to the partner. -/
  | waystationFull (slot : Nat)
  /-- WAYSTATION_RESTORE (R473): Sends a hosted slot to the partner being restored. -/
  | waystationRestore (slot : Nat)
  /-- REPLAY_STEP (R476): Re-runs the present step from its record and compares digests. -/
  | replayStep (slot : Nat)
  /-- SFU_TABLE_LOAD (R279): Loads, releases or reads back an SFU table slot. -/
  | sfuTableLoad (slot : Nat)
  /-- VE_PROGRAM_LOAD (R264): Loads or releases VE program-store pages. -/
  | veProgramLoad (slot : Nat)
  /-- FW_STAGE (R542): Writes a checked firmware image into the inactive slot. -/
  | fwStage (slot : Nat) (ok : Bool)
  /-- FW_ACTIVATE (R543): Selects a slot for trial boot, now by WARM reset or at the next reset. -/
  | fwActivate (slot : Nat)
  /-- BOOT_CFG_WRITE (R545): Writes or reads back the boot configuration record. -/
  | bootCfgWrite (slot : Nat)
  /-- TD_WRITE (R144): CP1 writes an expanded task descriptor into a task queue when it has a free entry. -/
  | tdWrite (slot : Nat)
  /-- TD_NOP (R152): A NOP task descriptor that only waits and signals. -/
  | tdNop (id : Nat)
  /-- FENCE (R183): A FENCE descriptor completes when its kind's ordering condition holds. -/
  | fence (id : Nat)
  /-- SO_OP (R191): An ADD or SET on a sync object, performed atomically by its SO bank. -/
  | soOp (id : Nat) (ue : Bool)
  /-- SO_WAIT_REGISTER (R193): A wait is registered in the waiter table, when an entry is free, and evaluated once. -/
  | soWaitRegister (who : Nat) (id : Nat)
  /-- SO_VALUE_WRITE (R195): A host write of an SO's VALUE performs one SET. -/
  | soValueWrite (n : Nat) (value : QWord) (ue : Bool)
  /-- SO_ADD_WRITE (R195): A host write of an SO's ADD field performs one ADD. -/
  | soAddWrite (n : Nat) (value : Word) (ue : Bool)
  /-- SO_CFG_WRITE (R196): A host write of an SO's CFG, accepted only with no waits, zeroing VALUE, or clearing WRAPPED alone. -/
  | soCfgWrite (n : Nat) (value : Word) (ue : Bool)
  /-- SO_HEARTBEAT (R199): A mirror has had no push for 500 µs and the home resends the present value. -/
  | soHeartbeat (n : Nat) (dev : Nat) (mirror : Nat)
  /-- MIRROR_STALE (R201): A mirror receives no push for TIMEOUT_MS, turns STALE and fails its waits. -/
  | mirrorStale (n : Nat)
  /-- MIRROR_BIND_TIMEOUT (R198): No first push arrives within TIMEOUT_MS; the bind fails and an unbind is sent. -/
  | mirrorBindTimeout (slot : Nat)
  /-- ARRAY_LOAD (R210): Writes a weight tile into shadow registers and marks the block PENDING. -/
  | arrayLoad (id : Nat)
  /-- ARRAY_PASS (R217): Streams input rows through the array in broadcast or relay mode into an accumulator bank. -/
  | arrayPass (id : Nat)
  /-- BROADCAST_FLIP (R224): A FLIP=1 load flips all pending blocks in one CCLK once earlier passes and fronts have left. -/
  | broadcastFlip (core : Nat)
  /-- RELAY_FRONT_ENTER (R225): A relay load's front enters the array behind the previous pass's last row. -/
  | relayFrontEnter (core : Nat)
  /-- ARRAY_COLUMN_FAULT (R231): A parity error or adder mismatch stops the array and faults the core until CORE reset. -/
  | arrayColumnFault (core : Nat) (col : Nat)
  /-- VE_RUN_DESC (R241): A VE_RUN task descriptor checks its stream table and body and runs the body ITERATIONS times. -/
  | veRunDesc (id : Nat)
  /-- VE_NOP (R259): VE instruction NOP, result +0. -/
  | veNop (core : Nat)
  /-- SETVL (R250): Sets VL for each iteration from the driver and cap. -/
  | setvl (core : Nat)
  /-- LOOP (R259): Ends the VE loop body. -/
  | veLoop (core : Nat)
  /-- VE_COPY (R259): VE instruction COPY: result A. -/
  | veCopy (core : Nat)
  /-- PUT (R259): Writes B to named outputs only where A is true. -/
  | vePut (core : Nat)
  /-- ADD (R259): binary32 A + B. -/
  | veAdd (core : Nat)
  /-- SUB (R259): binary32 A − B. -/
  | veSub (core : Nat)
  /-- MUL (R259): binary32 A × B. -/
  | veMul (core : Nat)
  /-- FMA (R259): A × B + C with one rounding. -/
  | veFma (core : Nat)
  /-- FMS (R259): A × B − C with one rounding. -/
  | veFms (core : Nat)
  /-- FNMA (R259): C − A × B with one rounding. -/
  | veFnma (core : Nat)
  /-- MIN (R259): min(A, B), NaN propagating. -/
  | veMin (core : Nat)
  /-- MAX (R259): max(A, B), NaN propagating. -/
  | veMax (core : Nat)
  /-- MINNUM (R259): min(A, B), number preferred. -/
  | veMinnum (core : Nat)
  /-- MAXNUM (R259): max(A, B), number preferred. -/
  | veMaxnum (core : Nat)
  /-- ABS (R259): A with bit 31 cleared. -/
  | veAbs (core : Nat)
  /-- NEG (R259): A with bit 31 inverted. -/
  | veNeg (core : Nat)
  /-- COPYSIGN (R259): A with the sign of B. -/
  | copysign (core : Nat)
  /-- CLAMP (R259): MIN(MAX(A, B), C). -/
  | veClamp (core : Nat)
  /-- LERP (R259): FMA(C, B − A, A). -/
  | lerp (core : Nat)
  /-- MULP2 (R259): A × 2^n with one rounding. -/
  | mulp2 (core : Nat)
  /-- NRRCP (R259): One Newton step toward 1/a. -/
  | nrrcp (core : Nat)
  /-- NRRSQ (R259): One Newton step toward 1/√a. -/
  | nrrsq (core : Nat)
  /-- RINT (R259): A rounded to an integral value in the selected mode. -/
  | rint (core : Nat)
  /-- CMP (R259): Mask of a floating comparison. -/
  | veCmp (core : Nat)
  /-- SEL (R259): B where A is true, else C. -/
  | veSel (core : Nat)
  /-- FCLASS (R259): Mask of A lying in selected classes. -/
  | fclass (core : Nat)
  /-- AND (R259): Bitwise A AND B. -/
  | veAnd (core : Nat)
  /-- OR (R259): Bitwise A OR B. -/
  | veOr (core : Nat)
  /-- XOR (R259): Bitwise A XOR B. -/
  | veXor (core : Nat)
  /-- ANDN (R259): Bitwise A AND NOT B. -/
  | veAndn (core : Nat)
  /-- SHL (R259): A shifted left. -/
  | veShl (core : Nat)
  /-- SHR (R259): A shifted right, zero fill. -/
  | veShr (core : Nat)
  /-- SHRA (R259): A shifted right, sign fill. -/
  | veShra (core : Nat)
  /-- IADD (R259): 32-bit integer A + B. -/
  | iadd (core : Nat)
  /-- ISUB (R259): 32-bit integer A − B. -/
  | isub (core : Nat)
  /-- IMUL (R259): Low 32 bits of A × B. -/
  | imul (core : Nat)
  /-- ICMP (R259): Mask of an integer comparison. -/
  | icmp (core : Nat)
  /-- CVTIF (R259): int32 A converted to binary32. -/
  | cvtif (core : Nat)
  /-- CVTFI (R259): A converted to int32, saturating and counted. -/
  | cvtfi (core : Nat)
  /-- RBF16 (R259): A rounded to bfloat16 precision. -/
  | rbf16 (core : Nat)
  /-- SRBF16 (R260): A rounded stochastically to bfloat16 with generator bits. -/
  | srbf16 (core : Nat)
  /-- SFU (R276): f(A) from an SFU table slot. -/
  | veSfu (core : Nat)
  /-- SFUBAS (R277): f(A + B) × C from an SFU slot. -/
  | sfubas (core : Nat)
  /-- SFUGATE (R277): A × f(B) from an SFU slot. -/
  | sfugate (core : Nat)
  /-- DROPM (R260): Drop-out mask from generator bits against B. -/
  | dropm (core : Nat)
  /-- RU_RUN (R283): A Reduction Unit tree reduces rows into one plane per selected operation. -/
  | ruRun (id : Nat)
  /-- SCAN (R293): SCAN OP 0 evaluates the recurrence forward, plain or chunked. -/
  | scan (id : Nat)
  /-- CHUNK_SUMMARY (R294): SCAN OP 1 writes each chunk's summary record (P, Q). -/
  | chunkSummary (id : Nat)
  /-- CARRY_COMBINE (R293): SCAN OP 2 applies summary records to a carry state in order. -/
  | carryCombine (id : Nat)
  /-- REVERSE_SCAN (R293): SCAN OP 3 evaluates the recurrence backward. -/
  | reverseScan (id : Nat)
  /-- ZERO_ORDER_HOLD (R321): SOLVE routine 0 discretises x' = Ax + Bu by Padé scaling and squaring. -/
  | zeroOrderHold (id : Nat)
  /-- NEWTON_SCHULZ (R322): SOLVE routine 1 computes an inverse root by fixed-count coupled Newton iteration. -/
  | newtonSchulz (id : Nat)
  /-- CHOLESKY (R323): SOLVE routine 2 factors and solves a positive definite system. -/
  | cholesky (id : Nat)
  /-- SLV_DIV (R324): Routine 3 OP DIV, A / B per element. -/
  | slvDiv (id : Nat)
  /-- SLV_SQRT (R324): Routine 3 OP SQRT, √A per element. -/
  | slvSqrt (id : Nat)
  /-- SLV_RSQRT (R324): Routine 3 OP RSQRT, 1/√A with two roundings. -/
  | slvRsqrt (id : Nat)
  /-- SLV_FMA (R324): Routine 3 OP FMA, A × B + C in binary64. -/
  | slvFma (id : Nat)
  /-- ZOH1 (R324): Routine 3 OP ZOH1, scalar zero-order hold per element. -/
  | zoh1 (id : Nat)
  /-- Q_FROM_F64 (R316): Converts binary64 to Qm.n, saturating. -/
  | qFromF64 (id : Nat)
  /-- Q_TO_F64 (R316): Converts Qm.n to binary64. -/
  | qToF64 (id : Nat)
  /-- QADD (R316): Fixed-point addition, saturating. -/
  | qadd (id : Nat)
  /-- QSUB (R316): Fixed-point subtraction, saturating. -/
  | qsub (id : Nat)
  /-- QMUL (R316): Fixed-point multiplication, rounded and saturating. -/
  | qmul (id : Nat)
  /-- QFMA (R316): Fixed-point fused multiply–add, rounded and saturating. -/
  | qfma (id : Nat)
  /-- CHECK_IN (R370): INN_OP CHECK_IN locks and copies each listed room to scratchpad, lodging new guests where allowed. -/
  | checkIn (id : Nat) (bad : List (Nat × Bool))
  /-- CHECK_OUT (R371): INN_OP CHECK_OUT publishes each locked room atomically, or stages it for a COMMIT_BOUND class. -/
  | checkOut (id : Nat) (bad : List (Nat × Bool))
  /-- UNLOCK (R371): INN_OP UNLOCK ends a room's lock without advance. -/
  | unlock (id : Nat)
  /-- PORTER_LIST (R347): A PORTER task descriptor runs its list of porter descriptors in order. -/
  | porterList (id : Nat)
  /-- PORTER_NOP (R345): Porter descriptor NOP waits and signals only. -/
  | porterNop (porter : Nat)
  /-- COPY (R345): Porter descriptor COPY moves rows. -/
  | prtCopy (porter : Nat)
  /-- FILL (R345): Porter descriptor FILL writes a pattern. -/
  | prtFill (porter : Nat)
  /-- CHECK (R345): Porter descriptor CHECK runs a CRC-64 over rows. -/
  | prtCheck (porter : Nat)
  /-- TRANSPOSE (R345): Porter descriptor TRANSPOSE transposes elements. -/
  | prtTranspose (porter : Nat)
  /-- REMOTE_WRITE (R345): Porter descriptor REMOTE_WRITE copies to another device. -/
  | remoteWrite (porter : Nat)
  /-- REMOTE_READ (R345): Porter descriptor REMOTE_READ copies from another device. -/
  | remoteRead (porter : Nat)
  /-- TD_COMPLETE (R148): A descriptor's unit finishes and its writes are visible; the SEQ performs its signal. -/
  | tdComplete (id : Nat) (parity : Bool)
  /-- PREEMPT_PARK (R163): A routine with a pending preemption reaches its permitted point, commits its stage or tab and releases the core. -/
  | preemptPark (slot : Nat) (stageNs : Nat)
  /-- ROUTINE_RESUME (R164): CP1 resumes a suspended routine when no DEADLINE work remains or 1 ms has passed. -/
  | routineResume (slot : Nat)
  /-- TAB_WRITE (R169): After a chunk's writes are visible, CP1 writes the older tab copy, CRC last. -/
  | tabWrite (slot : Nat) (torn : Bool)
  /-- SCRUB_READ (R335): A controller's scheduled scrub read corrects or logs each word. -/
  | scrubRead (stack : Nat) (addr : Nat) (outcome : Ecc)
  /-- LOCK_EXPIRY (R372): A room locked for LOCK_TIMEOUT_MS is unlocked without advance. -/
  | lockExpiry (cls : Nat) (guest : Nat)
  /-- INN_EVICTION (R378): The Inn copies an IDLE unpinned image to its backing slot and switches its index entry. -/
  | innEviction (cls : Nat) (guest : Nat) (bad : List (Nat × Bool))
  /-- PIN_MOVE_TO_HALL (R379): A pinned image in HBM moves to the hall once space allows. -/
  | pinMoveToHall (cls : Nat) (guest : Nat)
  /-- LOOKBACK_STEP (R305): A look-back walk resumes after its segment SO changes and reads the next carry entry. -/
  | lookbackStep (slot : Nat) (share : Nat)
  /-- CARRY_TIMEOUT (R307): A look-back wait reaches CARRY_TIMEOUT_MS; the chunk and its successors are marked FAILED. -/
  | carryTimeout (slot : Nat) (share : Nat)
  /-- PORT_SIGNAL_DETECT (R391): A DOWN port detects signal on its lanes and enters EQUALIZE. -/
  | portSignalDetect (port : Nat)
  /-- EQUALIZE_DONE (R391): Transmitter training completes at Gen 2 or Gen 1 and the port enters ALIGN. -/
  | equalizeDone (port : Nat) (gen : Nat)
  /-- EQUALIZE_TIMEOUT (R391): Training fails within 8 ms; the port falls back to Gen 1 or returns to DOWN. -/
  | equalizeTimeout (port : Nat)
  /-- ALIGN_DONE (R391): FEC lock and 64 good flits move the port to INIT. -/
  | alignDone (port : Nat) (bad : Nat)
  /-- INIT_FLIT (R392): INIT flits are exchanged, the peer recorded and the port goes UP. -/
  | initFlit (port : Nat) (dev : Nat) (peerPort : Nat) (bufs : List Nat)
  /-- DOWN_RETRY (R391): A port that failed training retries after 100 ms. -/
  | downRetry (port : Nat)
  /-- RETRAIN_TIMEOUT (R391): RETRAIN does not finish within 2 ms; the port goes DOWN and drops its packets. -/
  | retrainTimeout (port : Nat)
  /-- LANE_SIGNAL_LOSS (R391): A lane or every lane loses signal, sending the port to RETRAIN or DOWN. -/
  | laneSignalLoss (port : Nat) (lanes : Nat)
  /-- FEC_ERROR_BURST (R391): 1,024 uncorrectable FEC codewords in 1 ms send the port to RETRAIN. -/
  | fecErrorBurst (port : Nat)
  /-- FLIT_RECEIVE (R395): A flit arrives; a good in-order flit is accepted with its ACK and credits, a bad one discarded with a NAK. -/
  | flitReceive (port : Nat) (flit : Flit)
  /-- NAK_RECEIVE (R395): A NAK arrives and the sender replays from ACK + 1. -/
  | nakReceive (port : Nat) (ack : Nat)
  /-- REPLAY_TIMER (R395): 10 µs pass with no ACK progress and the sender replays. -/
  | replayTimer (port : Nat)
  /-- WIDTH_FLIT (R393): A received WIDTH flit switches the port to the new width. -/
  | widthFlit (port : Nat) (width : Nat)
  /-- PACKET_ROUTE (R403): A packet's first flit arrives at a switch and a port is chosen or the packet is dropped as unroutable. -/
  | packetRoute
  /-- MEM_WRITE (R405): A MEM_WRITE packet is checked and performed at its home, then acknowledged. -/
  | memWrite
  /-- MEM_READ (R405): A MEM_READ packet is checked, read and answered with READ_DATA. -/
  | memRead
  /-- SO_OP_PKT (R405): A remote SO_OP packet is checked and performed on a local SO, then acknowledged. -/
  | soOpPkt (ue : Bool)
  /-- MIRROR_BIND (R198): A bind request arrives at the home, which adds a push entry and pushes the present value. -/
  | mirrorBind
  /-- MIRROR_UNBIND (R202): An unbind arrives at the home, which removes the push entry. -/
  | mirrorUnbind
  /-- CARRY_READ (R304): A carry read arrives and the owner returns CARRY_DATA per chunk or refuses. -/
  | carryRead
  /-- WAYSTATION_WRITE (R405): A waystation write from the bound partner is written into its hosted slot. -/
  | waystationWrite
  /-- ACK (R406): A response ACK arrives and completes or fails its transaction. -/
  | ack
  /-- READ_DATA (R406): Read data arrive for an open transaction. -/
  | readData
  /-- SO_PUSH (R199): A push arrives at a mirror and is accepted if newer, else dropped and counted. -/
  | soPush
  /-- CARRY_DATA (R304): A carry-table entry arrives for a look-back walk. -/
  | carryData
  /-- COLL_DATA (R414): A collective packet arrives and is added, forwarded, held in the early buffer or taken as WITHDRAW. -/
  | collData
  /-- VOTE (R417): A vote packet arrives and is forwarded around ring 0 until all N votes are held. -/
  | vote
  /-- LOOPBACK (R423): A LOOPBACK packet is returned on MGMT or compared. -/
  | loopback
  /-- FAB_TRANSACTION_TIMEOUT (R406): A remote transaction's timeout expires and its descriptor fails with FAB_TIMEOUT. -/
  | fabTransactionTimeout (tag : Nat)
  /-- FAB_CREDIT_STALL (R398): A packet has waited 1 ms for credits and the event is raised. -/
  | fabCreditStall (port : Nat) (vc : Nat)
  /-- EARLY_BUFFER_EXPIRY (R414): A collective packet has waited 100 ms unmatched and is dropped. -/
  | earlyBufferExpiry
  /-- COLL_TIMEOUT (R418): A wait for a predecessor's data reaches TIMEOUT_MS; the member withdraws. -/
  | collTimeout (slot : Nat) (part : Nat)
  /-- VOTE_CAST (R454): Once no training command of the context runs, CP3 casts its vote and the ledger enters VOTING. -/
  | voteCast (slot : Nat) (late : Bool)
  /-- COMMIT_TIMEOUT (R456): The commit timeout expires lacking a vote and the outcome is ABORT. -/
  | commitTimeout
  /-- TIMETABLE_ENTRY (R432): A timetable entry's neighbour arrival is seen; patches, rooms and lists of the entry run. -/
  | timetableEntry (slot : Nat)
  /-- STAGE_TIMEOUT (R432): A neighbour-arrival wait exceeds STAGE_TIMEOUT_MS and TRAIN_STEP ends. -/
  | stageTimeout (slot : Nat)
  /-- BUCKET_REDUCE_START (R440): A bucket's ready condition holds and its reduce-scatter starts. -/
  | bucketReduceStart (slot : Nat)
  /-- FAST_CHECKPOINT (R469): After a FLIP or SKIP at a CADENCE multiple, CP3 copies the shard and records to the partner. -/
  | fastCheckpoint
  /-- GAP_TIMEOUT (R485): GAP_US passes since a gap opened and the gap policy is applied. -/
  | gapTimeout (ctx : Nat) (guest : Nat)
  /-- BATCH_WINDOW_EXPIRY (R487): BATCH_US passes after a batch opened and the batch closes. -/
  | batchWindowExpiry (ctx : Nat)
  /-- BATCH_RUN (R488): A closed batch runs in the next free half: input, check-in, list, check-out and results. -/
  | batchRun (tag : Nat)
  /-- SRV_REGISTER_WRITE (R481): A write to a context's serving configuration registers, accepted only while IDLE. -/
  | srvRegisterWrite (ctx : Nat) (off : Nat) (value : QWord)
  /-- SRV_RING_HEAD_WRITE (R491): The host releases result-ring entries by writing SRV_RING_HEAD. -/
  | srvRingHeadWrite (ctx : Nat) (value : Word)
  /-- RESERVE_PERIOD (R494): A 1 ms reservation period ends and DEADLINE reservations restart. -/
  | reservePeriod
  /-- DOMAIN_DRAIN_DONE (R504): A DRAINING domain meets its drain condition and enters ISOLATED at the cut point. -/
  | domainDrainDone (dom : Nat)
  /-- DOMAIN_POWER_DOWN_DONE (R502): Power-down for the target completes and the domain reaches RETENTION or OFF. -/
  | domainPowerDownDone (dom : Nat)
  /-- DOMAIN_DWELL_END (R507): The minimum dwell ends with an ON request pending and the domain enters WAKING. -/
  | domainDwellEnd (dom : Nat)
  /-- DOMAIN_WAKE_DONE (R502): A domain's wake sequence completes and it is ON. -/
  | domainWakeDone (dom : Nat)
  /-- RST_WARM (R529): RST_CTL KIND 1 starts a WARM reset. -/
  | rstWarm
  /-- RST_COLD (R528): RST_CTL KIND 2 starts a COLD reset. -/
  | rstCold
  /-- RST_CORE (R531): RST_CTL KIND 3 starts a CORE reset of one core. -/
  | rstCore (target : Nat)
  /-- RST_CONTEXT (R532): RST_CTL KIND 4 starts a CONTEXT reset of one context. -/
  | rstContext (target : Nat)
  /-- CORE_RESET_FORCE_STOP (R531): A routine still running 1 ms into a CORE reset is stopped at once. -/
  | coreResetForceStop (core : Nat)
  /-- PERST (R526): PERST_N or a Hot Reset performs FLR or WARM by PERST_KIND and resets the PCIe core. -/
  | perst
  /-- CP_WATCHDOG (R526): A control processor misses its heartbeat for 100 ms and the service processor performs a WARM reset. -/
  | cpWatchdog
  /-- BOOT_STAGE_DONE (R539): A boot stage completes and the next begins, up to READY. -/
  | bootStageDone (bad0 : List Nat) (bad1 : List Nat)
  /-- TRIAL_TIMEOUT (R544): A trial image misses READY within 10 s; the service processor falls back by a WARM reset. -/
  | trialTimeout
  /-- MCTP_PACKET (R549): An MCTP packet arrives, dropped if malformed, else reassembled into a request. -/
  | mctpPacket (vdm : Bool) (good : Bool) (dest : Nat) (typ : Nat) (som : Bool) (eom : Bool) (data : List Byte)
  /-- SET_ENDPOINT_ID (R548): MCTP control message setting the endpoint ID. -/
  | setEndpointId (vdm : Bool) (eid : Nat)
  /-- GET_ENDPOINT_ID (R548): MCTP control message returning the endpoint ID. -/
  | getEndpointId (vdm : Bool)
  /-- GET_ENDPOINT_UUID (R548): MCTP control message returning the UUID. -/
  | getEndpointUuid (vdm : Bool)
  /-- GET_MCTP_VERSION_SUPPORT (R548): MCTP control message returning version support. -/
  | getMctpVersionSupport (vdm : Bool)
  /-- GET_MESSAGE_TYPE_SUPPORT (R548): MCTP control message returning supported message types. -/
  | getMessageTypeSupport (vdm : Bool)
  /-- GET_TID (R551): PLDM type 0 GetTID. -/
  | getTid (vdm : Bool)
  /-- GET_PLDM_VERSION (R551): PLDM type 0 GetPLDMVersion. -/
  | getPldmVersion (vdm : Bool) (typ : Nat)
  /-- GET_PLDM_TYPES (R551): PLDM type 0 GetPLDMTypes. -/
  | getPldmTypes (vdm : Bool)
  /-- GET_PLDM_COMMANDS (R551): PLDM type 0 GetPLDMCommands. -/
  | getPldmCommands (vdm : Bool) (typ : Nat)
  /-- GET_PDR_REPOSITORY_INFO (R551): PLDM GetPDRRepositoryInfo. -/
  | getPdrRepositoryInfo (vdm : Bool)
  /-- GET_PDR (R551): PLDM GetPDR. -/
  | getPdr (vdm : Bool) (record : Nat)
  /-- GET_SENSOR_READING (R553): PLDM GetSensorReading returns a numeric sensor. -/
  | getSensorReading (vdm : Bool) (sensor : Nat)
  /-- GET_STATE_SENSOR_READINGS (R553): PLDM GetStateSensorReadings returns state sensors. -/
  | getStateSensorReadings (vdm : Bool) (sensor : Nat)
  /-- SET_STATE_EFFECTER_STATES (R556): PLDM write of a unit-safety, domain-target or reset effecter. -/
  | setStateEffecterStates (vdm : Bool) (effecter : Nat) (value : Nat)
  /-- GET_STATE_EFFECTER_STATES (R551): PLDM read of effecter states. -/
  | getStateEffecterStates (vdm : Bool) (effecter : Nat)
  /-- SET_EVENT_RECEIVER (R552): PLDM SetEventReceiver selects the event delivery mode. -/
  | setEventReceiver (vdm : Bool) (recvVdm : Bool) (mode : Nat)
  /-- PLATFORM_EVENT_MESSAGE (R583): The device sends a management event to the receiver asynchronously over VDM. -/
  | platformEventMessage
  /-- POLL_FOR_PLATFORM_EVENT_MESSAGE (R552): The receiver polls and acknowledges pending management events. -/
  | pollForPlatformEventMessage (vdm : Bool) (ack : Bool) (get : Bool)
  /-- REQUEST_UPDATE (R557): PLDM type 5 RequestUpdate begins a firmware update. -/
  | requestUpdate (vdm : Bool) (maxXfer : Nat)
  /-- PASS_COMPONENT_TABLE (R557): PLDM type 5 PassComponentTable. -/
  | passComponentTable (vdm : Bool) (cls : Nat) (ident : Nat)
  /-- UPDATE_COMPONENT (R557): PLDM type 5 UpdateComponent starts data transfer. -/
  | updateComponent (vdm : Bool) (cls : Nat) (ident : Nat) (total : Nat)
  /-- REQUEST_FIRMWARE_DATA (R557): A firmware data piece arrives in answer to the device's request and is gathered. -/
  | requestFirmwareData (data : List Byte)
  /-- TRANSFER_COMPLETE (R557): The device reports the last byte received. -/
  | transferComplete
  /-- VERIFY_COMPLETE (R557): The image is checked under R536. -/
  | verifyComplete
  /-- APPLY_COMPLETE (R557): The image is written into the inactive slot. -/
  | applyComplete (ok : Bool)
  /-- ACTIVATE_FIRMWARE (R557): PLDM ActivateFirmware performs FW_ACTIVATE for the staged slot. -/
  | activateFirmware (vdm : Bool) (self : Bool)
  /-- GET_STATUS (R557): PLDM type 5 GetStatus. -/
  | getStatus (vdm : Bool)
  /-- CANCEL_UPDATE_COMPONENT (R557): PLDM CancelUpdateComponent. -/
  | cancelUpdateComponent (vdm : Bool)
  /-- CANCEL_UPDATE (R557): PLDM CancelUpdate. -/
  | cancelUpdate (vdm : Bool)
  /-- QUERY_DEVICE_IDENTIFIERS (R557): PLDM QueryDeviceIdentifiers. -/
  | queryDeviceIdentifiers (vdm : Bool)
  /-- GET_FIRMWARE_PARAMETERS (R557): PLDM GetFirmwareParameters. -/
  | getFirmwareParameters (vdm : Bool)
  /-- UPDATE_INACTIVITY_TIMEOUT (R557): The update agent sends nothing for 60 s and the device cancels the update. -/
  | updateInactivityTimeout
  /-- GET_VERSION (R559): SPDM GET_VERSION. -/
  | getVersion (vdm : Bool)
  /-- GET_CAPABILITIES (R559): SPDM GET_CAPABILITIES. -/
  | getCapabilities (vdm : Bool)
  /-- NEGOTIATE_ALGORITHMS (R559): SPDM NEGOTIATE_ALGORITHMS. -/
  | negotiateAlgorithms (vdm : Bool) (asym : Nat) (hash : Nat) (meas : Nat)
  /-- GET_DIGESTS (R559): SPDM GET_DIGESTS. -/
  | getDigests (vdm : Bool)
  /-- GET_CERTIFICATE (R559): SPDM GET_CERTIFICATE. -/
  | getCertificate (vdm : Bool) (certSlot : Nat) (offset : Nat) (len : Nat)
  /-- CHALLENGE (R559): SPDM CHALLENGE. -/
  | challenge (vdm : Bool) (certSlot : Nat)
  /-- GET_MEASUREMENTS (R560): SPDM GET_MEASUREMENTS returns the measurement blocks. -/
  | getMeasurements (vdm : Bool) (index : Nat) (signed : Bool)
  /-- ERR_EVT_HEAD_WRITE (R581): The host releases event entries and pending events are written in order. -/
  | errEvtHeadWrite (value : Word)
  /-- HEHUS_LINE (R593): A complete command line arrives on the serial port and is parsed. -/
  | hehusLine (line : List Byte)
  /-- HEHUS_INTERRUPT (R593): Byte 0x03 ends a running dump after the line in progress. -/
  | hehusInterrupt
  /-- HEHUS_HELP (R596): Lists the commands. -/
  | hehusHelp
  /-- HEHUS_INFO (R596): Prints identity, status, level and baud. -/
  | hehusInfo
  /-- HEHUS_UNLOCK (R595): Issues a challenge nonce for level L. -/
  | hehusUnlock (level : Nat)
  /-- HEHUS_RESP (R595): Verifies the signed response and sets the unlock level. -/
  | hehusResp (sig : List Byte)
  /-- HEHUS_LOCK (R594): Sets the unlock level to 0. -/
  | hehusLock
  /-- HEHUS_BAUD (R592): Selects a new baud rate. -/
  | hehusBaud (rate : Nat)
  /-- BAUD_SWITCH (R592): 10 ms after the OK reply the line switches rate. -/
  | baudSwitch
  /-- NONCE_EXPIRY (R595): An unlock nonce expires 60 s after issue. -/
  | nonceExpiry
  /-- UNLOCK_BACKOFF_END (R595): The 60 s refusal after three failures ends. -/
  | unlockBackoffEnd
  /-- HEHUS_RD (R598): Reads dwords through the debug block. -/
  | hehusRd (addr : Nat) (count : Nat)
  /-- HEHUS_WR (R598): Writes one dword through the debug block. -/
  | hehusWr (addr : Nat) (value : Nat)
  /-- HEHUS_DUMP (R598): Dumps a byte range. -/
  | hehusDump (addr : Nat) (len : Nat)
  /-- HEHUS_FILL (R598): Fills a range with an 8-byte value. -/
  | hehusFill (addr : Nat) (len : Nat) (value : Nat)
  /-- HEHUS_SO (R596): Prints an SO and its waits. -/
  | hehusSo (n : Nat) (ue : Bool)
  /-- HEHUS_SO_SET (R596): Performs one SET on an SO. -/
  | hehusSoSet (n : Nat) (value : Nat)
  /-- HEHUS_SO_ADD (R596): Performs one ADD on an SO. -/
  | hehusSoAdd (n : Nat) (value : Nat)
  /-- HEHUS_INN (R596): Prints a guest's room state. -/
  | hehusInn (cls : Nat) (guest : Nat)
  /-- HEHUS_INN_IMAGE (R596): Prints a room's published image. -/
  | hehusInnImage (cls : Nat) (guest : Nat) (bad : List (Nat × Bool))
  /-- HEHUS_PWR (R596): Prints every domain's state. -/
  | hehusPwr
  /-- HEHUS_PWR_SET (R597): A management domain-target request. -/
  | hehusPwrSet (dom : Nat) (target : Nat)
  /-- HEHUS_UNIT (R596): Prints a Unit State Table entry. -/
  | hehusUnit (u : Nat)
  /-- HEHUS_UNIT_SET (R597): A management safety-view write. -/
  | hehusUnitSet (u : Nat) (offline : Bool)
  /-- HEHUS_EVENTS (R596): Prints pending events, SEQ and the fatal record. -/
  | hehusEvents
  /-- HEHUS_TRACE_START (R601): Starts trace capture with Hehus as owner. -/
  | hehusTraceStart (mask : Nat) (wrap : Bool)
  /-- HEHUS_TRACE_STOP (R601): Stops trace capture. -/
  | hehusTraceStop
  /-- HEHUS_TRACE_CLEAR (R601): Clears the trace buffer. -/
  | hehusTraceClear
  /-- HEHUS_TRACE_DUMP (R601): Prints trace records. -/
  | hehusTraceDump (count : Nat)
  /-- HEHUS_RESET (R597): A management reset request of the named kind. -/
  | hehusReset (value : Nat)
  /-- HEHUS_ACCESS_TIMEOUT (R599): A Hehus access does not complete within 1 ms and the command ends with TIMEOUT. -/
  | hehusAccessTimeout
  /-- BYPASS (R603): TAP instruction BYPASS. -/
  | bypass
  /-- IDCODE (R603): TAP instruction IDCODE. -/
  | idcode
  /-- SAMPLE_PRELOAD (R603): TAP instruction SAMPLE/PRELOAD. -/
  | samplePreload
  /-- EXTEST (R604): TAP EXTEST takes the pins from the functional logic at once. -/
  | extest
  /-- HIGHZ (R604): TAP HIGHZ takes the pins. -/
  | highz
  /-- EXTEST_PULSE (R603): IEEE 1149.6 EXTEST_PULSE on the fabric lanes. -/
  | extestPulse
  /-- EXTEST_TRAIN (R603): IEEE 1149.6 EXTEST_TRAIN on the fabric lanes. -/
  | extestTrain
  /-- DBG_AUTH (R603): TAP authentication register carrying the unlock steps. -/
  | dbgAuth (op : Nat) (level : Nat) (sig : List Byte)
  /-- DBG_MEM (R603): TAP memory access through the debug block. -/
  | dbgMem (write : Bool) (addr : Nat) (value : Nat)
  /-- TAP_RELEASE (R604): The TAP leaves a pin-taking instruction and the service processor performs a COLD reset. -/
  | tapRelease
  /-- TAP_CLAMP (R604): The IEEE 1149.1 CLAMP instruction takes the pins from the functional logic at once. -/
  | tapClamp
  /-- ASPM_L1_EXIT (R98): The link leaves ASPM L1 on traffic from either side, taking up to the advertised exit latency, and IN_L1 clears. -/
  | aspmL1Exit
  /-- RESET_COMPLETE (R540): An FLR, CORE or CONTEXT reset finishes its work: READY rises after FLR, the core or context returns to service, and RESET_DONE is raised. -/
  | resetComplete (kind : Nat) (target : Nat) (fails : List Nat)
  /-- PORT_FLUSH_TIMEOUT (R421): A port being disabled has waited 1 ms for its retry buffer to empty; it goes DISABLED and drops what remains. -/
  | portFlushTimeout (port : Nat)
  /-- JUNCTION_WARM_RELEASE (R42): A junction that was below −5 °C at SYS_PWRGD warms past the limit and the service processor releases COLD reset. -/
  | junctionWarmRelease
  deriving DecidableEq, Repr

end Sys2Proof
end

