-- ==== Sys2Proof/Machine/Float.lean ====
section
/-!
DEFINITION. Binary floating point: values as exact dyadic numbers, one rounding to nearest even at the end (08 R234, 09 R258,
10 R276, 12 R315). NaN results are canonical.
-/
namespace Sys2Proof.Machine

/-- A floating-point value: NaN, an infinity, or (−1)^neg × man × 2^exp; `man = 0` is a signed zero. -/
inductive Fl where
  | nan
  | inf (neg : Bool)
  | fin (neg : Bool) (man : Nat) (exp : Int)
  deriving DecidableEq, Repr

/-- A format: exponent bits and fraction bits. -/
structure Fmt where
  eb : Nat
  fb : Nat
  deriving DecidableEq, Repr

def fmt32 : Fmt := ⟨8, 23⟩
def fmt16 : Fmt := ⟨8, 7⟩       -- bfloat16
def fmt64 : Fmt := ⟨11, 52⟩

def Fmt.bias (f : Fmt) : Nat := 2 ^ (f.eb - 1) - 1

/-- Exponent of the last fraction bit of a subnormal. -/
def Fmt.emin (f : Fmt) : Int := 1 - (f.bias : Int) - f.fb

/-- Decode a pattern. -/
def Fl.of (f : Fmt) (x : Nat) : Fl :=
  let s := bitAt x (f.eb + f.fb)
  let e := bits x f.fb f.eb
  let m := bits x 0 f.fb
  if e = 2 ^ f.eb - 1 then (if m = 0 then .inf s else .nan)
  else if e = 0 then .fin s m f.emin
  else .fin s (m + 2 ^ f.fb) (f.emin + (e - 1 : Nat))

/-- The sign bit in place. -/
def Fmt.sign (f : Fmt) (neg : Bool) : Nat := if neg then 2 ^ (f.eb + f.fb) else 0

/-- The pattern of an infinity. -/
def Fmt.infBits (f : Fmt) (neg : Bool) : Nat := f.sign neg + (2 ^ f.eb - 1) * 2 ^ f.fb

/-- The canonical NaN: positive, quiet, payload 0. -/
def Fmt.nanBits (f : Fmt) : Nat := (2 ^ f.eb - 1) * 2 ^ f.fb + 2 ^ (f.fb - 1)

/-- Number of bits of a natural number. -/
def bitLen (n : Nat) : Nat := if n = 0 then 0 else n.log2 + 1

/-- `m` divided by 2^k, rounded to nearest, ties to even. -/
def shrRne (m k : Nat) : Nat :=
  if k = 0 then m
  else
    let q := m / 2 ^ k
    let r := m % 2 ^ k
    let h := 2 ^ (k - 1)
    if h < r ∨ (r = h ∧ q % 2 = 1) then q + 1 else q

/-- The pattern of a value, rounded to nearest, ties to even; overflow gives an infinity; no flushing. -/
def Fl.bits (f : Fmt) (v : Fl) : Nat :=
  match v with
  | .nan => f.nanBits
  | .inf s => f.infBits s
  | .fin s m e =>
    if m = 0 then f.sign s
    else
      let lsb := max (e + bitLen m - 1 - f.fb) f.emin
      let q := if lsb ≤ e then m * 2 ^ (e - lsb).toNat else shrRne m (lsb - e).toNat
      -- q counts units of 2^lsb; in units of the smallest subnormal the exponent field follows
      let field := (lsb - f.emin).toNat
      let x := if q < 2 ^ f.fb then q else (field + 1) * 2 ^ f.fb + (q - 2 ^ f.fb)
      if x < (2 ^ f.eb - 1) * 2 ^ f.fb then f.sign s + x else f.infBits s

/-- Round a value to a format. -/
def Fl.round (f : Fmt) (v : Fl) : Fl := Fl.of f (v.bits f)

/-- Signed integer mantissa. -/
def sgn (neg : Bool) (m : Nat) : Int := if neg then -(m : Int) else (m : Int)

/-- Exact sum; an exact zero of unlike signs is +0. -/
def Fl.add (a b : Fl) : Fl :=
  match a, b with
  | .nan, _ => .nan
  | _, .nan => .nan
  | .inf s, .inf t => if s = t then .inf s else .nan
  | .inf s, _ => .inf s
  | _, .inf t => .inf t
  | .fin s m e, .fin t n g =>
    if m = 0 ∧ n = 0 then .fin (s && t) 0 0
    else
      let lo := min e g
      let z := sgn s m * (2 : Int) ^ (e - lo).toNat + sgn t n * (2 : Int) ^ (g - lo).toNat
      if z = 0 then .fin false 0 0 else .fin (decide (z < 0)) z.natAbs lo

def Fl.neg (a : Fl) : Fl :=
  match a with
  | .nan => .nan
  | .inf s => .inf !s
  | .fin s m e => .fin (!s) m e

/-- Exact product. -/
def Fl.mul (a b : Fl) : Fl :=
  match a, b with
  | .nan, _ => .nan
  | _, .nan => .nan
  | .inf s, .inf t => .inf (s != t)
  | .inf s, .fin t n _ => if n = 0 then .nan else .inf (s != t)
  | .fin s m _, .inf t => if m = 0 then .nan else .inf (s != t)
  | .fin s m e, .fin t n g => .fin (s != t) (m * n) (e + g)

/-- Quotient with `k` further bits and a sticky bit: rounding it to at most k − 2 bits of precision is exact rounding. -/
def divMan (m n k : Nat) : Nat :=
  let a := m * 2 ^ k
  2 * (a / n) + (if a % n = 0 then 0 else 1)

/-- Quotient, precise enough for one rounding to binary64. -/
def Fl.div (a b : Fl) : Fl :=
  match a, b with
  | .nan, _ => .nan
  | _, .nan => .nan
  | .inf _, .inf _ => .nan
  | .inf s, .fin t _ _ => .inf (s != t)
  | .fin s _ _, .inf t => .fin (s != t) 0 0
  | .fin s m e, .fin t n g =>
    if n = 0 then (if m = 0 then .nan else .inf (s != t))
    else if m = 0 then .fin (s != t) 0 0
    else
      let k := 64 + bitLen n
      .fin (s != t) (divMan m n k) (e - g - (k : Int) - 1)

/-- Integer square root by bits: the largest r with r × r ≤ n, from bit `i` down. -/
def isqrtGo (n : Nat) : (i r : Nat) → Nat
  | 0, r => r
  | i + 1, r =>
    let c := r + 2 ^ i
    isqrtGo n i (if c * c ≤ n then c else r)

def isqrt (n : Nat) : Nat := isqrtGo n (bitLen n / 2 + 1) 0

/-- Square root with a sticky bit, precise enough for one rounding to binary64. -/
def Fl.sqrt (a : Fl) : Fl :=
  match a with
  | .nan => .nan
  | .inf s => if s then .nan else .inf false
  | .fin s m e =>
    if m = 0 then .fin s 0 0
    else if s then .nan
    else
      let k : Nat := 128 + (if (e % 2 : Int) = 0 then 0 else 1)
      let n := m * 2 ^ k
      let r := isqrt n
      .fin false (2 * r + (if r * r = n then 0 else 1)) ((e - k) / 2 - 1)

/-- A value times 2^n. -/
def Fl.scale (a : Fl) (n : Int) : Fl :=
  match a with
  | .fin s m e => .fin s m (e + n)
  | v => v

def Fl.isNan (a : Fl) : Bool := a == .nan

def Fl.isZero (a : Fl) : Bool :=
  match a with
  | .fin _ m _ => m == 0
  | _ => false

def Fl.signBit (a : Fl) : Bool :=
  match a with
  | .nan => false
  | .inf s => s
  | .fin s _ _ => s

/-- Order of two values that are not NaN: −0 equals +0. -/
def Fl.cmp (a b : Fl) : Ordering :=
  match a, b with
  | .inf s, .inf t => if s = t then .eq else if s then .lt else .gt
  | .inf s, _ => if s then .lt else .gt
  | _, .inf t => if t then .gt else .lt
  | .fin s m e, .fin t n g =>
    let lo := min e g
    compare (sgn s m * (2 : Int) ^ (e - lo).toNat) (sgn t n * (2 : Int) ^ (g - lo).toNat)
  | _, _ => .eq

def Fl.lt (a b : Fl) : Bool := !a.isNan && !b.isNan && a.cmp b == .lt
def Fl.le (a b : Fl) : Bool := !a.isNan && !b.isNan && a.cmp b != .gt
def Fl.eq (a b : Fl) : Bool := !a.isNan && !b.isNan && a.cmp b == .eq

/-- Rounding modes of RINT and CVTFI: 0 nearest-even, 1 toward zero, 2 toward −∞, 3 toward +∞. The integer nearest a finite
value. -/
def Fl.toInt (mode : Nat) (neg : Bool) (m : Nat) (e : Int) : Int :=
  if 0 ≤ e then sgn neg m * (2 : Int) ^ e.toNat
  else
    let k := (-e).toNat
    let q := m / 2 ^ k
    let r := m % 2 ^ k
    let up := if mode = 1 then false else if mode = 2 then neg && r != 0 else if mode = 3 then !neg && r != 0
      else decide (2 ^ k < 2 * r) || (2 * r == 2 ^ k && q % 2 == 1)
    sgn neg (if up then q + 1 else q)

/-! ### binary32 operations on patterns -/

def f32 (x : Nat) : Fl := Fl.of fmt32 x
def to32 (v : Fl) : Nat := v.bits fmt32
def add32 (a b : Nat) : Nat := to32 ((f32 a).add (f32 b))
def sub32 (a b : Nat) : Nat := to32 ((f32 a).add (f32 b).neg)
def mul32 (a b : Nat) : Nat := to32 ((f32 a).mul (f32 b))
def fma32 (a b c : Nat) : Nat := to32 (((f32 a).mul (f32 b)).add (f32 c))
def fms32 (a b c : Nat) : Nat := to32 (((f32 a).mul (f32 b)).add (f32 c).neg)
def fnma32 (a b c : Nat) : Nat := to32 ((f32 c).add ((f32 a).mul (f32 b)).neg)
def nan32 : Nat := 0x7FC00000
def one32 : Nat := 0x3F800000
def inf32 (neg : Bool) : Nat := fmt32.infBits neg

/-- A bfloat16 pattern as the binary32 pattern of the same value. -/
def bf16to32 (x : Nat) : Nat := x % 65536 * 65536

/-- A binary32 pattern rounded to a bfloat16 pattern. -/
def to16 (x : Nat) : Nat := (f32 x).bits fmt16

/-- An integer as binary32. -/
def int32 (z : Int) : Nat := to32 (.fin (decide (z < 0)) z.natAbs 0)

/-- The smaller operand, −0 below +0; `num`: a single NaN gives way to the number (09 R258). -/
def min32 (num : Bool) (a b : Nat) : Nat :=
  let x := f32 a
  let y := f32 b
  if x.isNan || y.isNan then
    (if !num then nan32 else if x.isNan && y.isNan then nan32 else if x.isNan then b else a)
  else if x.lt y then a
  else if y.lt x then b
  else if x.signBit then a else b

/-- The larger operand, +0 above −0. -/
def max32 (num : Bool) (a b : Nat) : Nat :=
  let x := f32 a
  let y := f32 b
  if x.isNan || y.isNan then
    (if !num then nan32 else if x.isNan && y.isNan then nan32 else if x.isNan then b else a)
  else if x.lt y then b
  else if y.lt x then a
  else if x.signBit then b else a

/-- One level of the fixed adder tree: neighbouring pairs (08 R234, 10 R284). -/
def pairUp (op : Nat → Nat → Nat) : List Nat → List Nat
  | a :: b :: l => op a b :: pairUp op l
  | l => l

/-- The fixed tree over 192 terms: six levels of pairs, then (s0 ⊕ s1) ⊕ s2. -/
def tree192 (op : Nat → Nat → Nat) (l : List Nat) : Nat :=
  match pairUp op (pairUp op (pairUp op (pairUp op (pairUp op (pairUp op l))))) with
  | [a, b, c] => op (op a b) c
  | _ => 0

/-! ### binary64 operations on patterns -/

def f64 (x : Nat) : Fl := Fl.of fmt64 x
def to64 (v : Fl) : Nat := v.bits fmt64
def add64 (a b : Nat) : Nat := to64 ((f64 a).add (f64 b))
def sub64 (a b : Nat) : Nat := to64 ((f64 a).add (f64 b).neg)
def mul64 (a b : Nat) : Nat := to64 ((f64 a).mul (f64 b))
def div64 (a b : Nat) : Nat := to64 ((f64 a).div (f64 b))
def sqrt64 (a : Nat) : Nat := to64 (f64 a).sqrt
def fma64 (a b c : Nat) : Nat := to64 (((f64 a).mul (f64 b)).add (f64 c))
def one64 : Nat := 0x3FF0000000000000

end Sys2Proof.Machine
end

