-- ==== Sys2Proof/Machine/Units.lean ====
section
/-!
DEFINITION. The whole device state `Dev`: the registers, the memories and one structure per chapter.
Choices: DESIGN CHOICE, notes/assumptions/6.md.
-/
namespace Sys2Proof.Machine

/-- The device: everything the spec gives the machine but the queue of waiting commands. -/
structure Dev where
  regs    : KV QWord            -- registers that differ from their reset value, by BAR0 offset of their low dword
  mem     : Mem                 -- HBM, scratchpads and hall by device address (03 R60)
  hostMem : Mem                 -- the host's memory by host address
  ue      : List Nat            -- uncorrectable 8-byte words of `mem`, by address (13 R334, R340)
  ce      : List Nat            -- 8-byte words of `mem` that hold a correctable error (13 R333)
  undef   : List Undef          -- ranges whose contents the spec does not give
  out     : List OutMsg         -- what the device has sent, newest first
  free    : Nat                 -- the model's counter of free values taken
  timeNs  : Nat                 -- device time, 05 R132
  board   : Board
  boot    : Boot
  pci     : Pci
  evt     : Evt
  cp0     : Cp0
  seq     : Seq
  so      : So
  porters : KV PorterRun
  arr     : KV Arr              -- per core
  ve      : KV VeRun            -- per core: the running VE_RUN
  veStore : KV Nat              -- VE program store: word by 1024 × core + address
  sfu     : KV (List Byte)      -- SFU tables of user slots by 16 × core + slot
  carry   : KV CarrySlot        -- bound carry-table slots
  scans   : KV ScanRun          -- SCAN_RUNs in progress, by device tag
  slv     : KV SlvWork          -- solver work areas in use, by address of their scratch space
  inn     : Inn
  trn     : Trn
  led     : Led
  way     : Way
  srv     : Srv
  fab     : Fab
  pwr     : Pwr
  mgt     : Mgt
  dbg     : Dbg
  deriving DecidableEq, Repr

end Sys2Proof.Machine
end

