-- ==== Sys2Proof/Machine/Ops.lean ====
section
/-!
DEFINITION. The shared operations over registers, memory, time, power and the outputs: every read and write of them goes
through these.
-/
namespace Sys2Proof.Machine

/-! ### Registers -/

/-- The contents of the register whose low dword stands at BAR0 offset `off`. -/
def Dev.reg (d : Dev) (off : Nat) : Nat :=
  match kvGet off d.regs with
  | some v => v.toNat
  | none => regReset off

/-- Replace a register's contents, keeping the register map canonical. -/
def Dev.setReg (d : Dev) (off v : Nat) : Dev :=
  let w : QWord := BitVec.ofNat 64 v
  { d with regs := if w.toNat = regReset off then kvDel off d.regs else kvPut off w d.regs }

/-- Read a register field. -/
def Dev.rd (d : Dev) (f : Fld) : Nat := bits (d.reg f.reg) f.lo f.len

/-- Write a register field; the other bits of the register stay. -/
def Dev.wr (d : Dev) (f : Fld) (v : Nat) : Dev := d.setReg f.reg (setBits (d.reg f.reg) f.lo f.len v)

/-- Whether a one-bit field (or any field) is not 0. -/
def Dev.on (d : Dev) (f : Fld) : Bool := d.rd f != 0

/-- Add to a counter that saturates at its field's maximum (22 R574). -/
def Dev.inc (d : Dev) (f : Fld) (n : Nat := 1) : Dev := d.wr f (satAdd f.len (d.rd f) n)

/-- Add to a counter that counts modulo its width: QP_DONE, SO_OPS and the 64-bit byte and flit counters (22 R574). -/
def Dev.incMod (d : Dev) (f : Fld) (n : Nat := 1) : Dev := d.wr f (d.rd f + n)

/-- Record the larger of a field and a value, at most the field's maximum. -/
def Dev.maxIn (d : Dev) (f : Fld) (v : Nat) : Dev := d.wr f (max (d.rd f) (min v (2 ^ f.len - 1)))

/-- Do something for each element of a list, left to right. -/
def Dev.forEach {α : Type} (d : Dev) (l : List α) (f : α → Dev → Dev) : Dev := l.foldl (fun d a => f a d) d

/-- Do something only when a condition holds. -/
def Dev.whenB (d : Dev) (b : Bool) (f : Dev → Dev) : Dev := if b then f d else d

/-- A message that leaves through pins of the boundary-scan chain: the fabric lanes and the LVCMOS balls (23 R603). -/
def OutMsg.onPins : OutMsg → Bool
  | .flit _ _ | .hehus _ | .hehusData _ _ | .avsVoltage _ => true
  | _ => false

/-- Send a message out of the device, unless the TAP has taken its pins (23 R604). -/
def Dev.emit (d : Dev) (m : OutMsg) : Dev := if d.dbg.pinsTaken && m.onPins then d else { d with out := m :: d.out }

/-- The free 64-bit value the device takes next (DESIGN CHOICE, notes/assumptions/4.md). -/
def Dev.freeVal (d : Dev) : Nat := (Config.freeQWord d.free).toNat

/-- Step past a free value that has been used. -/
def Dev.freeNext (d : Dev) : Dev := { d with free := d.free + 1 }

/-! ### Assembly, time, readiness -/

/-- S, the number of stacks (00 R3, 02 R32). -/
def Dev.stacks (d : Dev) : Nat := d.rd Reg.CTL_ASSEMBLY.STACKS

/-- D, the number of I/O dies (00 R3, 02 R32). -/
def Dev.ioDies (d : Dev) : Nat := d.rd Reg.CTL_ASSEMBLY.IODIES

/-- Fabric ports fitted: eight per I/O die (15 R388). -/
def Dev.ports (d : Dev) : Nat := 8 * d.ioDies

/-- Device time in whole milliseconds. -/
def Dev.timeMs (d : Dev) : Nat := d.timeNs / 1000000

/-- READY (20 R539). -/
def Dev.ready (d : Dev) : Bool := d.on Reg.RST_STATUS.READY

/-- The host path is up: link active, Bus Master Enable set, not in D3hot (04 R102, R105). -/
def Dev.pathUp (d : Dev) : Bool := d.pci.link == .active && d.pci.busMaster && !d.pci.d3hot

/-- A host read can complete, now or after a Recovery (04 R105: only these three conditions fail it). -/
def Dev.hostReadable (d : Dev) : Bool := d.pci.link != .down && d.pci.busMaster && !d.pci.d3hot

/-! ### Power domains and clocks -/

/-- PWR_DOM.STATE codes (19 R523). -/
def stOn : Nat := 0
def stDraining : Nat := 1
def stIsolated : Nat := 2
def stRetention : Nat := 3
def stOff : Nat := 4
def stWaking : Nat := 5
def stAbsent : Nat := 7

/-- A power domain is ON. -/
def Dev.domOn (d : Dev) (n : Nat) : Bool := d.rd (Reg.PWR_DOM.STATE n) == stOn

/-- A power domain is fitted. -/
def Dev.domPresent (d : Dev) (n : Nat) : Bool := d.rd (Reg.PWR_DOM.STATE n) != stAbsent

/-- Power domains of a core's units (19 R500). -/
def domQuad (core q : Nat) : Nat := 2 + 14 * core + q
def domVe (core : Nat) : Nat := 6 + 14 * core
def domSfu (core : Nat) : Nat := 7 + 14 * core
def domRu (core : Nat) : Nat := 8 + 14 * core
def domSu (core : Nat) : Nat := 9 + 14 * core
def domSlv (core : Nat) : Nat := 10 + 14 * core
def domSeq (core : Nat) : Nat := 11 + 14 * core
def domSpm (core g : Nat) : Nat := 12 + 14 * core + g
def domStack (k : Nat) : Nat := 30 + k
def domHall (q : Nat) : Nat := 42 + q
/-- Ports 8i to 8i + 3 form the A-group of I/O die i, ports 8i + 4 to 8i + 7 its B-group (15 R388). -/
def domPort (p : Nat) : Nat := 46 + 3 * (p / 8) + p % 8 / 4
def domPorters (core : Nat) : Nat := 60 + core
def domDebug : Nat := 62

/-- CP and core clocks run: nothing is held, no trip (02 R41, R43, R51). -/
def Dev.coreClocks (d : Dev) : Bool :=
  !d.board.domHeld && !d.board.tripped && !d.board.coldHeld

/-- Work goes on: READY, or an FLR that stops it at its permitted points (20 R530), and clocks running. -/
def Dev.live (d : Dev) : Bool := (d.ready || d.boot.flr) && d.coreClocks

/-- Unit State Table: 0 IN_SERVICE, 1 OUT_OF_SERVICE, 2 QUARANTINED (21 R565). -/
def Dev.unitState (d : Dev) (u : Nat) : Nat :=
  match d.on (Reg.MGT_UNIT.WORK u), d.on (Reg.MGT_UNIT.SAFETY u) with
  | false, false => 0
  | true, true => 1
  | _, _ => 2

/-- The status that new work touching unit `u` gets from the Unit State Table, if it is not admitted (21 R565). -/
def Dev.unitRefusal (d : Dev) (u : Nat) : Option (Nat × Nat) :=
  match d.unitState u with
  | 0 => none
  | 1 => some (0x0F, 0x1502)
  | _ => some (0x08, 0x1501)

/-! ### Address map (03 R60-R65) -/

def gib : Nat := 0x40000000
def spmBase (core : Nat) : Nat := 0x100000000000 + 0x4000000 * core
def spmSize : Nat := 0x4000000
def hallBase : Nat := 0x110000000000
def hallSize : Nat := 0x3000000
def soBase : Nat := 0x120000000000
def ctlBase : Nat := 0x130000000000
def hostBase : Nat := 0x200000000000
def hostEnd : Nat := 0x400000000000

/-- The first byte past HBM (R60). -/
def Dev.hbmTop (d : Dev) : Nat := 36 * gib * d.stacks

/-- The first byte of the device-reserved region (R65). -/
def Dev.resvBase (d : Dev) : Nat := d.rd Reg.MEM_RESV_BASE.BASE * gib

/-- What an address names (R60). -/
inductive Region where
  | hbm | reserved | spm (core : Nat) | hall | so | ctl | host | unmapped
  deriving DecidableEq, Repr

/-- The region of an address. -/
def Dev.region (d : Dev) (a : Nat) : Region :=
  if a < d.hbmTop then (if a < d.resvBase then .hbm else .reserved)
  else if spmBase 0 ≤ a ∧ a < spmBase 0 + spmSize then .spm 0
  else if spmBase 1 ≤ a ∧ a < spmBase 1 + spmSize then .spm 1
  else if hallBase ≤ a ∧ a < hallBase + hallSize then .hall
  else if soBase ≤ a ∧ a < soBase + 0x10000 then .so
  else if ctlBase ≤ a ∧ a < ctlBase + 0x4000000 then .ctl
  else if hostBase ≤ a ∧ a < hostEnd then .host
  else .unmapped

/-- The interleave granule G in bytes (R63, R76). -/
def Dev.granule (d : Dev) : Nat := 2048 * 2 ^ d.rd Reg.MEM_GLOBAL_CFG.INTERLEAVE

/-- The stack that holds an HBM address (R63). -/
def Dev.stackOf (d : Dev) (a : Nat) : Nat := a / d.granule % max d.stacks 1

/-- Byte address inside its stack (R63). -/
def Dev.withinStack (d : Dev) (a : Nat) : Nat :=
  a / d.granule / max d.stacks 1 * d.granule + a % d.granule

/-- How many bytes below `x` stack `k` holds. -/
def Dev.stackBelow (d : Dev) (k x : Nat) : Nat :=
  let g := d.granule
  let p := max d.stacks 1 * g
  x / p * g + min (x % p - k * g) g

/-- How many bytes of [a, a + n) stack `k` holds (R63). -/
def Dev.stackBytes (d : Dev) (k a n : Nat) : Nat := d.stackBelow k (a + n) - d.stackBelow k a

/-- The stacks that [a, a + n) touches. -/
def Dev.stacksOf (d : Dev) (a n : Nat) : List Nat :=
  (List.range d.stacks).filter fun k => d.stackBytes k a n != 0

/-- The controller serves accesses: domain ON, trained, not in self-refresh, clocks not held (R357, 19 R510). -/
def Dev.stackReady (d : Dev) (k : Nat) : Bool :=
  d.domOn (domStack k) && d.on (Reg.MEM_STATUS.TRAINED k) && !d.on (Reg.MEM_STATUS.SELF_REFRESH k)
    && !d.board.domHeld && !d.board.tripped

/-! ### Raw memory -/

/-- Byte `i` of a range whose contents are free values from number `k` on. -/
def freeByte (k i : Nat) : Byte := BitVec.ofNat 8 (bits (Config.freeQWord (k + i / 8)).toNat (8 * (i % 8)) 8)

/-- One byte of device memory: what was written last, or a free value where the spec leaves the contents open. -/
def Dev.byte (d : Dev) (a : Nat) : Byte :=
  match d.undef.find? fun u => decide (u.base ≤ a) && decide (a < u.base + u.len) with
  | some u => freeByte u.num (a - u.origin)
  | none => memGet d.mem a

/-- `n` bytes of device memory from address `a`. -/
def Dev.peek (d : Dev) (a n : Nat) : List Byte :=
  if d.undef.isEmpty then memGetList d.mem a n else (List.range n).map fun i => d.byte (a + i)

/-- A range with undefined contents less [a, a + n): its part below and its part above. -/
def undefCut (a n : Nat) (u : Undef) : List Undef :=
  if u.base + u.len ≤ a ∨ a + n ≤ u.base then [u]
  else
    (if u.base < a then [{ u with len := a - u.base }] else [])
      ++ (if a + n < u.base + u.len then [{ u with base := a + n, len := u.base + u.len - (a + n) }] else [])

/-- `n` bytes of device memory as a little-endian number (00 R11). -/
def Dev.peekNat (d : Dev) (a n : Nat) : Nat := leNat (d.peek a n)

/-- The 8-byte words that [a, a + n) covers whole. -/
def wholeWord (a n w : Nat) : Bool := a ≤ w && w + 8 ≤ a + n

/-- Whether [a, a + n) touches the 8-byte word at `w`. -/
def touchesWord (a n w : Nat) : Bool := w < a + n && a < w + 8

/-- Store bytes in device memory; a word covered whole loses its ECC error (13 R333, R334). -/
def Dev.poke (d : Dev) (a : Nat) (bs : List Byte) : Dev :=
  { d with
    mem := memPutList d.mem a bs
    undef := d.undef.flatMap (undefCut a bs.length)
    ue := d.ue.filter fun w => !wholeWord a bs.length w
    ce := d.ce.filter fun w => !wholeWord a bs.length w }

/-- [a, a + n) takes contents that the spec does not give. -/
def Dev.scribble (d : Dev) (a n : Nat) : Dev :=
  if n = 0 then d
  else { d with
    mem := memClear d.mem a n
    undef := d.undef.flatMap (undefCut a n) ++ [⟨a, n, a, d.free⟩]
    free := d.free + n / 8 + 1
    ue := d.ue.filter fun w => !wholeWord a n w
    ce := d.ce.filter fun w => !wholeWord a n w }

/-- Store a number in `n` bytes. -/
def Dev.pokeNat (d : Dev) (a n v : Nat) : Dev := d.poke a (leBytes n v)

/-- Count a transfer in the byte counters of the stacks it touches (13 R355). -/
def Dev.countHbm (d : Dev) (wr : Bool) (a n : Nat) : Dev :=
  d.forEach (d.stacksOf a n) fun k d =>
    d.incMod (if wr then Reg.MEM_WR_BYTES.COUNT k else Reg.MEM_RD_BYTES.COUNT k) (d.stackBytes k a n)

/-! ### CRC-64 and CRC-32 -/

/-- One bit of a reflected CRC. -/
def crcBit (poly x : Nat) : Nat := if x % 2 = 1 then x / 2 ^^^ poly else x / 2

/-- One byte of a reflected CRC. -/
def crcByte (poly : Nat) (r : Nat) (b : Byte) : Nat :=
  let x := r ^^^ b.toNat
  crcBit poly (crcBit poly (crcBit poly (crcBit poly (crcBit poly (crcBit poly (crcBit poly (crcBit poly x)))))))

/-- 0x42F0_E1EB_A9EA_3693 with its bits reversed (06 R168). -/
def poly64 : Nat := 0xC96C5795D7870F42

/-- 0x04C1_1DB7 with its bits reversed (15 R394). -/
def poly32 : Nat := 0xEDB88320

def ones64 : Nat := 0xFFFFFFFFFFFFFFFF

/-- The CRC-64 register after bytes (06 R168, 13 R345). -/
def crc64Run (r : Nat) (bs : List Byte) : Nat := bs.foldl (crcByte poly64) r

/-- The finished CRC-64 of bytes (06 R168). -/
def crc64 (bs : List Byte) : Nat := crc64Run ones64 bs ^^^ ones64

/-- The CRC-32 of a flit (15 R394). -/
def crc32 (bs : List Byte) : Nat := bs.foldl (crcByte poly32) 0xFFFFFFFF ^^^ 0xFFFFFFFF

end Sys2Proof.Machine
end

