-- ==== Sys2Proof/Machine/Trace.lean ====
section
/-!
DEFINITION. Trace capture (23 R600-R602): records of traced happenings, stored while the trace unit captures.
Choices: DESIGN CHOICE, notes/assumptions/11.md.
-/
namespace Sys2Proof.Machine

/-- Records of the trace buffer (R600). -/
def traceSize : Nat := 131072

/-- A 32-byte trace record (R600). -/
def traceBytes (time src unit : Nat) (ctx : Option Nat) (kind tag a0 a1 : Nat) : List Byte :=
  leBytes 8 time ++ leBytes 1 src ++ leBytes 1 unit ++ leBytes 1 (match ctx with
    | some c => c % 16
    | none => 0x80) ++ leBytes 1 kind ++ leBytes 4 tag ++ leBytes 8 a0 ++ leBytes 8 a1

/-- The trace unit captures: started, and PD62 ON (R601, R602). -/
def Dev.tracing (d : Dev) : Bool := d.on Reg.DBG_STATUS.TRACING && d.domOn domDebug

/-- Store one record: a full buffer stops capture, or in wrap mode loses its oldest record (R601). -/
def Dev.traceStore (d : Dev) (r : List Byte) : Dev :=
  if d.dbg.trace.length ≥ traceSize ∧ !d.dbg.trWrap then d.wr Reg.DBG_STATUS.TRACING 0
  else
    let full := decide (d.dbg.trace.length ≥ traceSize)
    let i := d.rd Reg.DBG_TRACE_WR.INDEX
    let d := { d with dbg := { d.dbg with trace := (if full then d.dbg.trace.drop 1 else d.dbg.trace) ++ [r] } }
    let d := d.wr Reg.DBG_TRACE_WR.INDEX ((i + 1) % traceSize)
    if i + 1 = traceSize then d.wr Reg.DBG_TRACE_WR.WRAPPED 1 else d

/-- A happening of a source. A source has a queue of 64 entries: at one instant of device time it stores 64 records and
loses the others; its next record is preceded by a LOST record that counts them (R600). What R601 does not give (`kind`,
`tag`, `a0`, `a1` as `none`) is a free value. -/
def Dev.trace (d : Dev) (src unit : Nat) (ctx : Option Nat) (kind tag a0 a1 : Option Nat) : Dev :=
  let wanted := bitAt d.dbg.trSources src && (d.dbg.trFilter == 255 || ctx == some d.dbg.trFilter)
  if !d.tracing || !wanted then d
  else
    let (t, n) := (kvGet src d.dbg.trBurst).getD (d.timeNs, 0)
    let n := if t = d.timeNs then n else 0
    let lost := (kvGet src d.dbg.trLost).getD 0
    if 64 ≤ n then
      ({ d with dbg := { d.dbg with trLost := kvPut src (lost + 1) d.dbg.trLost } } : Dev).inc Reg.DBG_TRACE_DROPS.COUNT
    else
      let d := { d with dbg := { d.dbg with trBurst := kvPut src (d.timeNs, n + 1) d.dbg.trBurst, trLost := kvDel src d.dbg.trLost } }
      let d := if lost = 0 then d else d.traceStore (traceBytes d.timeNs src 255 none 255 0 lost 0)
      let v := d.freeVal
      let g (o : Option Nat) : Nat := o.getD v
      let r := traceBytes d.timeNs src unit ctx (g kind % 255) (g tag) (g a0) (g a1)
      let d := if kind.isNone || tag.isNone || a0.isNone || a1.isNone then d.freeNext else d
      d.traceStore r

end Sys2Proof.Machine
end

