-- ==== Sys2Proof/Machine/Events.lean ====
section
/-!
DEFINITION. Host writes and the hold buffer (04 R102-R104), MSI-X (04 R95-R97), error classes, counters and the event ring
(22 R572-R583).
Choices: DEDUCED, notes/assumptions/26.md.
-/
namespace Sys2Proof.Machine

/-! ### Hold buffer -/

/-- 32-byte units a held write occupies; a message rides behind the writes it reports and takes none (04 R102). -/
def heldUnits (h : Held) : Nat :=
  match h.kind with
  | .message _ => 0
  | _ => cdiv h.data.length 32

/-- A completion entry, which has its own set-aside space (04 R102). -/
def heldIsCompletion (h : Held) : Bool := h.kind == .completion

/-- Occupied units. -/
def holdUsed (l : List Held) : Nat := (l.map heldUnits).sum

/-- Occupied units outside the completion space. -/
def holdUsedOther (l : List Held) : Nat := holdUsed (l.filter fun h => !heldIsCompletion h)

/-- Units of the hold buffer outside the 64 KiB of completion space (04 R102). -/
def holdOther : Nat := 16384 - 2048

/-- Units free for results, outputs and events. -/
def Dev.holdFree (d : Dev) : Nat := holdOther - (holdUsedOther d.pci.hold + d.pci.reserved)

/-- Put a write into the hold buffer, last. -/
def Dev.holdPush (d : Dev) (h : Held) : Dev := { d with pci := { d.pci with hold := d.pci.hold ++ [h] } }

/-! ### MSI-X -/

/-- Set a vector's bit in the Pending Bit Array. -/
def Dev.setPba (d : Dev) (v : Nat) : Dev :=
  d.wr Reg.MSIX_PBA.PENDING (setBits (d.rd Reg.MSIX_PBA.PENDING) v 1 1)

/-- The vector is masked, by itself or by Function Mask (04 R97). -/
def Dev.vectorMasked (d : Dev) (v : Nat) : Bool := d.on (Reg.MSIX_CTL.MASK v) || d.pci.funcMask

/-- Put a vector's message on the link. -/
def Dev.sendMsix (d : Dev) (v : Nat) : Dev :=
  d.emit (.msix v (d.rd (Reg.MSIX_ADDR.ADDR v)) (d.rd (Reg.MSIX_DATA.DATA v)))

/-- A message of vector `v` falls due (04 R97, R102). -/
def Dev.messageDue (d : Dev) (v : Nat) : Dev :=
  let d := { d with pci := { d.pci with unsignalled := kvDel v d.pci.unsignalled } }
  if !d.pci.msixEnable then d
  else if d.vectorMasked v || !d.pci.busMaster || d.pci.d3hot || d.pci.link == .down then d.setPba v
  else if d.pci.link == .recovery then d.holdPush ⟨.message v, 0, [], some v, d.timeNs⟩
  else d.sendMsix v

/-- One more entry to be signalled on vector `v`: moderation of HOST_MSIX_MOD (04 R96). -/
def Dev.signalEntry (d : Dev) (v : Nat) : Dev :=
  let n := (kvGet v d.pci.unsignalled).getD 0 + 1
  let d := { d with pci := { d.pci with unsignalled := kvPut v n d.pci.unsignalled } }
  let count := d.rd (Reg.HOST_MSIX_MOD.COUNT v)
  if d.rd (Reg.HOST_MSIX_MOD.HOLDOFF_US v) == 0 || (count != 0 && decide (count ≤ n)) then d.messageDue v else d

/-- Store bytes in host memory. -/
def Dev.hostPoke (d : Dev) (a : Nat) (bs : List Byte) : Dev := { d with hostMem := memPutList d.hostMem a bs }

/-- Write an entry to host memory, or hold it while the host path is not up or earlier writes are held (04 R102). A write
held while the link is down has its vector's PBA bit set on delivery; any other is signalled at once. -/
def Dev.hostWrite (d : Dev) (kind : HeldKind) (a : Nat) (bs : List Byte) (vector : Option Nat) : Dev :=
  if d.pathUp && d.pci.hold.isEmpty then
    let d := d.hostPoke a bs
    match vector with
    | some v => d.signalEntry v
    | none => d
  else if d.pci.link == .down then d.holdPush ⟨kind, a, bs, vector, d.timeNs⟩
  else
    let d := d.holdPush ⟨kind, a, bs, none, d.timeNs⟩
    match vector with
    | some v => d.signalEntry v
    | none => d

/-- Deliver one held write; a message that met a DL_Down (its vector field emptied) sets its PBA bit instead. -/
def Dev.deliverHeld (h : Held) (d : Dev) : Dev :=
  match h.kind with
  | .message v => if d.vectorMasked v || h.vector.isNone then d.setPba v else d.sendMsix v
  | _ =>
    let d := d.hostPoke h.addr h.data
    match h.vector with
    | some v => d.setPba v
    | none => d

/-- Deliver every held write in its order (04 R102). -/
def Dev.deliverHolds (d : Dev) : Dev :=
  let l := d.pci.hold
  ({ d with pci := { d.pci with hold := [] } } : Dev).forEach l Dev.deliverHeld

/-- Send the message of every vector whose PBA bit is set and that may now signal (04 R97, R102). -/
def Dev.sendPending (d : Dev) : Dev :=
  d.forEach (List.range 64) fun v d =>
    if bitAt (d.rd Reg.MSIX_PBA.PENDING) v && d.pci.msixEnable && d.pathUp && !d.vectorMasked v then
      (d.wr Reg.MSIX_PBA.PENDING (setBits (d.rd Reg.MSIX_PBA.PENDING) v 1 0)).sendMsix v
    else d

/-! ### Error classes and corrected errors -/

/-- Classes of 22 R572. -/
def clsInfo : Nat := 0
def clsCorrected : Nat := 1
def clsDropped : Nat := 2
def clsContained : Nat := 3
def clsFatal : Nat := 4

/-- One occurrence of an error class (22 R576). -/
def Dev.occur (d : Dev) (cls : Nat) : Dev := d.inc (Reg.ERR_CLASS_COUNT.COUNT cls)

/-! ### Events -/

/-- The 32 bytes of one entry (22 R580). -/
def eventBytes (e : Event) (phase more cont : Bool) (sub a0 a1 a2 : Nat) : List Byte :=
  let ctx := match e.ctx with
    | some c => 2 + c % 16 * 16
    | none => 0
  leBytes 2 e.code ++ leBytes 1 e.cls ++ leBytes 1 (b2n phase + ctx + 4 * b2n more + 8 * b2n cont) ++ leBytes 4 e.seq
    ++ leBytes 8 e.time ++ leBytes 1 sub ++ leBytes 3 a0 ++ leBytes 4 a1 ++ leBytes 8 a2

/-- Entries an event takes. -/
def eventEntries (e : Event) : Nat := if e.more.isSome then 2 else 1

/-- Entries of the ring. -/
def Dev.ringSize (d : Dev) : Nat := 2 ^ d.rd Reg.ERR_EVT_CFG.LOG2

/-- Entries that may still be written (22 R581). -/
def Dev.ringRoom (d : Dev) : Nat :=
  let n := d.ringSize
  n - 1 - (d.rd Reg.ERR_EVT_TAIL.TAIL + n - d.rd Reg.ERR_EVT_HEAD.HEAD % n) % n

/-- The device can write an event of `n` entries now (22 R581, R582). -/
def Dev.canWriteEvent (d : Dev) (n : Nat) : Bool :=
  d.on Reg.ERR_EVT_CFG.EN && d.ready && decide (n ≤ d.ringRoom)
    && (!d.evt.ringHost || (d.pathUp && d.pci.hold.isEmpty) || decide (n ≤ d.holdFree))

/-- Write one 32-byte entry at the ring's tail and advance it. -/
def Dev.ringPut (d : Dev) (bs : List Byte) (last : Bool) : Dev :=
  let t := d.rd Reg.ERR_EVT_TAIL.TAIL
  let a := d.evt.ringAddr + 32 * t
  let d := if d.evt.ringHost then d.hostWrite .event a bs (if last then some 0 else none)
    else (d.poke a bs).countHbm true a 32
  let d := if t + 1 = d.ringSize then (d.wr Reg.ERR_EVT_TAIL.TAIL 0).wr Reg.ERR_EVT_TAIL.PHASE (1 - d.rd Reg.ERR_EVT_TAIL.PHASE)
    else d.wr Reg.ERR_EVT_TAIL.TAIL (t + 1)
  if last && !d.evt.ringHost then d.signalEntry 0 else d

/-- Write an event into the ring. -/
def Dev.writeEvent (d : Dev) (e : Event) : Dev :=
  let ph (d : Dev) := d.on Reg.ERR_EVT_TAIL.PHASE
  match e.more with
  | none => d.ringPut (eventBytes e (ph d) false false e.sub e.arg0 e.arg1 e.arg2) true
  | some (s, a0, a1, a2) =>
    let d := d.ringPut (eventBytes e (ph d) true false e.sub e.arg0 e.arg1 e.arg2) false
    d.ringPut (eventBytes e (ph d) false true s a0 a1 a2) true

/-- Lose an event (22 R582). -/
def Dev.loseEvent (d : Dev) (seq : Nat) : Dev :=
  let d := d.inc Reg.ERR_EVT_DROPS.COUNT
  { d with evt := { d.evt with lost := d.evt.lost + 1, lostFirst := if d.evt.lost = 0 then seq else d.evt.lostFirst } }

/-- Write pending events in order while the device can; `fuel` bounds their number. -/
def Dev.flushPending (d : Dev) : (fuel : Nat) → Dev
  | 0 => d
  | n + 1 =>
    match d.evt.pending with
    | [] => d
    | e :: es =>
      if d.canWriteEvent (eventEntries e) then
        (({ d with evt := { d.evt with pending := es } } : Dev).writeEvent e).flushPending n
      else d

/-- Write pending events, then EVENTS_DROPPED where events were lost (22 R582). -/
def Dev.flushEvents (d : Dev) : Dev :=
  let d := d.flushPending d.evt.pending.length
  if d.evt.pending.isEmpty && d.evt.lost != 0 && d.canWriteEvent 1 then
    let seq := d.rd Reg.ERR_EVT_SEQ.SEQ
    let e : Event := ⟨0x1601, clsDropped, none, seq, d.timeNs, 0, 0, d.evt.lost, d.evt.lostFirst, none⟩
    let d := (d.wr Reg.ERR_EVT_SEQ.SEQ (seq + 1)).occur clsDropped
    ({ d with evt := { d.evt with lost := 0 } } : Dev).writeEvent e
  else d

/-- Whether an event goes to management (22 R583, R584). -/
inductive Mgmt where
  | no | yes | only
  deriving DecidableEq, Repr

/-- Give an event to the management path: sent at once in asynchronous mode over an active link, else kept, at most 256
(21 R552). -/
def Dev.mgmtEvent (d : Dev) (e : Event) : Dev :=
  if d.mgt.mode == 1 && d.pci.link != .down && d.evt.mgmt.isEmpty then d.emit (.mgmtEvent e)
  else if d.evt.mgmt.length < 256 then { d with evt := { d.evt with mgmt := d.evt.mgmt ++ [e] } }
  else d.inc Reg.MGT_EVT_DROPS.COUNT

/-- Raise an event (22 R576, R580-R583). -/
def Dev.raise (d : Dev) (code cls : Nat) (ctx : Option Nat) (sub a0 a1 a2 : Nat) (m : Mgmt := .no)
    (more : Option (Nat × Nat × Nat × Nat) := none) : Dev :=
  let seq := d.rd Reg.ERR_EVT_SEQ.SEQ
  let e : Event := ⟨code, cls, ctx, seq, d.timeNs, sub, a0, a1, a2, more⟩
  let d := d.occur cls
  let d := if m == .no then d else d.mgmtEvent e
  if m == .only then d
  else
    let d := d.wr Reg.ERR_EVT_SEQ.SEQ (seq + 1)
    let d := if d.evt.pending.isEmpty && d.evt.lost == 0 && d.canWriteEvent (eventEntries e) then d.writeEvent e
      else if d.evt.pending.length < 256 then { d with evt := { d.evt with pending := d.evt.pending ++ [e] } }
      else d.loseEvent seq
    d.flushEvents

/-- Record a FATAL cause (22 R588, R590). -/
def Dev.fatal (d : Dev) (code sub seq : Nat) : Dev :=
  let d := { d with evt := { d.evt with fatalCode := code, fatalSub := sub, fatalSeq := seq } }
  ((d.wr Reg.ERR_LAST_FATAL.CODE code).wr Reg.ERR_LAST_FATAL.SUB sub).wr Reg.ERR_LAST_FATAL.SEQ seq

/-- Corrected errors: source code (22 R584 CORRECTED_RATE), unit, number of them. CORRECTED_RATE at the
(ERR_CE_LIMIT + 1)-th of one source in one second of device time (22 R576); the event is no occurrence of its own. -/
def Dev.corrected (d : Dev) (src unit n : Nat) : Dev :=
  let sec := d.timeNs / 1000000000
  let d := if d.evt.ceSecond = sec then d else { d with evt := { d.evt with ceSecond := sec, ceCount := [] } }
  let key := src * 256 + unit
  let old := (kvGet key d.evt.ceCount).getD 0
  let d := { d with evt := { d.evt with ceCount := kvPut key (old + n) d.evt.ceCount } }
  let d := d.inc (Reg.ERR_CLASS_COUNT.COUNT clsCorrected) n
  let lim := d.rd Reg.ERR_CE_LIMIT.LIMIT
  if lim ≠ 0 ∧ old ≤ lim ∧ lim < old + n then
    let cnt := d.rd (Reg.ERR_CLASS_COUNT.COUNT clsCorrected)
    (d.raise 0x1602 clsCorrected none src unit (lim + 1) 0).wr (Reg.ERR_CLASS_COUNT.COUNT clsCorrected) cnt
  else d

/-- DEVICE_HELD (22 R584, R588): the FATAL hold is recorded and the event raised. -/
def Dev.deviceHeld (d : Dev) (sub : Nat) : Dev :=
  let seq := d.rd Reg.ERR_EVT_SEQ.SEQ
  (d.raise 0x1605 clsFatal none sub 0 0 0 .yes).fatal 0x1605 sub seq

end Sys2Proof.Machine
end

