-- ==== Sys2Proof/Machine/Access.lean ====
section
/-!
DEFINITION. Memory access for a context: context windows (03 R77-R84), power and readiness (13 R339, R357), uncorrectable and
corrected words (13 R333-R340), the host path (04 R101, R105).
Choices: DEDUCED, notes/assumptions/26.md.
-/
namespace Sys2Proof.Machine

/-- A failure: major, detail, RESULT. -/
abbrev Fail := Finish

/-- Who issues an access: WINDOW_VIOLATION unit (0 CP, 1 porter, 2 core unit, 3 Inn, 4 fabric receiver), porter or core,
and MEM_LAST_UE source (13 R355). -/
structure Issuer where
  unit : Nat
  idx  : Nat
  src  : Nat
  deriving DecidableEq, Repr

def byCp : Issuer := ⟨0, 0, 0⟩
def byPorter (p : Nat) : Issuer := ⟨1, p, 0⟩
def byCore (core : Nat) : Issuer := ⟨2, core, 1⟩
def byInn : Issuer := ⟨3, 0, 2⟩
def byFabric : Issuer := ⟨4, 0, 4⟩

/-! ### Windows -/

/-- An HBM window is open and consistent; its first and last byte (R78, R79). -/
def Dev.hbmWin (d : Dev) (c w : Nat) : Option (Nat × Nat) :=
  let lo := d.rd (Reg.CTX_HBM_WIN_LO.BASE c w) * 0x10000
  let hi := d.rd (Reg.CTX_HBM_WIN_HI.LAST c w) * 0x10000 + 0xFFFF
  if d.on (Reg.CTX_HBM_WIN_LO.EN c w) && decide (lo ≤ hi) && decide (hi < d.hbmTop) then some (lo, hi) else none

/-- The scratchpad window of a context on a core: base and end, closed when its size is 0 or it is inconsistent (R79). -/
def Dev.spmWin (d : Dev) (c core : Nat) : Option (Nat × Nat) :=
  let b := d.rd (Reg.CTX_SPM.BASE_U c core)
  let n := d.rd (Reg.CTX_SPM.SIZE_U c core)
  if n ≠ 0 ∧ b + n ≤ 1024 then some (spmBase core + b * 0x10000, spmBase core + (b + n) * 0x10000) else none

/-- Size in bytes of a context's host window, 0 when closed or inconsistent (R79). -/
def Dev.hostWinSize (d : Dev) (c : Nat) : Nat :=
  let b := d.rd (Reg.CTX_HOST_BASE.BASE c) * 0x1000
  let n := d.rd (Reg.CTX_HOST_SIZE.SIZE c) * 0x1000
  if b + n ≤ 2 ^ 64 then n else 0

/-- The host address that device address `a` of the host window reaches for a context (R80). -/
def Dev.hostAddr (d : Dev) (c a : Nat) : Nat := d.rd (Reg.CTX_HOST_BASE.BASE c) * 0x1000 + (a - hostBase)

/-- Whether SO `n` lies in a context's SO range (R77, R79). -/
def Dev.soAllowed (d : Dev) (c n : Nat) : Bool :=
  let f := d.rd (Reg.CTX_SO.FIRST c)
  let k := d.rd (Reg.CTX_SO.COUNT c)
  decide (f + k ≤ 4096) && decide (f ≤ n) && decide (n < f + k)

/-- Whether any open window of a context is inconsistent (R79). -/
def Dev.winCfgErr (d : Dev) (c : Nat) : Bool :=
  (List.range 16).any (fun w => d.on (Reg.CTX_HBM_WIN_LO.EN c w) && (d.hbmWin c w).isNone)
    || (List.range 2).any (fun k => d.rd (Reg.CTX_SPM.SIZE_U c k) != 0 && (d.spmWin c k).isNone)
    || decide (d.rd (Reg.CTX_SO.COUNT c) ≠ 0 ∧ 4096 < d.rd (Reg.CTX_SO.FIRST c) + d.rd (Reg.CTX_SO.COUNT c))
    || decide (d.rd (Reg.CTX_HOST_SIZE.SIZE c) ≠ 0 ∧ d.hostWinSize c = 0)

/-- The open HBM windows that cover a byte. -/
def Dev.coveringWins (d : Dev) (c a : Nat) : List Nat :=
  (List.range 16).filter fun w =>
    match d.hbmWin c w with
    | some (lo, hi) => decide (lo ≤ a) && decide (a ≤ hi)
    | none => false

/-- The DENIED detail of one byte for a context, 0 when the access is granted (R77, R85). -/
def Dev.byteVerdict (d : Dev) (c : Nat) (wr : Bool) (a : Nat) : Nat :=
  match d.region a with
  | .hbm =>
    let ws := d.coveringWins c a
    if ws.isEmpty then 0x0301
    else if wr then (if ws.any (fun w => d.on (Reg.CTX_HBM_WIN_LO.WR c w)) then 0 else 0x0302)
    else if ws.any (fun w => d.on (Reg.CTX_HBM_WIN_LO.RD c w)) then 0 else 0x0303
  | .reserved => 0x0304
  | .spm core =>
    match d.spmWin c core with
    | some (lo, hi) => if lo ≤ a ∧ a < hi then 0 else 0x0301
    | none => 0x0301
  | .hall | .so | .ctl => 0x0305
  | .host => if a - hostBase < d.hostWinSize c then 0 else 0x0307
  | .unmapped => 0x0306

/-- Addresses at which the verdict of a byte may change: region bounds and window bounds. -/
def Dev.winBreaks (d : Dev) (c : Nat) : List Nat :=
  [d.hbmTop, d.resvBase, spmBase 0, spmBase 1, spmBase 1 + spmSize, hallBase, hallBase + hallSize, soBase, soBase + 0x10000,
    ctlBase, ctlBase + 0x4000000, hostBase, hostEnd, hostBase + d.hostWinSize c]
  ++ (List.range 16).flatMap (fun w => match d.hbmWin c w with
    | some (lo, hi) => [lo, hi + 1]
    | none => [])
  ++ (List.range 2).flatMap (fun k => match d.spmWin c k with
    | some (lo, hi) => [lo, hi]
    | none => [])

/-- The first refused byte of [a, a + n) and its detail (R82). -/
def Dev.firstRefused (d : Dev) (c : Nat) (wr : Bool) (a n : Nat) : Option (Nat × Nat) :=
  let cands := (a :: (d.winBreaks c).filter (fun b => decide (a < b) && decide (b < a + n))).filter
    (fun b => d.byteVerdict c wr b != 0)
  match cands with
  | [] => none
  | b :: bs =>
    let m := bs.foldl min b
    if n = 0 then none else some (m, d.byteVerdict c wr m)

/-- Record a refused access: VIOLATIONS, CTX_WIN_LAST, WINDOW_VIOLATION (R82, R84, R87). -/
def Dev.violation (d : Dev) (c : Nat) (who : Issuer) (a det : Nat) : Dev :=
  let d := d.inc (Reg.CTX_WIN_STATUS.VIOLATIONS c)
  let d := (d.wr (Reg.CTX_WIN_LAST.ADDR c) a).wr (Reg.CTX_WIN_LAST.DETAIL c) det
  d.raise 0x0301 clsContained (some c) who.unit who.idx det a

/-! ### Power, readiness, uncorrectable words -/

/-- NOT_READY of a range of device memory, if any: a scratchpad group that is not ON (R339), a stack that serves no access
(R357), or a unit out of service (21 R565). -/
def Dev.rangeNotReady (d : Dev) (a n : Nat) : Option (Nat × Nat) :=
  match d.region a with
  | .spm _ =>
    let gs := rangeFrom ((a - spmBase 0) / 0x1000000) ((a - spmBase 0 + n - 1) / 0x1000000 + 1)
    let doms := gs.map fun g => domSpm (g / 4) (g % 4)
    if doms.any (fun p => !d.domOn p) || d.board.domHeld || d.board.tripped then some (0x0F, 0x0D20)
    else (doms.filterMap fun p => d.unitRefusal p).head?
  | .hbm | .reserved =>
    let ks := d.stacksOf a n
    if ks.any (fun k => !d.stackReady k) then some (0x0F, 0x0D22)
    else ((List.range d.stacks).filterMap fun k => d.unitRefusal (domStack k)).head?
  | _ => none

/-- Record the 64-byte block of an uncorrectable word in its stack's poison log, unless it is there already (R334). -/
def Dev.poisonLog (d : Dev) (k block : Nat) : Dev :=
  let n := d.rd (Reg.MEM_POISON_STATUS.COUNT k)
  if (List.range n).any (fun i => d.rd (Reg.MEM_POISON.ADDR k i) == block) then d
  else if n < 256 then (d.wr (Reg.MEM_POISON.ADDR k n) block).wr (Reg.MEM_POISON_STATUS.COUNT k) (n + 1)
  else d.wr (Reg.MEM_POISON_STATUS.OVERFLOW k) 1

/-- Whether a block stands in its stack's poison log. -/
def Dev.inPoisonLog (d : Dev) (k block : Nat) : Bool :=
  (List.range (d.rd (Reg.MEM_POISON_STATUS.COUNT k))).any (fun i => d.rd (Reg.MEM_POISON.ADDR k i) == block)

/-- An access met the uncorrectable word `w`: counters, poison log, HBM_UE or SPM_UE (R334, R340). -/
def Dev.meetUe (d : Dev) (src w : Nat) (ctx : Option Nat) : Dev :=
  match d.region w with
  | .spm core =>
    let d := (d.inc (Reg.SPM_UE.COUNT core)).wr (Reg.SPM_LAST_UE.ADDR core) w
    d.raise 0x0D02 clsContained ctx 0 core 0 w
  | _ =>
    let k := d.stackOf w
    let block := w / 64 * 64
    let d := d.inc (Reg.MEM_UE_COUNT.COUNT k)
    let d := (d.wr (Reg.MEM_LAST_UE.ADDR k) block).wr (Reg.MEM_LAST_UE.SOURCE k) src
    (d.poisonLog k block).raise 0x0D01 clsContained ctx src k 0 w

/-- The DATA_ERROR detail of an uncorrectable word. -/
def Dev.ueDetail (d : Dev) (w : Nat) : Nat :=
  match d.region w with
  | .spm _ => 0x0D11
  | _ => 0x0D10

/-- Correct the words of a range that hold a correctable error (R333, R340). -/
def Dev.correctRange (d : Dev) (a n : Nat) : Dev :=
  let ws := d.ce.filter (touchesWord a n)
  let d := { d with ce := d.ce.filter fun w => !touchesWord a n w }
  d.forEach ws fun w d =>
    match d.region w with
    | .spm core => (d.inc (Reg.SPM_CE.COUNT core)).corrected 1 core 1
    | _ => let k := d.stackOf w; (d.inc (Reg.MEM_CE_COUNT.COUNT k)).corrected 0 k 1

/-! ### Reads and writes -/

/-- What a read answers: the state after it, and the bytes or why it failed. -/
structure Got where
  dev  : Dev
  res  : Except Fail (List Byte)

/-- What a write answers. -/
structure Put where
  dev  : Dev
  err  : Option Fail

/-- A read of device memory with no window check: firmware, the Inn, and the part of an access behind its window check. -/
def Dev.readRaw (d : Dev) (who : Issuer) (ctx : Option Nat) (a n : Nat) : Got :=
  match d.rangeNotReady a n with
  | some (mj, dt) => ⟨d, .error ⟨mj, dt, 0⟩⟩
  | none =>
    match d.ue.find? (touchesWord a n) with
    | some w => ⟨d.meetUe who.src w ctx, .error ⟨0x0E, d.ueDetail w, 0⟩⟩
    | none =>
      let d := d.correctRange a n
      let d := match d.region a with
        | .hbm | .reserved => d.countHbm false a n
        | _ => d
      ⟨d, .ok (d.peek a n)⟩

/-- A write of device memory with no window check. A partial write into an uncorrectable word fails (R334). -/
def Dev.writeRaw (d : Dev) (who : Issuer) (ctx : Option Nat) (a : Nat) (bs : List Byte) : Put :=
  let n := bs.length
  match d.rangeNotReady a n with
  | some (mj, dt) => ⟨d, some ⟨mj, dt, 0⟩⟩
  | none =>
    match d.ue.find? (fun w => touchesWord a n w && !wholeWord a n w) with
    | some w => ⟨d.meetUe who.src w ctx, some ⟨0x0E, d.ueDetail w, 0⟩⟩
    | none =>
      let d := d.correctRange a n
      let d := d.poke a bs
      let d := match d.region a with
        | .hbm | .reserved => d.countHbm true a n
        | _ => d
      ⟨d, none⟩

/-- DENIED of the first refused byte, with its bookkeeping (R84). -/
def Dev.windowCheck (d : Dev) (who : Issuer) (c : Nat) (wr : Bool) (a n : Nat) : Put :=
  match d.firstRefused c wr a n with
  | some (b, det) => ⟨d.violation c who b det, some ⟨0x10, det, 0⟩⟩
  | none => ⟨d, none⟩

/-- A read for a context (R83, R84). -/
def Dev.read (d : Dev) (who : Issuer) (c a n : Nat) : Got :=
  if n = 0 then ⟨d, .ok []⟩
  else
    match d.windowCheck who c false a n with
    | ⟨d, some f⟩ => ⟨d, .error f⟩
    | ⟨d, none⟩ =>
      if d.region a == .host then
        if d.hostReadable then ⟨d, .ok (memGetList d.hostMem (d.hostAddr c a) n)⟩ else ⟨d, .error ⟨0x0E, 0x0404, 0⟩⟩
      else d.readRaw who (some c) a n

/-- A write for a context (R83, R84). -/
def Dev.write (d : Dev) (who : Issuer) (c a : Nat) (bs : List Byte) : Put :=
  if bs.isEmpty then ⟨d, none⟩
  else
    match d.windowCheck who c true a bs.length with
    | ⟨d, some f⟩ => ⟨d, some f⟩
    | ⟨d, none⟩ =>
      if d.region a == .host then
        if d.hostReadable then ⟨d.hostWrite .output (d.hostAddr c a) bs none, none⟩ else ⟨d, some ⟨0x0E, 0x0404, 0⟩⟩
      else d.writeRaw who (some c) a bs

/-- A write for a context of contents that the spec does not give: the range becomes undefined (DESIGN CHOICE, notes/assumptions/4.md). -/
def Dev.writeFree (d : Dev) (who : Issuer) (c a n : Nat) : Put :=
  match d.windowCheck who c true a n with
  | ⟨d, some f⟩ => ⟨d, some f⟩
  | ⟨d, none⟩ =>
    match d.rangeNotReady a n with
    | some (mj, dt) => ⟨d, some ⟨mj, dt, 0⟩⟩
    | none =>
      let d := d.scribble a n
      ⟨match d.region a with
        | .hbm | .reserved => d.countHbm true a n
        | _ => d, none⟩

/-- A read by a unit of a core, which reaches only its own scratchpad (13 R341): behind the windows, another place fails the
descriptor with PARAM_RANGE, TD_FIELD. -/
def Dev.coreRead (d : Dev) (core c a n : Nat) : Got :=
  if n = 0 then ⟨d, .ok []⟩
  else
    match d.windowCheck (byCore core) c false a n with
    | ⟨d, some f⟩ => ⟨d, .error f⟩
    | ⟨d, none⟩ =>
      if d.region a == .spm core && d.region (a + n - 1) == .spm core then d.readRaw (byCore core) (some c) a n
      else ⟨d, .error ⟨0x02, 0x0605, 0⟩⟩

/-- A write by a unit of a core, which reaches only its own scratchpad (13 R341). -/
def Dev.coreWrite (d : Dev) (core c a : Nat) (bs : List Byte) : Put :=
  if bs.isEmpty then ⟨d, none⟩
  else
    match d.windowCheck (byCore core) c true a bs.length with
    | ⟨d, some f⟩ => ⟨d, some f⟩
    | ⟨d, none⟩ =>
      if d.region a == .spm core && d.region (a + bs.length - 1) == .spm core then d.writeRaw (byCore core) (some c) a bs
      else ⟨d, some ⟨0x02, 0x0605, 0⟩⟩

/-- Write a list of (address, bytes) in order, stopping at the first failure; what was written before stays (R84). -/
def Dev.writeAll (d : Dev) (who : Issuer) (c : Nat) : List (Nat × List Byte) → Put
  | [] => ⟨d, none⟩
  | (a, bs) :: l =>
    match d.write who c a bs with
    | ⟨d, none⟩ => d.writeAll who c l
    | p => p

/-- Read a list of (address, length) in order. -/
def Dev.readAll (d : Dev) (who : Issuer) (c : Nat) : List (Nat × Nat) → Dev × Except Fail (List (List Byte))
  | [] => (d, .ok [])
  | (a, n) :: l =>
    match d.read who c a n with
    | ⟨d, .error f⟩ => (d, .error f)
    | ⟨d, .ok bs⟩ =>
      match d.readAll who c l with
      | (d, .ok rest) => (d, .ok (bs :: rest))
      | r => r

/-- The check of a command's address ranges before dispatch (R82): none when every range is granted, else the first refused
byte and its detail. Ranges are (write, address, length). -/
def Dev.rangesRefused (d : Dev) (c : Nat) : List (Bool × Nat × Nat) → Option (Nat × Nat)
  | [] => none
  | (w, a, n) :: l =>
    match d.firstRefused c w a n with
    | some r => some r
    | none => d.rangesRefused c l

/-- DENIED of the first refused range of a list, with its bookkeeping (03 R84). -/
def Dev.denyRanges (d : Dev) (ctx : Nat) (l : List (Bool × Nat × Nat)) : Put :=
  match d.rangesRefused ctx l with
  | some (a, det) => ⟨d.violation ctx byCp a det, some ⟨0x10, det, 0⟩⟩
  | none => ⟨d, none⟩

end Sys2Proof.Machine
end

