-- ==== Sys2Proof/Machine/Operands.lean ====
section
/-!
DEFINITION. The operand forms: submission packets (05 R126, R130, R131), task descriptors (06 R150), porter descriptors
(13 R344), and the lookups of the records they belong to.
-/
namespace Sys2Proof.Machine

/-! ### Packets -/

/-- Field of a v2 packet at byte offset `off`, `len` bytes (R126). -/
def pktField (p : Packet) (off len : Nat) : Nat := bits p.toNat (8 * off) (8 * len)

/-- Field of the parameter block at byte offset `off`. -/
def Cmd.par (c : Cmd) (off len : Nat) : Nat := pktField c.pkt (0x20 + off) len

/-- `len` bytes of the parameter block. -/
def Cmd.parBytes (c : Cmd) (off len : Nat) : List Byte := leBytes len (c.par off len)

def Cmd.opcode (c : Cmd) : Nat := pktField c.pkt 0x00 2
def Cmd.fmt (c : Cmd) : Nat := pktField c.pkt 0x02 1
def Cmd.waitEn (c : Cmd) : Bool := bitAt (pktField c.pkt 0x03 1) 0
def Cmd.signalEn (c : Cmd) : Bool := bitAt (pktField c.pkt 0x03 1) 1
def Cmd.serial (c : Cmd) : Bool := bitAt (pktField c.pkt 0x03 1) 2
def Cmd.signalOnError (c : Cmd) : Bool := bitAt (pktField c.pkt 0x03 1) 3
def Cmd.cmdId (c : Cmd) : Nat := pktField c.pkt 0x04 4
def Cmd.paramQw (c : Cmd) : Nat := pktField c.pkt 0x08 1
def Cmd.timeoutMs (c : Cmd) : Nat := pktField c.pkt 0x0A 2
def Cmd.waitSo (c : Cmd) : Nat := pktField c.pkt 0x0C 2 % 4096
def Cmd.signalSo (c : Cmd) : Nat := pktField c.pkt 0x0E 2 % 4096
def Cmd.waitValue (c : Cmd) : Nat := pktField c.pkt 0x10 8
def Cmd.signalAdd (c : Cmd) : Nat := pktField c.pkt 0x18 8

/-- ABORT ignores WAIT_EN (R137). -/
def Cmd.waits (c : Cmd) : Bool := c.waitEn && c.opcode != 0x0102

/-- The record stands for a serving batch, not for a command of a queue pair (18 R488). -/
def Cmd.ofBatch (c : Cmd) : Bool := decide (256 ≤ c.qp)

/-- Routine classes (06 R158). -/
inductive RClass where
  | short | staged | long
  deriving DecidableEq, Repr

/-- One row of the opcode table (05 R131) with its routine class (06 R160). -/
structure OpInfo where
  code  : Nat
  param : Nat
  cp    : Nat
  priv  : Bool
  v1    : Bool
  cls   : RClass
  deriving DecidableEq, Repr

/-- The opcode table (R131, 06 R160). -/
def opTable : List OpInfo := [
  ⟨0x0101, 0, 0, false, true, .short⟩, ⟨0x0102, 16, 0, false, false, .short⟩, ⟨0x0103, 0, 0, false, true, .short⟩,
  ⟨0x0104, 40, 2, false, false, .short⟩, ⟨0x0105, 24, 0, true, false, .short⟩,
  ⟨0x0201, 24, 1, false, true, .long⟩, ⟨0x0202, 24, 1, false, true, .long⟩, ⟨0x0203, 48, 1, false, false, .long⟩,
  ⟨0x0204, 48, 1, false, false, .long⟩, ⟨0x0205, 16, 1, false, false, .long⟩, ⟨0x0206, 32, 1, false, false, .long⟩,
  ⟨0x0301, 32, 1, false, true, .staged⟩, ⟨0x0302, 96, 1, false, false, .staged⟩, ⟨0x0303, 96, 1, false, false, .staged⟩,
  ⟨0x0304, 64, 1, false, false, .staged⟩, ⟨0x0305, 64, 1, false, false, .staged⟩]
  ++ [⟨0x0401, 16, 2, false, false, .short⟩, ⟨0x0402, 24, 2, false, false, .short⟩, ⟨0x0403, 24, 2, false, false, .short⟩,
  ⟨0x0404, 16, 2, false, false, .short⟩, ⟨0x0405, 16, 2, false, false, .short⟩, ⟨0x0406, 16, 2, false, false, .short⟩,
  ⟨0x0407, 24, 2, false, false, .short⟩, ⟨0x0408, 16, 2, false, false, .short⟩, ⟨0x0410, 32, 2, false, false, .staged⟩,
  ⟨0x0501, 24, 3, false, false, .short⟩, ⟨0x0502, 32, 3, false, false, .staged⟩, ⟨0x0503, 48, 1, false, false, .staged⟩,
  ⟨0x0504, 16, 3, false, false, .short⟩, ⟨0x0505, 8, 3, false, false, .short⟩, ⟨0x0506, 16, 3, false, false, .short⟩,
  ⟨0x0507, 16, 3, false, false, .short⟩]
  ++ [⟨0x0601, 24, 3, true, false, .short⟩, ⟨0x0602, 64, 1, false, false, .staged⟩, ⟨0x0603, 40, 1, false, false, .long⟩,
  ⟨0x0604, 16, 3, true, false, .short⟩, ⟨0x0605, 16, 3, false, false, .short⟩, ⟨0x0701, 32, 3, true, false, .short⟩,
  ⟨0x0702, 16, 3, true, false, .short⟩, ⟨0x0703, 16, 3, true, false, .short⟩, ⟨0x0704, 16, 3, false, false, .short⟩,
  ⟨0x0801, 16, 1, true, false, .staged⟩, ⟨0x0802, 32, 1, true, false, .long⟩, ⟨0x0803, 16, 3, true, false, .staged⟩,
  ⟨0x0804, 32, 3, true, false, .short⟩]
  ++ [⟨0x0901, 24, 3, true, false, .short⟩, ⟨0x0902, 16, 3, false, false, .long⟩, ⟨0x0903, 16, 3, false, false, .long⟩,
  ⟨0x0904, 24, 3, false, false, .staged⟩, ⟨0x0A01, 24, 1, false, false, .short⟩, ⟨0x0A02, 24, 1, false, false, .short⟩,
  ⟨0x0A03, 24, 3, true, false, .long⟩, ⟨0x0A04, 8, 3, true, false, .short⟩, ⟨0x0A05, 24, 3, true, false, .short⟩]

/-- The row of an opcode. -/
def opInfo (code : Nat) : Option OpInfo := opTable.find? fun r => r.code == code

/-- The v2 packet that a v1 packet of 64 bytes runs as (R130). -/
def fromV1 (w : Nat) : Packet :=
  let op := bits w 0 16
  let len := match opInfo op with
    | some r => r.param
    | none => 0
  BitVec.ofNat 2048 (op + bits w 16 8 * 2 ^ 16 + b2n (bitAt w 24) * 2 ^ 26 + bits w 32 32 * 2 ^ 32 + len / 8 * 2 ^ 64
    + bits w 64 (8 * min len 56) * 2 ^ 256)

/-! ### Checks of a parameter block (R135) -/

/-- One check of step 7 or 8: whether it fails, and with what; `off` is the field's offset in the parameter block. -/
structure PChk where
  bad   : Bool
  major : Nat
  detail : Nat
  off   : Nat
  deriving DecidableEq, Repr

/-- A field out of range, with its chapter's detail. -/
def pchk (bad : Bool) (detail off : Nat) : PChk := ⟨bad, 0x02, detail, off⟩

/-- An address field has bits [63:48] set (03 R61). -/
def paddr (c : Cmd) (off : Nat) : PChk := ⟨decide (2 ^ 48 ≤ c.par off 8), 0x02, 0x0310, off⟩

/-- FIELD_RANGE (R136). -/
def pfield (bad : Bool) (off : Nat) : PChk := pchk bad 0x0511 off

/-- The first check that fails. -/
def firstBad (l : List PChk) : Option PChk := l.find? fun x => x.bad

/-- Two byte extents overlap. -/
def overlap (a n b m : Nat) : Bool := decide (a < b + m) && decide (b < a + n)

/-! ### Commands in flight -/

/-- The command with a device tag. -/
def Dev.cmd? (d : Dev) (slot : Nat) : Option Cmd := d.cp0.cmds.find? fun c => c.slot == slot

/-- Apply `f` to the command with a device tag. -/
def Dev.updCmd (d : Dev) (slot : Nat) (f : Cmd → Cmd) : Dev :=
  { d with cp0 := { d.cp0 with cmds := d.cp0.cmds.map fun c => if c.slot = slot then f c else c } }

/-- Every share of a command is suspended: it runs nothing (06 R164). -/
def Cmd.parked (c : Cmd) : Bool := !c.suspended.isEmpty && c.cores.all c.suspended.contains

/-- The priority class of a context: 0 DEADLINE, 1 NORMAL, 2 BULK (05 R114). -/
def Dev.ctxClass (d : Dev) (c : Nat) : Nat := d.rd (Reg.CTX_CFG.CLASS c)

/-! ### Task descriptors (06 R150) -/

abbrev TdWord := BitVec 512

def tdf (t : TdWord) (off len : Nat) : Nat := bits t.toNat (8 * off) (8 * len)
def tdKind (t : TdWord) : Nat := tdf t 0x00 1
def tdWaitEn (t : TdWord) : Bool := bitAt (tdf t 0x01 1) 0
def tdSignalEn (t : TdWord) : Bool := bitAt (tdf t 0x01 1) 1
def tdBoundary (t : TdWord) : Bool := bitAt (tdf t 0x01 1) 2
def tdLast (t : TdWord) : Bool := bitAt (tdf t 0x01 1) 3
def tdCtx (t : TdWord) : Nat := tdf t 0x02 1 % 16
def tdWaitCond (t : TdWord) : Nat := tdf t 0x03 1
def tdWaitSo (t : TdWord) : Nat := tdf t 0x04 2 % 4096
def tdSignalSo (t : TdWord) : Nat := tdf t 0x06 2 % 4096
def tdWaitValue (t : TdWord) : Nat := tdf t 0x08 8
def tdSignalAdd (t : TdWord) : Nat := tdf t 0x10 4
def tdCmdTag (t : TdWord) : Nat := tdf t 0x14 4

/-- A descriptor from its 64 bytes. -/
def tdOfBytes (bs : List Byte) : TdWord := BitVec.ofNat 512 (leNat (bs.take 64))

/-- A descriptor as CP1 writes it: CTX, CMD_TAG and LAST are CP1's own (R150). -/
def tdStamp (t : TdWord) (ctx tag : Nat) (last : Bool) : TdWord :=
  let n := setBits t.toNat 16 8 ctx
  let n := setBits n (8 * 0x14) 32 tag
  BitVec.ofNat 512 (setBits n 11 1 (b2n last))

/-- A descriptor of a kind with body fields (offset, size, value), no wait and no signal. -/
def tdMake (kind : Nat) (flags : Nat) (fields : List (Nat × Nat × Nat)) : TdWord :=
  BitVec.ofNat 512 (fields.foldl (fun n (o, l, v) => setBits n (8 * o) (8 * l) v) (kind + flags * 256))

/-- The units of a core that descriptors run on (R152): 0 SEQ, 1 and 7 the load and the pass path of the ARR (08 R214), 2 VE,
3 and 8 the trees of the RU (10 R282), 4 SU, 5 SLV, 6 INN, 100 + p porter p. -/
def tdUnit (t : TdWord) : Nat :=
  match tdKind t with
  | 0x10 => 1
  | 0x11 => 7
  | 0x20 => 2
  | 0x21 => if tdf t 0x2F 1 = 0 then 3 else 8
  | 0x30 => 4
  | 0x40 => 5
  | 0x50 => 6
  | 0x60 => 100 + tdf t 0x20 1
  | _ => 0

/-- The descriptor in a task queue with an identifier. -/
def Dev.td? (d : Dev) (id : Nat) : Option Td := d.seq.tds.find? fun t => t.id == id

/-- Apply `f` to a descriptor in a task queue. -/
def Dev.updTd (d : Dev) (id : Nat) (f : Td → Td) : Dev :=
  { d with seq := { d.seq with tds := d.seq.tds.map fun t => if t.id = id then f t else t } }

/-- A field of a descriptor in a queue. -/
def Td.f (t : Td) (off len : Nat) : Nat := tdf t.td off len

/-- Its context. -/
def Td.ctx (t : Td) : Nat := tdCtx t.td

/-! ### Porter descriptors (13 R344) -/

/-- A 64-byte porter descriptor as a number; field at a byte offset. -/
def pdf (p : Nat) (off len : Nat) : Nat := bits p (8 * off) (8 * len)
def pdOp (p : Nat) : Nat := pdf p 0x00 1
def pdWaitEn (p : Nat) : Bool := bitAt (pdf p 0x01 1) 0
def pdSignalEn (p : Nat) : Bool := bitAt (pdf p 0x01 1) 1
def pdFence (p : Nat) : Bool := bitAt (pdf p 0x01 1) 2
def pdElem (p : Nat) : Nat := pdf p 0x02 1
def pdWaitCond (p : Nat) : Nat := pdf p 0x03 1
def pdWaitSo (p : Nat) : Nat := pdf p 0x04 2 % 4096
def pdSignalSo (p : Nat) : Nat := pdf p 0x06 2 % 4096
def pdSrc (p : Nat) : Nat := pdf p 0x08 8
def pdDst (p : Nat) : Nat := pdf p 0x10 8
def pdRows (p : Nat) : Nat := pdf p 0x18 4
def pdRowBytes (p : Nat) : Nat := pdf p 0x1C 4
def pdSrcStride (p : Nat) : Nat := pdf p 0x20 4
def pdDstStride (p : Nat) : Nat := pdf p 0x24 4
def pdWaitValue (p : Nat) : Nat := pdf p 0x28 8
def pdSignalAdd (p : Nat) : Nat := pdf p 0x30 4
def pdRemoteDev (p : Nat) : Nat := pdf p 0x34 2 % 4096
def pdRemoteCtx (p : Nat) : Nat := pdf p 0x36 1 % 16
def pdEngines (p : Nat) : Nat := pdf p 0x37 1 % 32
def pdAux (p : Nat) : Nat := pdf p 0x38 8

/-- Porters: 0 general, 1 turn, 2 fabric (13 R342). -/
def porterClass (p : Nat) : Nat := if p < 16 then 0 else if p < 20 then 1 else 2

/-- The core a porter belongs to (13 R342). -/
def porterCore (p : Nat) : Nat :=
  if p < 8 then 0 else if p < 16 then 1 else if p < 18 then 0 else if p < 20 then 1 else if p < 22 then 0 else 1

/-- SC0's porter as its counterpart on SC1 (13 R342). -/
def porterOnSc1 (p : Nat) : Nat := if p < 8 then p + 8 else p + 2

end Sys2Proof.Machine
end

