-- ==== Sys2Proof/Machine/CmdOps.lean ====
section
/-!
DEFINITION. Ending commands and descriptors: the first cause wins (05 R139), a failed descriptor stops its command
(06 R149), RESULT of a stopped routine (06 R166).
-/
namespace Sys2Proof.Machine

/-- RESULT of a STAGED or LONG command that stops or fails: pieces completed and total (06 R166). -/
def Cmd.progress (c : Cmd) : Nat := c.done % 2 ^ 32 + c.total % 2 ^ 32 * 2 ^ 32

/-- The class of a command's routine. -/
def Cmd.rclass (c : Cmd) : RClass :=
  match opInfo c.opcode with
  | some r => r.cls
  | none => .short

/-- RESULT of a stopped command: pieces for STAGED and LONG, 0 for SHORT. -/
def Cmd.stopResult (c : Cmd) : Nat := if c.rclass = .short then 0 else c.progress

/-- The executor ends a command. A stop asked for earlier is the first cause (05 R139). -/
def Cmd.ended (c : Cmd) (f : Finish) : Cmd :=
  match c.fin with
  | some _ => { c with phase := .ended }
  | none =>
    match c.stop with
    | some (mj, dt) => { c with phase := .ended, fin := some ⟨mj, dt, c.stopResult⟩ }
    | none => { c with phase := .ended, fin := some f }

/-- End a command with a major, a detail and a RESULT; its descriptors still to be written are dropped. -/
def Dev.endCmd (d : Dev) (slot mj dt res : Nat) : Dev :=
  d.updCmd slot fun c => { c.ended ⟨mj, dt, res⟩ with todo := [] }

/-- End a command with OK. -/
def Dev.okCmd (d : Dev) (slot : Nat) (res : Nat := 0) : Dev := d.endCmd slot 0 0 res

/-- A stop cause arrives: it is kept unless a cause is recorded already (05 R139). -/
def Dev.askStop (d : Dev) (slot mj dt : Nat) : Dev :=
  d.updCmd slot fun c =>
    if c.fin.isSome || c.stop.isSome || c.phase == .ended then c
    else { c with stop := some (mj, dt), preemptNs := if c.preempt.isEmpty then d.timeNs else c.preemptNs }

/-- Descriptors of a command that stand in task queues. -/
def Dev.cmdTds (d : Dev) (slot : Nat) : List Td := d.seq.tds.filter fun t => t.cmd == slot

/-- Drop waits of a waiter (05 R138, 07 R193). -/
def Dev.dropWaits (d : Dev) (p : WaitWho → Bool) : Dev :=
  { d with so := { d.so with waiters := d.so.waiters.filter (fun w => !p w.who), woken := d.so.woken.filter (fun w => !p w) } }

/-- Whether a waiter belongs to a command, through itself, its descriptors or its porters. -/
def Dev.waitOf (d : Dev) (slot : Nat) (w : WaitWho) : Bool :=
  match w with
  | .cmd s => s == slot
  | .td id => match d.td? id with
    | some t => t.cmd == slot
    | none => false
  | .porter p => match kvGet p d.porters with
    | some r => r.cmd == slot
    | none => false

/-- Withdraw a command's descriptors that have not started, with their waits (06 R149, R163). -/
def Dev.withdraw (d : Dev) (slot : Nat) : Dev :=
  let ids := (d.seq.tds.filter fun t => t.cmd == slot && !t.started).map fun t => t.id
  let d := d.dropWaits fun w => match w with
    | .td id => ids.contains id
    | _ => false
  { d with seq := { d.seq with tds := d.seq.tds.filter fun t => !(t.cmd == slot && !t.started) } }

/-- Remove every descriptor of a command from its task queues. -/
def Dev.dropTds (d : Dev) (slot : Nat) : Dev :=
  { d with seq := { d.seq with tds := d.seq.tds.filter fun t => t.cmd != slot } }

/-- A command whose cause is recorded ends once none of its descriptors runs (06 R149). -/
def Dev.settleCmd (d : Dev) (slot : Nat) : Dev :=
  match d.cmd? slot with
  | some c =>
    if c.fin.isSome && c.phase == .running && (d.cmdTds slot).isEmpty then d.updCmd slot fun c => { c with phase := .ended }
    else d
  | none => d

/-- End a STAGED or LONG command with a failure; RESULT holds its pieces (06 R166). Its unstarted descriptors are withdrawn, and it
ends once none of its descriptors runs (06 R149). -/
def Dev.failStaged (d : Dev) (slot : Nat) (f : Fail) : Dev :=
  match d.cmd? slot with
  | some c =>
    if (d.cmdTds slot).isEmpty then d.endCmd slot f.major f.detail c.progress
    else
      let fin := match c.fin, c.stop with
        | some g, _ => g
        | none, some (mj, dt) => ⟨mj, dt, c.stopResult⟩
        | none, none => ⟨f.major, f.detail, c.progress⟩
      ((d.updCmd slot fun c => { c with fin := some fin, todo := [] }).withdraw slot).settleCmd slot
  | none => d

/-- A descriptor's unit stops it with a failure: it leaves its queue, the command's unstarted descriptors are withdrawn and
the command ends with the failure and its pieces once its running descriptors have finished (06 R149, R166). -/
def Dev.failTd (d : Dev) (id : Nat) (f : Fail) : Dev :=
  match d.td? id with
  | none => d
  | some t =>
    let d := { d with seq := { d.seq with tds := d.seq.tds.filter fun u => u.id != id } }
    let d := d.dropWaits fun w => w == .td id
    let d := d.updCmd t.cmd fun c =>
      let fin := match c.fin, c.stop with
        | some g, _ => g
        | none, some (mj, dt) => ⟨mj, dt, c.stopResult⟩
        | none, none => ⟨f.major, f.detail, c.progress⟩
      { c with fin := some fin, todo := [] }
    (d.withdraw t.cmd).settleCmd t.cmd

/-- A descriptor's unit has finished it and all its writes are visible; TD_COMPLETE retires it (06 R148). -/
def Dev.finishTd (d : Dev) (id : Nat) : Dev := d.updTd id fun t => { t with finished := true }

/-- Add descriptors for CP1 to write: core and body. -/
def Dev.addTodo (d : Dev) (slot : Nat) (l : List (Nat × TdWord)) : Dev :=
  d.updCmd slot fun c => { c with todo := c.todo ++ l }

/-- A porter's list fails: the porter stops, PRT_LAST_ERR is written, its descriptor fails (13 R348). -/
def Dev.failPorter (d : Dev) (p addr : Nat) (f : Fail) : Dev :=
  match kvGet p d.porters with
  | none => d
  | some r =>
    let d := { d with porters := kvDel p d.porters }
    let d := ((d.wr (Reg.PRT_LAST_ERR.ADDR p) addr).wr (Reg.PRT_LAST_ERR.DETAIL p) f.detail)
    let d := ((d.wr (Reg.PRT_STATUS.BUSY p) 0).wr (Reg.PRT_STATUS.WAITING p) 0)
    let d := if f.major == 0x0E && (f.detail == 0x0D10 || f.detail == 0x0D11) then d.inc (Reg.PRT_ERR.DATA p)
      else if f.detail == 0x0D01 || f.detail == 0x0D02 then d.inc (Reg.PRT_ERR.CFG p) else d
    let d := d.dropWaits fun w => w == .porter p
    d.failTd r.td f

/-- Whatever waits or waited fails with a status: a command ends, a descriptor or a porter list fails (07 R201, 22 R586). -/
def Dev.failWaiter (d : Dev) (w : WaitWho) (mj dt : Nat) : Dev :=
  match w with
  | .cmd s => d.endCmd s mj dt 0
  | .td id => d.failTd id ⟨mj, dt, 0⟩
  | .porter p => d.failPorter p 0 ⟨mj, dt, 0⟩

end Sys2Proof.Machine
end

