-- ==== Sys2Proof/Machine/FabBase.lean ====
section
/-!
DEFINITION. Sending packets: flits, virtual channels and credits (15 R394-R399), routing (R401-R404), the transaction table
(R406).
-/
namespace Sys2Proof.Machine

/-! ### Packet types (R400) -/

def ptMemWrite : Nat := 0x01
def ptMemRead : Nat := 0x02
def ptSoOp : Nat := 0x03
def ptMirrorBind : Nat := 0x04
def ptMirrorUnbind : Nat := 0x05
def ptCarryRead : Nat := 0x06
def ptWayWrite : Nat := 0x07
def ptAck : Nat := 0x10
def ptReadData : Nat := 0x11
def ptSoPush : Nat := 0x12
def ptCarryData : Nat := 0x13
def ptCollData : Nat := 0x20
def ptVote : Nat := 0x21
def ptLoopback : Nat := 0x30

/-- The virtual channel of a packet type: 0 REQ, 1 RSP, 2 COLL, 3 MGMT (R397). -/
def vcOf (t : Nat) : Nat :=
  if t < 0x10 then 0 else if t < 0x20 then 1 else if t < 0x30 then 2 else 3

/-- Flits a packet occupies (R399). -/
def flitsOf (p : FabPkt) : Nat := cdiv (32 + p.data.length) 244

/-- The 32-byte header of a packet (R399). -/
def pktHeader (p : FabPkt) : List Byte :=
  leBytes 1 p.typ ++ leBytes 1 (b2n p.adaptive) ++ leBytes 2 p.dst ++ leBytes 2 p.src ++ leBytes 1 (p.dctx + 16 * p.sctx)
    ++ leBytes 1 p.hops ++ leBytes 4 p.tag ++ leBytes 2 p.data.length ++ leBytes 2 p.status ++ leBytes 8 p.addr
    ++ leBytes 4 p.epoch ++ leBytes 4 p.arg

/-- A packet read back from its bytes. -/
def pktOfBytes (bs : List Byte) : FabPkt :=
  { typ := fieldAt bs 0 1, adaptive := bitAt (fieldAt bs 1 1) 0, dst := fieldAt bs 2 2 % 4096, src := fieldAt bs 4 2 % 4096,
    dctx := fieldAt bs 6 1 % 16, sctx := fieldAt bs 6 1 / 16, hops := fieldAt bs 7 1, tag := fieldAt bs 8 4,
    status := fieldAt bs 0x0E 2, addr := fieldAt bs 0x10 8, epoch := fieldAt bs 0x18 4, arg := fieldAt bs 0x1C 4,
    data := (bs.drop 32).take (fieldAt bs 0x0C 2), port := 32 }

/-- The bytes of a flit under its CRC (R394). -/
def flitBytes (f : Flit) : List Byte :=
  leBytes 1 f.kind ++ leBytes 1 f.vcFlags ++ leBytes 2 f.seq ++ leBytes 2 f.ack ++ leBytes 1 f.credits ++ leBytes 1 f.bodyLen
    ++ f.body ++ zeros (244 - f.body.length)

/-- The CRC-32 a flit carries at 0xFC (R394). -/
def flitCrc (f : Flit) : Nat := crc32 (flitBytes f)

/-! ### Ports -/

/-- Port states (R424). -/
def psDisabled : Nat := 0
def psDown : Nat := 1
def psEqualize : Nat := 2
def psAlign : Nat := 3
def psInit : Nat := 4
def psUp : Nat := 5
def psRetrain : Nat := 6

def Dev.portState (d : Dev) (p : Nat) : Nat := d.rd (Reg.FAB_PORT_STATUS.STATE p)

/-- Receive buffers of R397, which are the credits a peer's port grants. -/
def vcCredits : List Nat := [64, 64, 96, 16]

/-- A port right after reset: nothing sent, nothing held. -/
def port0 : Port :=
  { maxGen := 2, c2m := false, txSeq := 0, ackIn := 65535, rxSeq := 0, nakSent := false, retry := [], tries := 0,
    credits := [0, 0, 0, 0], queue := [], asm := [], badLanes := 0, eqSaved := false, gen1Tried := false, rxFrom := 0,
    lastTurn := 0, flushing := false, drain := false, gen := 0, width := 0 }

def Dev.port (d : Dev) (p : Nat) : Port := (kvGet p d.fab.ports).getD port0

def Dev.setPort (d : Dev) (p : Nat) (x : Port) : Dev := { d with fab := { d.fab with ports := kvPut p x d.fab.ports } }

/-- Fabric clocks run and the switch is not held (02 R41, R51). -/
def Dev.fabClocks (d : Dev) : Bool := !d.board.domHeld && !d.board.fclkHeld && !d.board.tripped

/-- Credits a port holds for a VC. -/
def Port.creditsOf (x : Port) (vc : Nat) : Nat := x.credits.getD vc 0

/-- Send one flit: it carries the port's SEQ, the ACK of what has come in and the credits to return on one VC (R394). -/
def Dev.sendFlit (d : Dev) (p : Nat) (kind vcFlags : Nat) (bodyLen : Nat) (body : List Byte) : Dev :=
  let x := d.port p
  let vc := ((List.range 4).find? fun v => bits x.rxFrom (16 * v) 16 != 0).getD 0
  let cr := min (bits x.rxFrom (16 * vc) 16) 255
  let numbered := kind == 1 || kind == 3
  let f : Flit := ⟨kind, vcFlags + 16 * vc, x.txSeq, (x.rxSeq + 65535) % 65536, cr, bodyLen, body, true⟩
  let x := { x with
    rxFrom := x.rxFrom - cr * 2 ^ (16 * vc)
    txSeq := if numbered then (x.txSeq + 1) % 65536 else x.txSeq
    retry := if kind == 1 || kind == 3 || kind == 4 then x.retry ++ [f] else x.retry }
  ((d.setPort p x).incMod (Reg.FAB_PORT_TX.FLITS p)).emit (.flit p f)

/-- Send the flits of one packet back to back (R397, R399). -/
def Dev.sendPktFlits (d : Dev) (p : Nat) (k : FabPkt) : Dev :=
  let chunks := chunksOf 244 (pktHeader k ++ k.data)
  let n := chunks.length
  d.forEach ((List.range n).zip chunks) fun (i, c) d =>
    d.sendFlit p 1 (vcOf k.typ + (if i = 0 then 4 else 0) + (if i + 1 = n then 8 else 0)) c.length c

/-- The packet a port sends next: MGMT first, then RSP, COLL and REQ in turn; a packet starts only with credits for all its
flits and room in the 128-flit retry buffer (R395, R397). -/
def Port.nextPkt (x : Port) : Option FabPkt :=
  let ok (v : Nat) : Option FabPkt :=
    match x.queue.find? (fun k => vcOf k.typ == v) with
    | some k => if flitsOf k ≤ x.creditsOf v ∧ x.retry.length + flitsOf k ≤ 128 then some k else none
    | none => none
  match ok 3 with
  | some k => some k
  | none =>
    let turns := [1, 2, 0]
    let order := turns.drop x.lastTurn ++ turns.take x.lastTurn
    (order.filterMap ok).head?

/-- Send queued packets of a port while one may start; `fuel` bounds them. -/
def Dev.pump (d : Dev) (p : Nat) : (fuel : Nat) → Dev
  | 0 => d
  | n + 1 =>
    let x := d.port p
    if d.portState p != psUp || !d.fabClocks then d
    else
      match x.nextPkt with
      | none => d
      | some k =>
        let v := vcOf k.typ
        let turn := if v = 3 then x.lastTurn else ((([1, 2, 0] : List Nat).idxOf v) + 1) % 3
        let d := d.setPort p { x with
          queue := x.queue.erase k, credits := x.credits.set v (x.creditsOf v - flitsOf k), lastTurn := turn }
        (d.sendPktFlits p k).pump p n

/-- Send what a port may send now. -/
def Dev.pumpPort (d : Dev) (p : Nat) : Dev := d.pump p (d.port p).queue.length

/-- The switch treats a port as UP for routing: state UP, its group domain ON, not being flushed, and in service (R403, R421,
19 R503, 21 R565). -/
def Dev.portUsable (d : Dev) (p : Nat) : Bool :=
  d.portState p == psUp && d.domOn (domPort p) && !(d.port p).flushing && (d.unitRefusal (64 + p)).isNone && (d.unitRefusal (domPort p)).isNone

/-- Where a packet goes: `some none` local delivery, `some (some p)` port p, `none` no route (R403). -/
def Dev.route (d : Dev) (k : FabPkt) : Option (Option Nat) :=
  if k.dst = d.rd Reg.FAB_ID.DEVICE_ID then some none
  else
    match kvGet k.dst d.fab.routes with
    | some (mask, true) =>
      let ps := (List.range d.ports).filter fun p => bitAt mask p && d.portUsable p
      if k.hops ≥ 32 then none
      else
        match ps with
        | [] => none
        | p :: _ =>
          if k.adaptive then
            let v := vcOf k.typ
            some (some (ps.foldl (fun b q => if (d.port b).creditsOf v < (d.port q).creditsOf v then q else b) p))
          else some (some p)
    | _ => none

/-- Trace a packet sent or received: ARG0 holds its first eight header bytes (23 R601). -/
def Dev.tracePkt (d : Dev) (p : Nat) (k : FabPkt) : Dev :=
  d.trace 5 p none none none (some (leNat ((pktHeader k).take 8))) none

/-- Put a packet on its way from this switch; false when there is no route (R403, R404). -/
def Dev.sendPkt (d : Dev) (k : FabPkt) : Dev × Bool :=
  let d := if (d.route k).isSome then d.tracePkt 255 k else d
  match d.route k with
  | none => (d, false)
  | some none => ({ d with fab := { d.fab with inbox := d.fab.inbox ++ [k] } }, true)
  | some (some p) =>
    let x := d.port p
    ((d.setPort p { x with queue := x.queue ++ [{ k with hops := k.hops + 1 }] }).pumpPort p, true)

/-- A packet of this device with every optional field empty. -/
def Dev.newPkt (d : Dev) (typ dst dctx sctx addr : Nat) : FabPkt :=
  { typ, adaptive := typ == ptMemWrite || typ == ptMemRead || typ == ptReadData || typ == ptCollData, dst,
    src := d.rd Reg.FAB_ID.DEVICE_ID, dctx, sctx, hops := 0, tag := 0, status := 0, addr, epoch := 0, arg := 0, data := [], port := 32 }

/-- NOT_READY, FAB_NO_ROUTE (R404). -/
def failNoRoute : Fail := ⟨0x0F, 0x0F11, 0⟩

/-- Send a request that expects a response: it takes a transaction-table entry with a fresh tag (R406). Answers the tag. -/
def Dev.request (d : Dev) (k : FabPkt) (who : TxnWho) (ctx dst len group : Nat) : Dev × Option Nat :=
  let tag := d.fab.nextTag
  match d.sendPkt { k with tag := tag } with
  | (d, false) => (d, none)
  | (d, true) =>
    let t : Txn := { tag, typ := k.typ, dev := k.dst, who, ctx, dst, len, group }
    ({ d with fab := { d.fab with txns := d.fab.txns ++ [t], nextTag := (tag + 1) % 2 ^ 32 } }, some tag)

/-- Answer a request with an ACK of a status (R400, R405). -/
def Dev.ackPkt (d : Dev) (k : FabPkt) (status : Nat) : Dev :=
  (d.sendPkt { k with
    typ := ptAck, adaptive := false, dst := k.src, src := d.rd Reg.FAB_ID.DEVICE_ID, dctx := k.sctx
    sctx := k.dctx, hops := 0, status := status, data := [] }).1

/-- Drop a packet and count it (R400, R395, 22 R587). -/
def Dev.dropPkt (d : Dev) : Dev := (d.inc Reg.FAB_PKT_DROPS.COUNT).occur clsDropped

end Sys2Proof.Machine
end

