-- ==== Sys2Proof/Machine/SoOps.lean ====
section
/-!
DEFINITION. Sync-object operations: kinds and their ADD and SET (07 R190, R191), waits (R193), pushes to mirrors (R199),
forwarding of mirror operations (R200, R201), uncorrectable objects (22 R586).
-/
namespace Sys2Proof.Machine

def Dev.soValue (d : Dev) (n : Nat) : Nat := d.rd (Reg.SO_VALUE.VALUE n)
def Dev.soKind (d : Dev) (n : Nat) : Nat := d.rd (Reg.SO_CFG.KIND n)
def Dev.soStale (d : Dev) (n : Nat) : Bool := d.on (Reg.SO_CFG.STALE n)

/-- Whether a value satisfies a condition: 0 GE, 1 EQ, 2 CHANGED (R193, 06 R150). -/
def condHolds (cond cmp v : Nat) : Bool :=
  if cond = 0 then decide (cmp ≤ v) else if cond = 1 then v == cmp else v != cmp

/-- The value and the WRAPPED bit after an operation on a COUNTER (0), BARRIER (1) or EVENT (2) (R191). -/
def soResult (kind target : Nat) (set : Bool) (old v : Nat) (wrapped : Bool) : Nat × Bool :=
  if set then (v % 2 ^ 64, wrapped)
  else if kind = 0 then ((old + v) % 2 ^ 64, wrapped || decide (2 ^ 64 ≤ old + v))
  else if kind = 1 then
    let t := max target 1
    let arr := old % 2 ^ 32 + v
    ((old / 2 ^ 32 + arr / t) % 2 ^ 32 * 2 ^ 32 + arr % t, wrapped)
  else (old ||| (v % 2 ^ 64), wrapped)

/-- Wake the waits on an object that its present value satisfies (R193). -/
def Dev.soWake (d : Dev) (n : Nat) : Dev :=
  let v := d.soValue n
  let hit (w : Waiter) : Bool := w.so == n && condHolds w.cond w.cmp v
  { d with so := { d.so with
      woken := d.so.woken ++ (d.so.waiters.filter hit).map (fun w => w.who)
      waiters := d.so.waiters.filter fun w => !hit w } }

/-- Coalescing (R199): an older push of the same object to the same mirror that still waits for credits is not sent. -/
def Dev.dropStalePushes (d : Dev) (k : FabPkt) : Dev :=
  let old (x : FabPkt) : Bool :=
    x.typ == ptSoPush && x.src == k.src && x.dst == k.dst && x.addr == k.addr && x.tag == k.tag && x.port == 32
  { d with fab := { d.fab with ports := d.fab.ports.map fun p => (p.1, { p.2 with queue := p.2.queue.filter fun x => !old x }) } }

/-- Push an object's present value to one mirror; an entry whose push has no route is removed (R199, R201). -/
def Dev.soPushTo (e : PushEntry) (d : Dev) : Dev :=
  let k := { d.newPkt ptSoPush e.dev e.ctx 0 e.home with
    tag := e.mirror, arg := (kvGet e.home d.so.pushSeq).getD 0, data := leBytes 8 (d.soValue e.home) }
  match (d.dropStalePushes k).sendPkt k with
  | (d, true) => { d with so := { d.so with
      pushes := d.so.pushes.map fun x => if x == e then { x with lastNs := d.timeNs } else x } }
  | (d, false) =>
    let d := { d with so := { d.so with pushes := d.so.pushes.filter fun x => x != e } }
    d.wr Reg.SO_PUSH_STATUS.ENTRIES d.so.pushes.length

/-- After an operation on a home object: the next push sequence number, and a push to each of its mirrors (R199). -/
def Dev.soPushAll (d : Dev) (n : Nat) : Dev :=
  let es := d.so.pushes.filter fun e => e.home == n
  if es.isEmpty then d
  else
    let s := ((kvGet n d.so.pushSeq).getD 0 + 1) % 2 ^ 32
    ({ d with so := { d.so with pushSeq := kvPut n s d.so.pushSeq } } : Dev).forEach es Dev.soPushTo

/-- Perform an operation on a local object that is no mirror: value, WRAPPED, SO_OPS, waits, pushes (R191-R193, R199). -/
def Dev.soPerform (d : Dev) (n : Nat) (set : Bool) (v : Nat) : Dev :=
  let (v', w) := soResult (d.soKind n) (d.rd (Reg.SO_CFG.ARG n)) set (d.soValue n) v (d.on (Reg.SO_CFG.WRAPPED n))
  let d := ((d.wr (Reg.SO_VALUE.VALUE n) v').wr (Reg.SO_CFG.WRAPPED n) (b2n w)).incMod Reg.SO_OPS.COUNT
  let d := d.trace 2 255 none none (some n) (some v') none
  (d.soWake n).soPushAll n

/-- The outcome of an operation: performed, failed, or sent to a mirror's home under a tag. -/
inductive SoRes where
  | done
  | fail (major detail : Nat)
  | sent (tag : Nat)
  deriving DecidableEq, Repr

/-- The outcome of a SO operation with the state after it. -/
structure SoOut where
  dev : Dev
  res : SoRes

/-- An ADD or SET by a descriptor, a porter or a command: performed, or forwarded to a mirror's home as a remote SO operation
(R191, R200, R201; 22 R586). -/
def Dev.soOp (d : Dev) (who : TxnWho) (ctx n : Nat) (set : Bool) (v : Nat) : SoOut :=
  if d.so.ue.contains n then ⟨d, .fail 0x0E 0x1601⟩
  else if d.soKind n = 3 then
    if d.soStale n then ⟨d, .fail 0x05 0x0701⟩
    else
      let hctx := match kvGet n d.so.mirrors with
        | some m => m.homeCtx
        | none => 0
      let k := { d.newPkt ptSoOp (d.rd (Reg.SO_CFG.HOME_DEV n)) hctx ctx (d.rd (Reg.SO_CFG.ARG n)) with
        arg := b2n set, data := leBytes 8 v }
      match d.request k who ctx 0 8 0 with
      | (d, some tag) => ⟨d, .sent tag⟩
      | (d, none) => ⟨d, .fail failNoRoute.major failNoRoute.detail⟩
  else ⟨d.soPerform n set v, .done⟩

/-- Register a wait: evaluated once, kept when unmet; held back while the table is full; failed at once on a STALE mirror or
an uncorrectable object (R193, R201; 22 R586). -/
def Dev.soWait (d : Dev) (who : WaitWho) (n cond cmp : Nat) : Dev :=
  if d.so.ue.contains n then d.failWaiter who 0x0E 0x1601
  else if d.soKind n = 3 && d.soStale n then d.failWaiter who 0x05 0x0701
  else if d.so.waiters.length ≥ 1024 then d
  else if condHolds cond cmp (d.soValue n) then { d with so := { d.so with woken := d.so.woken ++ [who] } }
  else { d with so := { d.so with waiters := d.so.waiters ++ [⟨n, cond, cmp, who⟩] } }

/-- A waiter has been woken. -/
def Dev.isWoken (d : Dev) (w : WaitWho) : Bool := d.so.woken.contains w

/-- A waiter stands in the table. -/
def Dev.isWaiting (d : Dev) (w : WaitWho) : Bool := d.so.waiters.any fun x => x.who == w

/-- Take up a wake. -/
def Dev.takeWake (d : Dev) (w : WaitWho) : Dev := { d with so := { d.so with woken := d.so.woken.filter fun x => x != w } }

/-- End every wait on an object with a status (R201, 22 R586). -/
def Dev.soFailWaits (d : Dev) (n mj dt : Nat) : Dev :=
  let ws := d.so.waiters.filter fun w => w.so == n
  ({ d with so := { d.so with waiters := d.so.waiters.filter fun w => w.so != n } } : Dev).forEach ws fun w d =>
    d.failWaiter w.who mj dt

/-- An object turns out uncorrectable: its waits fail, SO_UE is raised (22 R586). -/
def Dev.soMeetUe (d : Dev) (n : Nat) : Dev :=
  if d.so.ue.contains n then d
  else
    let d := { d with so := { d.so with ue := n :: d.so.ue } }
    (d.soFailWaits n 0x0E 0x1601).raise 0x1603 clsContained none 0 n 0 0

end Sys2Proof.Machine
end

