-- ==== Sys2Proof/Machine/Flags.lean ====
section
/-!
DEFINITION. Status that follows from other state: pins, counts and summary bits that the hardware keeps (HW fields), computed
in one place after every command.
-/
namespace Sys2Proof.Machine

/-- MGT_ALERT_STATUS bits that are set and not masked (21 R563). -/
def Dev.alertBits (d : Dev) : Nat :=
  let s := bits (d.reg Reg.MGT_ALERT_STATUS.RAIL.reg) 0 7
  (List.range 7).foldl (fun n i => n + b2n (bitAt s i && !bitAt (d.rd Reg.MGT_ALERT_MASK.MASK) i) * 2 ^ i) 0

/-- ALERT_N is driven low while an unmasked alert bit is set (21 R563); a rail out of range, a lost reference and a failed boot drive it
whatever the mask holds (21 R570). -/
def Dev.alertWanted (d : Dev) : Bool :=
  d.alertBits != 0 || !d.board.railsOut.isEmpty || !d.board.refMissing.isEmpty || d.board.bootFailed

/-- Set an alert condition's bit (21 R563). -/
def Dev.alert (d : Dev) (f : Fld) : Dev := d.wr f 1

/-- ALERT_N follows the alert bits. -/
def Dev.settlePin (d : Dev) : Dev := { d with board := { d.board with alertLow := d.alertWanted } }

/-- ERR_EVT_PENDING counts the pending events (22 R590). -/
def Dev.settleEvents (d : Dev) : Dev := d.wr Reg.ERR_EVT_PENDING.COUNT d.evt.pending.length

/-- HOST_HOLD_STATUS and HOLDING follow the hold buffer (04 R109). -/
def Dev.settleHold (d : Dev) : Dev :=
  let d := d.wr Reg.HOST_HOLD_STATUS.USED (holdUsed d.pci.hold)
  let d := d.wr Reg.HOST_HOLD_STATUS.FULL (b2n (d.holdFree == 0))
  d.wr Reg.HOST_LINK_STATUS.HOLDING (b2n (!d.pci.hold.isEmpty))

/-- SO_STATUS.WAITERS counts the registered waits (07 R204). -/
def Dev.settleWaiters (d : Dev) : Dev := d.wr Reg.SO_STATUS.WAITERS d.so.waiters.length

/-- The descriptors of one task queue, oldest first. -/
def Dev.queueTds (d : Dev) (core q : Nat) : List Td := d.seq.tds.filter fun t => t.core == core && t.tq == q

/-- A descriptor waits on its header SO: its wait is not yet satisfied (06 R151). -/
def Dev.tdWaiting (d : Dev) (t : Td) : Bool := tdWaitEn t.td && !t.started && !d.isWoken (.td t.id)

/-- The task queue a command's descriptors go to (06 R145). -/
def Dev.tqOf (d : Dev) (c : Cmd) : Nat := d.ctxClass c.ctx

/-- What SEQ_TQ_STATUS of one queue reads: its depth, whether its front waits, whether a command of it is suspended (06 R172). -/
def Dev.queueStatus (d : Dev) (core q : Nat) : Nat :=
  let ts := d.queueTds core q
  let waiting := match ts with
    | t :: _ => d.tdWaiting t
    | [] => false
  let susp := d.cp0.cmds.any fun c => c.suspended.contains core && d.tqOf c == q
  ts.length + b2n waiting * 2 ^ 8 + b2n susp * 2 ^ 9

/-- SEQ_TQ_STATUS of one queue (06 R172). -/
def Dev.settleQueue (d : Dev) (core q : Nat) : Dev :=
  if d.reg (Reg.SEQ_TQ_STATUS.DEPTH core q).reg = d.queueStatus core q then d
  else d.setReg (Reg.SEQ_TQ_STATUS.DEPTH core q).reg (d.queueStatus core q)

/-- SEQ_TQ_STATUS of each queue (06 R172). -/
def Dev.settleQueues (d : Dev) : Dev := d.forEach [0, 1] fun core d => d.forEach [0, 1, 2, 3] fun q d => d.settleQueue core q

/-! ### The array and the VE -/

/-- An array that nothing owns. -/
def arr0 : Arr :=
  { owner := none, active := [], shadow := [], pendGeo := [], acc := [], pass := none, fused := [], tiles := [], taken := 0 }

def Dev.arrOf (d : Dev) (core : Nat) : Arr := (kvGet core d.arr).getD arr0

def Dev.setArr (d : Dev) (core : Nat) (a : Arr) : Dev := { d with arr := kvPut core a d.arr }

/-- Whether a fused pass, or a pass that posts tiles, can write its next row: room in the VE input buffer, its tile free of the
VE, room in the tile queue (08 R233; 09 R251, R252). -/
def Arr.canWrite (a : Arr) (ctl entry : Nat) : Bool :=
  if bitAt ctl 2 then decide (a.fused.length < 8)
  else if bitAt ctl 3 then
    decide (a.tiles.length < 8) && !(a.tiles.any fun r => r.bank == ctl % 2 && r.tile == entry / 256)
  else true

/-- The pass of a core is blocked at the accumulator. -/
def Dev.passBlocked (d : Dev) (core : Nat) : Bool :=
  match (d.arrOf core).pass with
  | some p => match d.td? p.td with
    | some t => !(d.arrOf core).canWrite (t.f 0x29 1) ((t.f 0x2C 2 + p.next) % 2048)
    | none => false
  | none => false

/-- Something waits for the VE to take: a fused row, or a row of the head tile (09 R251, R252). -/
def Arr.offers (a : Arr) (source : Nat) : Bool := if source = 1 then !a.fused.isEmpty else !a.tiles.isEmpty

/-- A VE run waits for a row or a tile (09 R253). -/
def Dev.veWaiting (d : Dev) (core : Nat) : Bool :=
  match kvGet core d.ve with
  | some r => r.source != 0 && r.pos == 0 && r.col == 0 && decide (r.done < r.total) && !(d.arrOf core).offers r.source
  | none => false

/-- A descriptor that has started and waits for another: a load for its switch, a pass for the VE, a run for the array, a porter
or a look-back for a sync object. -/
def Dev.tdStuck (d : Dev) (t : Td) : Bool :=
  t.started && !t.finished
    && (match tdKind t.td with
      | 0x10 => true
      | 0x11 => d.passBlocked t.core
      | 0x20 => d.veWaiting t.core
      | 0x60 => d.porters.any fun p => p.2.td == t.id && (d.isWaiting (.porter p.1) || (d.fab.txns.any fun x => x.who == .td t.id))
      | 0x30 => d.isWaiting (.td t.id) || d.fab.txns.any fun x => x.who == .td t.id
      | _ => false)

/-- The ARR forgets what its owner left: VALID and PENDING, the written marks of both banks, the hand-off to the VE (08 R212,
R213). -/
def Dev.arrRelease (d : Dev) (core : Nat) : Dev :=
  let a := d.arrOf core
  let d := d.setArr core { a with owner := none, pendGeo := [], acc := [], pass := none, fused := [], tiles := [], taken := 0 }
  d.forEach (List.range 16) fun b d => (d.wr (Reg.ARR_BLOCK.VALID core b) 0).wr (Reg.ARR_BLOCK.PENDING core b) 0

/-- A command whose cause is recorded, and of whose descriptors only some remain that wait for others of the array and the VE:
nothing will come, so they end too (06 R149). -/
def Dev.settleStuck (d : Dev) : Dev :=
  d.forEach d.cp0.cmds fun c d =>
    let ts := d.cmdTds c.slot
    let idle (t : Td) : Bool := ([0x10, 0x11, 0x20] : List Nat).contains (tdKind t.td) && d.tdStuck t
    if c.fin.isSome && c.phase == .running && !ts.isEmpty && ts.all idle then (d.dropTds c.slot).settleCmd c.slot else d

/-- A run that waits though nothing of its command's stage but such runs is left fails the command (09 R253). -/
def Dev.settleHandoff (d : Dev) : Dev :=
  d.forEach [0, 1] fun core d =>
    match kvGet core d.ve with
    | none => d
    | some r =>
      let mine := (d.cmdTds r.cmd).filter fun t => t.core == core
      let stage := mine.takeWhile fun t => t.started || !tdBoundary t.td
      let todo := match d.cmd? r.cmd with
        | some c => (c.todo.filter fun x => x.1 == core).map fun x => x.2
        | none => []
      let more := mine.length == stage.length && (match todo with
        | w :: _ => !tdBoundary w
        | [] => false)
      if d.veWaiting core && !more && stage.all fun t => t.id == r.td then
        (d.inc (Reg.VE_ERR.HANDOFF core)).failTd r.td ⟨0x02, 0x0906, 0⟩
      else d

/-- What a unit keeps of a descriptor that is gone is dropped; the ARR of a command that has ended, or that no longer runs on
the core, is released; the status registers of the units follow (08 R213, R239; 09 R269; 13 R347). An array that nothing has used since
reset has its reset status. -/
def Dev.settleUnits (d : Dev) : Dev :=
  let d := d.forEach d.porters fun x d =>
    if (d.td? x.2.td).isSome then d
    else ((({ d with porters := kvDel x.1 d.porters } : Dev).wr (Reg.PRT_STATUS.BUSY x.1) 0).wr (Reg.PRT_STATUS.WAITING x.1) 0)
      |>.dropWaits fun w => w == .porter x.1
  let d := { d with ve := d.ve.filter fun x => (d.td? x.2.td).isSome }
  if d.arr.isEmpty then d else
  d.forEach [0, 1] fun core d =>
    let a := d.arrOf core
    let alive : Bool := match a.owner with
      | some s => match d.cmd? s with
        | some c => c.phase == .running && c.cores.contains core && !c.suspended.contains core
        | none => false
      | none => true
    let d := if alive then d else d.arrRelease core
    let a := d.arrOf core
    let d := match a.pass with
      | some p => if (d.td? p.td).isSome then d else d.setArr core { a with pass := none }
      | none => d
    let a := d.arrOf core
    let busy (d : Dev) (k : Nat) : Bool := d.seq.tds.any fun t => t.core == core && tdKind t.td == k && t.started && !t.finished
    let waits := d.seq.tds.any fun t => t.core == core && tdKind t.td == 0x10 && t.started && !t.finished
    let d := (d.wr (Reg.ARR_STATUS.LOAD_BUSY core) (b2n (busy d 0x10))).wr (Reg.ARR_STATUS.PASS_BUSY core) (b2n (busy d 0x11))
    let d := (d.wr (Reg.ARR_STATUS.FLIP_WAIT core) (b2n waits)).wr (Reg.ARR_STATUS.OWNED core) (b2n a.owner.isSome)
    let d := d.wr (Reg.ARR_STATUS.OWNER_CTX core) (match a.owner.bind d.cmd? with
      | some c => c.ctx
      | none => 0)
    let d := (d.wr (Reg.VE_TILEQ.DEPTH core) a.tiles.length).wr (Reg.VE_TILEQ.HELD core) (b2n (a.taken != 0))
    let d := (d.wr (Reg.VE_TILEQ.NEXT core) a.taken).wr (Reg.VE_TILE_HEAD.REF core) (match a.tiles with
      | r :: _ => r.bank + r.tile * 2 + r.first * 16 + r.rows * 2 ^ 15
      | [] => 0)
    (d.wr (Reg.VE_STATUS.BUSY core) (b2n (kvGet core d.ve).isSome)).wr (Reg.VE_STATUS.WAIT_IN core) (b2n (d.veWaiting core))

/-- The status fields that follow from other state. -/
def Dev.settleStatus (d : Dev) : Dev := d.settleQueues.settleWaiters.settleEvents.settleHold.settlePin

/-- What the hardware brings up to date after every command: events that can now be written are, then the status fields. -/
def Dev.settle (d : Dev) : Dev := d.settleHandoff.settleStuck.settleUnits.flushEvents.settleStatus

end Sys2Proof.Machine
end

