-- ==== Sys2Proof/Machine/Cold.lean ====
section
/-!
DEFINITION. The device at the start of COLD reset (20 R528): the reset value of every structure, and idling.
Choices: DESIGN CHOICE, notes/assumptions/7.md.
-/
namespace Sys2Proof.Machine

/-- PL-880-M12I4, the assembly the model is fused as (02 R33; DESIGN CHOICE, notes/assumptions/5.md). -/
def fuseAssembly : Nat := 0x037004C1

/-- The board side with every rail and reference good and no trip (02 R37-R52). -/
def board0 : Board :=
  { assembly := fuseAssembly, serial := 0, strap := 0, svnFuse := 0, keysRevoked := 0, debugDisable := false, alertLow := false,
    tripLow := false, pwrgd := false, railsOut := [], refMissing := [], coldHeld := true, domHeld := false, hclkHeld := false,
    fclkHeld := false, tripped := false, bootFailed := false, measSel := 0, measWindow := 1,
    selfRefresh := [] }

/-- No boot in progress, the SPI NOR erased (20 R535-R545). -/
def boot0 : Boot :=
  { running := none, cause := 0, startNs := 0, flr := false, selA := [], selB := [], cfgA := [], cfgB := [],
    slotA := [], slotB := [], coldCfg := [], fellBack := false, actPending := false }

/-- The PCIe side with the link down and configuration space at reset (04 R100, R101). -/
def pci0 : Pci :=
  { link := .down, busMaster := false, msixEnable := false, funcMask := false, d3hot := false, l1Enable := false, bar2Log2 := 30,
    wasDown := false, downNs := 0, hold := [], dropped := 0, lostResults := [], unsignalled := [], stage := [], latch := [],
    reserved := 0 }

/-- No event pending, no ring (22 R579-R583). -/
def evt0 : Evt :=
  { ringHost := false, ringAddr := 0, pending := [], lost := 0, lostFirst := 0, mgmt := [], ceCount := [], ceSecond := 0,
    fatalCode := 0xFFFF, fatalSub := 0, fatalSeq := 0 }

/-- No command in flight. -/
def cp00 : Cp0 := { cmds := [], nextSlot := 0, bells := [], deficit := [], lastCtx := [0, 0, 0], lastQp := [] }

/-- Empty task queues, no snapshot, no tab (06). -/
def seq0 : Seq := { tds := [], nextId := 0, snapshots := [], tabs := [], tabHolder := [], ages := [] }

/-- No wait, no push entry, no mirror (07). -/
def so0 : So := { waiters := [], woken := [], failed := [], pushes := [], pushSeq := [], mirrors := [], binds := [], ue := [] }

/-- No class, no room (14 R386). -/
def inn0 : Inn := { classes := [], rooms := [] }

/-- No route, no group, nothing in flight (15). -/
def fab0 : Fab := { ports := [], routes := [], groups := [], inbox := [], arrived := [], txns := [], nextTag := 0, colls := [], early := [] }

/-- No timetable, no training command (16). -/
def trn0 : Trn := { slots := [], runs := [], norms := [] }

/-- A ledger that is FREE (17 R464). -/
def ledRec0 : LedRec :=
  { state := 0, cur := 0, scaleE := 0, ctx := 0, step := 0, epoch := 0, clean := 0, last := 255, retain := false, gen := 0, skips := 0
    aborts := 0, prevE := 0, revertible := false, prevClean := 0 }

/-- No ledger, no step record (17). -/
def led0 : Led := { recA := ledRec0, recB := ledRec0, failed := false, scrubbed := [], steps := [], ballot := none }

/-- No waystation binding (17 R465). -/
def way0 : Way :=
  { sender := none, host := false, partner := 0, pctx := 0, hostDev := 0, hostCtx := 0, cadence := 0, slotGib := 0, seq := 0, sent := []
    due := none, job := none, rjob := none, accept := none, acceptCmd := none, buf := [], head := none }

/-- No result ring, no frame, no batch (18). -/
def srv0 : Srv :=
  { rings := [], lists := [], guests := [], batches := [], turn := [], last := [], ends := 0, served := [], switches := [], reshards := [] }

/-- Governors at rest (19). -/
def pwr0 : Pwr :=
  { power1s := 0, power1ms := 0, overEdc := false, hot := false, hotIod := [], caps := [], why := 0, pref := [], want := []
    clamps := [], avsWanted := 0, avsSettled := true, avsOpen := false, avsFails := 0, avsFault := false, waiting := []
    policy := [], dwell := [], fromOff := [] }

/-- No firmware update (21 R557). -/
def update0 : Update := { active := false, state := 0, offset := 0, total := 0, piece := 0, image := [], verified := false }

/-- The management endpoint with no receiver (21). -/
def mgt0 : Mgt :=
  { asm := [], busy := [], requests := [], mode := 0, binding := 0, polled := false, sensors := [], regFault := [], upd := update0, spdm := 0,
    measured := [] }

/-- Hehus locked, the trace stopped and empty, the TAP in IDCODE (23). -/
def dbg0 : Dbg :=
  { nonce := none, failRun := 0, baudNext := none, dump := none, buf := [], trSources := 0, trWrap := false,
    trFilter := 0, trace := [], trBurst := [], trLost := [], tapInstr := 0, pinsTaken := false }

/-- The device right after reset: every register at its table's reset value; the fused assembly and what follows from it
(02 R32, 03 R76, 19 R524, 21 R570). -/
def devReset : Dev :=
  { regs := [(0x10, 0x037004C1), (0x201000, 880), (0x10C0008, 0x6C00000000), (0x2C00000, 0x6400)], mem := [], hostMem := [],
    ue := [], ce := [], undef := [], out := [], free := 0, timeNs := 0, board := board0, boot := boot0, pci := pci0, evt := evt0, cp0 := cp00,
    seq := seq0, so := so0, porters := [], arr := [], ve := [], veStore := [], sfu := [], carry := [], scans := [], slv := [], inn := inn0, trn := trn0, led := led0, way := way0, srv := srv0, fab := fab0, pwr := pwr0, mgt := mgt0, dbg := dbg0 }

/-- One idle step: one SCLK cycle of 10 ns passes (05 R132; DESIGN CHOICE, notes/assumptions/1.md). -/
def Dev.idle (d : Dev) : Dev := { d with timeNs := d.timeNs + 10 }

end Sys2Proof.Machine
end

