-- ==== Sys2Proof/Machine/State.lean ====
section
/-!
DEFINITION. The state of the machine: the device and the queue of commands that wait, first in, first out; the reasons a step
can stop; the state right after reset.
-/
namespace Sys2Proof.Machine

/-- The machine: commands that wait, oldest first, and the device. -/
structure State where
  pending : List Instr
  dev     : Dev
  deriving DecidableEq, Repr

/-- Reasons to stop with a fault. The spec stops the block on no command; no meaning answers one (safe). -/
inductive Fault where
  /-- A command whose effect the spec calls undefined. Raised by none: the spec gives every command an effect. Safe. -/
  | undefinedCommand
  deriving DecidableEq, Repr

/-- Reasons to refuse a command. -/
inductive Refusal where
  /-- A command without a meaning; every command has one, so no arm of `exec` raises it. Safe. -/
  | notModelled (mnemonic : String)
  deriving DecidableEq, Repr

/-- The block right after reset: the start of a COLD reset, before the board has raised SYS_PWRGD (20 R528, R539), no command
waiting. -/
def State.reset : State := { pending := [], dev := devReset }

/-- What a meaning answers. -/
abbrev Out := Host.Outcome State Fault Refusal

/-- Run an effect on the device and bring the dependent status up to date; the queue stays. -/
def State.run (s : State) (f : Dev → Dev) : Out := .next { s with dev := (f s.dev).settle }

end Sys2Proof.Machine
end

