-- ==== Sys2Proof/Machine/FabLink.lean ====
section
/-!
DEFINITION. Fabric ports: training (15 R391-R393), flits and retry (R394-R396), credits (R397, R398), routing at the switch
(R403, R404).
-/
namespace Sys2Proof.Machine

/-- A port can train: fitted, its group domain ON or waking with its power up, fabric clock running (R388, R391, 19 R507). -/
def Dev.portPowered (d : Dev) (p : Nat) : Bool :=
  decide (p < d.ports) && (d.domOn (domPort p) || d.rd (Reg.PWR_DOM.STATE (domPort p)) == stWaking) && !d.board.fclkHeld && !d.board.tripped

/-- Packets a port would drop: those queued, and those with flits in its retry buffer (R395). -/
def Port.packets (x : Port) : Nat := x.queue.length + (x.retry.filter fun f => f.kind == 1 && bitAt f.vcFlags 3).length

/-- Drop everything a port holds; its settings stay. Answers the number of packets dropped. -/
def Dev.portDrop (d : Dev) (p : Nat) : Dev × Nat :=
  let x := d.port p
  let n := x.packets
  let d := (d.inc Reg.FAB_PKT_DROPS.COUNT n).inc (Reg.ERR_CLASS_COUNT.COUNT clsDropped) n
  (d.setPort p { port0 with maxGen := x.maxGen, c2m := x.c2m, eqSaved := x.eqSaved, badLanes := x.badLanes }, n)

/-- FAB_LINK_DOWN with the state left and the packets dropped (22 R584). -/
def Dev.linkDownEvent (d : Dev) (p prev dropped : Nat) : Dev := d.raise 0x0F02 clsDropped none prev p dropped 0

/-- A port leaves its state for DOWN or DISABLED and drops what it holds; leaving UP or RETRAIN raises FAB_LINK_DOWN
(R391, R395; DEDUCED, notes/assumptions/15.md). -/
def Dev.portTo (d : Dev) (p st : Nat) : Dev :=
  let prev := d.portState p
  if prev = st then d
  else
    let (d, n) := d.portDrop p
    let d := d.setReg (Reg.FAB_PORT_STATUS.STATE p).reg st
    if prev = psUp ∨ prev = psRetrain then d.linkDownEvent p prev n else d

/-- Every fitted port that is not DISABLED goes DOWN (02 R51). -/
def Dev.allPortsDown (d : Dev) : Dev :=
  d.forEach (List.range d.ports) fun p d => if d.portState p = psDisabled then d else d.portTo p psDown

/-- A port enters RETRAIN and keeps its retry buffer (R391, R395). -/
def Dev.portRetrain (d : Dev) (p : Nat) : Dev :=
  if d.portState p = psUp then
    ((d.wr (Reg.FAB_PORT_STATUS.STATE p) psRetrain).inc (Reg.FAB_PORT_TRAIN.RETRAINS p)).linkDownEvent p psUp 0
  else d

/-- Whether flit sequence number `a` is covered by acknowledgement `b`, modulo 65,536. -/
def seqCovered (a b : Nat) : Bool := decide ((b + 65536 - a) % 65536 < 32768)

/-- A port whose flush has ended: DISABLED for a disable, DOWN for its group's shutdown (R421, 19 R503). -/
def Dev.portFlushed (d : Dev) (p : Nat) : Dev :=
  if (d.port p).flushing then d.portTo p psDisabled else if (d.port p).drain then d.portTo p psDown else d

/-- Take an acknowledgement: covered flits leave the retry buffer; the flush of a port ends once it is empty (R395, R421). -/
def Dev.takeAck (d : Dev) (p ack : Nat) : Dev :=
  let x := d.port p
  let rest := x.retry.filter fun f => !seqCovered f.seq ack
  let x' := if rest.length < x.retry.length then { x with retry := rest, tries := 0, ackIn := ack } else x
  let d := d.setPort p x'
  if x'.retry.isEmpty then d.portFlushed p else d

/-- Replay every flit of the retry buffer; after 8 replays of the oldest without acknowledgement the port enters RETRAIN
(R395). -/
def Dev.portReplay (d : Dev) (p : Nat) : Dev :=
  let x := d.port p
  if x.retry.isEmpty then d
  else if x.tries ≥ 8 then d.portRetrain p
  else
    let d := (d.setPort p { x with tries := x.tries + 1 }).inc (Reg.FAB_PORT_LINK.REPLAYS p)
    d.forEach x.retry fun f d => (d.incMod (Reg.FAB_PORT_TX.FLITS p)).emit (.flit p f)

/-- Send a NAK once until the expected flit arrives (R395). -/
def Dev.sendNak (d : Dev) (p : Nat) : Dev :=
  let x := d.port p
  if x.nakSent then d else (d.setPort p { x with nakSent := true }).sendFlit p 2 0 0 []

/-- A packet obeys the table of types and lengths (R400). -/
def pktValid (k : FabPkt) (len : Nat) : Bool :=
  k.data.length == len &&
  (match k.typ with
  | 0x01 | 0x07 | 0x20 => decide (1 ≤ len ∧ len ≤ 2048)
  | 0x02 => len == 0 && decide (1 ≤ k.arg ∧ k.arg ≤ 2048)
  | 0x03 | 0x12 => len == 8
  | 0x04 | 0x05 | 0x10 => len == 0
  | 0x06 | 0x21 => len == 16
  | 0x11 => decide (len ≤ 2048)
  | 0x13 => len == 0x940 || len == 0x640 || len == 0x40
  | 0x30 => len == 2048
  | _ => false)

/-- Give back credits to the sender of a packet that leaves its receive buffer (R397). -/
def Dev.returnCredits (d : Dev) (k : FabPkt) : Dev :=
  if k.port < 32 then
    let x := d.port k.port
    d.setPort k.port { x with rxFrom := x.rxFrom + flitsOf k * 2 ^ (16 * vcOf k.typ) }
  else d

/-- A PACKET flit in order joins its VC's packet; the last one completes it (R399, R400). -/
def Dev.acceptFlit (d : Dev) (p : Nat) (f : Flit) : Dev :=
  let x := d.port p
  let vc := f.vcFlags % 4
  let bs := (if bitAt f.vcFlags 2 then [] else (kvGet vc x.asm).getD []) ++ f.body.take f.bodyLen
  let d := d.setPort p { x with rxSeq := (x.rxSeq + 1) % 65536, nakSent := false, asm := kvPut vc bs x.asm }
  let d := d.incMod (Reg.FAB_PORT_RX.FLITS p)
  if bitAt f.vcFlags 3 then
    let x := d.port p
    let d := d.setPort p { x with asm := kvDel vc x.asm }
    let k := { pktOfBytes bs with port := p }
    if pktValid k (fieldAt bs 0x0C 2) then { d with fab := { d.fab with arrived := d.fab.arrived ++ [k] } }
    else (d.returnCredits k).dropPkt
  else d

/-- The width of a port changes without retraining (R393). -/
def Dev.portWidth (d : Dev) (p w : Nat) : Dev :=
  if d.portState p = psUp ∧ (w = 1 ∨ w = 2 ∨ w = 4) then
    (d.wr (Reg.FAB_PORT_STATUS.WIDTH p) w).setPort p { d.port p with width := w }
  else d

/-- An INIT flit of this device on a port (R392). -/
def Dev.sendInit (d : Dev) (p : Nat) : Dev :=
  let x := d.port p
  d.sendFlit p 3 0 0 (leBytes 2 (d.rd Reg.FAB_ID.DEVICE_ID) ++ leBytes 1 p ++ leBytes 1 x.maxGen ++ leBytes 1 x.width
    ++ [0] ++ (vcCredits.map fun n => BitVec.ofNat 8 n))

/-- Lanes a port comes up with when those of a mask have failed: 4; 2 on lanes 0-1 or 2-3; 1 (R391). -/
def lanesUp (bad : Nat) : Nat :=
  if bad % 16 = 0 then 4 else if bad % 4 = 0 ∨ bad / 4 % 4 = 0 then 2 else if bad % 16 = 15 then 0 else 1

/-- PORT_SIGNAL_DETECT (R391). -/
def execPortSignalDetect (port : Nat) (s : State) : Out := s.run fun d =>
  if d.portState port = psDown ∧ d.portPowered port then d.wr (Reg.FAB_PORT_STATUS.STATE port) psEqualize else d

/-- EQUALIZE_DONE (R391): training done at Gen 2, or at Gen 1 when Gen 2 has failed or lies above the port's limit. -/
def execEqualizeDone (port gen : Nat) (s : State) : Out := s.run fun d =>
  let x := d.port port
  if d.portState port = psEqualize ∧ (gen = 1 ∧ (x.gen1Tried ∨ x.maxGen = 1) ∨ gen = 2 ∧ x.maxGen = 2 ∧ !x.gen1Tried) then
    (d.wr (Reg.FAB_PORT_STATUS.STATE port) psAlign).setPort port { x with gen := gen, gen1Tried := false, eqSaved := true }
  else d

/-- EQUALIZE_TIMEOUT (R391): 8 ms pass; the port tries Gen 1, or returns to DOWN when that has failed. -/
def execEqualizeTimeout (port : Nat) (s : State) : Out := s.run fun d =>
  let x := d.port port
  if d.portState port = psEqualize then
    if x.maxGen = 2 ∧ !x.gen1Tried then d.setPort port { x with gen1Tried := true }
    else (d.inc (Reg.FAB_PORT_TRAIN.FAIL port)).portTo port psDown
  else d

/-- ALIGN_DONE (R391): FEC lock and 64 good flits; lanes that failed are dropped; INIT flits go out. -/
def execAlignDone (port bad : Nat) (s : State) : Out := s.run fun d =>
  let st := d.portState port
  if st = psAlign ∨ st = psRetrain then
    let b := (d.port port).badLanes ||| (bad % 16)
    let w := lanesUp b
    if w = 0 then (d.inc (Reg.FAB_PORT_TRAIN.FAIL port)).portTo port psDown
    else
      let d := d.setPort port { d.port port with badLanes := b, width := w }
      let d := if st = psAlign then d.wr (Reg.FAB_PORT_STATUS.STATE port) psInit else d
      if st = psAlign then d.sendInit port else d
  else d

/-- INIT_FLIT (R392): the peer is recorded and the port goes UP; FAB_LINK_UP. After a RETRAIN the link goes on where it stood
and replays its retry buffer. -/
def execInitFlit (port dev peerPort : Nat) (bufs : List Nat) (s : State) : Out := s.run fun d =>
  let st := d.portState port
  if (st = psInit ∨ st = psRetrain) ∧ (d.port port).width ≠ 0 then
    let x := d.port port
    let d := (d.wr (Reg.FAB_PORT_PEER.DEV port) dev).wr (Reg.FAB_PORT_PEER.PORT port) peerPort
    let x' := if st = psInit then
        { x with credits := (bufs ++ [0, 0, 0, 0]).take 4, rxSeq := 1, retry := [], nakSent := false }
      else { x with tries := 0, nakSent := false }
    let d := d.setPort port x'
    let d := d.setReg (Reg.FAB_PORT_STATUS.STATE port).reg
      (psUp + x.gen * 2 ^ 3 + x.width * 2 ^ 5 + b2n (x.badLanes != 0) * 2 ^ 8)
    let d := d.raise 0x0F01 clsInfo none (x.gen * 16 + x.width) port (dev % 4096 * 2 ^ 16 + peerPort % 32) 0
    let d := if st = psRetrain then d.portReplay port else d
    d.pumpPort port
  else d

/-- DOWN_RETRY (R391): 100 ms after a failed training. -/
def execDownRetry (port : Nat) (s : State) : Out := s.run fun d =>
  if d.portState port = psDown ∧ d.portPowered port then
    (d.wr (Reg.FAB_PORT_STATUS.STATE port) psEqualize).setPort port { d.port port with gen1Tried := false }
  else d

/-- RETRAIN_TIMEOUT (R391, R395): 2 ms pass; the port goes DOWN and drops its packets. -/
def execRetrainTimeout (port : Nat) (s : State) : Out := s.run fun d =>
  if d.portState port = psRetrain then (d.inc (Reg.FAB_PORT_TRAIN.FAIL port)).portTo port psDown else d

/-- LANE_SIGNAL_LOSS (R391): loss on every lane takes any port but a DISABLED one DOWN; loss on some retrains an UP port. -/
def execLaneSignalLoss (port lanes : Nat) (s : State) : Out := s.run fun d =>
  let st := d.portState port
  if st = psDisabled ∨ lanes % 16 = 0 then d
  else if lanes % 16 = 15 then d.portTo port psDown
  else
    let x := d.port port
    (d.setPort port { x with badLanes := x.badLanes ||| (lanes % 16) }).portRetrain port

/-- FEC_ERROR_BURST (R391): 1,024 uncorrectable codewords in 1 ms. -/
def execFecErrorBurst (port : Nat) (s : State) : Out := s.run fun d =>
  if d.portState port = psUp then (d.inc (Reg.FAB_PORT_FEC.UNCORRECTED port) 1024).portRetrain port else d

/-- A NAK: its ACK is taken and every flit after it is replayed (R395). -/
def Dev.nakIn (d : Dev) (p ack : Nat) : Dev := (d.takeAck p ack).portReplay p

/-- FLIT_RECEIVE (R395, R397): a good flit in order is accepted with its ACK and its credits; a bad one is discarded and a NAK
sent. -/
def execFlitReceive (port : Nat) (flit : Flit) (s : State) : Out := s.run fun d =>
  if d.portState port != psUp || !d.fabClocks || d.dbg.pinsTaken then d
  else if !flit.crcOk then ((d.inc (Reg.FAB_PORT_LINK.CRC_ERR port)).corrected 4 port 1).sendNak port
  else if flit.kind = 2 then d.nakIn port flit.ack
  else if flit.kind = 1 ∧ flit.seq ≠ (d.port port).rxSeq then d.sendNak port
  else
    let d := d.takeAck port flit.ack
    let vc := flit.vcFlags / 16 % 4
    let x := d.port port
    let d := d.setPort port { x with credits := x.credits.set vc (x.creditsOf vc + flit.credits) }
    let d := if flit.kind = 1 then d.acceptFlit port flit
      else if flit.kind = 4 then d.portWidth port (fieldAt flit.body 0 1)
      else d
    d.pumpPort port

/-- NAK_RECEIVE (R395). -/
def execNakReceive (port ack : Nat) (s : State) : Out := s.run fun d =>
  if d.portState port = psUp then d.nakIn port ack else d

/-- REPLAY_TIMER (R395): 10 µs with unacknowledged flits and no ACK progress. -/
def execReplayTimer (port : Nat) (s : State) : Out := s.run fun d =>
  if d.portState port = psUp then d.portReplay port else d

/-- WIDTH_FLIT (R393). -/
def execWidthFlit (port width : Nat) (s : State) : Out := s.run fun d => d.portWidth port width

/-- PACKET_ROUTE (R403, R404): the oldest packet at the switch goes to this device, to a port, or is dropped as unroutable;
the drop of a request is answered UNREACHABLE when there is a route back. -/
def execPacketRoute (s : State) : Out := s.run fun d =>
  match d.fab.arrived with
  | [] => d
  | k :: rest =>
    let d := { d with fab := { d.fab with arrived := rest } }
    if !d.fabClocks then { d with fab := { d.fab with arrived := k :: rest } }
    else
      match d.sendPkt k with
      | (d, true) => if k.dst = d.rd Reg.FAB_ID.DEVICE_ID then d else d.returnCredits k
      | (d, false) =>
        let d := ((d.returnCredits k).inc Reg.FAB_UNROUTABLE.COUNT).occur clsDropped
        if vcOf k.typ = 0 then d.ackPkt k 2 else d

/-- FAB_CREDIT_STALL (R398): a packet has waited 1 ms for credits. -/
def execFabCreditStall (port vc : Nat) (s : State) : Out := s.run fun d =>
  if (d.port port).queue.any (fun k => vcOf k.typ == vc) then d.raise 0x0F03 clsInfo none vc port 0 0 else d

/-- PORT_FLUSH_TIMEOUT (R421; 19 R503): a port being flushed has waited 1 ms; it drops what remains. -/
def execPortFlushTimeout (port : Nat) (s : State) : Out := s.run fun d => d.portFlushed port

end Sys2Proof.Machine
end

