-- ==== Sys2Proof/Machine/Queue.lean ====
section
/-!
DEFINITION. Queue pairs, contexts, doorbells, fetching, dispatch, timeouts, and the Direct commands NOP, ABORT, TIMESTAMP
(chapter 05).
Choices: DEDUCED, notes/assumptions/9.md.
-/
namespace Sys2Proof.Machine

/-- QP_STATUS.STATE codes (R113). -/
def qsDisabled : Nat := 0
def qsActive : Nat := 1
def qsDraining : Nat := 2
def qsFaulted : Nat := 3

def Dev.qpState (d : Dev) (q : Nat) : Nat := d.rd (Reg.QP_STATUS.STATE q)
def Dev.qpCtx (d : Dev) (q : Nat) : Nat := d.rd (Reg.QP_CFG.CTX q)
def Dev.sqSize (d : Dev) (q : Nat) : Nat := 2 ^ d.rd (Reg.QP_CFG.SQ_LOG2 q)
def Dev.cqSize (d : Dev) (q : Nat) : Nat := 2 ^ d.rd (Reg.QP_CFG.CQ_LOG2 q)
def Dev.legacy (d : Dev) (q : Nat) : Bool := d.on (Reg.QP_CFG.LEGACY q)
def Dev.entryBytes (d : Dev) (q : Nat) : Nat := if d.legacy q then 64 else 256

/-- CTX_STATE.STATE codes (R114). -/
def csIdle : Nat := 0
def csActive : Nat := 1
def csResetting : Nat := 2

def Dev.ctxState (d : Dev) (c : Nat) : Nat := d.rd (Reg.CTX_STATE.STATE c)

/-- A context whose last queue pair is DISABLED and that has nothing in flight is IDLE (R116); the snapshot of its serving list ends
(18 R482). -/
def Dev.ctxSettle (d : Dev) (c : Nat) : Dev :=
  if d.ctxState c = csActive ∧ d.rd (Reg.CTX_STATE.QUEUES c) = 0 ∧ d.rd (Reg.CTX_INFLIGHT.COUNT c) = 0 then
    ({ d with srv := { d.srv with lists := kvDel c d.srv.lists } } : Dev).wr (Reg.CTX_STATE.STATE c) csIdle
  else d

/-- A DRAINING queue pair with nothing in flight is DISABLED (R117). -/
def Dev.qpDrained (d : Dev) (q : Nat) : Dev :=
  if d.qpState q = qsDraining ∧ d.rd (Reg.QP_STATUS.INFLIGHT q) = 0 then
    let c := d.qpCtx q
    let d := d.wr (Reg.QP_STATUS.STATE q) qsDisabled
    (d.wr (Reg.CTX_STATE.QUEUES c) (d.rd (Reg.CTX_STATE.QUEUES c) - 1)).ctxSettle c
  else d

/-- A queue fault: FAULT is written, an ACTIVE queue pair faults, QUEUE_FAULT is raised with its index (R117). -/
def Dev.queueFault (d : Dev) (q code idx : Nat) : Dev :=
  let d := d.wr (Reg.QP_STATUS.FAULT q) code
  let d := if d.qpState q = qsActive then d.wr (Reg.QP_STATUS.STATE q) qsFaulted else d
  d.raise 0x0501 clsContained (some (d.qpCtx q)) code q idx 0

/-- A ring of `n` bytes at a device address lies wholly inside a context's host window (R112, R117). -/
def Dev.ringInWindow (d : Dev) (c a n : Nat) : Bool :=
  decide (hostBase ≤ a) && decide (a - hostBase + n ≤ d.hostWinSize c)

def Dev.sqBase (d : Dev) (q : Nat) : Nat := d.rd (Reg.QP_SQ_BASE.BASE q) * 0x1000
def Dev.cqBase (d : Dev) (q : Nat) : Nat := d.rd (Reg.QP_CQ_BASE.BASE q) * 0x1000

/-- The fault code of the enable checks, 0 when they pass (R117). -/
def Dev.enableFault (d : Dev) (q : Nat) : Nat :=
  let c := d.qpCtx q
  let sl := d.rd (Reg.QP_CFG.SQ_LOG2 q)
  let cl := d.rd (Reg.QP_CFG.CQ_LOG2 q)
  if !d.ready then 6
  else if d.ctxState c ≠ csResetting ∧ 4 ≤ sl ∧ sl ≤ 12 ∧ 4 ≤ cl ∧ cl ≤ 12 ∧ d.rd (Reg.QP_CFG.VECTOR q) ≠ 0
      ∧ d.ringInWindow c (d.sqBase q) (d.sqSize q * d.entryBytes q) ∧ d.ringInWindow c (d.cqBase q) (d.cqSize q * 32) then 0
  else 1

/-- The bits of QP_CFG that a write stores. -/
def qpCfgMask : Nat := 0x803FFF1F

/-- EN written 1 on a DISABLED queue pair, the other fields stored with it (R117). -/
def Dev.qpEnable (d : Dev) (q v : Nat) : Dev :=
  let d := d.setReg (Reg.QP_CFG.CTX q).reg (v &&& qpCfgMask)
  match d.enableFault q with
  | 0 =>
    let d := (d.wr (Reg.QP_STATUS.STATE q) qsActive).wr (Reg.QP_STATUS.FAULT q) 0
    let d := (d.setReg (Reg.QP_SQ_PTRS.HEAD q).reg 0).setReg (Reg.QP_CQ_PTRS.TAIL q).reg 0x2000
    let d := d.setReg (Reg.QP_DONE.COUNT q).reg 0
    let d := { d with cp0 := { d.cp0 with bells := kvDel q d.cp0.bells } }
    let c := d.qpCtx q
    (d.wr (Reg.CTX_STATE.QUEUES c) (d.rd (Reg.CTX_STATE.QUEUES c) + 1)).wr (Reg.CTX_STATE.STATE c) csActive
  | f => (d.wr (Reg.QP_CFG.EN q) 0).wr (Reg.QP_STATUS.FAULT q) f

/-- EN written 0: an ACTIVE or FAULTED queue pair drains; commands fetched and not started end with QUEUE_DISABLED (R117,
R118). -/
def Dev.qpDisable (d : Dev) (q : Nat) : Dev :=
  let d := d.wr (Reg.QP_CFG.EN q) 0
  if d.qpState q = qsActive ∨ d.qpState q = qsFaulted then
    let d := d.wr (Reg.QP_STATUS.STATE q) qsDraining
    let slots := (d.cp0.cmds.filter fun c => c.qp == q && (c.phase == .ready || c.phase == .waiting)).map fun c => c.slot
    let d := d.dropWaits fun w => match w with
      | .cmd sl => slots.contains sl
      | _ => false
    (d.forEach slots fun sl d => d.endCmd sl 0x06 0x0541 0).qpDrained q
  else d

/-- A write of QP_CFG in any state (R115, R117). -/
def Dev.qpCfgWrite (d : Dev) (q v : Nat) : Dev :=
  let v := v &&& qpCfgMask
  let old := d.reg (Reg.QP_CFG.CTX q).reg
  if d.qpState q = qsDisabled then
    if bitAt v 31 then d.qpEnable q v else d.setReg (Reg.QP_CFG.CTX q).reg v
  else if v = setBits old 31 1 0 then d.qpDisable q
  else d.inc (Reg.QP_ERR.CFG_REFUSED q)

/-- The device answers the host at all: no trip (02 R43), not stopped in its boot (20 R541), not held in COLD reset. -/
def Dev.hostAnswers (d : Dev) : Bool := !d.board.tripped && !d.board.bootFailed && !d.board.coldHeld

/-- Registers outside the CTL, CLK, RST and ERR blocks are served: clocks not held (03 R69), READY or an FLR (20 R540;
DESIGN CHOICE, notes/assumptions/34.md). -/
def Dev.hostRegsServed (d : Dev) : Bool := d.hostAnswers && !d.board.domHeld && (d.ready || d.boot.flr)

/-- A counted BAR access: its counter, offset and BAR (03 R75). -/
def Dev.barError (d : Dev) (f : Fld) (bar off : Nat) : Dev :=
  ((d.inc f).wr Reg.HOST_BAR_ERR_ADDR.OFFSET off).wr Reg.HOST_BAR_ERR_ADDR.BAR bar

/-- A host access that a held domain does not serve: counted (03 R69, R75). -/
def Dev.heldAccess (d : Dev) (bar off : Nat) : Dev := if d.hostAnswers then d.barError Reg.HOST_BAR_ERR.HELD bar off else d

/-- CTX_CFG: accepted only while the context is IDLE and CLASS is not 3 (R115). -/
def Dev.ctxCfgWrite (d : Dev) (c v : Nat) : Dev :=
  if d.ctxState c = csIdle ∧ bits v 0 2 ≠ 3 then d.setReg (Reg.CTX_CFG.CLASS c).reg (v &&& 0xFFFFFF07)
  else d.wr (Reg.CTX_STATE.CFG_REFUSED c) 1

/-- QP_SQ_BASE or QP_CQ_BASE: accepted only while DISABLED (R115). -/
def Dev.qpBaseWrite (d : Dev) (q : Nat) (f : Fld) (v : Nat) : Dev :=
  if d.qpState q = qsDisabled then d.wr f (bits v 12 36) else d.inc (Reg.QP_ERR.CFG_REFUSED q)

/-- CTX_CFG_WRITE (R115). -/
def execCtxCfgWrite (ctx : Nat) (value : Word) (s : State) : Out := s.run fun d =>
  if d.hostRegsServed then d.ctxCfgWrite ctx value.toNat else d.heldAccess 0 (Reg.CTX_CFG.CLASS ctx).reg

/-- QP_CONFIG_WRITE (R115): QP_SQ_BASE at offset 0x00, QP_CQ_BASE at 0x08, QP_CFG at 0x10. -/
def execQpConfigWrite (qp off : Nat) (value : QWord) (s : State) : Out := s.run fun d =>
  if !d.hostRegsServed then d.heldAccess 0 (0x400000 + 0x40 * qp + off)
  else if off = 0x00 then d.qpBaseWrite qp (Reg.QP_SQ_BASE.BASE qp) value.toNat
  else if off = 0x08 then d.qpBaseWrite qp (Reg.QP_CQ_BASE.BASE qp) value.toNat
  else if off = 0x10 then d.qpCfgWrite qp (value.toNat % 2 ^ 32)
  else d

/-- QP_ENABLE (R117): QP_CFG written with EN = 1; before READY the enable checks refuse it (20 R540). -/
def execQpEnable (qp : Nat) (value : Word) (s : State) : Out := s.run fun d =>
  if d.hostAnswers && !d.board.domHeld then d.qpCfgWrite qp (setBits value.toNat 31 1 1) else d.heldAccess 0 (Reg.QP_CFG.CTX qp).reg

/-- QP_DISABLE (R117): EN written 0, no other field changed. -/
def execQpDisable (qp : Nat) (s : State) : Out := s.run fun d =>
  if d.hostRegsServed then d.qpCfgWrite qp (setBits (d.reg (Reg.QP_CFG.CTX qp).reg) 31 1 0)
  else d.heldAccess 0 (Reg.QP_CFG.CTX qp).reg

/-- Ring indices from `a` up to, not including, `b`, modulo `n`. -/
def ringArc (a b n : Nat) : List Nat := (List.range ((b + n - a % n) % n)).map fun i => (a + i) % n

/-- SQ_TAIL_DOORBELL (R121, R122). -/
def execSqTailDoorbell (qp : Nat) (value : Word) (s : State) : Out := s.run fun d =>
  if !d.coreClocks then d
  else if d.qpState qp ≠ qsActive then d.inc (Reg.QP_ERR.DOORBELL_OFF qp)
  else
    let n := d.sqSize qp
    if n ≤ value.toNat then (d.inc (Reg.QP_ERR.BAD_DOORBELL qp)).queueFault qp 2 value.toNat
    else
      let d := d.wr (Reg.QP_SQ_PTRS.TAIL qp) value.toNat
      let old := (kvGet qp d.cp0.bells).getD []
      let arc := ringArc (d.rd (Reg.QP_SQ_PTRS.HEAD qp)) value.toNat n
      let bells := arc.map fun i => match old.find? fun b => b.1 == i with
        | some b => b
        | none => (i, d.timeNs)
      { d with cp0 := { d.cp0 with bells := kvPut qp bells d.cp0.bells } }

/-- CQ_HEAD_DOORBELL (R121, R122). -/
def execCqHeadDoorbell (qp : Nat) (value : Word) (s : State) : Out := s.run fun d =>
  if !d.coreClocks then d
  else if d.qpState qp = qsDisabled ∨ d.qpState qp = qsFaulted then d.inc (Reg.QP_ERR.DOORBELL_OFF qp)
  else
    let m := d.cqSize qp
    let h := d.rd (Reg.QP_CQ_PTRS.HEAD qp)
    let t := d.rd (Reg.QP_CQ_PTRS.TAIL qp)
    if value.toNat < m ∧ (value.toNat + m - h) % m ≤ (t + m - h) % m then d.wr (Reg.QP_CQ_PTRS.HEAD qp) value.toNat
    else (d.inc (Reg.QP_ERR.BAD_DOORBELL qp)).queueFault qp 3 value.toNat

/-- CP0 stops fetching once FW_ACTIVATE with MODE 1 runs (20 R543). -/
def Dev.fwActivating (d : Dev) : Bool :=
  d.mgt.upd.state == 6
    || d.cp0.cmds.any fun c => c.opcode == 0x0A04 && c.par 1 1 == 1 && (c.phase == .running || c.fin == some ⟨0, 0, 0⟩)

/-- CP0 can fetch the next entry of a queue pair (R124, 04 R99, R101). -/
def Dev.canFetch (d : Dev) (q : Nat) : Bool :=
  let m := d.cqSize q
  let used := (d.rd (Reg.QP_CQ_PTRS.TAIL q) + m - d.rd (Reg.QP_CQ_PTRS.HEAD q)) % m
  let infl := d.rd (Reg.QP_STATUS.INFLIGHT q)
  d.live && d.ready && d.qpState q == qsActive && d.rd (Reg.QP_SQ_PTRS.HEAD q) != d.rd (Reg.QP_SQ_PTRS.TAIL q)
    && decide (used + infl + 1 ≤ m - 1) && decide (infl < 64) && decide ((d.cp0.cmds.countP fun c => !c.ofBatch) < 2048) && d.hostReadable
    && !d.fwActivating

/-- A command right after its entry's read has been issued. -/
def cmdNew (slot qp ctx idx bell : Nat) : Cmd :=
  { slot, qp, ctx, pkt := 0, sqIdx := idx, phase := .fetching, bellNs := bell, fin := none, stop := none, maySignal := false,
    cores := [], suspended := [], rested := false, preempt := [], preemptNs := 0, suspNs := 0, total := 0, done := 0, todo := [],
    targets := [], hits := 0, tab := none, saved := 0, cursor := 0, rstate := [], aux := [] }

/-- Issue the read of one submission entry: HEAD moves, a completion slot is reserved (R118, R124). -/
def Dev.fetchOne (d : Dev) (q : Nat) : Dev :=
  if !d.canFetch q then d
  else
    let h := d.rd (Reg.QP_SQ_PTRS.HEAD q)
    let c := d.qpCtx q
    if !d.ringInWindow c (d.sqBase q + h * d.entryBytes q) (d.entryBytes q) then d.queueFault q 4 h
    else
      let bells := (kvGet q d.cp0.bells).getD []
      let bell := match bells.find? fun b => b.1 == h with
        | some b => b.2
        | none => d.timeNs
      let cmd := cmdNew d.cp0.nextSlot q c h bell
      let d := d.wr (Reg.QP_SQ_PTRS.HEAD q) ((h + 1) % d.sqSize q)
      let d := d.wr (Reg.QP_STATUS.INFLIGHT q) (d.rd (Reg.QP_STATUS.INFLIGHT q) + 1)
      let d := d.wr (Reg.CTX_INFLIGHT.COUNT c) (d.rd (Reg.CTX_INFLIGHT.COUNT c) + 1)
      { d with cp0 := { d.cp0 with
          cmds := d.cp0.cmds ++ [cmd], nextSlot := (d.cp0.nextSlot + 1) % 2 ^ 32
          bells := kvPut q (bells.filter fun b => b.1 != h) d.cp0.bells } }

/-- SQ_FETCH (R124, R125): one request for up to `count` consecutive entries, at most 4 KiB. -/
def execSqFetch (qp count : Nat) (s : State) : Out := s.run fun d =>
  d.forEach (List.range (min count (4096 / d.entryBytes qp))) fun _ d => d.fetchOne qp

/-! ### Dispatch (R141-R143) -/

/-- The next command of a queue pair, if it is free to start: fetched and checked, every earlier one started, and with SERIAL
every earlier one completed (R127, R129). -/
def Dev.nextOf (d : Dev) (q : Nat) : Option Cmd :=
  let l := d.cp0.cmds.filter fun c => c.qp == q
  match l.find? fun c => c.phase == .fetching || c.phase == .waiting || c.phase == .ready with
  | some c =>
    if c.phase != .ready then none
    else if c.serial && (match l with
      | x :: _ => x.slot != c.slot
      | [] => false) then none
    else some c
  | none => none

/-- The queue pairs with a candidate in a class. -/
def Dev.candQps (d : Dev) (cls : Nat) : List Nat :=
  ((d.cp0.cmds.map fun c => c.qp).eraseDups.filter fun q =>
    match d.nextOf q with
    | some c => d.ctxClass c.ctx == cls
    | none => false)

def Dev.cand (d : Dev) (cls : Nat) : Bool := !(d.candQps cls).isEmpty

/-- choose_class of R141, and whether the aging rule chose it over a waiting candidate of a preferred class. -/
def Dev.chooseClass (d : Dev) : Option (Nat × Bool) :=
  if d.cand 2 && decide (64 ≤ d.rd Reg.HOST_ARB_AGE.AGE_BULK) then some (2, d.cand 0 || d.cand 1)
  else if d.cand 1 && decide (16 ≤ d.rd Reg.HOST_ARB_AGE.AGE_NORMAL) then some (1, d.cand 0)
  else if d.cand 0 then some (0, false)
  else if d.cand 1 then some (1, false)
  else if d.cand 2 then some (2, false)
  else none

/-- The smallest element above `x`, else the smallest: the next one in round robin. -/
def nextAfter (x : Nat) (l : List Nat) : Option Nat :=
  match (l.filter fun y => decide (x < y)), l with
  | y :: ys, _ => some (ys.foldl min y)
  | [], y :: ys => some (ys.foldl min y)
  | [], [] => none

/-- Pick the context of a class in deficit round robin (R141). -/
def Dev.chooseCtx (d : Dev) (cls : Nat) : Option (Nat × Dev) :=
  let cs := ((d.candQps cls).map d.qpCtx).eraseDups
  let cur := d.cp0.lastCtx.getD cls 0
  let left := (kvGet cur d.cp0.deficit).getD 0
  if cs.contains cur ∧ 0 < left then
    some (cur, { d with cp0 := { d.cp0 with deficit := kvPut cur (left - 1) d.cp0.deficit } })
  else
    match nextAfter cur cs with
    | none => none
    | some c =>
      let w := max (d.rd (Reg.CTX_CFG.WEIGHT c)) 1
      some (c, { d with cp0 := { d.cp0 with
        deficit := kvPut c (w - 1) (kvDel cur d.cp0.deficit), lastCtx := d.cp0.lastCtx.set cls c } })

/-- Commands an ABORT targets at its dispatch (R133, R134). -/
def Dev.abortTargets (d : Dev) (a : Cmd) : List Nat :=
  let tc := a.par 0 1 % 16
  let scope := a.par 1 1
  let tq := a.par 2 2
  let id := a.par 4 4
  (d.cp0.cmds.filter fun c => c.slot != a.slot && !c.ofBatch && c.opcode != 0x0102 && c.ctx == tc
    && (scope == 0 || c.qp == tq) && (scope != 2 || c.cmdId == id) && c.fin.isNone).map fun c => c.slot

/-- Age counters and dispatch counters after a dispatch of class `k` (R141, R143). -/
def Dev.afterDispatch (d : Dev) (k : Nat) (aged : Bool) : Dev :=
  let b := d.rd Reg.HOST_ARB_AGE.AGE_BULK
  let n := d.rd Reg.HOST_ARB_AGE.AGE_NORMAL
  let d := d.wr Reg.HOST_ARB_AGE.AGE_BULK (if k = 2 then 0 else if d.cand 2 then min (b + 1) 64 else b)
  let d := d.wr Reg.HOST_ARB_AGE.AGE_NORMAL
    (if k = 1 then 0 else if k = 0 ∧ d.cand 1 then min (n + 1) 16 else n)
  let d := d.inc (if k = 0 then Reg.HOST_ARB_DISP_DL.COUNT else if k = 1 then Reg.HOST_ARB_DISP_NM.COUNT
    else Reg.HOST_ARB_DISP_BK.COUNT)
  if aged then d.inc (if k = 2 then Reg.HOST_ARB_AGED.BULK else Reg.HOST_ARB_AGED.NORMAL) else d

/-- CMD_DISPATCH (R141): one command by class, context and queue pair; it waits on its header SO or starts. -/
def execCmdDispatch (s : State) : Out := s.run fun d =>
  if !d.live then d
  else
    match d.chooseClass with
    | none => d
    | some (k, aged) =>
      match d.chooseCtx k with
      | none => d
      | some (c, d) =>
        match nextAfter ((kvGet c d.cp0.lastQp).getD 256) ((d.candQps k).filter fun q => d.qpCtx q == c) with
        | none => d
        | some q =>
          match d.nextOf q with
          | none => d
          | some cmd =>
            let tg := if cmd.opcode == 0x0102 then d.abortTargets cmd else []
            let d := { d with cp0 := { d.cp0 with lastQp := kvPut c q d.cp0.lastQp } }
            let d := d.updCmd cmd.slot fun x =>
              { x with phase := if x.waits then .waiting else .running, targets := tg }
            let d := d.trace 0 255 (some cmd.ctx) (some 0) (some cmd.cmdId) (some cmd.opcode) none
            d.afterDispatch k aged

/-- HEADER_WAIT_SATISFIED (R127): the wait has been woken and the command starts. -/
def execHeaderWaitSatisfied (slot : Nat) (s : State) : Out := s.run fun d =>
  match d.cmd? slot with
  | some c =>
    if c.phase == .waiting && d.isWoken (.cmd slot) && d.live then
      (d.takeWake (.cmd slot)).updCmd slot fun c => { c with phase := .running }
    else d
  | none => d

/-- A stop cause reaches a command: one that has not started ends at once, a suspended routine too, a running one at its next
permitted point (R134, R138; 06 R162). -/
def Dev.stopCmd (d : Dev) (slot mj dt : Nat) : Dev :=
  match d.cmd? slot with
  | none => d
  | some c =>
    match c.phase with
    | .fetching => d.askStop slot mj dt
    | .ready | .waiting => (d.dropWaits (d.waitOf slot)).endCmd slot mj dt 0
    | .running =>
      let d := d.askStop slot mj dt
      if c.parked then (d.updCmd slot fun c => { c with suspended := [] }).endCmd slot mj dt c.stopResult else d
    | .ended => d

/-- CMD_TIMEOUT (R137, R138): the timer of a dispatched command expires; ABORT has none. -/
def execCmdTimeout (slot : Nat) (s : State) : Out := s.run fun d =>
  match d.cmd? slot with
  | some c =>
    if c.opcode == 0x0102 || c.ofBatch then d
    else if c.phase == .waiting then d.stopCmd slot 0x05 0x0531
    else if c.phase == .running then d.stopCmd slot 0x05 0x0530
    else d
  | none => d

/-- The cores of a CORE field: 0 and 1 name one, 2 both. -/
def coreList (v : Nat) : List Nat := if v < 2 then [v] else [0, 1]

/-- A CORE reset of a core runs. -/
def Dev.coreResets (d : Dev) (core : Nat) : Bool := bitAt (d.rd Reg.RST_BUSY.CORE) core

/-- CP1 holds a command that has not been assigned and needs a core whose CORE reset runs; one that may run on either goes to the
other core (20 R531). -/
def Dev.coreHeld (d : Dev) (c : Cmd) : Bool :=
  let all (v : Nat) : Bool := (coreList v).any d.coreResets
  let some_ (v : Nat) : Bool := if v = 2 then (coreList v).all d.coreResets else all v
  c.cores.isEmpty && c.total == 0 && d.rd Reg.RST_BUSY.CORE != 0
    && (match c.opcode with
      | 0x0301 => some_ (c.par 0x0C 1)
      | 0x0302 => some_ (c.par 0x37 1)
      | 0x0303 => some_ (c.par 0x49 1)
      | 0x0603 => some_ (c.par 0x1C 1)
      | 0x0201 | 0x0202 | 0x0203 | 0x0204 | 0x0205 | 0x0206 | 0x0802 => some_ 2
      | 0x0304 => all (c.par 0x09 1)
      | 0x0305 => all (c.par 0x0E 1)
      | 0x0801 => all (c.par 0x00 1)
      | 0x0A01 => all (c.par 0x09 1)
      | 0x0A02 => all (c.par 0x0C 1)
      | 0x0503 => all (bits (c.par 0x0B 1) 2 2)
      | 0x0502 => match kvGet (c.par 0 1) d.trn.slots with
        | some t => all (fieldAt t.bytes 0x0E 1)
        | none => false
      | _ => false)

/-- Run an effect on a command that has started, has the opcode and has no cause recorded; a stop asked for before a SHORT
routine's first visible change ends it instead (06 R158). -/
def Dev.onCmd (d : Dev) (slot op : Nat) (f : Cmd → Dev → Dev) : Dev :=
  match d.cmd? slot with
  | some c =>
    if d.live && c.phase == .running && c.opcode == op && c.fin.isNone && !c.parked && !d.coreHeld c then
      match c.stop with
      | some (mj, dt) => if c.rclass = .short ∧ op ≠ 0x0102 then d.endCmd slot mj dt 0 else f c d
      | none => f c d
    else d
  | none => d

/-- NOP (R132). -/
def execNop (slot : Nat) (s : State) : Out := s.run fun d => d.onCmd slot 0x0101 fun _ d => d.okCmd slot

/-- TIMESTAMP (R132). -/
def execTimestamp (slot : Nat) (s : State) : Out := s.run fun d => d.onCmd slot 0x0103 fun _ d => d.okCmd slot d.timeNs

/-- ABORT (R134): its targets are stopped; it completes once every one of them has its completion written, with the number it
ended. -/
def execAbort (slot : Nat) (s : State) : Out := s.run fun d => d.onCmd slot 0x0102 fun c d =>
  let d := if c.aux.isEmpty then
      (d.forEach c.targets fun t d => d.stopCmd t 0x06 0x0540).updCmd slot fun c => { c with aux := [1] }
    else d
  let left := c.targets.filter fun t => (d.cmd? t).isSome
  if left.isEmpty then d.okCmd slot c.hits else d

end Sys2Proof.Machine
end

