-- ==== Sys2Proof/Machine/Sequencer.lean ====
section
/-!
DEFINITION. Task queues, preemption and tabs (chapter 06): writing descriptors, starting and retiring them, FENCE and NOP,
parking and resuming routines, the tabs of LONG commands.
Choices: DEDUCED, notes/assumptions/10.md.
-/
namespace Sys2Proof.Machine

/-! ### Starting descriptors (R145, R147, R151, R184) -/

/-- The unit a descriptor runs on, as a number: units 0-6 of core 0, then 10-16 of core 1, porters from 100. -/
def Td.unitKey (t : Td) : Nat := if tdUnit t.td ≥ 100 then tdUnit t.td else 10 * t.core + tdUnit t.td

/-- Descriptors of a list before the one with an identifier. -/
def beforeTd (id : Nat) (l : List Td) : List Td := l.takeWhile fun t => t.id != id

/-- Earlier descriptors of the same command on the same core that have not completed. -/
def Dev.earlierOfCmd (d : Dev) (t : Td) : List Td :=
  (beforeTd t.id d.seq.tds).filter fun u => u.cmd == t.cmd && u.core == t.core

/-- A preemption request for a command is pending on a core: a stop, or a DEADLINE request (R162, R163). -/
def Dev.preemptPending (d : Dev) (slot core : Nat) : Bool :=
  match d.cmd? slot with
  | some c => c.stop.isSome || c.fin.isSome || c.preempt.contains core
  | none => true

/-- The SEQ runs its own descriptors while its domain is ON or drains (19 R503). -/
def Dev.seqPowered (d : Dev) (t : Td) : Bool :=
  tdUnit t.td != 0 || d.domOn (domSeq t.core) || d.rd (Reg.PWR_DOM.STATE (domSeq t.core)) == stDraining

/-- A descriptor may start, but for the choice among task queues (R147, R151, R163, R184). -/
def Dev.tdReady (d : Dev) (t : Td) : Bool :=
  let q := d.queueTds t.core t.tq
  let before := beforeTd t.id q
  let mine := d.earlierOfCmd t
  !t.started && decide (before.length < 16) && d.seqPowered t
    && !(d.seq.tds.any fun u => u.unitKey == t.unitKey && u.started && !u.finished)
    && !(before.any fun u => u.unitKey == t.unitKey && !u.finished)
    && (!tdWaitEn t.td || d.isWoken (.td t.id))
    && !(mine.any fun u => tdBoundary u.td && !u.started)
    && (!tdBoundary t.td || (mine.isEmpty && !d.preemptPending t.cmd t.core))
    && !(before.any fun u => u.cmd == t.cmd && tdKind u.td == 0x02)

/-- The class a task queue ranks as: TQ3 as BULK (R147). -/
def tqClass (q : Nat) : Nat := min q 2

/-- The class order and aging of R141 over the offers of one unit. -/
def pickClass (ages : Nat × Nat) (offers : List Nat) : Nat :=
  if offers.contains 2 && decide (64 ≤ ages.1) then 2
  else if offers.contains 1 && decide (16 ≤ ages.2) then 1
  else if offers.contains 0 then 0
  else if offers.contains 1 then 1
  else 2

/-- Aging after a descriptor of class `k` started on a unit. -/
def ageAfter (ages : Nat × Nat) (offers : List Nat) (k : Nat) : Nat × Nat :=
  (if k = 2 then 0 else if offers.contains 2 then ages.1 + 1 else ages.1,
   if k = 1 then 0 else if k = 0 && offers.contains 1 then ages.2 + 1 else ages.2)

/-- Classes of the task queues of a core that offer a descriptor to a unit. -/
def Dev.offers (d : Dev) (key core : Nat) : List Nat :=
  ((d.seq.tds.filter fun u => u.unitKey == key && u.core == core && d.tdReady u).map fun u => tqClass u.tq).eraseDups

/-- The SEQ starts this descriptor now: ready, and of the class it picks for the unit (R147). -/
def Dev.tdMayStart (d : Dev) (t : Td) : Bool :=
  d.live && d.tdReady t
    && tqClass t.tq == pickClass ((kvGet t.unitKey d.seq.ages).getD (0, 0)) (d.offers t.unitKey t.core)

/-- Start a descriptor: its wake is taken up, the unit's aging counters move, the start is traced. -/
def Dev.tdStart (d : Dev) (t : Td) : Dev :=
  let offers := d.offers t.unitKey t.core
  let a := ageAfter ((kvGet t.unitKey d.seq.ages).getD (0, 0)) offers (tqClass t.tq)
  let d := { d with seq := { d.seq with ages := kvPut t.unitKey a d.seq.ages } }
  let d := (d.takeWake (.td t.id)).updTd t.id fun t => { t with started := true }
  d.trace 1 t.core (some t.ctx) (some 0) (some t.cmd) (some (tdKind t.td)) none

/-- Run an effect for a descriptor of one of some kinds that may start now; nothing otherwise. -/
def Dev.onTd (d : Dev) (id : Nat) (kinds : List Nat) (f : Td → Dev → Dev) : Dev :=
  match d.td? id with
  | some t => if kinds.contains (tdKind t.td) && d.tdMayStart t then f t (d.tdStart t) else d
  | none => d

/-- The failure a unit answers when one of the domains it needs is not ON, or is out of service: its power detail, or the
Unit State Table's status (19 R503, 21 R565). -/
def Dev.unitBlocked (d : Dev) (doms : List Nat) (detail : Nat) : Option Fail :=
  if doms.any (fun p => !d.domOn p) then some ⟨0x0F, detail, 0⟩
  else match (doms.filterMap d.unitRefusal).head? with
    | some (mj, dt) => some ⟨mj, dt, 0⟩
    | none => none

/-! ### CP1 writes descriptors (R144, R145, R162) -/

/-- A command's STAGED or LONG routine is on a core and may be suspended for DEADLINE work (R162). -/
def Dev.suspendable (d : Dev) (core : Nat) (c : Cmd) : Bool :=
  c.phase == .running && c.cores.contains core && c.rclass != .short && d.ctxClass c.ctx != 0
    && !c.suspended.contains core && !c.rested

/-- A core on which DEADLINE work would need a preemption (R145). -/
def Dev.coreBusy (d : Dev) (core : Nat) : Bool := d.cp0.cmds.any (d.suspendable core)

/-- Raise a DEADLINE request against the routines of a core (R162). -/
def Dev.deadlineRequest (d : Dev) (core : Nat) : Dev :=
  let req (c : Cmd) : Cmd :=
    if d.suspendable core c && !c.preempt.contains core then
      { c with preempt := core :: c.preempt, preemptNs := if c.preempt.isEmpty && c.stop.isNone then d.timeNs else c.preemptNs }
    else c
  { d with cp0 := { d.cp0 with cmds := d.cp0.cmds.map req } }

/-- Assign a command to cores; a DEADLINE command requests preemption there (R145, R162). -/
def Dev.assign (d : Dev) (slot : Nat) (cores : List Nat) : Dev :=
  match d.cmd? slot with
  | some c =>
    let d := d.updCmd slot fun c => { c with cores := cores }
    if d.ctxClass c.ctx = 0 then d.forEach cores fun k d => d.deadlineRequest k else d
  | none => d

/-- The core for a command whose CORE field is 0, 1 or 2 (either): one that needs no preemption, SC0 when both or neither do
(R145). -/
def Dev.pickCore (d : Dev) (want : Nat) : Nat :=
  if want < 2 then want
  else if d.coreResets 0 then 1
  else if d.coreBusy 0 && !d.coreBusy 1 && !d.coreResets 1 then 1
  else 0

/-- TD_WRITE (R144, R145): CP1 writes the next descriptor of a command into its task queue when that has a free entry. -/
def execTdWrite (slot : Nat) (s : State) : Out := s.run fun d =>
  match d.cmd? slot with
  | some c =>
    match c.todo with
    | (core, w) :: rest =>
      let q := d.tqOf c
      if d.live && c.phase == .running && c.fin.isNone && c.stop.isNone && !c.suspended.contains core && !c.preempt.contains core
          && decide ((d.queueTds core q).length < 128) then
        let last := !(rest.any fun x => x.1 == core)
        let t : Td := { id := d.seq.nextId, cmd := slot, core, tq := q, td := tdStamp w c.ctx slot last, started := false
                        finished := false, fail := none, signalled := false }
        let d := d.updCmd slot fun c => { c with todo := rest }
        { d with seq := { d.seq with tds := d.seq.tds ++ [t], nextId := d.seq.nextId + 1 } }
      else d
    | [] => d
  | none => d

/-! ### SEQ descriptors -/

/-- Transactions a descriptor still has open (R177). -/
def Dev.openTxns (d : Dev) (id : Nat) : Bool := d.fab.txns.any fun x => x.who == .td id

/-- TD_NOP (R152): waits and signals only. -/
def execTdNop (id : Nat) (s : State) : Out := s.run fun d => d.onTd id [0x01] fun t d => d.finishTd t.id

/-- The ordering condition of a FENCE holds (R183): LOCAL wants every earlier descriptor finished on its unit, FULL and HOST
completed. -/
def Dev.fenceHolds (d : Dev) (t : Td) : Bool :=
  let mine := d.earlierOfCmd t
  if t.f 0x18 1 = 2 then mine.all fun u => u.finished else mine.isEmpty

/-- FENCE (R183-R186). -/
def execFence (id : Nat) (s : State) : Out := s.run fun d =>
  match d.td? id with
  | some t =>
    if !d.fenceHolds t then d
    else
      d.onTd id [0x02] fun t d =>
        if t.f 0x18 1 = 1 && d.hostWinSize t.ctx != 0 && !d.hostReadable then d.failTd t.id ⟨0x0E, 0x0404, 0⟩
        else d.finishTd t.id
  | none => d

/-! ### Completion (R148, R149, R151) -/

/-- Pieces that CP1 counts: a stage has completed when nothing of it is left on any core of the command (R151, R166). -/
def Dev.stageLeft (d : Dev) (slot core : Nat) : Bool :=
  match (d.cmdTds slot).filter fun u => u.core == core with
  | u :: _ => u.started || !tdBoundary u.td
  | [] =>
    match d.cmd? slot with
    | some c => match (c.todo.filter fun x => x.1 == core) with
      | (_, w) :: _ => !tdBoundary w
      | [] => false
    | none => false

/-- RESULT of a command that ends OK with its last descriptor: the stages of a VE_RUN (09 R267); else 0. -/
def Cmd.okResult (c : Cmd) : Nat := if c.opcode = 0x0305 then c.progress else 0

/-- A stage of a command has completed on a core that its command owns the ARR of: the ARR forgets it; fused rows or tiles left
over fail the command (08 R212; 09 R253). -/
def Dev.stageEnd (d : Dev) (slot core : Nat) : Dev :=
  let a := d.arrOf core
  if a.owner != some slot then d
  else
    let left := !a.fused.isEmpty || !a.tiles.isEmpty
    let d := d.arrRelease core
    if !left then d
    else
      let d := d.inc (Reg.VE_ERR.HANDOFF core)
      let d := d.updCmd slot fun c =>
        { c with fin := some ((c.ended ⟨0x02, 0x0906, c.progress⟩).fin.getD ⟨0x02, 0x0906, c.progress⟩), todo := [] }
      d.withdraw slot

/-- A descriptor is retired: it leaves its queue; a stage that is now complete counts; an EXEC_LIST or a VE_RUN with nothing left
ends OK (R148, R151, R166). -/
def Dev.retire (d : Dev) (t : Td) : Dev :=
  let d := { d with seq := { d.seq with tds := d.seq.tds.filter fun u => u.id != t.id } }
  let d := d.trace 1 t.core (some t.ctx) (some 1) (some t.cmd) (some (tdKind t.td)) none
  let d := if d.stageLeft t.cmd t.core then d
    else (d.updCmd t.cmd fun c => { c with done := c.done + 1, rested := false }).stageEnd t.cmd t.core
  match d.cmd? t.cmd with
  | some c =>
    if c.fin.isSome then d.settleCmd t.cmd
    else if (c.opcode == 0x0301 || c.opcode == 0x0305) && (d.cmdTds t.cmd).isEmpty && c.todo.isEmpty && decide (c.total ≤ c.done) then
      d.okCmd t.cmd c.okResult
    else d
  | none => d

/-- TD_COMPLETE (R148): a descriptor that its unit has finished, with every write visible, makes its header signal and is
retired; a parity error in the unit's storage fails it instead (22 R585). -/
def execTdComplete (id : Nat) (parity : Bool) (s : State) : Out := s.run fun d =>
  match d.td? id with
  | none => d
  | some t =>
    if !d.coreClocks || !t.started then d
    else if parity && !t.finished then
      let u := match tdUnit t.td with
        | 1 | 7 => 1
        | 2 => 2
        | 3 | 8 => 5
        | 4 => 3
        | 5 => 4
        | _ => 0
      (d.raise 0x1604 clsContained (some t.ctx) u t.core 0 0).failTd id ⟨0x0E, 0x1602, 0⟩
    else if !t.finished || d.openTxns id then d
    else
      let failed := match d.cmd? t.cmd with
        | some c => c.fin.isSome
        | none => true
      if !tdSignalEn t.td || t.signalled || failed then d.retire t
      else
        match d.soOp (.td id) t.ctx (tdSignalSo t.td) false (tdSignalAdd t.td) with
        | ⟨d, .done⟩ => d.retire t
        | ⟨d, .sent _⟩ => d.updTd id fun t => { t with signalled := true }
        | ⟨d, .fail mj dt⟩ => d.failTd id ⟨mj, dt, 0⟩

/-! ### Tabs (R167-R171) -/

def tabSlot (ctx n : Nat) : Nat := 16 * ctx + n

/-- A tab copy under its CRC, and whole (R168). -/
def tabBytes (op ctx st cmdId crc total done cursor epoch gen : Nat) (rstate : List Byte) : List Byte :=
  let body := leBytes 2 op ++ leBytes 1 ctx ++ leBytes 1 st ++ leBytes 4 cmdId ++ leBytes 8 crc ++ leBytes 4 total
    ++ leBytes 4 done ++ leBytes 8 cursor ++ leBytes 8 epoch ++ leBytes 4 gen ++ leBytes 4 rstate.length
    ++ rstate ++ zeros (48 - rstate.length) ++ zeros 24
  body ++ leBytes 8 (crc64 body)

/-- A copy is valid when its CRC matches (R169). -/
def tabValid (b : List Byte) : Bool := b.length == 128 && fieldAt b 0x78 8 == crc64 (b.take 0x78)

def tabOp (b : List Byte) : Nat := fieldAt b 0 2
def tabState (b : List Byte) : Nat := fieldAt b 3 1
def tabCrc (b : List Byte) : Nat := fieldAt b 8 8
def tabDone (b : List Byte) : Nat := fieldAt b 0x14 4
def tabCursor (b : List Byte) : Nat := fieldAt b 0x18 8
def tabEpoch (b : List Byte) : Nat := fieldAt b 0x20 8
def tabGen (b : List Byte) : Nat := fieldAt b 0x28 4
def tabRstate (b : List Byte) : List Byte := (b.drop 0x30).take (min (fieldAt b 0x2C 4) 48)

/-- The valid copy with the higher GEN (R169). -/
def tabInForce (p : List Byte × List Byte) : Option (List Byte) :=
  match tabValid p.1, tabValid p.2 with
  | true, true => some (if tabGen p.1 < tabGen p.2 then p.2 else p.1)
  | true, false => some p.1
  | false, true => some p.2
  | false, false => none

/-- Write the copy with the older GEN. `torn`: the write is cut before its CRC (R169). -/
def tabPut (p : List Byte × List Byte) (mk : Nat → List Byte) (torn : Bool) : List Byte × List Byte :=
  let gen := match tabInForce p with
    | some b => (tabGen b + 1) % 2 ^ 32
    | none => 1
  let new := mk gen
  let cut (old : List Byte) : List Byte := if torn then new.take 0x78 ++ (old ++ zeros 128).drop 0x78 |>.take 128 else new
  match tabValid p.1, tabValid p.2 with
  | true, true => if tabGen p.1 < tabGen p.2 then (cut p.1, p.2) else (p.1, cut p.2)
  | true, false => (p.1, cut p.2)
  | _, _ => (cut p.1, p.2)

/-- Parameter bytes that the tables of the LONG opcodes name (06 R168: reserved bytes count as 0): (offset, length) pairs. -/
def longFields (op : Nat) : List (Nat × Nat) :=
  if op = 0x0201 then [(0, 8), (8, 8), (0x10, 8)]
  else if op = 0x0202 then [(0, 8), (8, 8), (0x10, 8)]
  else if op = 0x0203 then [(0, 8), (8, 8), (0x10, 4), (0x14, 4), (0x18, 8), (0x20, 8)]
  else if op = 0x0204 then [(0, 8), (8, 8), (0x10, 4), (0x14, 4), (0x18, 4), (0x1C, 4), (0x20, 1)]
  else if op = 0x0205 then [(0, 8), (8, 8)]
  else if op = 0x0802 then [(0, 8), (8, 8), (0x10, 1), (0x11, 1), (0x18, 8)]
  else if op = 0x0603 then [(0, 8), (8, 8), (0x10, 8), (0x18, 2), (0x1A, 1), (0x1B, 1), (0x1C, 1), (0x20, 4)]
  else if op = 0x0206 then [(0, 8), (8, 4), (0x0C, 1), (0x0D, 1), (0x10, 8), (0x18, 4)]
  else if op = 0x0903 then [(0, 1)]
  else if op = 0x0A03 then [(0, 8), (8, 4)]
  else []

/-- CRC-64 of a command's parameter block with reserved bytes taken as 0 (R168). -/
def Cmd.paramCrc (c : Cmd) (fields : List (Nat × Nat)) : Nat :=
  let n := match opInfo c.opcode with
    | some r => r.param
    | none => 0
  let v := fields.foldl (fun v (o, l) => v + c.par o l * 2 ^ (8 * o)) 0
  crc64 (leBytes n v)

/-- The tab slots of a context with their contents. -/
def Dev.ctxTabs (d : Dev) (ctx : Nat) : List (Nat × (List Byte × List Byte)) :=
  (List.range 16).map fun n => (tabSlot ctx n, (kvGet (tabSlot ctx n) d.seq.tabs).getD ([], []))

/-- A slot that has never been written, or whose tab in force reads FREE. -/
def Dev.tabFree (d : Dev) (k : Nat) : Bool :=
  match kvGet k d.seq.tabs with
  | none => true
  | some p => match tabInForce p with
    | some b => tabState b == 0
    | none => false

/-- Write a command's tab with a state (R169). -/
def Dev.tabWrite (d : Dev) (k : Nat) (c : Cmd) (crc epoch st : Nat) (torn : Bool) : Dev :=
  let p := (kvGet k d.seq.tabs).getD ([], [])
  let p := tabPut p (fun gen => tabBytes c.opcode c.ctx st c.cmdId crc c.total c.done c.cursor epoch gen c.rstate) torn
  { d with seq := { d.seq with tabs := kvPut k p d.seq.tabs } }

/-- Rewrite a tab in force with another state. -/
def Dev.tabSetState (d : Dev) (k st : Nat) : Dev :=
  match kvGet k d.seq.tabs with
  | none => d
  | some p =>
    match tabInForce p with
    | none => d
    | some b =>
      let mk (gen : Nat) : List Byte :=
        tabBytes (tabOp b) (fieldAt b 2 1) st (fieldAt b 4 4) (tabCrc b) (fieldAt b 0x10 4) (tabDone b) (tabCursor b) (tabEpoch b)
          gen (tabRstate b)
      { d with seq := { d.seq with tabs := kvPut k (tabPut p mk false) d.seq.tabs } }

/-- Dispatch of a LONG command of more than one chunk: it finds, resumes or takes a tab (R170). `epoch` is the committed
ledger epoch the routine is bound to, 0 for none. -/
def Dev.tabOpen (d : Dev) (c : Cmd) (total epoch : Nat) : Dev × Option Fail :=
  let crc := c.paramCrc (longFields c.opcode)
  let tabs := d.ctxTabs c.ctx
  let mine := tabs.find? fun (_, p) => match tabInForce p with
    | some b => tabState b != 0 && tabOp b == c.opcode && tabCrc b == crc
    | none => false
  let take (d : Dev) (k done cursor : Nat) (rs : List Byte) : Dev :=
    let c' := { c with total := total, done := done, saved := done, cursor := cursor, rstate := rs, tab := some k }
    let d := d.updCmd c.slot fun _ => c'
    let d := { d with seq := { d.seq with tabHolder := kvPut k c.slot d.seq.tabHolder } }
    d.tabWrite k c' crc epoch 1 false
  match mine with
  | some (k, p) =>
    if (kvGet k d.seq.tabHolder).isSome then (d, some ⟨0x04, 0x0611, 0⟩)
    else
      match tabInForce p with
      | some b =>
        if tabEpoch b != 0 && tabEpoch b != epoch then
          (take (d.raise 0x0602 clsInfo (some c.ctx) 1 c.opcode c.cmdId 0) k 0 0 [], none)
        else (take d k (tabDone b) (tabCursor b) (tabRstate b), none)
      | none => (d, none)
  | none =>
    match tabs.find? fun (k, p) => (kvGet k d.seq.tabs).isSome && (tabInForce p).isNone with
    | some (k, _) => (take (d.raise 0x0602 clsInfo (some c.ctx) 0 c.opcode c.cmdId 0) k 0 0 [], none)
    | none =>
      match tabs.find? fun (k, _) => d.tabFree k with
      | some (k, _) => (take d k 0 0 [], none)
      | none => (d, some ⟨0x04, 0x0610, 0⟩)

/-- The command's completion releases its tab: FREE after OK, else STOPPED (R170). -/
def Dev.tabRelease (d : Dev) (c : Cmd) (ok : Bool) : Dev :=
  match c.tab with
  | none => d
  | some k =>
    let d := { d with seq := { d.seq with tabHolder := kvDel k d.seq.tabHolder } }
    d.tabSetState k (if ok then 0 else 3)

/-- TAB_WRITE (R169): after a chunk's writes are visible, CP1 writes the older copy; `torn` when a reset cuts the write. -/
def execTabWrite (slot : Nat) (torn : Bool) (s : State) : Out := s.run fun d =>
  match d.cmd? slot with
  | some c =>
    match c.tab with
    | some k =>
      if d.live && c.phase == .running && c.saved < c.done then
        let b := ((kvGet k d.seq.tabs).bind tabInForce).getD []
        let d := d.tabWrite k c (tabCrc b) (tabEpoch b) 1 torn
        d.updCmd slot fun c => { c with saved := c.done }
      else d
    | none => d
  | none => d

/-! ### Routines in stages and chunks (R158, R162, R166) -/

/-- A chunk of a transfer over the fabric has begun and is not complete (R165): its `aux` counts what it has issued. -/
def Cmd.midChunk (c : Cmd) : Bool := ([0x0603, 0x0902, 0x0903] : List Nat).contains c.opcode && c.aux.headD 0 != 0

/-- Run the next stage or chunk of a STAGED or LONG command: started, its class's stop points free of a pending request, its
tab up to date. -/
def Dev.onRoutine (d : Dev) (slot op : Nat) (f : Cmd → Dev → Dev) : Dev :=
  d.onCmd slot op fun c d =>
    if (c.stop.isSome && !c.midChunk) || (c.saved < c.done && c.tab.isSome) then d
    else if !c.midChunk && !c.cores.isEmpty && c.cores.all (fun k => c.preempt.contains k || c.suspended.contains k) then d
    else f c d

/-- One stage or chunk has completed. -/
def Dev.pieceDone (d : Dev) (slot : Nat) : Dev := d.updCmd slot fun c => { c with done := c.done + 1, rested := false }

/-- A command's routine is at a permitted stop point for a stop (`stop`) or for a suspension on a core: nothing of it runs
on the core, and for a suspension or a LONG routine its last piece is committed (R158, R159, R163). -/
def Dev.atPoint (d : Dev) (c : Cmd) (core : Option Nat) : Bool :=
  let ts := (d.cmdTds c.slot).filter fun t => match core with
    | some k => t.core == k
    | none => true
  let running := ts.any fun t => t.started && !(core.isNone && d.tdStuck t)
  let boundary := match ts.filter fun t => !t.started with
    | t :: _ => tdBoundary t.td || (core.isNone && d.tdWaiting t)
    | [] => match c.todo with
      | (_, w) :: _ => tdBoundary w || core.isNone
      | [] => true
  !running && boundary && !c.midChunk && (c.opcode != 0x0410 || c.ofBatch) && (c.tab.isNone || c.saved == c.done) && !(d.fab.colls.any fun x => x.cmd == c.slot && x.busy)

/-- Take a command's unstarted descriptors of a core back to be written again at the resume (R163). -/
def Dev.takeBack (d : Dev) (slot core : Nat) : Dev :=
  let ts := (d.cmdTds slot).filter fun t => t.core == core && !t.started
  let ids := ts.map fun t => t.id
  let d := d.dropWaits fun w => match w with
    | .td id => ids.contains id
    | _ => false
  let d := { d with seq := { d.seq with tds := d.seq.tds.filter fun t => !ids.contains t.id } }
  d.updCmd slot fun c => { c with todo := ts.map (fun t => (t.core, t.td)) ++ c.todo }

/-- Count a completed preemption on a core (R172). -/
def Dev.countPreempt (d : Dev) (core ns : Nat) : Dev :=
  (d.incMod (Reg.SEQ_PREEMPT_CNT.COUNT core)).maxIn (Reg.SEQ_PREEMPT_MAX.MAX_NS core) ns

/-- A stage or chunk that ran past 50 µs with a preemption pending is counted and reported (R159). -/
def Dev.overrun (d : Dev) (c : Cmd) (core ns : Nat) : Dev :=
  if 50000 < ns then (d.inc (Reg.SEQ_OVERRUN.COUNT core)).raise 0x0601 clsInfo (some c.ctx) 0 c.opcode c.slot ns else d

/-- PREEMPT_PARK (R162, R163): a routine with a pending preemption reaches its permitted point. A stop ends it; a DEADLINE
request suspends its share on the core. `stageNs` is the measured time of the piece it finished first. -/
def execPreemptPark (slot stageNs : Nat) (s : State) : Out := s.run fun d =>
  match d.cmd? slot with
  | none => d
  | some c =>
    if !d.coreClocks || c.phase != .running || c.fin.isSome then d
    else
      match c.stop with
      | some (mj, dt) =>
        if d.atPoint c none then
          let d := d.forEach c.cores fun k d => (d.countPreempt k (d.timeNs - c.preemptNs)).overrun c k stageNs
          let d := (d.dropWaits (d.waitOf slot)).dropTds slot
          d.endCmd slot mj dt c.stopResult
        else d
      | none =>
        match c.preempt.find? fun k => d.atPoint c (some k) with
        | some k =>
          let d := (d.countPreempt k (d.timeNs - c.preemptNs)).overrun c k stageNs
          let d := d.takeBack slot k
          let d := match c.tab with
            | some t => d.tabSetState t 2
            | none => d
          d.updCmd slot fun c =>
            { c with preempt := c.preempt.filter (fun x => x != k), suspended := k :: c.suspended, suspNs := d.timeNs }
        | none => d

/-- ROUTINE_RESUME (R164): CP1 resumes a suspended share, once no DEADLINE work remains on the core or 1 ms has passed, which
the command asserts. -/
def execRoutineResume (slot : Nat) (s : State) : Out := s.run fun d =>
  match d.cmd? slot with
  | none => d
  | some c =>
    if !d.live || c.suspended.isEmpty || c.fin.isSome then d
    else
      let d := d.updCmd slot fun c => { c with suspended := [], rested := true }
      match c.tab with
      | some t => d.tabSetState t 1
      | none => d

end Sys2Proof.Machine
end

