-- ==== Sys2Proof/Machine/Sync.lean ====
section
/-!
DEFINITION. Sync-object commands (chapter 07): SO_OP descriptors, waits, host writes, mirrors and their pushes.
-/
namespace Sys2Proof.Machine

/-! ### Descriptors and waits -/

/-- SO_OP (R191, R180): an ADD or SET; with ORDER = 1 only after every earlier descriptor of the command on the core has
completed. `ue`: the object turns out uncorrectable (22 R586). -/
def execSoOp (id : Nat) (ue : Bool) (s : State) : Out := s.run fun d =>
  match d.td? id with
  | some t =>
    if t.f 0x19 1 = 1 ∧ !(d.earlierOfCmd t).isEmpty then d
    else
      d.onTd id [0x03] fun t d =>
        let n := t.f 0x1A 2 % 4096
        let d := if ue then d.soMeetUe n else d
        match d.soOp (.td id) t.ctx n (t.f 0x18 1 == 1) (t.f 0x20 8) with
        | ⟨d, .done⟩ => d.finishTd id
        | ⟨d, .sent _⟩ => d.finishTd id
        | ⟨d, .fail mj dt⟩ => d.failTd id ⟨mj, dt, 0⟩
  | none => d

/-- The descriptor a porter is at (13 R344). -/
def Dev.porterDesc (d : Dev) (r : PorterRun) : Nat := d.peekNat (r.list + 64 * r.index) 64

/-- SO_WAIT_REGISTER (R193): the wait of a command (`who` 0), a descriptor (1) or a porter (2) is registered. A descriptor
registers once it is among the first 16 of its queue. -/
def execSoWaitRegister (who id : Nat) (s : State) : Out := s.run fun d =>
  if !d.live then d
  else if who = 0 then
    match d.cmd? id with
    | some c =>
      if c.phase == .waiting && !d.isWaiting (.cmd id) && !d.isWoken (.cmd id) then d.soWait (.cmd id) c.waitSo 0 c.waitValue else d
    | none => d
  else if who = 1 then
    match d.td? id with
    | some t =>
      if tdWaitEn t.td && !t.started && !d.isWaiting (.td id) && !d.isWoken (.td id)
          && decide ((beforeTd id (d.queueTds t.core t.tq)).length < 16) then
        d.soWait (.td id) (tdWaitSo t.td) (tdWaitCond t.td) (tdWaitValue t.td)
      else d
    | none => d
  else
    match kvGet id d.porters with
    | some r =>
      let p := d.porterDesc r
      if pdWaitEn p && !r.waitOk && decide (r.index < r.count) && !d.isWaiting (.porter id) && !d.isWoken (.porter id) then
        if d.soAllowed r.ctx (pdWaitSo p) then
          (d.soWait (.porter id) (pdWaitSo p) (pdWaitCond p) (pdWaitValue p)).wr (Reg.PRT_STATUS.WAITING id) 1
        else d
      else d
    | none => d

/-! ### Host writes (R195, R196; 22 R586) -/

/-- A host ADD or SET: on a mirror it travels to the home, on a STALE one it is ignored and counted (R200, R201). -/
def Dev.soHost (d : Dev) (n : Nat) (set : Bool) (v : Nat) : Dev :=
  if d.soKind n = 3 && d.soStale n then d.inc Reg.SO_ERR.STALE_WRITES
  else (d.soOp .none 0 n set v).dev

/-- SO_VALUE_WRITE (R195): one SET; it rewrites an uncorrectable object whole. -/
def execSoValueWrite (n : Nat) (value : QWord) (ue : Bool) (s : State) : Out := s.run fun d =>
  if !d.hostRegsServed then d.heldAccess 0 (Reg.SO_VALUE.VALUE n).reg
  else
    let d := if ue then d.soMeetUe n else d
    let d := { d with so := { d.so with ue := d.so.ue.filter fun x => x != n } }
    d.soHost n true value.toNat

/-- SO_ADD_WRITE (R195): one ADD; it is ignored on an uncorrectable object. -/
def execSoAddWrite (n : Nat) (value : Word) (ue : Bool) (s : State) : Out := s.run fun d =>
  if !d.hostRegsServed then d.heldAccess 0 (Reg.SO_VALUE.VALUE n).reg
  else
    let d := if ue then d.soMeetUe n else d
    if d.so.ue.contains n then d else d.soHost n false value.toNat

/-- A host write of CFG (R196): a clear of WRAPPED alone, an accepted change that zeroes VALUE, or a refused write. -/
def Dev.soCfgWrite (d : Dev) (n v : Nat) : Dev :=
  let kind := bits v 0 2
  let arg := if kind = 1 then bits v 4 12 else 0
  let waits := d.so.waiters.any fun w => w.so == n
  if bits v 0 2 = d.soKind n ∧ bits v 4 12 = d.rd (Reg.SO_CFG.ARG n) ∧ bitAt v 2 then d.wr (Reg.SO_CFG.WRAPPED n) 0
  else if waits ∨ d.soKind n = 3 ∨ kind = 3 then d.inc Reg.SO_ERR.CFG_REFUSED
  else
    let d := { d with so := { d.so with ue := d.so.ue.filter fun x => x != n } }
    let d := (d.setReg (Reg.SO_CFG.KIND n).reg (kind + arg * 16)).wr (Reg.SO_VALUE.VALUE n) 0
    ((d.incMod Reg.SO_OPS.COUNT).trace 2 255 none none (some n) (some 0) none).soPushAll n

/-- SO_CFG_WRITE (R196). -/
def execSoCfgWrite (n : Nat) (value : Word) (ue : Bool) (s : State) : Out := s.run fun d =>
  if !d.hostRegsServed then d.heldAccess 0 (Reg.SO_VALUE.VALUE n).reg
  else (if ue then d.soMeetUe n else d).soCfgWrite n value.toNat

/-! ### Mirrors: the bound side (R197-R202) -/

/-- Whether anything waits on an object. -/
def Dev.soWaited (d : Dev) (n : Nat) : Bool := d.so.waiters.any fun w => w.so == n

/-- Send an unbind of a mirror to its home (R202). -/
def Dev.sendUnbind (d : Dev) (dev homeCtx ctx home mirror : Nat) : Dev :=
  (d.sendPkt { d.newPkt ptMirrorUnbind dev homeCtx ctx home with arg := mirror }).1

/-- A bind under way ends: its record and its transaction go; an unbind frees any entry the home made (R198). -/
def Dev.endBind (d : Dev) (b : Bind) (unbind : Bool) (ctx : Nat) : Dev :=
  let d := { d with
    so := { d.so with binds := d.so.binds.filter fun x => x.cmd != b.cmd }
    fab := { d.fab with txns := d.fab.txns.filter fun x => x.who != .bind b.cmd } }
  if unbind then d.sendUnbind b.dev b.homeCtx ctx b.home b.so else d

/-- SO_MIRROR_BIND with OP 0 (R198, steps 1 and 2). -/
def execSoMirrorBind (slot : Nat) (s : State) : Out := s.run fun d => d.onCmd slot 0x0605 fun c d =>
  let n := c.par 0 2 % 4096
  if c.par 7 1 != 0 || (d.so.binds.any fun b => b.cmd == slot) then d
  else if !d.soAllowed c.ctx n then d.endCmd slot 0x10 0x0309 0
  else if d.soWaited n || d.soKind n == 3 || (d.so.binds.any fun b => b.so == n) then d.endCmd slot 0x04 0x0704 0
  else
    let dev := c.par 2 2 % 4096
    let home := c.par 4 2 % 4096
    let hctx := c.par 6 1 % 16
    let t := if c.par 8 2 = 0 then 2 else c.par 8 2
    let k := { d.newPkt ptMirrorBind dev hctx c.ctx home with arg := n }
    match d.request k (.bind slot) c.ctx 0 0 0 with
    | (d, none) => d.endCmd slot failNoRoute.major failNoRoute.detail 0
    | (d, some _) => { d with so := { d.so with binds := d.so.binds ++ [⟨slot, n, dev, home, hctx, t⟩] } }

/-- SO_MIRROR_BIND with OP 1 (R202). -/
def execSoMirrorUnbind (slot : Nat) (s : State) : Out := s.run fun d => d.onCmd slot 0x0605 fun c d =>
  let n := c.par 0 2 % 4096
  if c.par 7 1 != 1 then d
  else if !d.soAllowed c.ctx n then d.endCmd slot 0x10 0x0309 0
  else if d.soWaited n || (d.so.binds.any fun b => b.so == n) then d.endCmd slot 0x04 0x0704 0
  else if d.soKind n != 3 then d.okCmd slot
  else
    let dev := d.rd (Reg.SO_CFG.HOME_DEV n)
    let home := d.rd (Reg.SO_CFG.ARG n)
    let hctx := match kvGet n d.so.mirrors with
      | some m => m.homeCtx
      | none => 0
    let d := d.setReg (Reg.SO_CFG.KIND n).reg (b2n (d.on (Reg.SO_CFG.WRAPPED n)) * 4)
    let d := { d with so := { d.so with mirrors := kvDel n d.so.mirrors } }
    let d := d.wr Reg.SO_STATUS.MIRRORS d.so.mirrors.length
    (d.sendUnbind dev hctx c.ctx home n).okCmd slot

/-- MIRROR_BIND_TIMEOUT (R198): no first push within TIMEOUT_MS. -/
def execMirrorBindTimeout (slot : Nat) (s : State) : Out := s.run fun d =>
  match d.so.binds.find? fun b => b.cmd == slot with
  | some b =>
    let ctx := match d.cmd? slot with
      | some c => c.ctx
      | none => 0
    (d.endBind b true ctx).endCmd slot 0x05 0x0702 0
  | none => d

/-- MIRROR_STALE (R201): a mirror has received no push for its TIMEOUT_MS. -/
def execMirrorStale (n : Nat) (s : State) : Out := s.run fun d =>
  if d.soKind n = 3 ∧ !d.soStale n ∧ d.coreClocks then
    let d := (d.wr (Reg.SO_CFG.STALE n) 1).inc Reg.SO_ERR.STALE
    let dev := d.rd (Reg.SO_CFG.HOME_DEV n)
    let home := d.rd (Reg.SO_CFG.ARG n)
    (d.raise 0x0701 clsContained none 0 n (dev * 65536 + home) 0).soFailWaits n 0x05 0x0701
  else d

/-- The oldest packet of a type at this device, taken from its receive buffer. -/
def Dev.nextIn (d : Dev) (typ : Nat) : Option (FabPkt × Dev) :=
  match d.fab.inbox.find? fun k => k.typ == typ with
  | some k => some (k, (({ d with fab := { d.fab with inbox := d.fab.inbox.erase k } } : Dev).returnCredits k).tracePkt (min k.port 255) k)
  | none => none

/-- Run an effect on the oldest packet of a type. -/
def Dev.onPkt (d : Dev) (typ : Nat) (f : FabPkt → Dev → Dev) : Dev :=
  if !d.fabClocks then d
  else
    match d.nextIn typ with
    | some (k, d) => f k d
    | none => d

/-- Sequence number `new` is newer than `last` (R199). -/
def pushNewer (new last : Nat) : Bool :=
  let x := (new + 2 ^ 32 - last % 2 ^ 32) % 2 ^ 32
  decide (1 ≤ x ∧ x < 2 ^ 31)

/-- The first push of a bind (R198, step 4). -/
def Dev.bindPush (d : Dev) (b : Bind) (k : FabPkt) : Dev :=
  let ctx := match d.cmd? b.cmd with
    | some c => c.ctx
    | none => 0
  let v := leNat k.data
  if d.soWaited b.so then (d.endBind b true ctx).endCmd b.cmd 0x04 0x0704 0
  else
    let d := d.endBind b false ctx
    let d := (d.setReg (Reg.SO_CFG.KIND b.so).reg (3 + b.home * 16 + b.dev * 65536)).wr (Reg.SO_VALUE.VALUE b.so) v
    let m : Mirror := { homeCtx := b.homeCtx, timeout := b.timeout, lastSeq := k.arg, lastNs := d.timeNs, ctx }
    let d := { d with so := { d.so with mirrors := kvPut b.so m d.so.mirrors } }
    (d.wr Reg.SO_STATUS.MIRRORS d.so.mirrors.length).okCmd b.cmd v

/-- A push reaches one live mirror (R199): accepted when newer, else dropped and counted; its stale timer restarts. -/
def Dev.mirrorPush (k : FabPkt) (n : Nat) (d : Dev) : Dev :=
  match kvGet n d.so.mirrors with
  | none => d
  | some m =>
    let newer := pushNewer k.arg m.lastSeq
    let m' := { m with lastNs := d.timeNs, lastSeq := if newer then k.arg else m.lastSeq }
    let d := { d with so := { d.so with mirrors := kvPut n m' d.so.mirrors } }
    if newer then (d.wr (Reg.SO_VALUE.VALUE n) (leNat k.data)).soWake n else d.inc Reg.SO_PUSH_DROPS.COUNT

/-- SO_PUSH (R198, R199): a push for binds under way, for live mirrors, for STALE ones, or for none. -/
def execSoPush (s : State) : Out := s.run fun d => d.onPkt ptSoPush fun k d =>
  let home := k.addr % 4096
  let ms := (d.so.mirrors.map fun m => m.1).filter fun n => d.rd (Reg.SO_CFG.HOME_DEV n) == k.src && d.rd (Reg.SO_CFG.ARG n) == home
  let live := ms.filter fun n => !d.soStale n
  match d.so.binds.find? fun b => b.dev == k.src && b.home == home with
  | some b => (d.forEach live (Dev.mirrorPush k)).bindPush b k
  | none =>
    if !live.isEmpty then d.forEach live (Dev.mirrorPush k)
    else
      let d := (d.inc Reg.SO_PUSH_DROPS.COUNT).occur clsDropped
      if ms.isEmpty then d.sendUnbind k.src k.sctx k.dctx home (k.tag % 4096) else d

/-! ### Mirrors: the home side (R198, R199, R202) -/

/-- Whether a remote request's epoch, if it has one, differs from the committed epoch (15 R405). -/
def Dev.epochDiffers (d : Dev) (k : FabPkt) : Bool := k.epoch != 0 && k.epoch != d.rd Reg.LEDG_EPOCH.EPOCH % 2 ^ 32

/-- Admission of a remote SO operation or bind request (03 R87): the detail recorded, 0 when it is admitted. -/
def Dev.soRemoteDetail (d : Dev) (k : FabPkt) : Nat :=
  if !d.on (Reg.CTX_FAB.ACCEPT k.dctx) then 0x0308
  else if !d.soAllowed k.dctx (k.addr % 4096) then 0x0309
  else 0

/-- Refuse a remote SO operation or bind request (03 R87, 15 R405). -/
def Dev.soRefuse (d : Dev) (k : FabPkt) (det : Nat) : Dev :=
  ((d.inc Reg.SO_ERR.REMOTE_REFUSED).violation k.dctx byFabric (soBase + 16 * (k.addr % 4096)) det).ackPkt k 1

/-- The response status that says a push table is full; the spec gives none (DESIGN CHOICE, notes/assumptions/16.md). -/
def statusMirrorFull : Nat := 6 + Config.mirrorFullStatus.toNat

/-- MIRROR_BIND (R198, step 3): the home adds or replaces a push entry and pushes the present value. -/
def execMirrorBind (s : State) : Out := s.run fun d => d.onPkt ptMirrorBind fun k d =>
  let home := k.addr % 4096
  let det := d.soRemoteDetail k
  if det != 0 then d.soRefuse k det
  else if d.epochDiffers k then d.ackPkt k 4
  else if d.so.ue.contains home then d.ackPkt k 3
  else
    let same (e : PushEntry) : Bool := e.home == home && e.dev == k.src && e.mirror == k.arg % 4096
    let others := d.so.pushes.filter fun e => !same e
    if others.length ≥ 4096 || (others.filter fun e => e.home == home).length ≥ 64 then d.ackPkt k statusMirrorFull
    else
      let e : PushEntry := ⟨home, k.src, k.arg % 4096, k.sctx, d.timeNs⟩
      let d := { d with so := { d.so with pushes := others ++ [e] } }
      Dev.soPushTo e (d.wr Reg.SO_PUSH_STATUS.ENTRIES d.so.pushes.length)

/-- MIRROR_UNBIND (R202): the home removes the entry. -/
def execMirrorUnbind (s : State) : Out := s.run fun d => d.onPkt ptMirrorUnbind fun k d =>
  let gone (e : PushEntry) : Bool := e.home == k.addr % 4096 && e.dev == k.src && e.mirror == k.arg % 4096
  let d := { d with so := { d.so with pushes := d.so.pushes.filter fun e => !gone e } }
  d.wr Reg.SO_PUSH_STATUS.ENTRIES d.so.pushes.length

/-- SO_HEARTBEAT (R199): a mirror has had no push for 500 µs; the present value and sequence number are sent again. -/
def execSoHeartbeat (n dev mirror : Nat) (s : State) : Out := s.run fun d =>
  if !d.coreClocks then d
  else
    match d.so.pushes.find? fun e => e.home == n && e.dev == dev && e.mirror == mirror with
    | some e => Dev.soPushTo e d
    | none => d

end Sys2Proof.Machine
end

