-- ==== Sys2Proof/Machine/Porter.lean ====
section
/-!
DEFINITION. Porters and memory commands (chapter 13): porter lists and their descriptors, MEM_COPY to MEM_CHECK, DIAG_MEM_TEST.
-/
namespace Sys2Proof.Machine

/-! ### Moving bytes -/

/-- [a, a + n) cut at 2 KiB boundaries, as (offset from a, length): porter bursts stay inside one aligned 2 KiB block (03 R83). -/
def burstsOf (a n : Nat) : List (Nat × Nat) :=
  if n = 0 then []
  else
    let h := a % 2048
    (List.range (cdiv (h + n) 2048)).map fun i =>
      let lo := if i = 0 then 0 else 2048 * i - h
      (lo, min (2048 * (i + 1) - h) n - lo)

/-- What a run of moves leaves: the state, the failure that stopped it, the bytes written. -/
structure Moved where
  dev  : Dev
  err  : Option Fail
  done : Nat

/-- Move pieces (destination, source, length) in order, stopping at the first failure; what was written stays (03 R84). -/
def Dev.movePieces (d : Dev) (who : Issuer) (c : Nat) : (pieces : List (Nat × Nat × Nat)) → (done : Nat) → Moved
  | [], n => ⟨d, none, n⟩
  | (dst, src, len) :: ps, n =>
    match d.read who c src len with
    | ⟨d, .error f⟩ => ⟨d, some f, n⟩
    | ⟨d, .ok bs⟩ =>
      match d.write who c dst bs with
      | ⟨d, some f⟩ => ⟨d, some f, n⟩
      | ⟨d, none⟩ => d.movePieces who c ps (n + len)

/-- The pieces of a row move: row r from SRC + r × SRC_STRIDE to DST + r × DST_STRIDE (R345). -/
def rowPieces (rows rowBytes src sstride dst dstride : Nat) : List (Nat × Nat × Nat) :=
  (List.range rows).flatMap fun r =>
    let a := dst + r * dstride
    (burstsOf a rowBytes).map fun (o, n) => (a + o, src + r * sstride + o, n)

/-- The pieces of a transpose: element (r, c) of the source goes to (c, r) of the destination (R345). -/
def transposePieces (rows cols size src sstride dst dstride : Nat) : List (Nat × Nat × Nat) :=
  (List.range cols).flatMap fun c => (List.range rows).map fun r =>
    (dst + c * dstride + r * size, src + r * sstride + c * size, size)

/-- The bytes a FILL puts at [a, a + n): byte (A mod 8) of the pattern (R345). -/
def fillBytes (pattern a n : Nat) : List Byte := (List.range n).map fun i => BitVec.ofNat 8 (bits pattern (8 * ((a + i) % 8)) 8)

/-- Fill pieces (address, length). -/
def Dev.fillPieces (d : Dev) (who : Issuer) (c pattern : Nat) : List (Nat × Nat) → (done : Nat) → Moved
  | [], n => ⟨d, none, n⟩
  | (a, len) :: ps, n =>
    match d.write who c a (fillBytes pattern a len) with
    | ⟨d, some f⟩ => ⟨d, some f, n⟩
    | ⟨d, none⟩ => d.fillPieces who c pattern ps (n + len)

/-- Run the CRC-64 over pieces (address, length) in order: the register, or the failure (R345). -/
def Dev.crcPieces (d : Dev) (who : Issuer) (c : Nat) : List (Nat × Nat) → (reg : Nat) → Dev × Except Fail Nat
  | [], r => (d, .ok r)
  | (a, len) :: ps, r =>
    match d.read who c a len with
    | ⟨d, .error f⟩ => (d, .error f)
    | ⟨d, .ok bs⟩ => d.crcPieces who c ps (crc64Run r bs)

/-! ### Porter descriptors (R344-R348) -/

def elemSize (e : Nat) : Nat := 2 * 2 ^ e

/-- PRT_OP: the porter's class does not perform the operation (R342). -/
def prtOpBad (p op : Nat) : Bool :=
  match porterClass p with
  | 0 => !decide (op ≤ 3)
  | 1 => !decide (op ≤ 4)
  | _ => !(op == 0 || op == 5 || op == 6)

/-- PRT_CFG of a descriptor (R346). A NOP has no fields but its header; CHECK writes 16 bytes and uses no DST_STRIDE. -/
def prtCfgBad (x : Nat) : Bool :=
  let op := pdOp x
  let rows := pdRows x
  let rb := pdRowBytes x
  let waitBad := pdWaitEn x && decide (2 < pdWaitCond x)
  let shapeBad := op != 0 && (!(decide (1 ≤ rows ∧ rows ≤ 16777216)) || !(decide (1 ≤ rb ∧ rb ≤ 2 ^ 31)))
  let tr := op == 4 && (decide (2 < pdElem x) || rb % elemSize (pdElem x) != 0 || decide (16777216 < rb / elemSize (pdElem x))
    || decide (pdDstStride x < rows * elemSize (pdElem x)))
  let stride := op != 0 && op != 3 && op != 4 && decide (1 < rows) && decide (pdDstStride x < rb)
  let al := op == 3 && pdDst x % 8 != 0
  waitBad || shapeBad || tr || stride || al

/-- The checks of a descriptor when it starts, in the order of R346. The window bookkeeping of a refused SO comes with it. -/
def Dev.prtCheck (d : Dev) (p ctx x : Nat) : Dev × Option Fail :=
  if prtOpBad p (pdOp x) then (d, some ⟨0x02, 0x0D01, 0⟩)
  else if prtCfgBad x then (d, some ⟨0x02, 0x0D02, 0⟩)
  else if pdWaitEn x && !d.soAllowed ctx (pdWaitSo x) then
    (d.violation ctx (byPorter p) (soBase + 16 * pdWaitSo x) 0x0309, some ⟨0x10, 0x0309, 0⟩)
  else if pdSignalEn x && !d.soAllowed ctx (pdSignalSo x) then
    (d.violation ctx (byPorter p) (soBase + 16 * pdSignalSo x) 0x0309, some ⟨0x10, 0x0309, 0⟩)
  else (d, none)

/-- Open transactions of a porter's descriptors up to and including descriptor `g` of its list. -/
def Dev.porterOpen (d : Dev) (r : PorterRun) (g : Nat) : Bool := d.fab.txns.any fun t => t.who == .td r.td && decide (t.group ≤ g)

/-- Make the signals of a porter whose writes are visible, in list order; `fuel` bounds them (R347). -/
def Dev.porterSignals (d : Dev) (p : Nat) : (fuel : Nat) → Dev
  | 0 => d
  | n + 1 =>
    match kvGet p d.porters with
    | none => d
    | some r =>
      match r.signals with
      | [] => d
      | (g, so, v) :: rest =>
        if d.porterOpen r g then d
        else
          let d := { d with porters := kvPut p { r with signals := rest } d.porters }
          match d.soOp (.td r.td) r.ctx so false v with
          | ⟨d, .fail mj dt⟩ => d.failPorter p (r.list + 64 * g) ⟨mj, dt, 0⟩
          | ⟨d, _⟩ => d.porterSignals p n

/-- A list whose descriptors have all run has finished on its unit once no local write is outstanding; its porter is free once
every write is acknowledged and every signal made (R347, 07 R184). -/
def Dev.porterSettle (d : Dev) (p : Nat) : Dev :=
  let n := match kvGet p d.porters with
    | some r => r.signals.length
    | none => 0
  let d := d.porterSignals p n
  match kvGet p d.porters with
  | none => d
  | some r =>
    if r.index < r.count then d
    else
      let d := if d.fab.txns.any fun t => t.who == .td r.td && t.typ == ptMemRead then d else d.finishTd r.td
      if r.signals.isEmpty && !d.openTxns r.td then
        let d := { d with porters := kvDel p d.porters }
        (d.wr (Reg.PRT_STATUS.BUSY p) 0).wr (Reg.PRT_STATUS.WAITING p) 0
      else d

/-- The porter descriptor at the list's index has been performed: its signal queues, the next one comes up. -/
def Dev.porterNext (d : Dev) (p : Nat) (r : PorterRun) (x bytes : Nat) : Dev :=
  let sig := if pdSignalEn x then [(r.index, pdSignalSo x, pdSignalAdd x)] else []
  let r' := { r with index := r.index + 1, waitOk := false, pos := 0, signals := r.signals ++ sig }
  let d := { d with porters := kvPut p r' d.porters }
  let d := (d.inc (Reg.PRT_DESCS.COUNT p)).incMod (Reg.PRT_BYTES.COUNT p) bytes
  let d := d.wr (Reg.PRT_STATUS.INDEX p) (if r.index + 1 < r.count then r.index + 1 else r.index)
  d.porterSettle p

/-- What one operation of a porter does. -/
abbrev PrtEffect := (p : Nat) → PorterRun → (x : Nat) → Dev → Dev

/-- Run the descriptor a porter is at, when it is of operation `op`: fetched and checked, its FENCE and its wait satisfied. A
descriptor that fails its checks stops the porter whatever operation was named (R346, R348). -/
def Dev.onPorter (d : Dev) (p op : Nat) (f : PrtEffect) : Dev :=
  match kvGet p d.porters with
  | none => d
  | some r =>
    if !d.live || !(decide (r.index < r.count)) then d
    else
      let at_ := r.list + 64 * r.index
      match d.read (byPorter p) r.ctx at_ 64 with
      | ⟨d, .error e⟩ => d.failPorter p at_ e
      | ⟨d', .ok bs⟩ =>
        let x := leNat bs
        if r.pos != 0 then (if pdOp x = op then f p r x d' else d)
        else
          match d'.prtCheck p r.ctx x with
          | (d', some e) => d'.failPorter p at_ e
          | (d', none) =>
            if pdOp x ≠ op then d
            else if (pdFence x && r.index != 0 && d'.porterOpen r (r.index - 1)) || (pdWaitEn x && !d'.isWoken (.porter p)) then d
            else
              let r := { r with waitOk := true }
              let d' := ((d'.takeWake (.porter p)).wr (Reg.PRT_STATUS.WAITING p) 0).trace 4 p (some r.ctx) none (some r.cmd) none none
              f p r x { d' with porters := kvPut p r d'.porters }

/-- The end of a local operation. -/
def Dev.porterMoved (p : Nat) (r : PorterRun) (x : Nat) (m : Moved) : Dev :=
  match m.err with
  | none => m.dev.porterNext p r x m.done
  | some e => (m.dev.incMod (Reg.PRT_BYTES.COUNT p) m.done).failPorter p (r.list + 64 * r.index) e

/-- PORTER_LIST (R342, R344): a PORTER task descriptor starts its list on its porter. -/
def execPorterList (id : Nat) (s : State) : Out := s.run fun d =>
  match d.td? id with
  | some t =>
    let p := t.f 0x20 1
    if (kvGet p d.porters).isSome then d
    else
      d.onTd id [0x60] fun t d =>
        match d.unitBlocked [domPorters t.core] 0x0D21 with
        | some e => d.failTd id e
        | none =>
          let r : PorterRun := { td := id, cmd := t.cmd, ctx := t.ctx, list := t.f 0x18 8, count := t.f 0x22 2, index := 0
                                 waitOk := false, pos := 0, crc := 0, signals := [] }
          let d := { d with porters := kvPut p r d.porters }
          ((d.wr (Reg.PRT_STATUS.BUSY p) 1).wr (Reg.PRT_STATUS.CTX p) t.ctx).wr (Reg.PRT_STATUS.INDEX p) 0
  | none => d

/-- PORTER_NOP (R345). -/
def execPorterNop (porter : Nat) (s : State) : Out := s.run fun d => d.onPorter porter 0 fun p r x d => d.porterNext p r x 0

/-- COPY (R345). -/
def execPrtCopy (porter : Nat) (s : State) : Out := s.run fun d => d.onPorter porter 1 fun p r x d =>
  Dev.porterMoved p r x (d.movePieces (byPorter p) r.ctx
    (rowPieces (pdRows x) (pdRowBytes x) (pdSrc x) (pdSrcStride x) (pdDst x) (pdDstStride x)) 0)

/-- FILL (R345). -/
def execPrtFill (porter : Nat) (s : State) : Out := s.run fun d => d.onPorter porter 2 fun p r x d =>
  let ps := (List.range (pdRows x)).flatMap fun i =>
    let a := pdDst x + i * pdDstStride x
    (burstsOf a (pdRowBytes x)).map fun (o, n) => (a + o, n)
  Dev.porterMoved p r x (d.fillPieces (byPorter p) r.ctx (pdAux x) ps 0)

/-- CHECK (R345): the running register and the finished CRC go to DST. -/
def execPrtCheck (porter : Nat) (s : State) : Out := s.run fun d => d.onPorter porter 3 fun p r x d =>
  let ps := (List.range (pdRows x)).flatMap fun i =>
    let a := pdSrc x + i * pdSrcStride x
    (burstsOf a (pdRowBytes x)).map fun (o, n) => (a + o, n)
  match d.crcPieces (byPorter p) r.ctx ps (pdAux x) with
  | (d, .error e) => d.failPorter p (r.list + 64 * r.index) e
  | (d, .ok v) =>
    match d.write (byPorter p) r.ctx (pdDst x) (leBytes 8 v ++ leBytes 8 (v ^^^ ones64)) with
    | ⟨d, some e⟩ => d.failPorter p (r.list + 64 * r.index) e
    | ⟨d, none⟩ => d.porterNext p r x 16

/-- TRANSPOSE (R345). -/
def execPrtTranspose (porter : Nat) (s : State) : Out := s.run fun d => d.onPorter porter 4 fun p r x d =>
  let sz := elemSize (pdElem x)
  Dev.porterMoved p r x (d.movePieces (byPorter p) r.ctx
    (transposePieces (pdRows x) (pdRowBytes x / sz) sz (pdSrc x) (pdSrcStride x) (pdDst x) (pdDstStride x)) 0)

/-! ### Remote descriptors (R345; 15 R405-R409) -/

/-- 2 KiB blocks of a remote device that a porter's open writes of descriptors before `g` hold (15 R409). -/
def Dev.remoteBlocks (d : Dev) (r : PorterRun) (g : Nat) : List (Nat × Nat) :=
  (d.fab.txns.filter fun t => t.who == .td r.td && t.typ == ptMemWrite && decide (t.group < g)).map fun t => (t.dev, t.dst / 2048)

/-- Distinct blocks with open writes. -/
def Dev.trackedBlocks (d : Dev) (r : PorterRun) : Nat :=
  ((d.fab.txns.filter fun t => t.who == .td r.td && t.typ == ptMemWrite).map fun t => (t.dev, t.dst / 2048)).eraseDups.length

/-- Issue the writes of a REMOTE_WRITE from its piece `pos` on, until one must wait for a block (15 R409) or all are out. -/
def Dev.issueWrites (d : Dev) (p : Nat) (r : PorterRun) (x epoch : Nat) : List (Nat × Nat × Nat) → (pos : Nat) → Dev
  | [], _ => d.porterNext p r x (pdRows x * pdRowBytes x)
  | (dst, src, len) :: ps, pos =>
    if (d.remoteBlocks r r.index).contains (pdRemoteDev x, dst / 2048) || decide (64 ≤ d.trackedBlocks r) then
      { d with porters := kvPut p { r with pos := pos } d.porters }
    else
      match d.read (byPorter p) r.ctx src len with
      | ⟨d, .error e⟩ => d.failPorter p (r.list + 64 * r.index) e
      | ⟨d, .ok bs⟩ =>
        let k := { d.newPkt ptMemWrite (pdRemoteDev x) (pdRemoteCtx x) r.ctx dst with data := bs, epoch := epoch }
        match d.request k (.td r.td) r.ctx dst len r.index with
        | (d, none) => d.failPorter p (r.list + 64 * r.index) failNoRoute
        | (d, some _) => d.issueWrites p r x epoch ps (pos + 1)

/-- Issue the reads of a REMOTE_READ: READ_DATA brings each piece to its destination (R345). -/
def Dev.issueReads (d : Dev) (p : Nat) (r : PorterRun) (x : Nat) : List (Nat × Nat × Nat) → Dev
  | [] => d.porterNext p r x (pdRows x * pdRowBytes x)
  | (dst, src, len) :: ps =>
    let k := { d.newPkt ptMemRead (pdRemoteDev x) (pdRemoteCtx x) r.ctx src with arg := len }
    match d.request k (.td r.td) r.ctx dst len r.index with
    | (d, none) => d.failPorter p (r.list + 64 * r.index) failNoRoute
    | (d, some _) => d.issueReads p r x ps

/-- The pieces of a porter descriptor's row move. -/
def pdPieces (x : Nat) : List (Nat × Nat × Nat) :=
  rowPieces (pdRows x) (pdRowBytes x) (pdSrc x) (pdSrcStride x) (pdDst x) (pdDstStride x)

/-- REMOTE_WRITE (R345). -/
def execRemoteWrite (porter : Nat) (s : State) : Out := s.run fun d => d.onPorter porter 5 fun p r x d =>
  d.issueWrites p r x 0 ((pdPieces x).drop r.pos) r.pos

/-- REMOTE_READ (R345). -/
def execRemoteRead (porter : Nat) (s : State) : Out := s.run fun d => d.onPorter porter 6 fun p r x d =>
  d.issueReads p r x (pdPieces x)

/-! ### LONG commands (06 R158, R170) -/

/-- Run the next chunk of a LONG command: at its first run it finds or takes a tab when it has more than one chunk; after its
last chunk it completes with `result`. -/
def Dev.longRun (d : Dev) (slot op total epoch : Nat) (cores : List Nat) (result : Cmd → Nat)
    (chunk : Cmd → Dev → Dev × Except Fail Cmd) : Dev :=
  d.onRoutine slot op fun c d =>
    let opened := if c.total != 0 then (d, none)
      else
        let d := d.assign slot cores
        if total ≤ 1 then (d.updCmd slot fun c => { c with total := total }, none)
        else d.tabOpen { c with cores := cores } total epoch
    match opened with
    | (d, some e) => d.endCmd slot e.major e.detail 0
    | (d, none) =>
      match d.cmd? slot with
      | none => d
      | some c =>
        if c.total ≤ c.done then d.okCmd slot (result c)
        else
          match chunk c d with
          | (d, .error e) => d.failStaged slot e
          | (d, .ok c') =>
            let c' := { c' with done := c.done + 1, rested := false }
            let d := d.updCmd slot fun x => { x with done := c'.done, rested := false, cursor := c'.cursor, rstate := c'.rstate, hits := c'.hits, aux := c'.aux }
            if c'.done = c.total then d.okCmd slot (result c') else d

/-- Bytes of one chunk of a memory command (R350). -/
def Dev.memChunk (d : Dev) : Nat := 2097152 * max 1 (min 16 (d.rd Reg.MEM_CMD_ENGINES.ENGINES))

/-- Porters a memory command uses (R350). -/
def Dev.memPorters (d : Dev) : Nat := max 1 (min 4 (d.rd Reg.MEM_CMD_ENGINES.PORTERS))

/-- The porter that runs chunk `k`: the lowest of its class in turn; MEM_CHECK uses one (R342, R350; DESIGN CHOICE, notes/assumptions/17.md). -/
def Dev.memPorter (d : Dev) (op core k : Nat) : Nat :=
  if op = 0x0204 then 16 + 2 * core + k % min 2 d.memPorters
  else if op = 0x0205 then 8 * core
  else 8 * core + k % d.memPorters

/-- Payload bytes of a memory command. -/
def memBytes (c : Cmd) : Nat :=
  if c.opcode = 0x0201 then c.par 0x10 8
  else if c.opcode = 0x0202 then c.par 0x08 8
  else if c.opcode = 0x0203 then c.par 0x10 4 * c.par 0x14 4
  else if c.opcode = 0x0204 then c.par 0x10 4 * c.par 0x14 4 * elemSize (c.par 0x20 1)
  else c.par 0x08 8

/-- The pieces (destination, source, length) of payload bytes [o, o + n) of a memory command, in destination order. -/
def memPieces (c : Cmd) (o n : Nat) : List (Nat × Nat × Nat) :=
  if c.opcode = 0x0203 then
    let rb := max 1 (c.par 0x14 4)
    (rangeFrom (o / rb) (cdiv (o + n) rb)).flatMap fun r =>
      let lo := max o (r * rb) - r * rb
      let hi := min (o + n) ((r + 1) * rb) - r * rb
      let dst := c.par 0x08 8 + r * c.par 0x20 8 + lo
      (burstsOf dst (hi - lo)).map fun (b, m) => (dst + b, c.par 0x00 8 + r * c.par 0x18 8 + lo + b, m)
  else if c.opcode = 0x0204 then
    let sz := elemSize (c.par 0x20 1)
    let rows := max 1 (c.par 0x10 4)
    (rangeFrom (o / sz) ((o + n) / sz)).map fun e =>
      (c.par 0x08 8 + e / rows * c.par 0x1C 4 + e % rows * sz, c.par 0x00 8 + e % rows * c.par 0x18 4 + e / rows * sz, sz)
  else
    let dst := if c.opcode = 0x0201 then c.par 0x08 8 else c.par 0x00 8
    (burstsOf (dst + o) n).map fun (b, m) => (dst + o + b, c.par 0x00 8 + o + b, m)

/-- One chunk of a memory command, run by its porter. -/
def Dev.memChunkRun (d : Dev) (c : Cmd) : Dev × Except Fail Cmd :=
  let core := c.cores.headD 0
  match d.unitBlocked [domPorters core] 0x0D21 with
  | some e => (d, .error e)
  | none =>
    let p := d.memPorter c.opcode core c.done
    let o := c.done * d.memChunk
    let n := min d.memChunk (memBytes c - o)
    let ps := memPieces c o n
    let fin (m : Moved) : Dev × Except Fail Cmd :=
      let d := m.dev.incMod (Reg.PRT_BYTES.COUNT p) m.done
      match m.err with
      | some e => (((d.wr (Reg.PRT_LAST_ERR.ADDR p) 0).wr (Reg.PRT_LAST_ERR.DETAIL p) e.detail), .error e)
      | none => (d.inc (Reg.PRT_DESCS.COUNT p), .ok c)
    if c.opcode = 0x0202 then fin (d.fillPieces (byPorter p) c.ctx (c.par 0x10 8) (ps.map fun (a, _, m) => (a, m)) 0)
    else if c.opcode = 0x0205 then
      let reg := if c.done = 0 then ones64 else leNat (c.rstate.take 8)
      match d.crcPieces (byPorter p) c.ctx (ps.map fun (a, _, m) => (a, m)) reg with
      | (d, .error e) => (d, .error e)
      | (d, .ok v) => (d.inc (Reg.PRT_DESCS.COUNT p), .ok { c with rstate := leBytes 8 v })
    else fin (d.movePieces (byPorter p) c.ctx ps 0)

/-- RESULT of a memory command (R351): the bytes written, or the finished CRC-64. -/
def memResult (c : Cmd) : Nat := if c.opcode = 0x0205 then leNat (c.rstate.take 8) ^^^ ones64 else memBytes c

/-- One chunk of a memory command with an opcode. -/
def Dev.memRun (d : Dev) (slot op : Nat) : Dev :=
  match d.cmd? slot with
  | some c => d.longRun slot op (cdiv (memBytes c) d.memChunk) 0 [d.pickCore 2] memResult fun c d => d.memChunkRun c
  | none => d

/-- MEM_COPY (R351). -/
def execMemCopy (slot : Nat) (s : State) : Out := s.run fun d => d.memRun slot 0x0201

/-- MEM_FILL (R351). -/
def execMemFill (slot : Nat) (s : State) : Out := s.run fun d => d.memRun slot 0x0202

/-- MEM_COPY_2D (R351). -/
def execMemCopy2d (slot : Nat) (s : State) : Out := s.run fun d => d.memRun slot 0x0203

/-- MEM_TRANSPOSE (R351). -/
def execMemTranspose (slot : Nat) (s : State) : Out := s.run fun d => d.memRun slot 0x0204

/-- MEM_CHECK (R351). -/
def execMemCheck (slot : Nat) (s : State) : Out := s.run fun d => d.memRun slot 0x0205

/-- The checks of the memory commands' parameter blocks (R351; 05 R135, step 7): every field in order, then the overlap. -/
def memParams (c : Cmd) : List PChk :=
  let sh (bad : Bool) (off : Nat) : PChk := pchk bad 0x0D04 off
  let lenBad (off : Nat) : PChk := sh (!(decide (1 ≤ c.par off 8 ∧ c.par off 8 ≤ 2 ^ 40))) off
  let ovl (b : Bool) : PChk := pchk b 0x0D03 0x00
  match c.opcode with
  | 0x0201 => [paddr c 0, paddr c 8, lenBad 0x10, ovl (overlap (c.par 0 8) (c.par 0x10 8) (c.par 8 8) (c.par 0x10 8))]
  | 0x0202 => [paddr c 0, lenBad 0x08]
  | 0x0203 =>
    let rows := c.par 0x10 4
    let rb := c.par 0x14 4
    [paddr c 0, paddr c 8, sh (rows == 0) 0x10, sh (!(decide (1 ≤ rb ∧ rb ≤ 2 ^ 31))) 0x14,
      sh (decide (1 < rows) && decide (c.par 0x20 8 < rb)) 0x20,
      ovl (overlap (c.par 0 8) ((rows - 1) * c.par 0x18 8 + rb) (c.par 8 8) ((rows - 1) * c.par 0x20 8 + rb))]
  | 0x0204 =>
    let rows := c.par 0x10 4
    let cols := c.par 0x14 4
    let sz := elemSize (c.par 0x20 1)
    let e := c.par 0x20 1
    [paddr c 0, paddr c 8, sh (!(decide (1 ≤ rows ∧ rows ≤ 16777216))) 0x10, sh (!(decide (1 ≤ cols ∧ cols ≤ 16777216))) 0x14,
      sh (decide (e ≤ 2) && decide (c.par 0x18 4 < cols * sz)) 0x18, sh (decide (e ≤ 2) && decide (c.par 0x1C 4 < rows * sz)) 0x1C,
      sh (decide (2 < e)) 0x20,
      ovl (overlap (c.par 0 8) ((rows - 1) * c.par 0x18 4 + cols * sz) (c.par 8 8) ((cols - 1) * c.par 0x1C 4 + rows * sz))]
  | _ => [paddr c 0, lenBad 0x08]

/-- The address ranges of a memory command: (write, address, length) (03 R82). A strided one has a range for each row. -/
def memRanges (c : Cmd) : List (Bool × Nat × Nat) :=
  match c.opcode with
  | 0x0201 => [(false, c.par 0 8, c.par 0x10 8), (true, c.par 8 8, c.par 0x10 8)]
  | 0x0202 => [(true, c.par 0 8, c.par 8 8)]
  | 0x0203 =>
    (List.range (c.par 0x10 4)).map (fun r => (false, c.par 0 8 + r * c.par 0x18 8, c.par 0x14 4))
      ++ (List.range (c.par 0x10 4)).map (fun r => (true, c.par 8 8 + r * c.par 0x20 8, c.par 0x14 4))
  | 0x0204 =>
    let sz := elemSize (c.par 0x20 1)
    (List.range (c.par 0x10 4)).map (fun r => (false, c.par 0 8 + r * c.par 0x18 4, c.par 0x14 4 * sz))
      ++ (List.range (c.par 0x14 4)).map (fun k => (true, c.par 8 8 + k * c.par 0x1C 4, c.par 0x10 4 * sz))
  | _ => [(false, c.par 0 8, c.par 8 8)]

/-! ### DIAG_MEM_TEST (R352) -/

/-- The parameter checks of DIAG_MEM_TEST. -/
def Dev.memTestParams (d : Dev) (c : Cmd) : List PChk :=
  [paddr c 0, pchk (c.par 0 8 % 64 != 0 || decide (d.hbmTop ≤ c.par 0 8)) 0x0D04 0x00,
    pchk (c.par 8 8 % 64 != 0 || decide (d.hbmTop < c.par 0 8 + c.par 8 8)) 0x0D04 0x08, pchk (decide (2 < c.par 0x10 1)) 0x0D04 0x10]

/-- A failing block found by the test (R352): counted in its stack; the first of each stack goes to MEM_LAST_UE; an
uncorrectable word stays so (R334). -/
def Dev.testBlock (d : Dev) (ctx : Nat) (seen : List Nat) (block : Nat) (uncorrectable : Bool) : Dev :=
  let k := d.stackOf block
  let d := if uncorrectable then
      let d := { d with ue := block :: d.ue.filter fun w => w != block }
      ((d.inc (Reg.MEM_UE_COUNT.COUNT k)).poisonLog k block).raise 0x0D01 clsContained (some ctx) 6 k 0 block
    else (d.inc (Reg.MEM_CE_COUNT.COUNT k)).corrected 0 k 1
  if seen.contains k then d else (d.wr (Reg.MEM_LAST_UE.ADDR k) block).wr (Reg.MEM_LAST_UE.SOURCE k) 6

/-- One chunk of the test (R352): free contents, then the read-back. `bad` lists the 64-byte blocks in which the read-back met an error,
with whether it was uncorrectable. -/
def Dev.memTestChunk (bad : List (Nat × Bool)) (c : Cmd) (d : Dev) : Dev × Except Fail Cmd :=
  let o := c.done * d.memChunk
  let n := min d.memChunk (c.par 8 8 - o)
  let a := c.par 0 8 + o
  match d.writeFree ⟨0, 0, 6⟩ c.ctx a n with
  | ⟨d, some e⟩ => (d, .error e)
  | ⟨d, none⟩ =>
    let bs := (bad.map fun x => (x.1 / 64 * 64, x.2)).eraseDups.filter fun x => decide (a ≤ x.1) && decide (x.1 < a + n)
    let (d, seen) := bs.foldl (fun (d, seen) x => (Dev.testBlock d c.ctx seen x.1 x.2, d.stackOf x.1 :: seen)) (d, c.aux)
    (d, .ok { c with hits := c.hits + (bs.map fun x => x.1).eraseDups.length, aux := seen })

/-- A test that has found failing blocks ends with their number as a data error (R352). -/
def Dev.memTestEnd (d : Dev) (slot : Nat) : Dev :=
  match d.cmd? slot with
  | some c =>
    if c.phase == .ended && c.fin == some ⟨0, 0, c.hits⟩ && c.hits != 0 then
      d.updCmd slot fun c => { c with fin := some ⟨0x0E, 0x0D12, c.hits % 2 ^ 32⟩ }
    else d
  | none => d

/-- DIAG_MEM_TEST (R352): one chunk of the test. -/
def execDiagMemTest (slot : Nat) (bad : List (Nat × Bool)) (s : State) : Out := s.run fun d =>
  match d.cmd? slot with
  | none => d
  | some c0 =>
    (d.longRun slot 0x0802 (cdiv (c0.par 8 8) d.memChunk) 0 [d.pickCore 2] (fun c => c.hits) (Dev.memTestChunk bad)).memTestEnd slot

end Sys2Proof.Machine
end

