-- ==== Sys2Proof/Machine/Array.lean ====
section
/-!
DEFINITION. The matrix array (chapter 08): loads, passes, flips and fronts, column faults, ARRAY_RUN, DIAG_ARRAY_TEST.
Choices: DEDUCED, notes/assumptions/24.md.
-/
namespace Sys2Proof.Machine

/-! ### Cells (R206, R209, R234) -/

/-- The cell of a row and a column in a map of cells; +0 where nothing is listed. -/
def cell (m : KV (KV Nat)) (r c : Nat) : Nat := (kvGet c ((kvGet r m).getD [])).getD 0

/-- Columns [lo, hi) of a row replaced by those of another. -/
def spliceRow (lo hi : Nat) (src dst : KV Nat) : KV Nat :=
  dst.filter (fun x => decide (x.1 < lo)) ++ src.filter (fun x => decide (lo ≤ x.1) && decide (x.1 < hi))
    ++ dst.filter fun x => decide (hi ≤ x.1)

/-- The cells of a geometry replaced by those of another map. -/
def overlay (src : KV (KV Nat)) (dst : KV (KV Nat)) (g : Geo) : KV (KV Nat) :=
  (rangeFrom g.row (g.row + g.rows)).foldl
    (fun m r => kvPut r (spliceRow g.col (g.col + g.cols) ((kvGet r src).getD []) ((kvGet r m).getD [])) m) dst

/-- A column's sum over its terms of array rows 0-191: the adder tree in broadcast mode (0), the chain in relay mode (R234). -/
def columnSum (mode : Nat) (terms : List Nat) : Nat :=
  if mode = 0 then tree192 add32 terms
  else match terms with
    | [] => 0
    | p :: ps => ps.foldl add32 p

/-- The products of one column: +0 for rows outside [lo, hi) (R228). -/
def columnTerms (lo hi : Nat) (x w : Nat → Nat) : List Nat :=
  (List.range 192).map fun r => if lo ≤ r ∧ r < hi then mul32 (bf16to32 (x r)) (bf16to32 (w r)) else 0

/-- Two geometries share a row or a column (R227). -/
def geoClash (a b : Geo) : Bool :=
  (decide (a.row < b.row + b.rows) && decide (b.row < a.row + a.rows))
    || (decide (a.col < b.col + b.cols) && decide (b.col < a.col + a.cols))

/-- Some two of a list of geometries clash. -/
def geosClash : List Geo → Bool
  | [] => false
  | g :: l => l.any (geoClash g) || geosClash l

/-! ### Readiness and ownership (R208, R213, R229, R231) -/

/-- Why a core's array does no work: faulted or out of service, a quadrant that is not ON, a unit out of service. -/
def Dev.arrRefusal (d : Dev) (core : Nat) : Option Fail :=
  if !d.on (Reg.ARR_STATUS.IN_SERVICE core) || d.on (Reg.ARR_STATUS.FAULTED core) then some ⟨0x0F, 0x0810, 0⟩
  else d.unitBlocked ((List.range 4).map (domQuad core)) 0x0811

/-- The ARR of a core is free or belongs to a command. -/
def Dev.arrOpenTo (d : Dev) (core slot : Nat) : Bool :=
  match (d.arrOf core).owner with
  | some s => s == slot
  | none => true

/-- Run an effect for an ARR descriptor that may start: its command takes the ARR; a refusal of the array fails it. -/
def Dev.onArr (d : Dev) (id kind : Nat) (f : Td → Dev → Dev) : Dev :=
  match d.td? id with
  | some t =>
    if d.arrOpenTo t.core t.cmd then
      d.onTd id [kind] fun t d =>
        match d.arrRefusal t.core with
        | some e => d.failTd t.id e
        | none => f t (d.setArr t.core { d.arrOf t.core with owner := some t.cmd })
    else d
  | none => d

/-! ### ARRAY_LOAD and the switches (R209-R214, R223-R225) -/

/-- Read the rows of a load: (row, weights). -/
def Dev.loadRows (d : Dev) (core ctx cols : Nat) : List (Nat × Nat) → Dev × Except Fail (List (Nat × List Nat))
  | [] => (d, .ok [])
  | (r, a) :: l =>
    match d.coreRead core ctx a (2 * cols) with
    | ⟨d, .error e⟩ => (d, .error e)
    | ⟨d, .ok bs⟩ =>
      match d.loadRows core ctx cols l with
      | (d, .ok rest) => (d, .ok ((r, (chunksOf 2 bs).map leNat) :: rest))
      | (d, .error e) => (d, .error e)

/-- A load has completed (R214). -/
def Dev.loadDone (d : Dev) (t : Td) : Dev := (d.finishTd t.id).inc (Reg.ARR_LOADS.COUNT t.core)

/-- ARRAY_LOAD (R210, R230): the tile goes to the shadow registers and the block turns PENDING; a load with FLIP or in relay
mode completes at its switch. -/
def execArrayLoad (id : Nat) (s : State) : Out := s.run fun d => d.onArr id 0x10 fun t d =>
  let src := t.f 0x18 8
  let stride := t.f 0x2C 4
  let g : Geo := ⟨t.f 0x24 2, t.f 0x26 2, t.f 0x28 2, t.f 0x2A 2⟩
  if src % 128 ≠ 0 ∨ stride % 128 ≠ 0 then d.failTd id ⟨0x02, 0x0801, 0⟩
  else if d.rd (Reg.ARR_COLS.COLS t.core) < g.col + g.cols then d.failTd id ⟨0x02, 0x0605, 0⟩
  else
    match d.loadRows t.core t.ctx g.cols ((List.range g.rows).map fun i => (g.row + i, src + i * stride)) with
    | (d, .error e) => d.failTd id e
    | (d, .ok rows) =>
      let a := d.arrOf t.core
      let tile : KV (KV Nat) := rows.map fun (r, ws) => (r, (List.range ws.length).zip ws |>.map fun (j, w) => (g.col + j, w))
      let b := t.f 0x22 1 % 16
      let d := d.setArr t.core { a with shadow := overlay tile a.shadow g, pendGeo := kvPut b g a.pendGeo }
      let d := d.wr (Reg.ARR_BLOCK.PENDING t.core b) 1
      if t.f 0x21 1 = 0 ∧ t.f 0x20 1 = 0 then d.loadDone t else d

/-- The switch of PENDING blocks (R211): their cells are exchanged, all at once, and their shadow geometry becomes active. -/
def Dev.switchBlocks (d : Dev) (core : Nat) (blocks : KV Geo) : Dev :=
  let a := d.arrOf core
  let gs := blocks.map fun x => x.2
  let d := d.setArr core { a with
    active := gs.foldl (overlay a.shadow) a.active, shadow := gs.foldl (overlay a.active) a.shadow
    pendGeo := a.pendGeo.filter fun x => !(blocks.any fun y => y.1 == x.1) }
  d.forEach blocks fun (b, g) d =>
    let d := (d.wr (Reg.ARR_BLOCK.ROW_FIRST core b) g.row).wr (Reg.ARR_BLOCK.ROW_COUNT core b) g.rows
    let d := (d.wr (Reg.ARR_BLOCK.COL_FIRST core b) g.col).wr (Reg.ARR_BLOCK.COL_COUNT core b) g.cols
    (d.wr (Reg.ARR_BLOCK.VALID core b) 1).wr (Reg.ARR_BLOCK.PENDING core b) 0

/-- The load of a core that waits for its switch, if no earlier pass of its command still needs the active weights
(R224, R225). -/
def Dev.switchDue (d : Dev) (core : Nat) (relay : Bool) : Option Td :=
  match d.seq.tds.find? fun t => t.core == core && tdKind t.td == 0x10 && t.started && !t.finished with
  | some t =>
    if d.live && ((t.f 0x20 1 == 1) == relay) && !((d.earlierOfCmd t).any fun u => tdKind u.td == 0x11 && !u.finished) then some t
    else none
  | none => none

/-- BROADCAST_FLIP (R224). -/
def execBroadcastFlip (core : Nat) (s : State) : Out := s.run fun d =>
  match d.switchDue core false with
  | some t => (d.switchBlocks core (d.arrOf core).pendGeo).loadDone t
  | none => d

/-- RELAY_FRONT_ENTER (R225). -/
def execRelayFrontEnter (core : Nat) (s : State) : Out := s.run fun d =>
  match d.switchDue core true with
  | some t => (d.switchBlocks core ((d.arrOf core).pendGeo.filter fun x => x.1 == t.f 0x22 1 % 16)).loadDone t
  | none => d

/-! ### ARRAY_PASS (R215-R222, R227, R228, R232-R234) -/

/-- The active geometry of a block. -/
def Dev.blockGeo (d : Dev) (core b : Nat) : Geo :=
  ⟨d.rd (Reg.ARR_BLOCK.ROW_FIRST core b), d.rd (Reg.ARR_BLOCK.ROW_COUNT core b), d.rd (Reg.ARR_BLOCK.COL_FIRST core b),
    d.rd (Reg.ARR_BLOCK.COL_COUNT core b)⟩

/-- The blocks a pass names. -/
def passBlocks (mask : Nat) : List Nat := (List.range 16).filter fun b => bitAt mask b

/-- The checks of a pass at its start (R212, R215, R227, R233). -/
def Dev.passCheck (d : Dev) (t : Td) : Option Nat :=
  let acc := t.f 0x29 1
  let bs := passBlocks (t.f 0x2A 2)
  if t.f 0x18 8 % 128 ≠ 0 ∨ t.f 0x24 4 % 128 ≠ 0 then some 0x0801
  else if bitAt acc 2 && bitAt acc 3 then some 0x0804
  else if !bitAt acc 2 && !bitAt acc 3 && decide (2048 < t.f 0x2C 2 + t.f 0x20 4) then some 0x0805
  else if bs.any fun b => !d.on (Reg.ARR_BLOCK.VALID t.core b) then some 0x0802
  else if geosClash (bs.map (d.blockGeo t.core)) then some 0x0803
  else none

/-- The 128-byte lines of an input row that hold elements of the pass's rows (R215). -/
def passLines (gs : List Geo) : List Nat :=
  (List.range 3).filter fun l => gs.any fun g => decide (g.row < 64 * l + 64) && decide (64 * l < g.row + g.rows)

/-- Read the lines of an input row: element r of the row. -/
def Dev.readLines (d : Dev) (core ctx a : Nat) : List Nat → Dev × Except Fail (KV (List Byte))
  | [] => (d, .ok [])
  | l :: ls =>
    match d.coreRead core ctx (a + 128 * l) 128 with
    | ⟨d, .error e⟩ => (d, .error e)
    | ⟨d, .ok bs⟩ =>
      match d.readLines core ctx a ls with
      | (d, .ok m) => (d, .ok ((l, bs) :: m))
      | r => r

/-- Element `r` of an input row. -/
def lineElem (m : KV (List Byte)) (r : Nat) : Nat := fieldAt ((kvGet (r / 64) m).getD []) (2 * (r % 64)) 2

/-- The sums of one input row: (column, sum) for the columns of the pass's blocks. -/
def passSums (mode : Nat) (active : KV (KV Nat)) (gs : List Geo) (x : Nat → Nat) : List (Nat × Nat) :=
  gs.flatMap fun g => (List.range g.cols).map fun j =>
    (g.col + j, columnSum mode (columnTerms g.row (g.row + g.rows) x fun r => cell active r (g.col + j)))

/-- An accumulator entry after a row's sums are stored, or added (R232). -/
def accEntry (add : Bool) (old : KV Nat) (sums : List (Nat × Nat)) : KV Nat :=
  sums.foldl (fun m (c, v) => kvPut c (if add then add32 ((kvGet c m).getD 0) v else v) m) old

/-- The array after a row's sums have been written: hand-off of the row, or of a tile it completes (R232, R233). -/
def Arr.writeRow (a : Arr) (t : Td) (p : PassRun) (sums : List (Nat × Nat)) : Arr :=
  let ctl := t.f 0x29 1
  let bank := ctl % 2
  let e := (t.f 0x2C 2 + p.next) % 2048
  let row := accEntry (bitAt ctl 1) ((kvGet (2048 * bank + e) a.acc).getD []) sums
  let first := if p.next = 0 ∨ e % 256 = 0 then e else p.first
  let endsTile := bitAt ctl 3 && (e % 256 == 255 || p.next + 1 == t.f 0x20 4)
  { a with
    acc := kvPut (2048 * bank + e) row a.acc
    fused := if bitAt ctl 2 then a.fused ++ [row] else a.fused
    tiles := if endsTile then a.tiles ++ [⟨bank, e / 256, first, e + 1 - first⟩] else a.tiles
    pass := some { p with next := p.next + 1, first := first } }

/-- Stream rows of the pass until it is blocked, fails or has issued its last one. -/
def Dev.passRows (d : Dev) (t : Td) : (fuel : Nat) → Dev
  | 0 => d
  | n + 1 =>
    match (d.arrOf t.core).pass with
    | none => d
    | some p =>
      if t.f 0x20 4 ≤ p.next then (d.setArr t.core { d.arrOf t.core with pass := none }).finishTd t.id
      else if d.passBlocked t.core then d
      else
        match d.readLines t.core t.ctx (t.f 0x18 8 + p.next * t.f 0x24 4) (passLines p.geos) with
        | (d, .error e) => (d.setArr t.core { d.arrOf t.core with pass := none }).failTd t.id e
        | (d, .ok m) =>
          let a := d.arrOf t.core
          let d := d.setArr t.core (a.writeRow t p (passSums (t.f 0x28 1) a.active p.geos (lineElem m)))
          (d.incMod (Reg.ARR_ROWS.COUNT t.core)).passRows t n

/-- ARRAY_PASS (R217, R219): it starts once earlier loads that switch have switched (R214), and goes on, at a later command of
the same descriptor, when the VE has made room. -/
def execArrayPass (id : Nat) (s : State) : Out := s.run fun d =>
  match d.td? id with
  | none => d
  | some t =>
    if tdKind t.td ≠ 0x11 then d
    else if t.started then
      if d.live && !t.finished then d.passRows t (t.f 0x20 4 + 1) else d
    else if (d.earlierOfCmd t).any fun u =>
        tdKind u.td == 0x10 && !u.finished && (u.f 0x20 1 != 0 || u.f 0x21 1 != 0) then d
    else
      d.onArr id 0x11 fun t d =>
        match d.passCheck t with
        | some det => d.failTd id ⟨0x02, det, 0⟩
        | none =>
          let gs := (passBlocks (t.f 0x2A 2)).map (d.blockGeo t.core)
          let d := d.setArr t.core { d.arrOf t.core with pass := some ⟨id, 0, gs, 0⟩ }
          (d.wr (Reg.ARR_STATUS.MODE t.core) (t.f 0x28 1)).passRows t (t.f 0x20 4 + 1)

/-! ### Column faults (R231) -/

/-- The ARRAY_RUN that runs a stage on a core. -/
def Dev.arrayRunOn (d : Dev) (core : Nat) : Option Cmd :=
  d.cp0.cmds.find? fun c => c.opcode == 0x0302 && c.phase == .running && c.cores.contains core && !c.parked && c.fin.isNone

/-- ARRAY_COLUMN_FAULT (R231). -/
def execArrayColumnFault (core col : Nat) (s : State) : Out := s.run fun d =>
  if !d.coreClocks then d
  else
    let run := d.arrayRunOn core
    let ids := (d.seq.tds.filter fun t =>
      t.core == core && t.started && !t.finished && (tdKind t.td == 0x10 || tdKind t.td == 0x11)).map fun t => t.id
    let ctx := match (d.arrOf core).owner.bind d.cmd? with
      | some c => some c.ctx
      | none => run.map fun c => c.ctx
    let d := d.raise 0x0801 clsContained ctx core col 0 0 .yes
    let d := if d.rd (Reg.ARR_STATUS.FAULT_COL core) = 0xFF then d.wr (Reg.ARR_STATUS.FAULT_COL core) col else d
    let d := (d.wr (Reg.ARR_STATUS.FAULTED core) 1).inc (Reg.ARR_FAULTS.COLUMN core)
    let d := d.forEach ids fun id d => d.failTd id ⟨0x0E, 0x0820, 0⟩
    match run with
    | some c => d.failStaged c.slot ⟨0x0E, 0x0820, 0⟩
    | none => d

/-! ### ARRAY_RUN (R236, R237) -/

/-- A strided set of rows as address ranges (03 R82). -/
def rowRanges (wr : Bool) (a stride rows n : Nat) : List (Bool × Nat × Nat) :=
  (List.range rows).map fun r => (wr, a + r * stride, n)

/-- Extent in bytes of a strided set of rows. -/
def rowsExtent (stride rows n : Nat) : Nat := (rows - 1) * stride + n

/-- The cores a command's CORE field allows. -/
def coresOf (core : Nat) : List Nat := if core < 2 then [core] else [0, 1]

/-- The operands of ARRAY_RUN. -/
structure RunShape where
  a : Nat
  b : Nat
  c : Nat
  bias : Nat
  m : Nat
  k : Nat
  n : Nat
  aStride : Nat
  bStride : Nat
  cStride : Nat
  mode : Nat
  size : Nat                    -- bytes of an element of C
  acc : Bool
  transB : Bool
  hasBias : Bool

def Cmd.runShape (c : Cmd) : RunShape :=
  let fl := c.par 0x36 1
  { a := c.par 0x00 8, b := c.par 0x08 8, c := c.par 0x10 8, bias := c.par 0x18 8, m := c.par 0x20 4, k := c.par 0x24 2 + 1
    n := c.par 0x26 2 + 1, aStride := c.par 0x28 4, bStride := c.par 0x2C 4, cStride := c.par 0x30 4, mode := c.par 0x34 1
    size := if c.par 0x35 1 = 0 then 4 else 2, acc := bitAt fl 0, transB := bitAt fl 1, hasBias := bitAt fl 2 }

/-- Rows of B as it lies in memory, and elements per row. -/
def RunShape.bRows (x : RunShape) : Nat := if x.transB then x.n else x.k
def RunShape.bCols (x : RunShape) : Nat := if x.transB then x.k else x.n

/-- The parameter checks of ARRAY_RUN (R236). -/
def Dev.arrayRunParams (d : Dev) (c : Cmd) : List PChk :=
  let x := c.runShape
  let sh (bad : Bool) (off : Nat) : PChk := pchk bad 0x0806 off
  let aBad := match d.region x.a with
    | .hbm | .reserved | .spm _ => false
    | _ => true
  let cExt := rowsExtent x.cStride x.m (x.n * x.size)
  let clash := overlap x.c cExt x.a (rowsExtent x.aStride x.m (2 * x.k))
    || overlap x.c cExt x.b (rowsExtent x.bStride x.bRows (2 * x.bCols))
    || (x.hasBias && overlap x.c cExt x.bias (4 * x.n))
  [paddr c 0x00, sh aBad 0x00, paddr c 0x08, paddr c 0x10, { paddr c 0x18 with bad := (paddr c 0x18).bad && x.hasBias },
    sh (!(decide (1 ≤ x.m ∧ x.m ≤ 16777216))) 0x20, sh (decide (16384 < x.k)) 0x24,
    sh (x.aStride % 2 != 0 || decide (x.aStride < 2 * x.k)) 0x28,
    sh (x.bStride % 2 != 0 || decide (x.bStride < 2 * x.bCols)) 0x2C,
    sh (x.cStride % x.size != 0 || decide (x.cStride < x.n * x.size)) 0x30,
    sh (decide (2 < x.mode)) 0x34, sh (decide (1 < c.par 0x35 1)) 0x35, sh (decide (2 < c.par 0x37 1)) 0x37,
    sh (c.par 0x38 4 % 65536 != 0) 0x38, sh (c.par 0x3C 4 % 65536 != 0) 0x3C,
    pchk (decide (c.par 0x3C 4 < 0xC0000)) 0x0807 0x3C, pchk clash 0x0808 0x10]

/-- The address ranges of ARRAY_RUN (03 R82); with CORE = 2 the work areas of both cores. -/
def arrayRunRanges (c : Cmd) : List (Bool × Nat × Nat) :=
  let x := c.runShape
  rowRanges false x.a x.aStride x.m (2 * x.k) ++ rowRanges false x.b x.bStride x.bRows (2 * x.bCols)
    ++ rowRanges true x.c x.cStride x.m (x.n * x.size)
    ++ (if x.acc then rowRanges false x.c x.cStride x.m (x.n * x.size) else [])
    ++ (if x.hasBias then [(false, x.bias, 4 * x.n)] else [])
    ++ (coresOf (c.par 0x37 1)).map fun k => (true, spmBase k + c.par 0x38 4, c.par 0x3C 4)

/-- R_s (R237, step 2). -/
def runRows (k : Nat) : Nat := min 2048 ((24000 / cdiv k 192 - 213) / 8 * 8)

/-- Read strided rows of `n` bytes. -/
def Dev.readRows (d : Dev) (who : Issuer) (ctx a stride rows n : Nat) : Dev × Except Fail (List (List Byte)) :=
  d.readAll who ctx ((List.range rows).map fun r => (a + r * stride, n))

/-- The bfloat16 elements of a row. -/
def halves (bs : List Byte) : List Nat := (chunksOf 2 bs).map leNat

/-- One output row's sums over every K chunk (R234, R237): the first chunk stores, the others add. -/
def runRow (mode : Nat) (xs : List Nat) (w : Nat → Nat → Nat) (k cols : Nat) : List Nat :=
  (List.range cols).map fun j =>
    let sums := (List.range (cdiv k 192)).map fun q =>
      columnSum mode (columnTerms 0 (min 192 (k - 192 * q)) (fun r => xs.getD (192 * q + r) 0) fun r => w (192 * q + r) j)
    match sums with
    | [] => 0
    | v :: vs => vs.foldl add32 v

/-- An element of C in binary32. -/
def runElem (size : Nat) (bs : List Byte) (j : Nat) : Nat :=
  let v := fieldAt bs (size * j) size
  if size = 4 then v else bf16to32 v

/-- The epilogue of one row (R237, step 3): the bias, then the old C, then the conversion (DESIGN CHOICE, notes/assumptions/18.md). -/
def runEpilogue (x : RunShape) (bias old : List Byte) (acc : List Nat) : List Byte :=
  ((List.range acc.length).zip acc).flatMap fun (j, v) =>
    let v := if x.hasBias then add32 v (fieldAt bias (4 * j) 4) else v
    let v := if x.acc then add32 v (runElem x.size old j) else v
    if x.size = 4 then leBytes 4 v else leBytes 2 (to16 v)

/-- Write the C rows of a stage. -/
def Dev.runWrite (d : Dev) (x : RunShape) (ctx core : Nat) (bias : List Byte) (a : Nat) : List (List Nat) → Put
  | [] => ⟨d, none⟩
  | acc :: l =>
    let n := acc.length * x.size
    match (if x.acc then d.read (byPorter (8 * core)) ctx a n else ⟨d, .ok []⟩) with
    | ⟨d, .error e⟩ => ⟨d, some e⟩
    | ⟨d, .ok old⟩ =>
      match d.write (byPorter (8 * core)) ctx a (runEpilogue x bias old acc) with
      | ⟨d, none⟩ => d.runWrite x ctx core bias (a + x.cStride) l
      | p => p

/-- What the units an ARRAY_RUN uses on a core answer when one is not ready. -/
def Dev.runRefusal (d : Dev) (core : Nat) : Option Fail :=
  match d.arrRefusal core with
  | some e => some e
  | none => match d.unitBlocked [domVe core] 0x0913 with
    | some e => some e
    | none => d.unitBlocked [domPorters core] 0x0D21

/-- One stage of an ARRAY_RUN on a core: an M block and an N tile (R237). -/
def Dev.runStage (d : Dev) (c : Cmd) (core i : Nat) : Put :=
  let x := c.runShape
  let cols := max 1 (d.rd (Reg.ARR_COLS.COLS core))
  let rs := runRows x.k
  let tiles := cdiv x.n cols
  let m0 := i / tiles * rs
  let n0 := i % tiles * cols
  let rows := min rs (x.m - m0)
  let nc := min cols (x.n - n0)
  let mode := if x.mode = 2 then (if 384 ≤ rs then 1 else 0) else x.mode
  let who := byPorter (8 * core)
  let bGot := if x.transB then d.readRows who c.ctx (x.b + n0 * x.bStride) x.bStride nc (2 * x.k)
    else d.readRows who c.ctx (x.b + 2 * n0) x.bStride x.k (2 * nc)
  match bGot with
  | (d, .error e) => ⟨d, some e⟩
  | (d, .ok bRows) =>
    let bs := bRows.map halves
    let w (r j : Nat) : Nat := if x.transB then (bs.getD j []).getD r 0 else (bs.getD r []).getD j 0
    match d.readRows who c.ctx (x.a + m0 * x.aStride) x.aStride rows (2 * x.k) with
    | (d, .error e) => ⟨d, some e⟩
    | (d, .ok aRows) =>
      match (if x.hasBias then d.read who c.ctx (x.bias + 4 * n0) (4 * nc) else ⟨d, .ok []⟩) with
      | ⟨d, .error e⟩ => ⟨d, some e⟩
      | ⟨d, .ok bias⟩ =>
        match d.writeFree who c.ctx (spmBase core + c.par 0x38 4) (c.par 0x3C 4) with
        | ⟨d, some e⟩ => ⟨d, some e⟩
        | ⟨d, none⟩ =>
          let d := (d.incMod (Reg.ARR_ROWS.COUNT core) (rows * cdiv x.k 192)).inc (Reg.ARR_LOADS.COUNT core) (cdiv x.k 192)
          let d := d.wr (Reg.ARR_STATUS.MODE core) mode
          d.runWrite x c.ctx core bias (x.c + m0 * x.cStride + x.size * n0)
            (aRows.map fun r => runRow mode (halves r) w x.k nc)

/-- A core that can run the array work of a command: the one CP1 assigns, or the other when that one cannot (R145). -/
def Dev.arrCore (d : Dev) (want : Nat) : Nat :=
  let k := d.pickCore want
  if want < 2 then k else if (d.runRefusal k).isSome && (d.runRefusal (1 - k)).isNone && !d.coreResets (1 - k) then 1 - k else k

/-- ARRAY_RUN (R237): one stage for each command; its RESULT holds stages completed and total. -/
def execArrayRun (slot : Nat) (s : State) : Out := s.run fun d => d.onRoutine slot 0x0302 fun c d =>
  let core := if c.total = 0 then d.arrCore (c.par 0x37 1) else c.cores.headD 0
  if (d.arrOf core).owner.isSome then d
  else
    match d.runRefusal core with
    | some e => d.failStaged slot e
    | none =>
      let x := c.runShape
      let total := cdiv x.m (runRows x.k) * cdiv x.n (max 1 (d.rd (Reg.ARR_COLS.COLS core)))
      let d := if c.total = 0 then (d.assign slot [core]).updCmd slot fun c => { c with total := total } else d
      match d.runStage c core c.done with
      | ⟨d, some e⟩ => d.failStaged slot e
      | ⟨d, none⟩ =>
        let d := d.pieceDone slot
        match d.cmd? slot with
        | some c => if c.done = c.total then d.okCmd slot c.progress else d
        | none => d

/-! ### DIAG_ARRAY_TEST (R238) -/

/-- The parameter checks of DIAG_ARRAY_TEST. -/
def arrayTestParams (c : Cmd) : List PChk := [pchk (decide (1 < c.par 0 1)) 0x0806 0x00, pchk (decide (1024 < c.par 2 2)) 0x0806 0x02]

/-- A physical column is bypassed (R229). -/
def Dev.bypassed (d : Dev) (core col : Nat) : Bool := bitAt (d.rd (Reg.ARR_BYPASS_MAP.COLS core (col / 32))) (col % 32)

/-- DIAG_ARRAY_TEST (R238); `fails` lists the physical columns that fail. -/
def execDiagArrayTest (slot : Nat) (fails : List Nat) (s : State) : Out := s.run fun d => d.onRoutine slot 0x0801 fun c d =>
  let core := c.par 0 1 % 2
  if (d.arrOf core).owner.isSome then d
  else
    match d.arrRefusal core with
    | some e => d.failStaged slot e
    | none =>
      let bad := (List.range 192).filter fun k => fails.contains k
      let inc := bad.filter fun k => !d.bypassed core k
      let d := (d.assign slot [core]).updCmd slot fun c => { c with total := 1, done := 1 }
      let d := d.forEach (List.range 6) fun i d =>
        d.wr (Reg.ARR_TEST_MAP.COLS core i) (((bad.filter fun k => k / 32 == i).map fun k => 2 ^ (k % 32)).sum)
      let res := inc.length + bad.length * 256 + inc.headD 255 * 65536
      if inc.isEmpty then d.okCmd slot res else d.endCmd slot 0x0E 0x0821 res

end Sys2Proof.Machine
end

