-- ==== Sys2Proof/Machine/Coll.lean ====
section
/-!
DEFINITION. Collectives (15 R410–R418): rings, blocks and stages, the packets of the engine, COLL_RUN.
Choices: DEDUCED, notes/assumptions/13.md.
-/
namespace Sys2Proof.Machine

/-- Running collectives, with FAB_STATUS.COLLS. -/
def Dev.setColls (d : Dev) (l : List Coll) : Dev :=
  ({ d with fab := { d.fab with colls := l } } : Dev).wr Reg.FAB_STATUS.COLLS l.length

/-- The group in a slot. -/
def Dev.group? (d : Dev) (slot : Nat) : Option Group := kvGet slot d.fab.groups

def Dev.myId (d : Dev) : Nat := d.rd Reg.FAB_ID.DEVICE_ID

/-! ### Parts, blocks, stages (R412, R415) -/

/-- First element and length of ring k's part. -/
def ringPart (rings count k : Nat) : Nat × Nat :=
  let per := cdiv count (max rings 1)
  (k * per, min per (count - k * per))

/-- First element, within its part, and length of block j of a part. -/
def blockOf (n len j : Nat) : Nat × Nat :=
  let bl := cdiv len (max n 1)
  (j * bl, min bl (len - j * bl))

def Group.ring (g : Group) (k : Nat) : List Nat := g.rings.getD k []
def Group.pos (g : Group) (k id : Nat) : Nat := (g.ring k).idxOf id
def Group.succ (g : Group) (k id : Nat) : Nat := (g.ring k).getD ((g.pos k id + 1) % max g.n 1) 0
def Group.ringList (g : Group) : List Nat := List.range g.rings.length

/-- Stages of a collective: at most 2 MiB of input per member in each. -/
def collStages (g : Group) (op count inSize : Nat) : Nat :=
  let per := cdiv count (max g.rings.length 1)
  let bytes := match op with
    | 1 => g.rings.length * cdiv per (max g.n 1) * inSize
    | 3 => 36
    | _ => count * inSize
  max 1 (cdiv bytes 2097152)

def Coll.inSize (c : Coll) : Nat := if c.inFmt = 0 then 2 else 4
/-- ALL_GATHER carries blocks in the format they have. -/
def Coll.outF (c : Coll) : Nat := if c.op = 1 then c.inFmt else c.outFmt
def Coll.outSize (c : Coll) : Nat := if c.outF = 0 then 2 else 4
def Coll.part? (c : Coll) (g : Group) (k : Nat) : Nat × Nat := ringPart g.rings.length c.count k

/-- The slice of a block that stage `i` covers: first element within the block, and length. -/
def stageSlice (stages len i : Nat) : Nat × Nat :=
  let lo := len * i / max stages 1
  (lo, len * (i + 1) / max stages 1 - lo)

/-- The stage that an element at offset `o` of a block of `len` belongs to. -/
def stageOf (stages len o : Nat) : Nat :=
  ((List.range stages).find? fun i => decide (o < len * (i + 1) / max stages 1)).getD 0

/-- Elements this member receives in a phase of a stage. -/
def Coll.expected (c : Coll) (g : Group) (id phase i : Nat) : Nat :=
  (g.ringList.map fun k =>
    let (_, len) := c.part? g k
    let pos := g.pos k id
    let skip := if phase = 0 then (pos + g.n - 1) % g.n else pos
    (((List.range g.n).filter fun j => j != skip).map fun j => (stageSlice c.stages (blockOf g.n len j).2 i).2).sum).sum

def Coll.has (c : Coll) (phase i : Nat) : Nat := (kvGet (2 * i + phase) c.got).getD 0

/-- The stage that has begun is complete on this member (R416). -/
def Coll.complete (c : Coll) (g : Group) (id : Nat) : Bool :=
  match c.op with
  | 3 => decide (g.n ≤ c.recs.length)
  | 0 => decide (c.expected g id 0 c.stage ≤ c.has 0 c.stage)
  | 1 => decide (c.expected g id 1 c.stage ≤ c.has 1 c.stage)
  | _ => decide (c.expected g id 0 c.stage ≤ c.has 0 c.stage) && decide (c.expected g id 1 c.stage ≤ c.has 1 c.stage)

/-! ### Data -/

/-- Byte offset of an owned block of ring k in the back-to-back layout of R415. -/
def ownOffset (c : Coll) (g : Group) (id k size : Nat) : Nat :=
  ((List.range k).map fun q => (blockOf g.n (c.part? g q).2 (g.pos q id)).2 * size).sum

/-- Elements as binary32 patterns. -/
def elems32 (fmt : Nat) (bs : List Byte) : List Nat :=
  (chunksOf (if fmt = 0 then 2 else 4) bs).map fun b => if fmt = 0 then bf16to32 (leNat b) else leNat b

/-- A reduced element in the output format: × 2^SCALE, canonical NaN (R412). -/
def Coll.outElem (c : Coll) (v : Nat) : List Byte :=
  let x := to32 ((f32 v).scale (toSigned 8 c.scale))
  if c.outFmt = 0 then leBytes 2 (to16 x) else leBytes 4 x

/-- The owner of a collective as a sender of errors. -/
def byEngine : Issuer := byFabric

/-- A packet of a collective to this member's successor on ring k (R414). -/
def Dev.collPkt (d : Dev) (c : Coll) (g : Group) (k phase idx withdraw : Nat) (data : List Byte) : FabPkt :=
  { d.newPkt ptCollData (g.succ k d.myId) c.ctx c.ctx (idx + k * 2 ^ 48 + phase * 2 ^ 51 + withdraw * 2 ^ 52) with
    tag := c.seq % 2 ^ 32, epoch := c.epoch % 2 ^ 32, arg := g.id, data }

/-- What the engine leaves: the state, and the failure that ends the collective. -/
structure CollRan where
  dev : Dev
  err : Option Fail

/-- Send one packet of a collective. -/
def Dev.collSend (d : Dev) (k : FabPkt) : CollRan :=
  match d.sendPkt k with
  | (d, true) => ⟨d, none⟩
  | (d, false) => ⟨d, some failNoRoute⟩

/-- Run effects in order until one fails. -/
def Dev.collEach {α : Type} (d : Dev) : List α → (α → Dev → CollRan) → CollRan
  | [], _ => ⟨d, none⟩
  | a :: l, f =>
    match f a d with
    | ⟨d, none⟩ => d.collEach l f
    | r => r

/-- Write output bytes of ring k from element `idx` of its part. -/
def Dev.collWrite (d : Dev) (c : Coll) (g : Group) (k idx : Nat) (bs : List Byte) : CollRan :=
  let (start, len) := c.part? g k
  let a := if c.op = 0 then
      let (b0, _) := blockOf g.n len (g.pos k d.myId)
      c.dst + ownOffset c g d.myId k c.outSize + (idx - b0) * c.outSize
    else c.dst + (start + idx) * c.outSize
  match d.write byEngine c.ctx a bs with
  | ⟨d, e⟩ => ⟨d, e⟩

/-- An owner has its reduced elements: they are written, and for ALL_REDUCE sent on (R412). -/
def Dev.collOut (d : Dev) (c : Coll) (g : Group) (k idx : Nat) (acc : List Nat) : CollRan :=
  let bs := acc.flatMap c.outElem
  match d.collWrite c g k idx bs with
  | ⟨d, some e⟩ => ⟨d, some e⟩
  | ⟨d, none⟩ => if c.op = 2 ∧ 1 < g.n then d.collSend (d.collPkt c g k 1 idx 0 bs) else ⟨d, none⟩

/-- This member's own elements of ring k. -/
def Dev.collOwn (d : Dev) (c : Coll) (g : Group) (k idx n : Nat) : Dev × Except Fail (List Nat) :=
  match d.read byEngine c.ctx (c.src + ((c.part? g k).1 + idx) * c.inSize) (n * c.inSize) with
  | ⟨d, .error e⟩ => (d, .error e)
  | ⟨d, .ok bs⟩ => (d, .ok (elems32 c.inFmt bs))

/-- Pieces of a slice: first element and length, at most `m` elements each. -/
def collPieces (lo len m : Nat) : List (Nat × Nat) :=
  (List.range (cdiv len m)).map fun i => (lo + i * m, min m (len - i * m))

/-- What the engine sends of its own at the start of a stage. -/
def Dev.collBegin (d : Dev) (c : Coll) (g : Group) : CollRan :=
  let id := d.myId
  match c.op with
  | 3 =>
    let own : Got := match kvGet (g.pos 0 id) c.recs with
      | some bs => ⟨d, .ok bs⟩
      | none => d.read byEngine c.ctx c.src 36
    match own with
    | ⟨d, .error e⟩ => ⟨d, some e⟩
    | ⟨d, .ok bs⟩ =>
      let d := d.setColls (d.fab.colls.map fun x =>
        if x.cmd = c.cmd ∧ x.part = c.part then { x with recs := kvPut (g.pos 0 id) bs x.recs } else x)
      if 1 < g.n then d.collSend (d.collPkt c g 0 1 (g.pos 0 id) 0 bs) else ⟨d, none⟩
  | 1 => d.collEach g.ringList fun k d =>
    let (b0, bl) := blockOf g.n (c.part? g k).2 (g.pos k id)
    let (s0, sl) := stageSlice c.stages bl c.stage
    d.collEach (collPieces s0 sl (2048 / c.inSize)) fun (o, n) d =>
      match d.read byEngine c.ctx (c.src + ownOffset c g id k c.inSize + o * c.inSize) (n * c.inSize) with
      | ⟨d, .error e⟩ => ⟨d, some e⟩
      | ⟨d, .ok bs⟩ =>
        match d.collWrite c g k (b0 + o) bs with
        | ⟨d, some e⟩ => ⟨d, some e⟩
        | ⟨d, none⟩ => if 1 < g.n then d.collSend (d.collPkt c g k 1 (b0 + o) 0 bs) else ⟨d, none⟩
  | _ => d.collEach g.ringList fun k d =>
    let j := (g.pos k id + g.n - 1) % max g.n 1
    let (b0, bl) := blockOf g.n (c.part? g k).2 j
    let (s0, sl) := stageSlice c.stages bl c.stage
    d.collEach (collPieces s0 sl 512) fun (o, n) d =>
      match d.collOwn c g k (b0 + o) n with
      | (d, .error e) => ⟨d, some e⟩
      | (d, .ok xs) =>
        if g.n ≤ 1 then d.collOut c g k (b0 + o) xs
        else d.collSend (d.collPkt c g k 0 (b0 + o) 0 (xs.flatMap (leBytes 4)))

/-- The results of a NORM (R413): sums in rank order from +0, and the flags. -/
def Coll.normOut (c : Coll) (n : Nat) : List Nat × Nat :=
  let rs := (List.range n).map fun r => (kvGet r c.recs).getD []
  ((List.range c.count).map fun v => rs.foldl (fun acc b => add32 acc (fieldAt b (4 * v) 4)) 0,
    rs.foldl (fun f b => f ||| fieldAt b 32 4) 0)

/-- Remove a collective. -/
def Dev.collRemove (d : Dev) (cmd part : Nat) : Dev :=
  d.setColls (d.fab.colls.filter fun x => !(x.cmd == cmd && x.part == part))

/-- Send WITHDRAW to the successor on every ring (R418). -/
def Dev.collWithdraw (d : Dev) (c : Coll) : Dev :=
  match d.group? c.slot with
  | some g => if g.n ≤ 1 then d else d.forEach g.ringList fun k d => (d.sendPkt (d.collPkt c g k 0 0 1 [0])).1
  | none => d

/-- A collective ends with a failure, which ends its command (R418). -/
def Dev.collFail (d : Dev) (c : Coll) (f : Fail) (withdraw : Bool) : Dev :=
  let d := d.whenB withdraw fun d => d.collWithdraw c
  (d.collRemove c.cmd c.part).failStaged c.cmd f

/-- A command ends: its collectives withdraw (R418). -/
def Dev.collDrop (d : Dev) (slot : Nat) : Dev :=
  d.forEach (d.fab.colls.filter fun c => c.cmd == slot) fun c d => (d.collWithdraw c).collRemove c.cmd c.part

/-- The present record of a collective. -/
def Dev.coll? (d : Dev) (cmd part : Nat) : Option Coll := d.fab.colls.find? fun c => c.cmd == cmd && c.part == part

def Dev.updColl (d : Dev) (cmd part : Nat) (f : Coll → Coll) : Dev :=
  d.setColls (d.fab.colls.map fun x => if x.cmd = cmd ∧ x.part = part then f x else x)

/-- Note whether the stage is complete; a NORM of a COLL_RUN that is writes its results (a training step takes its own). -/
def Dev.collCheck (d : Dev) (cmd part : Nat) : Dev :=
  match d.coll? cmd part with
  | none => d
  | some c =>
    match d.group? c.slot with
    | none => d
    | some g =>
      if !c.busy || !c.complete g d.myId then d
      else
        let d := d.updColl cmd part fun c => { c with busy := false }
        if c.op ≠ 3 ∨ c.part ≠ 0 then d
        else
          let (vs, fl) := c.normOut g.n
          match d.writeAll byEngine c.ctx [(c.dst, vs.flatMap (leBytes 4)), (c.dst + 32, leBytes 4 fl)] with
          | ⟨d, none⟩ => d
          | ⟨d, some e⟩ => d.collFail c e false

/-- Count received elements of a packet. -/
def Coll.receive (c : Coll) (g : Group) (k phase idx n : Nat) : Coll :=
  let (_, len) := c.part? g k
  let bl := max 1 (cdiv len (max g.n 1))
  let i := stageOf c.stages (blockOf g.n len (idx / bl)).2 (idx % bl)
  { c with got := kvPut (2 * i + phase) (c.has phase i + n) c.got }

/-- A packet of a running collective (R412–R414). -/
def Dev.collTake (d : Dev) (c : Coll) (k : FabPkt) : Dev :=
  match d.group? c.slot with
  | none => d
  | some g =>
    let ring := k.addr / 2 ^ 48 % 8
    let phase := k.addr / 2 ^ 51 % 2
    let idx := k.addr % 2 ^ 48
    if k.epoch ≠ c.epoch % 2 ^ 32 then
      ((d.inc Reg.FAB_COLL_DROPS.COUNT).occur clsDropped).collFail c ⟨0x0E, 0x0F32, 0⟩ true
    else if bitAt k.addr 52 then d.collFail c ⟨0x0E, 0x0F31, 0⟩ true
    else
      let id := d.myId
      let r : CollRan :=
        if c.op = 3 then
          let d := d.updColl c.cmd c.part fun c => { c with recs := kvPut idx k.data c.recs }
          if (g.pos 0 id + 1) % g.n = idx then ⟨d, none⟩ else d.collSend (d.collPkt c g 0 1 idx 0 k.data)
        else
          let (_, len) := c.part? g ring
          let bl := max 1 (cdiv len (max g.n 1))
          let j := idx / bl
          let size := if phase = 0 then 4 else c.outSize
          let n := k.data.length / size
          let d := d.updColl c.cmd c.part fun c => c.receive g ring phase idx n
          if phase = 1 then
            match d.collWrite c g ring idx k.data with
            | ⟨d, some e⟩ => ⟨d, some e⟩
            | ⟨d, none⟩ =>
              if (g.pos ring id + 1) % g.n = j then ⟨d, none⟩ else d.collSend (d.collPkt c g ring 1 idx 0 k.data)
          else
            match d.collOwn c g ring idx n with
            | (d, .error e) => ⟨d, some e⟩
            | (d, .ok xs) =>
              let acc := List.zipWith add32 (elems32 1 k.data) xs
              if g.pos ring id = j then d.collOut c g ring idx acc
              else d.collSend (d.collPkt c g ring 0 idx 0 (acc.flatMap (leBytes 4)))
      match r.err with
      | some e => r.dev.collFail c e false
      | none => r.dev.collCheck c.cmd c.part

/-- The running collective that a packet matches: GROUP_ID and SEQ (R414). -/
def Dev.collMatch (d : Dev) (k : FabPkt) : Option Coll :=
  d.fab.colls.find? fun c => c.seq % 2 ^ 32 == k.tag && (match d.group? c.slot with
    | some g => g.id == k.arg
    | none => false)

/-- Take the packets of the early buffer that now match; `fuel` bounds them. -/
def Dev.collEarly (d : Dev) : (fuel : Nat) → Dev
  | 0 => d
  | n + 1 =>
    match d.fab.early.find? fun x => (d.collMatch x.1).isSome with
    | none => d
    | some x =>
      let d := ({ d with fab := { d.fab with early := d.fab.early.erase x } } : Dev).returnCredits x.1
      match d.collMatch x.1 with
      | some c => (d.collTake c x.1).collEarly n
      | none => d

/-- A stage of a collective begins: this member's own data go out, then the early packets are taken. -/
def Dev.collStage (d : Dev) (cmd part : Nat) : Dev :=
  match d.coll? cmd part with
  | none => d
  | some c =>
    match d.group? c.slot with
    | none => d
    | some g =>
      let d := d.updColl cmd part fun c => { c with busy := true }
      let r := d.collBegin c g
      match r.err with
      | some e => r.dev.collFail c e false
      | none => (r.dev.collCheck cmd part).collEarly r.dev.fab.early.length

/-- COLL_DATA (R414): the oldest collective packet is added, forwarded, held in the early buffer or taken as WITHDRAW. -/
def execCollData (s : State) : Out := s.run fun d =>
  if !d.fabClocks then d
  else
    match d.fab.inbox.find? fun k => k.typ == ptCollData with
    | none => d
    | some k =>
      match d.collMatch k with
      | some c =>
        match d.nextIn ptCollData with
        | some (k, d) => d.collTake c k
        | none => d
      | none =>
        let d := { d with fab := { d.fab with inbox := d.fab.inbox.erase k, early := d.fab.early ++ [(k, d.timeNs)] } }
        d.tracePkt (min k.port 255) k

/-- EARLY_BUFFER_EXPIRY (R414): the oldest packet of the early buffer has waited 100 ms. -/
def execEarlyBufferExpiry (s : State) : Out := s.run fun d =>
  match d.fab.early with
  | [] => d
  | x :: rest =>
    let d := ({ d with fab := { d.fab with early := rest } } : Dev).returnCredits x.1
    (d.inc Reg.FAB_COLL_DROPS.COUNT).occur clsDropped

/-- COLL_TIMEOUT (R418): a wait of a collective for its predecessor's data reaches TIMEOUT_MS. -/
def execCollTimeout (slot part : Nat) (s : State) : Out := s.run fun d =>
  match d.coll? slot part with
  | some c => if c.busy then d.collFail c ⟨0x05, 0x0F21, 0⟩ true else d
  | none => d

/-! ### COLL_RUN (R415) -/

/-- The collective a COLL_RUN names. -/
def Cmd.collOf (c : Cmd) : Coll :=
  { cmd := c.slot, part := 0, ctx := c.ctx, slot := c.par 0x15 1, seq := c.par 0x28 8, epoch := c.par 0x20 8, op := c.par 0x14 1
    src := c.par 0 8, dst := c.par 8 8, count := c.par 0x10 4, inFmt := c.par 0x16 1, outFmt := c.par 0x17 1, scale := c.par 0x18 1
    stages := 1, stage := 0, busy := false, got := [], recs := [] }

/-- Bytes of the input and of the output. -/
def Coll.extents (c : Coll) (g : Group) (id : Nat) : Nat × Nat :=
  let own (size : Nat) : Nat := ownOffset c g id g.rings.length size
  match c.op with
  | 0 => (c.count * c.inSize, own c.outSize)
  | 1 => (own c.inSize, c.count * c.outSize)
  | 2 => (c.count * c.inSize, c.count * c.outSize)
  | _ => (36, 36)

/-- The parameter checks of COLL_RUN (R415). -/
def Dev.collParams (d : Dev) (c : Cmd) : List PChk :=
  let x := c.collOf
  let cfg (b : Bool) (off : Nat) : PChk := pchk b 0x0F03 off
  let (n, m) := match d.group? x.slot with
    | some g => x.extents g d.myId
    | none => (0, 0)
  [paddr c 0, cfg (d.region x.src != .hbm) 0x00, paddr c 8, cfg (d.region x.dst != .hbm) 0x08,
    cfg (x.count == 0 || (x.op == 3 && decide (8 < x.count))) 0x10, cfg (decide (3 < x.op)) 0x14,
    cfg (decide (15 < x.slot) || (d.group? x.slot).isNone) 0x15, cfg (decide (1 < x.inFmt)) 0x16, cfg (decide (1 < x.outFmt)) 0x17,
    cfg (overlap x.src n x.dst m) 0x00]

/-- The address ranges of COLL_RUN. -/
def Dev.collRanges (d : Dev) (c : Cmd) : List (Bool × Nat × Nat) :=
  let x := c.collOf
  match d.group? x.slot with
  | some g => let (n, m) := x.extents g d.myId; [(false, x.src, n), (true, x.dst, m)]
  | none => []

/-- Start a collective when one of the engine's four places is free (R410). -/
def Dev.collStart (d : Dev) (c : Coll) : Option Dev :=
  match d.group? c.slot with
  | none => none
  | some g =>
    if 4 ≤ d.fab.colls.length then none
    else
      let c := { c with stages := collStages g c.op c.count c.inSize }
      some ((d.setColls (d.fab.colls ++ [c])).collStage c.cmd c.part)

/-- The stage of a collective is complete: the next begins, or it ends. True when it has ended. -/
def Dev.collNext (d : Dev) (cmd part : Nat) : Dev × Bool :=
  match d.coll? cmd part with
  | none => (d, true)
  | some c =>
    if c.busy then (d, false)
    else if c.stages ≤ c.stage + 1 then (d.collRemove cmd part, true)
    else ((d.updColl cmd part fun c => { c with stage := c.stage + 1 }).collStage cmd part, false)

/-- COLL_RUN (R415, R416): it starts its collective, then runs one stage after the other. -/
def execCollRun (slot : Nat) (s : State) : Out := s.run fun d => d.onRoutine slot 0x0602 fun c d =>
  if c.total = 0 then
    match d.group? c.collOf.slot with
    | none => d.endCmd slot 0x02 0x0F03 0x35
    | some g =>
      let n := collStages g c.collOf.op c.collOf.count c.collOf.inSize
      match (d.updCmd slot fun c => { c with total := n }).collStart c.collOf with
      | some d => d
      | none => d
  else
    match d.coll? slot 0 with
    | none => d
    | some x =>
      if x.busy then d
      else
        match (d.pieceDone slot).collNext slot 0 with
        | (d, true) => match d.cmd? slot with
          | some c => d.okCmd slot c.progress
          | none => d
        | (d, false) => d

end Sys2Proof.Machine
end

