-- ==== Sys2Proof/Machine/Sfu.lean ====
section
/-!
DEFINITION. Special functions and row statistics (chapter 10): SFU tables and their evaluation, SFU_TABLE_LOAD, RU_RUN.
-/
namespace Sys2Proof.Machine

/-! ### Tables (R273-R275) -/

abbrev Table := List Byte

def tabMode (t : Table) : Nat := fieldAt t 0x00 1
def tabId (t : Table) : Nat := fieldAt t 0x02 2
def tabW (t : Table) (off : Nat) : Nat := fieldAt t off 4

/-- A header field of a vendor table that R273 or R274 fixes: offset, length, value. -/
def vendorFields (slot : Nat) : List (Nat × Nat × Nat) :=
  let hdr (mode lo hi : Nat) : List (Nat × Nat × Nat) := [(0x00, 1, mode), (0x01, 1, 1), (0x04, 4, lo), (0x08, 4, hi)]
  let asy (la lb ra rb : Nat) : List (Nat × Nat × Nat) := [(0x10, 4, la), (0x14, 4, lb), (0x18, 4, ra), (0x1C, 4, rb)]
  match slot with
  | 0 => hdr 3 0 one32 ++ [(0x20, 4, 0x3FB8AA3B)]
  | 1 => hdr 0 0xC1800000 0x41800000 ++ asy 0 0 0 one32
  | 2 => hdr 0 0xC1000000 0x41000000 ++ asy 0 0xBF800000 0 one32
  | 3 | 4 => hdr 0 0xC1800000 0x41800000 ++ asy 0 0 one32 0
  | 5 => hdr 0 0xC1000000 0x41000000 ++ asy 0 0 one32 0
  | 6 => hdr 1 one32 0x40000000
  | _ => hdr 2 one32 0x40800000

/-- The table of a vendor slot (R273): the fields the spec gives, the rest as the firmware release has it. -/
def vendorTable (slot : Nat) : Table :=
  (List.range 1088).map fun i =>
    match (vendorFields slot).find? fun (o, l, _) => decide (o ≤ i) && decide (i < o + l) with
    | some (o, _, v) => BitVec.ofNat 8 (bits v (8 * (i - o)) 8)
    | none => Config.sfuVendorByte slot i

/-- A finite pattern. -/
def finite32 (x : Nat) : Bool := bits x 23 8 != 255

def isNan32 (x : Nat) : Bool := bits x 23 8 == 255 && bits x 0 23 != 0

/-- A positive normal pattern. -/
def posNormal32 (x : Nat) : Bool := !bitAt x 31 && bits x 23 8 != 0 && bits x 23 8 != 255

/-- The coefficients of a table, in order. -/
def wordsOf : List Byte → List Nat
  | a :: b :: c :: d :: l => leNat [a, b, c, d] :: wordsOf l
  | _ => []

/-- The first field of a table that breaks R275, by its offset, in R275's order; LO stands for a
finite pair that is not rising (DESIGN CHOICE, notes/assumptions/19.md). -/
def tableFault (t : Table) : Option Nat :=
  let m := tabMode t
  let lo := tabW t 0x04
  let hi := tabW t 0x08
  let loWant := if m = 3 then 0 else one32
  let hiWant := if m = 2 then 0x40800000 else if m = 1 then 0x40000000 else one32
  let checks : List (Bool × Nat) := [(decide (3 < m), 0x00), (fieldAt t 1 1 != 1, 0x01), (!finite32 lo, 0x04), (!finite32 hi, 0x08),
    (!(f32 lo).lt (f32 hi), 0x04), (m != 0 && !(f32 lo).eq (f32 loWant), 0x04), (m != 0 && !(f32 hi).eq (f32 hiWant), 0x08),
    (!posNormal32 (tabW t 0x0C), 0x0C)]
    ++ (((wordsOf (t.drop 0x40)).zip (List.range 256)).map fun (w, i) => (!finite32 w, 0x40 + 4 * i))
    ++ (([0x10, 0x14, 0x18, 0x1C, 0x20] : List Nat).map fun o => (isNan32 (tabW t o), o))
    ++ [(m == 3 && (!finite32 (tabW t 0x20) || (f32 (tabW t 0x20)).isZero), 0x20)]
  (checks.find? fun c => c.1).map fun c => c.2

/-! ### Evaluation (R276, R277) -/

/-- floor of a finite value. -/
def Fl.floor (v : Fl) : Int :=
  match v with
  | .fin s m e => Fl.toInt 2 s m e
  | _ => 0

/-- The cubic of the segment that holds `r`. -/
def sfuPoly (t : Table) (r : Fl) : Nat :=
  let u := to32 (r.add (f32 (tabW t 0x04)).neg)
  let u := mul32 u (tabW t 0x0C)
  let i : Nat := match f32 u with
    | .inf _ => 63
    | v => min (v.floor).toNat 63
  let x := to32 ((f32 u).add (Fl.fin true i 0))
  let c (k : Nat) : Nat := tabW t (0x40 + 16 * i + 4 * k)
  fma32 (fma32 (fma32 (c 3) x (c 2)) x (c 1)) x (c 0)

/-- An asymptote: its intercept where its slope is 0 (R276). -/
def sfuEnd (a b x : Nat) : Nat := if (f32 a).isZero then b else fma32 a x b

/-- |x| = m × 2^e with m in [1, 2): m and e. -/
def normalise (man : Nat) (exp : Int) : Fl × Int :=
  let k := bitLen man - 1
  (.fin false man (-(k : Int)), exp + (k : Int))

/-- f(x) of a table (R276). -/
def sfuEval (t : Table) (x : Nat) : Nat :=
  let v := f32 x
  match tabMode t with
  | 0 =>
    if v.isNan then nan32
    else if v.lt (f32 (tabW t 0x04)) then sfuEnd (tabW t 0x10) (tabW t 0x14) x
    else if (f32 (tabW t 0x08)).le v then sfuEnd (tabW t 0x18) (tabW t 0x1C) x
    else sfuPoly t v
  | 3 =>
    match v with
    | .nan => nan32
    | .inf s => if s then 0 else inf32 false
    | _ =>
      let u := f32 (mul32 x (tabW t 0x20))
      if u.isNan || (Fl.fin false 128 0).le u then inf32 false
      else if u.lt (.fin true 150 0) then 0
      else
        let n := u.floor
        let f := u.add (.fin (decide (0 < n)) n.natAbs 0)
        to32 ((f32 (sfuPoly t f)).scale n)
  | 1 =>
    match v with
    | .nan => nan32
    | .inf s => fmt32.sign s
    | .fin s m e =>
      if m = 0 then inf32 s
      else
        let (r, k) := normalise m e
        let y := (f32 (sfuPoly t r)).scale (-k)
        to32 (if s then y.neg else y)
  | _ =>
    match v with
    | .nan => nan32
    | .inf s => if s then nan32 else 0
    | .fin s m e =>
      if m = 0 then inf32 s
      else if s then nan32
      else
        let (r, k) := normalise m e
        let odd := k % 2
        to32 ((f32 (sfuPoly t (r.scale odd))).scale (-((k - odd) / 2)))

/-! ### Slots (R271, R278-R281) -/

/-- The table a slot holds. -/
def Dev.sfuTable (d : Dev) (core slot : Nat) : Table :=
  if slot < 8 then vendorTable slot else (kvGet (16 * core + slot) d.sfu).getD (zeros 1088)

/-- The context that owns a user slot. -/
def Dev.sfuOwner (d : Dev) (core slot : Nat) : Option Nat :=
  if slot < 8 || !d.on (Reg.SFU_SLOT.OWNED core slot) then none else some (d.rd (Reg.SFU_SLOT.OWNER_CTX core slot))

/-- What the body of a context meets when it names a slot: another's, or one without a table (R261, R271). -/
def Dev.sfuRefusal (d : Dev) (core ctx slot : Nat) : Option Fail :=
  match d.sfuOwner core slot with
  | some o => if o = ctx then (if d.on (Reg.SFU_SLOT.LOADED core slot) then none else some ⟨0x0F, 0x0912, 0⟩)
    else some ⟨0x10, 0x0A11, 0⟩
  | none => if d.on (Reg.SFU_SLOT.LOADED core slot) then none else some ⟨0x0F, 0x0912, 0⟩

/-- The SFU slots that a VE body names. -/
def bodySlots (body : List Nat) : List Nat :=
  ((body.filter fun w => decide (0x38 ≤ w / 2 ^ 26 ∧ w / 2 ^ 26 ≤ 0x3A)).map fun w => w % 16).eraseDups

/-- A running VE_RUN of a core names a slot (R280). -/
def Dev.slotInUse (d : Dev) (core slot : Nat) : Bool :=
  match kvGet core d.ve with
  | some r => (bodySlots r.body).contains slot
  | none => false

/-- Store a table in a slot, or free the slot. -/
def Dev.sfuPut (d : Dev) (core slot ctx : Nat) (t : Option Table) : Dev :=
  let reg := (Reg.SFU_SLOT.LOADED core slot).reg
  match t with
  | some bs => ({ d with sfu := kvPut (16 * core + slot) bs d.sfu } : Dev).setReg reg
      (1 + tabMode bs % 4 * 2 + 8 + ctx * 16 + tabId bs * 65536)
  | none => ({ d with sfu := kvDel (16 * core + slot) d.sfu } : Dev).setReg reg 0

/-- The parameter checks of SFU_TABLE_LOAD (R278, R279). The three bytes of SLOT, CORE and OP share one detail. -/
def sfuParams (c : Cmd) : List PChk :=
  let op := c.par 0x0A 1
  let slot := c.par 0x08 1
  let used := op != 1
  [{ paddr c 0 with bad := used && (paddr c 0).bad }, pchk (used && c.par 0 8 % 64 != 0) 0x0A01 0x00,
    pchk (decide (15 < slot) || (op != 2 && decide (slot < 8))) 0x0A01 0x08, pchk (decide (2 < c.par 0x09 1)) 0x0A01 0x09,
    pchk (decide (2 < op)) 0x0A01 0x0A]

/-- The address ranges of SFU_TABLE_LOAD. -/
def sfuRanges (c : Cmd) : List (Bool × Nat × Nat) :=
  match c.par 0x0A 1 with
  | 0 => [(false, c.par 0 8, 1088)]
  | 2 => [(true, c.par 0 8, 1088)]
  | _ => []

/-- Read-back reads one core: SC0 when both are named (DESIGN CHOICE, notes/assumptions/19.md). -/
def sfuReadCore (core : Nat) : Nat := if core = 1 then 1 else 0

/-- A load or a release is held on some core it names (R280). -/
def Dev.sfuHeld (d : Dev) (cores : List Nat) (slot : Nat) : Bool := cores.any fun k => d.slotInUse k slot

/-- Mark or clear SFU_PENDING of a slot on each core where the write is held, and perform it on the others (R280). -/
def Dev.sfuWrite (d : Dev) (c : Cmd) (t : Option Table) : Dev :=
  let slot := c.par 0x08 1
  let left := if c.aux.isEmpty then coresOf (c.par 0x09 1) else c.aux.tail
  let d := d.forEach left fun k d =>
    let held := d.slotInUse k slot
    let mine := t.isSome || d.sfuOwner k slot == some c.ctx
    let d := if held || !mine then d else d.sfuPut k slot c.ctx t
    d.wr (Reg.SFU_PENDING.SLOTS k) (setBits (d.rd (Reg.SFU_PENDING.SLOTS k)) slot 1 (b2n held))
  let rest := left.filter fun k => d.slotInUse k slot
  if rest.isEmpty then d.okCmd c.slot else d.updCmd c.slot fun c => { c with aux := 1 :: rest }

/-- SFU_TABLE_LOAD (R279, R280). A held write waits: the command is taken again once the runs that use the slot have ended. -/
def execSfuTableLoad (slot : Nat) (s : State) : Out := s.run fun d => d.onCmd slot 0x0A01 fun c d =>
  let sl := c.par 0x08 1 % 16
  let cores := coresOf (c.par 0x09 1)
  let op := c.par 0x0A 1
  let foreign (k : Nat) : Bool := match d.sfuOwner k sl with
    | some o => o != c.ctx
    | none => false
  match d.unitBlocked (cores.map domSfu) 0x0913 with
  | some e => d.endCmd slot e.major e.detail 0
  | none =>
    if op = 0 then
      if c.aux.isEmpty && cores.any foreign then d.endCmd slot 0x04 0x0A10 0
      else
        match (if c.aux.isEmpty then d.read byCp c.ctx (c.par 0 8) 1088 else ⟨d, .ok c.rstate⟩) with
        | ⟨d, .error e⟩ => d.endCmd slot e.major e.detail 0
        | ⟨d, .ok t⟩ =>
          match tableFault t with
          | some b =>
            let d := d.forEach cores fun k d =>
              ((d.wr (Reg.SFU_LOAD_ERR.BYTE k) b).wr (Reg.SFU_LOAD_ERR.SLOT k) sl).wr (Reg.SFU_LOAD_ERR.CTX k) c.ctx
            d.endCmd slot 0x02 0x0A02 0x20
          | none => (d.updCmd slot fun c => { c with rstate := t }).sfuWrite c (some t)
    else if op = 1 then d.sfuWrite c none
    else
      let k := sfuReadCore (c.par 0x09 1)
      if foreign k then d.endCmd slot 0x10 0x0A11 0
      else if !d.on (Reg.SFU_SLOT.LOADED k sl) then d.endCmd slot 0x0F 0x0912 0
      else
        match d.write byCp c.ctx (c.par 0 8) (d.sfuTable k sl) with
        | ⟨d, some e⟩ => d.endCmd slot e.major e.detail 0
        | ⟨d, none⟩ => d.okCmd slot

/-- A held write of a command that ends otherwise is given up: its SFU_PENDING bits clear (R280). -/
def Dev.sfuGiveUp (d : Dev) (c : Cmd) : Dev :=
  if c.opcode ≠ 0x0A01 ∨ c.aux.isEmpty then d
  else d.forEach c.aux.tail fun k d =>
    d.wr (Reg.SFU_PENDING.SLOTS k) (setBits (d.rd (Reg.SFU_PENDING.SLOTS k)) (c.par 0x08 1 % 16) 1 0)

/-! ### The Reduction Unit (R282-R286) -/

/-- The value of operation `op` (its bit in OPS) for a row of binary32 elements, by the fixed tree over 192 terms
(R283, R284). -/
def ruValue (op : Nat) (xs : List Nat) : Nat :=
  let pad (id : Nat) (l : List Nat) : List Nat := l ++ List.replicate (192 - l.length) id
  match op with
  | 0 => tree192 add32 (pad 0 xs)
  | 1 => tree192 add32 (pad 0 (xs.map fun x => mul32 x x))
  | 2 => tree192 (max32 false) (pad (inf32 true) xs)
  | 3 => tree192 (min32 false) (pad (inf32 false) xs)
  | 4 => int32 ((xs.filter fun x => x % 2 ^ 31 != 0).length : Nat)
  | _ => if xs.any fun x => !finite32 x then one32 else 0

/-- Whether a range lies in a core's own scratchpad. -/
def inSpm (core a n : Nat) : Bool := decide (spmBase core ≤ a) && decide (a + n ≤ spmBase core + spmSize)

/-- Reduce rows from row `r` on: values of the selected operations per row. -/
def Dev.ruRows (d : Dev) (core ctx src len : Nat) : (rows : List Nat) → Dev × Except Fail (List (List Nat))
  | [] => (d, .ok [])
  | r :: rs =>
    match d.coreRead core ctx (src + 4 * len * r) (4 * len) with
    | ⟨d, .error e⟩ => (d, .error e)
    | ⟨d, .ok bs⟩ =>
      match d.ruRows core ctx src len rs with
      | (d, .ok l) => (d, .ok ((chunksOf 4 bs).map leNat :: l))
      | e => e

/-- Write the planes of a reduction. -/
def Dev.ruPlanes (d : Dev) (core ctx : Nat) : List (Nat × List Byte) → Put
  | [] => ⟨d, none⟩
  | (a, bs) :: l =>
    match d.coreWrite core ctx a bs with
    | ⟨d, none⟩ => d.ruPlanes core ctx l
    | p => p

/-- RU_RUN (R283-R286). -/
def execRuRun (id : Nat) (s : State) : Out := s.run fun d => d.onTd id [0x21] fun t d =>
  let tree := t.f 0x2F 1
  let d := d.wr (if tree = 0 then Reg.RU_STATUS.CTX0 t.core else Reg.RU_STATUS.CTX1 t.core) t.ctx
  let src := t.f 0x18 8
  let dst := t.f 0x20 8
  let rows := t.f 0x28 4
  let len := t.f 0x2C 2
  let ops := (List.range 6).filter fun k => bitAt (t.f 0x2E 1) k
  let nIn := 4 * len * rows
  let nOut := 4 * rows * ops.length
  match d.unitBlocked [domRu t.core] 0x0A12 with
  | some e => d.failTd id e
  | none =>
    if src % 4 ≠ 0 ∨ dst % 4 ≠ 0 ∨ inSpm t.core src nIn = false ∨ inSpm t.core dst nOut = false ∨ overlap src nIn dst nOut = true then
      (d.inc (Reg.RU_ERR.CFG t.core)).failTd id ⟨0x02, 0x0A03, 0⟩
    else
      match d.ruRows t.core t.ctx src len (List.range rows) with
      | (d, .error e) => d.failTd id e
      | (d, .ok xs) =>
        let d := d.incMod (Reg.RU_ROWS.COUNT t.core) rows
        let d := d.incMod (Reg.RU_NONFINITE.COUNT t.core)
          (if ops.contains 5 then (xs.filter fun r => r.any fun x => !finite32 x).length else 0)
        let planes := ((List.range ops.length).zip ops).map fun (k, op) =>
          (dst + 4 * rows * k, xs.flatMap fun r => leBytes 4 (ruValue op r))
        match d.ruPlanes t.core t.ctx planes with
        | ⟨d, some e⟩ => d.failTd id e
        | ⟨d, none⟩ => d.finishTd id

end Sys2Proof.Machine
end

