-- ==== Sys2Proof/Machine/Vector.lean ====
section
/-!
DEFINITION. The vector engine (chapter 09): streams, the body check, VE_RUN descriptors, the 46 instructions, the program store,
the VE_RUN command; the mask generator (16 R436).
-/
namespace Sys2Proof.Machine

/-! ### Instruction words (R255, R259) -/

def veOp (w : Nat) : Nat := bits w 26 6
def veA (w : Nat) : Nat := bits w 21 5
def veB (w : Nat) : Nat := bits w 16 5
def veC (w : Nat) : Nat := bits w 11 5
def veOut (w : Nat) : Nat := bits w 9 2
def veMod (w : Nat) : Nat := bits w 0 9

/-- How many of the operands A, B, C an opcode uses, from A on; DROPM uses B alone (R259). `none`: undefined. -/
def veOperands (op : Nat) : Option (Bool × Bool × Bool) :=
  let n (k : Nat) : Option (Bool × Bool × Bool) := some (decide (1 ≤ k), decide (2 ≤ k), decide (3 ≤ k))
  match op with
  | 0x00 | 0x02 => n 0
  | 0x01 | 0x03 | 0x12 | 0x13 | 0x17 | 0x1A | 0x22 | 0x28 | 0x29 | 0x2A | 0x30 | 0x31 | 0x32 | 0x33 | 0x38 => n 1
  | 0x04 | 0x08 | 0x09 | 0x0A | 0x0E | 0x0F | 0x10 | 0x11 | 0x14 | 0x18 | 0x19 | 0x20 | 0x24 | 0x25 | 0x26 | 0x27
  | 0x2B | 0x2C | 0x2D | 0x2E | 0x3A => n 2
  | 0x0B | 0x0C | 0x0D | 0x15 | 0x16 | 0x21 | 0x39 => n 3
  | 0x3B => some (false, true, false)
  | _ => none

/-- The operand codes an instruction uses. -/
def veUsed (w : Nat) : List Nat :=
  match veOperands (veOp w) with
  | some (a, b, c) => (if a then [veA w] else []) ++ (if b then [veB w] else []) ++ (if c then [veC w] else [])
  | none => []

/-! ### The stream table (R244-R247) -/

/-- A stream descriptor. -/
structure VStream where
  addr   : Nat
  elems  : Nat
  rows   : Nat
  stride : Nat
  fmt    : Nat
  shape  : Nat
  deriving DecidableEq, Repr

/-- Bytes of an element. -/
def VStream.size (s : VStream) : Nat := if s.fmt = 1 ∨ s.fmt = 2 then 2 else if s.fmt = 3 then 1 else 4

/-- Bytes of a stream's extent. -/
def VStream.extent (s : VStream) : Nat := (s.rows - 1) * s.stride + s.elems * s.size

/-- Stream `n` of a table: S0-S3, then O0 and O1. -/
def veStream (t : List Byte) (n : Nat) : VStream :=
  let o := 0x80 + 32 * n
  ⟨fieldAt t o 8, fieldAt t (o + 8) 4, fieldAt t (o + 12) 4, fieldAt t (o + 16) 4, fieldAt t (o + 20) 1, fieldAt t (o + 21) 1⟩

/-- The enabled streams of a table. -/
def veEnabled (t : List Byte) : List Nat := (List.range 6).filter fun n => bitAt (fieldAt t 0x10 1) n

def veEnables (t : List Byte) (n : Nat) : Bool := bitAt (fieldAt t 0x10 1) n

/-- Elements per row of the driver. -/
def veDriverElems (t : List Byte) (driver : Nat) : Nat :=
  if driver = 0x0C then fieldAt t 0x12 1 else (veStream t (driver - 8)).elems

/-- STREAM_CFG of one stream (R246, R247). -/
def streamCfgBad (t : List Byte) (driver n : Nat) : Bool :=
  let s := veStream t n
  let e := veDriverElems t driver
  decide (3 < s.fmt) || decide (1 < s.shape) || !(decide (1 ≤ s.elems ∧ s.elems ≤ 16777216))
    || !(decide (1 ≤ s.rows ∧ s.rows ≤ 16777216))
    || (if 4 ≤ n then s.shape != 0 || decide (1 < s.fmt) || decide (s.stride < s.elems * s.size) || s.elems != e
        else s.elems != (if s.shape = 1 then 1 else e))

/-- The stream checks, in the order of R247: the detail of the first failure. -/
def streamFault (core cols source driver : Nat) (t : List Byte) : Option Nat :=
  let en := veEnabled t
  let outs := en.filter fun n => decide (4 ≤ n)
  let ins := en.filter fun n => decide (n < 4)
  let clash (a b : Nat) : Bool :=
    overlap (veStream t a).addr (veStream t a).extent (veStream t b).addr (veStream t b).extent
  let aliased (a b : Nat) : Bool := { veStream t a with shape := 0 } == { veStream t b with shape := 0 }
  if en.any fun n => !inSpm core (veStream t n).addr (veStream t n).extent then some 0x0903
  else if en.any fun n => (veStream t n).addr % (veStream t n).size != 0 || (veStream t n).stride % (veStream t n).size != 0 then
    some 0x0903
  else if en.any (streamCfgBad t driver) then some 0x0902
  else if source ≠ 0 ∧ !(decide (1 ≤ fieldAt t 0x12 1 ∧ fieldAt t 0x11 1 + fieldAt t 0x12 1 ≤ cols)) then some 0x0902
  else if (outs.any fun a => outs.any fun b => decide (a < b) && clash a b)
      || (outs.any fun a => ins.any fun b => clash a b && !aliased a b) then some 0x0904
  else none

/-! ### The program store and the body check (R257, R262, R263) -/

/-- An instruction of the program store; page 15 holds what firmware loaded (R263). -/
def Dev.veWord (d : Dev) (core a : Nat) : Nat :=
  if 960 ≤ a then (Config.vePage15 (a - 960)).toNat else (kvGet (1024 * core + a) d.veStore).getD 0

/-- Who owns a page: `none` for a free one. -/
def Dev.pageOwner (d : Dev) (core p : Nat) : Option Nat :=
  if bitAt (d.rd (Reg.VE_PAGES.USED core)) p then some (bits (d.rd (Reg.VE_PAGE_OWNER.CTX core)) (4 * p) 4) else none

/-- How a run stands to a page: 0 it may use it, 1 the page is free, 2 it may not (R263). -/
def Dev.pageUse (d : Dev) (core ctx op p : Nat) : Nat :=
  if p = 15 then (if op = 0x0301 ∨ op = 0x0305 then 2 else 0)
  else match d.pageOwner core p with
    | none => 1
    | some c => if c = ctx then 0 else 2

/-- What the search for a body finds. -/
inductive BodyFound where
  | body (words : List Nat)     -- SETVL up to, not including, LOOP
  | noSetvl
  | noLoop
  | notOwned
  deriving DecidableEq, Repr

/-- The first LOOP after address `a`, through pages the run may use; `fuel` bounds the store. -/
def Dev.findLoop (d : Dev) (core ctx op : Nat) : (fuel a : Nat) → (acc : List Nat) → BodyFound
  | 0, _, _ => .noLoop
  | n + 1, a, acc =>
    if 1024 ≤ a then .noLoop
    else match d.pageUse core ctx op (a / 64) with
      | 1 => .noLoop
      | 2 => .notOwned
      | _ =>
        let w := d.veWord core a
        if veOp w = 2 then .body acc.reverse else d.findLoop core ctx op n (a + 1) (w :: acc)

/-- The body at a PC (R262, R263, R266; DEDUCED, notes/assumptions/20.md). -/
def Dev.findBody (d : Dev) (core ctx op pc : Nat) : BodyFound :=
  let w := d.veWord core pc
  match d.pageUse core ctx op (pc / 64) with
  | 2 => .notOwned
  | 1 => if veOp w = 1 then .notOwned else .noSetvl
  | _ => if veOp w = 1 then d.findLoop core ctx op 1024 (pc + 1) [w] else .noSetvl

/-- A used operand that the instruction at position `p` may not name (reason BAD_OPERAND). -/
def operandBad (t : List Byte) (source p code : Nat) : Bool :=
  if code < 8 then decide (p ≤ code + 1)
  else if code < 12 then !veEnables t (code - 8)
  else code == 0x0C && source == 0

/-- How many instructions of a body name output `o`. -/
def outNamed (body : List Nat) (o : Nat) : Nat := (body.filter fun w => bitAt (veOut w) o).length

/-- Positions of a body with their words. -/
def numbered (l : List Nat) : List (Nat × Nat) := (List.range l.length).zip l |>.map fun (i, w) => (i + 1, w)

/-- The first failure of the body check after NO_SETVL and NO_LOOP, in the order of R262: address and reason. `pc` holds SETVL
`w0`, the body follows, and LOOP after it. -/
def bodyFault (t : List Byte) (source pc w0 : Nat) (body : List Nat) : Option (Nat × Nat) :=
  let ps := numbered body
  let drv := veA w0
  let at_ (reason : Nat) (p : Nat × Nat → Bool) : Option (Nat × Nat) := (ps.find? p).map fun x => (pc + x.1, reason)
  let loop := pc + body.length + 1
  let driverBad := !((decide (8 ≤ drv ∧ drv ≤ 11) && veEnables t (drv - 8) && (veStream t (drv - 8)).shape == 0)
    || (drv == 0x0C && source != 0))
  let first (l : List (Option (Nat × Nat))) : Option (Nat × Nat) := (l.filterMap id).head?
  let outBad (x : Nat × Nat) : Bool :=
    (veOp x.2 == 4 && veOut x.2 == 0)
      || [0, 1].any fun o => bitAt (veOut x.2) o && (!veEnables t (4 + o) || (outNamed (body.take x.1) o != 1))
  first [
    if body.isEmpty then some (loop, 3) else none,
    at_ 4 fun x => (veOperands (veOp x.2)).isNone || veOp x.2 == 1,
    if driverBad then some (pc, 5) else none,
    at_ 6 fun x => (veUsed x.2).any (operandBad t source x.1),
    at_ 7 outBad,
    if [0, 1].any fun o => veEnables t (4 + o) && outNamed body o == 0 then some (loop, 7) else none,
    if 193 ≤ veMod w0 % 256 then some (pc, 8) else none,
    at_ 8 fun x => (veOp x.2 == 0x2E && decide (6 ≤ veMod x.2 % 8)) || (veOp x.2 == 0x22 && veMod x.2 % 64 == 0)]

/-- A failed body check (R262). -/
def Dev.veIllegal (d : Dev) (t : Td) (pc reason : Nat) : Dev :=
  let d := (d.wr (Reg.VE_ILLEGAL.PC t.core) pc).wr (Reg.VE_ILLEGAL.REASON t.core) reason
  ((d.wr (Reg.VE_ILLEGAL.CTX t.core) t.ctx).inc (Reg.VE_ERR.ILLEGAL t.core)).failTd t.id ⟨0x02, 0x0901, 0⟩

/-- The failure of the SFU slots a body names: the domain, then ownership and emptiness of each (R261, R271). -/
def Dev.bodySfuFault (d : Dev) (core ctx : Nat) (body : List Nat) : Option Fail :=
  let slots := bodySlots body
  if slots.isEmpty then none
  else match d.unitBlocked [domSfu core] 0x0913 with
    | some e => some e
    | none => (slots.filterMap (d.sfuRefusal core ctx)).head?

/-- The opcode of a descriptor's command. -/
def Dev.tdOpcode (d : Dev) (t : Td) : Nat :=
  match d.cmd? t.cmd with
  | some c => c.opcode
  | none => 0

/-- Where a run starts in its rows: a stage of a VE_RUN command goes on where the stage before ended (R267). -/
def Dev.veStart (d : Dev) (t : Td) : Nat × Nat :=
  match d.cmd? t.cmd with
  | some c => if c.opcode = 0x0305 then (c.aux.getD 0 0, c.aux.getD 1 0) else (0, 0)
  | none => (0, 0)

/-- A held SFU write keeps a run that names its slot from starting (R280). -/
def Dev.sfuHolds (d : Dev) (t : Td) : Bool :=
  let p := d.rd (Reg.SFU_PENDING.SLOTS t.core)
  p != 0 && (match d.findBody t.core t.ctx (d.tdOpcode t) (t.f 0x20 2) with
    | .body ws => (bodySlots ws).any fun s => bitAt p s
    | _ => false)

/-- The seed a run draws with: that of the training command it belongs to, else the context's (16 R431, R438; 17 R477). -/
def Dev.maskSeed (d : Dev) (ctx cmd : Nat) : Nat :=
  match d.trn.runs.find? fun r => r.cmd == cmd with
  | some r => r.seed
  | none => d.rd (Reg.TRN_SEED.SEED ctx)

/-- VE_RUN_DESC (R241, R247, R253, R262): the stream table is read, the body and the streams are checked, and the run begins.
A run that takes array results starts only while its command owns the ARR. -/
def execVeRunDesc (id : Nat) (s : State) : Out := s.run fun d =>
  match d.td? id with
  | none => d
  | some t =>
    let src := t.f 0x28 1
    if (src != 0 && (d.arrOf t.core).owner != some t.cmd) || d.sfuHolds t then d
    else
      d.onTd id [0x20] fun t d =>
        let pc := t.f 0x20 2
        let d := (d.setArr t.core (d.arrOf t.core)).wr (Reg.VE_STATUS.SOURCE t.core) src
        let d := d.wr (Reg.VE_STATUS.CTX t.core) t.ctx
        match d.unitBlocked [domVe t.core] 0x0913 with
        | some e => d.failTd id e
        | none =>
          match d.coreRead t.core t.ctx (t.f 0x18 8) 320 with
          | ⟨d, .error e⟩ => d.failTd id e
          | ⟨d, .ok tbl⟩ =>
            match d.findBody t.core t.ctx (d.tdOpcode t) pc with
            | .notOwned => d.failTd id ⟨0x10, 0x0910, 0⟩
            | .noSetvl => d.veIllegal t pc 1
            | .noLoop => d.veIllegal t pc 2
            | .body ws =>
              let w0 := ws.headD 0
              match bodyFault tbl src pc w0 ws.tail with
              | some (a, r) => d.veIllegal t a r
              | none =>
                match d.bodySfuFault t.core t.ctx ws.tail with
                | some e => d.failTd id e
                | none =>
                  match streamFault t.core (d.rd (Reg.ARR_COLS.COLS t.core)) src (veA w0) tbl with
                  | some det => d.failTd id ⟨0x02, det, 0⟩
                  | none =>
                    let (row, col) := d.veStart t
                    let r : VeRun := { td := id, cmd := t.cmd, ctx := t.ctx, source := src, tbl := tbl, body := ws
                                       total := t.f 0x24 4, done := 0, pos := 0, vl := 0, row, col, ins := [], acc := [], res := []
                                       seed := d.maskSeed t.ctx t.cmd }
                    let d := { d with ve := kvPut t.core r d.ve }
                    (d.wr (Reg.VE_BODY.PC t.core) pc).wr (Reg.VE_BODY.L t.core) (ws.length - 1)

/-! ### Iterations (R246, R248, R250-R252) -/

def VeRun.setvlWord (r : VeRun) : Nat := r.body.headD 0
def VeRun.len (r : VeRun) : Nat := r.body.length - 1
/-- The instruction word a run is at. -/
def VeRun.word (r : VeRun) : Nat := (r.body.drop r.pos).headD 0
def VeRun.driver (r : VeRun) : Nat := veA r.setvlWord
def VeRun.elems (r : VeRun) : Nat := veDriverElems r.tbl r.driver

/-- SETVL's cap: 0 acts as 192 (R250). -/
def VeRun.cap (r : VeRun) : Nat := let c := veMod r.setvlWord % 256; if c = 0 then 192 else c

/-- An input element as binary32 (R249). -/
def veIn (fmt v : Nat) : Nat :=
  match fmt with
  | 0 => v
  | 1 => bf16to32 v
  | 2 => int32 (toSigned 16 v)
  | _ => int32 (toSigned 8 v)

/-- A result as an output element (R249). -/
def veOutBytes (fmt v : Nat) : List Byte := if fmt = 0 then leBytes 4 v else leBytes 2 (to16 v)

/-- The vectors of S0-S3 for an iteration of `vl` elements at a row and a position in it. -/
def Dev.veInputs (d : Dev) (core : Nat) (r : VeRun) (vl : Nat) : (streams : List Nat) → Dev × Except Fail (List (List Nat))
  | [] => (d, .ok [])
  | n :: ns =>
    let s := veStream r.tbl n
    let k := if s.shape = 1 then 1 else vl
    let a := s.addr + (if s.stride = 0 then 0 else r.row * s.stride) + (if s.shape = 1 then 0 else r.col * s.size)
    match (if veEnables r.tbl n then d.coreRead core r.ctx a (k * s.size) else ⟨d, .ok []⟩) with
    | ⟨d, .error e⟩ => (d, .error e)
    | ⟨d, .ok bs⟩ =>
      let v := (chunksOf s.size bs).map fun b => veIn s.fmt (leNat b)
      let v := if s.shape = 1 then List.replicate vl (v.headD 0) else v
      match d.veInputs core r vl ns with
      | (d, .ok l) => (d, .ok (v :: l))
      | e => e

/-- The run takes its next accumulator row: the oldest fused row, or the next unread row of the head tile (R251, R252). -/
def Dev.veTake (d : Dev) (core : Nat) (r : VeRun) : Dev × VeRun :=
  let a := d.arrOf core
  if r.source = 1 then
    (d.setArr core { a with fused := a.fused.tail }, { r with acc := a.fused.headD [] })
  else match a.tiles with
    | [] => (d, r)
    | h :: _ =>
      let e := 2048 * h.bank + (h.first + a.taken) % 2048
      (d.setArr core { a with taken := a.taken + 1 }, { r with acc := (kvGet e a.acc).getD [] })

/-- The vector of ACC: columns from ACC_COL_FIRST on; past ACC_COLS it is not given (R252, R256). -/
def VeRun.accVec (r : VeRun) (free vl : Nat) : List Nat :=
  let c0 := fieldAt r.tbl 0x11 1
  let n := fieldAt r.tbl 0x12 1
  (List.range vl).map fun i =>
    if r.col + i < n then (kvGet (c0 + r.col + i) r.acc).getD 0 else (Config.freeQWord (free + i)).toNat % 2 ^ 32

/-- A run fails: its descriptor fails and the run is gone. -/
def Dev.veFail (d : Dev) (core : Nat) (r : VeRun) (f : Fail) : Dev := ({ d with ve := kvDel core d.ve } : Dev).failTd r.td f

/-- Run an effect on the running VE_RUN of a core. -/
def Dev.onVe (d : Dev) (core : Nat) (f : VeRun → Dev → Dev) : Dev :=
  match kvGet core d.ve with
  | some r => if d.live then f r d else d
  | none => d

/-- SETVL (R250): an iteration begins, once its row or tile is there (R253); an iteration past a stream's last row fails the
run (R248). -/
def execSetvl (core : Nat) (s : State) : Out := s.run fun d => d.onVe core fun r d =>
  if r.pos != 0 || decide (r.total ≤ r.done) then d
  else if (veEnabled r.tbl).any fun n => (veStream r.tbl n).stride != 0 && decide ((veStream r.tbl n).rows ≤ r.row) then
    (d.inc (Reg.VE_ERR.OVERRUN core)).veFail core r ⟨0x02, 0x0905, 0⟩
  else if d.veWaiting core then d
  else
    let (d, r) := if r.source != 0 && r.col == 0 then d.veTake core r else (d, r)
    let vl := min r.cap (r.elems - r.col)
    match d.veInputs core r vl [0, 1, 2, 3] with
    | (d, .error e) => d.veFail core r e
    | (d, .ok ins) =>
      let r := { r with pos := 1, vl := vl, ins := ins ++ [r.accVec d.free vl], res := [] }
      let d := if r.source != 0 && decide (fieldAt r.tbl 0x12 1 < r.col + vl) then { d with free := d.free + vl } else d
      ({ d with ve := kvPut core r d.ve } : Dev).wr (Reg.VE_STATUS.VL core) vl

/-- A tile whose rows have all been read is released (R252). -/
def Dev.veRelease (d : Dev) (core : Nat) : Dev :=
  let a := d.arrOf core
  match a.tiles with
  | h :: l => if h.rows ≤ a.taken then d.setArr core { a with tiles := l, taken := 0 } else d
  | [] => d

/-- LOOP (R257, R259): the iteration ends; after the last one the descriptor has finished. -/
def execVeLoop (core : Nat) (s : State) : Out := s.run fun d => d.onVe core fun r d =>
  if r.pos ≠ r.len + 1 then d
  else
    let ends := decide (r.elems ≤ r.col + r.vl)
    let r := { r with done := r.done + 1, pos := 0, row := if ends then r.row + 1 else r.row
                      col := if ends then 0 else r.col + r.vl, ins := [], res := [] }
    let d := (d.incMod (Reg.VE_ITERS.COUNT core)).incMod (Reg.VE_ISSUED.COUNT core) r.len
    let d := if r.source = 2 ∧ (ends = true ∨ r.total ≤ r.done) then d.veRelease core else d
    if r.done < r.total then { d with ve := kvPut core r d.ve }
    else
      let d := { d with ve := kvDel core d.ve }
      let d := d.updCmd r.cmd fun c => if c.opcode = 0x0305 then { c with aux := [r.row, r.col] ++ c.aux.drop 2 } else c
      d.finishTd r.td

/-! ### Body instructions (R256-R261) -/

/-- The vector of an operand code (R256). -/
def VeRun.operand (r : VeRun) (code : Nat) : List Nat :=
  if code < 8 then r.res.getD code []
  else if code < 13 then r.ins.getD (code - 8) []
  else if code = 13 then (List.range r.vl).map fun i => int32 (r.col + i : Nat)
  else List.replicate r.vl (if code = 14 then 0 else if code = 15 then one32 else fieldAt r.tbl (0x40 + 4 * (code - 16)) 4)

/-- One lane's inputs: A, B, C, its position in the vector. -/
structure Lane where
  a : Nat
  b : Nat
  c : Nat
  i : Nat

/-- The lanes of an instruction. -/
def VeRun.lanes (r : VeRun) (w : Nat) : List Lane :=
  (List.range r.vl).map fun i =>
    ⟨(r.operand (veA w)).getD i 0, (r.operand (veB w)).getD i 0, (r.operand (veC w)).getD i 0, i⟩

/-- The address of element `i` of the iteration in output stream `n`. -/
def VeRun.outAddr (r : VeRun) (n i : Nat) : Nat :=
  let s := veStream r.tbl n
  s.addr + r.row * s.stride + (r.col + i) * s.size

/-- The writes of a result to the outputs an instruction names; `keep` says which lanes are written. -/
def VeRun.writes (r : VeRun) (w : Nat) (res : List Nat) (keep : Nat → Bool) : List (Nat × List Byte) :=
  ([0, 1] : List Nat).flatMap fun o =>
    if bitAt (veOut w) o then
      ((List.range r.vl).filter keep).map fun i => (r.outAddr (4 + o) i, veOutBytes (veStream r.tbl (4 + o)).fmt (res.getD i 0))
    else []

/-- Write elements in order. -/
def Dev.veWrite (d : Dev) (core ctx : Nat) : List (Nat × List Byte) → Put
  | [] => ⟨d, none⟩
  | (a, bs) :: l =>
    match d.coreWrite core ctx a bs with
    | ⟨d, none⟩ => d.veWrite core ctx l
    | p => p

/-- Execute the instruction a run is at, when it has opcode `op`: `f` gives a lane's result from the run, the word and the
lane; `keep` the lanes that are written (R257). -/
def Dev.veDo (d : Dev) (core op : Nat) (f : VeRun → Nat → Lane → Nat) (keep : Lane → Bool := fun _ => true) : Dev :=
  d.onVe core fun r d =>
    let w := r.word
    if r.pos = 0 ∨ r.len < r.pos ∨ veOp w ≠ op then d
    else
      let lanes := r.lanes w
      let res := lanes.map (f r w)
      let kept := lanes.map keep
      match d.veWrite core r.ctx (r.writes w res fun i => kept.getD i true) with
      | ⟨d, some e⟩ => d.veFail core r e
      | ⟨d, none⟩ => { d with ve := kvPut core { r with pos := r.pos + 1, res := (res :: r.res).take 8 } d.ve }

/-- An instruction whose lanes depend on A, B and C alone. -/
def Dev.vePure (d : Dev) (core op : Nat) (f : Nat → Nat → Nat → Nat) : Dev := d.veDo core op fun _ _ l => f l.a l.b l.c

/-- An instruction of A with its modifier. -/
def Dev.veModal (d : Dev) (core op : Nat) (f : (mod a b : Nat) → Nat) : Dev := d.veDo core op fun _ w l => f (veMod w) l.a l.b

def mask32 (b : Bool) : Nat := if b then 0xFFFFFFFF else 0

def signBit32 : Nat := 0x80000000

/-- A with bit 31 inverted. -/
def neg32 (a : Nat) : Nat := a ^^^ signBit32

/-- A × 2^n with one rounding. -/
def mulp2 (n : Int) (a : Nat) : Nat := to32 ((f32 a).scale n)

/-- One Newton step toward 1/a (R259). -/
def nrrcp (a x : Nat) : Nat := mul32 x (fnma32 a x 0x40000000)

/-- One Newton step toward 1/√a (R259). -/
def nrrsq (a x : Nat) : Nat := mul32 x (fnma32 (mul32 0x3F000000 a) (mul32 x x) 0x3FC00000)

/-- A rounded to an integral value (R259); a zero result keeps the sign. -/
def rint32 (mode a : Nat) : Nat :=
  match f32 a with
  | .nan => nan32
  | .inf s => inf32 s
  | .fin s m e => let z := Fl.toInt mode s m e; to32 (.fin s z.natAbs 0)

/-- Conditions 0-7 of CMP (R259). -/
def cmp32 (cond a b : Nat) : Bool :=
  let x := f32 a
  let y := f32 b
  let un := x.isNan || y.isNan
  match cond with
  | 0 => x.eq y
  | 1 => !x.eq y
  | 2 => x.lt y
  | 3 => x.le y
  | 4 => y.lt x
  | 5 => y.le x
  | 6 => un
  | _ => !un

/-- Conditions 0-5 of ICMP, signed or unsigned (R259). -/
def icmp32 (mod a b : Nat) : Bool :=
  let v (x : Nat) : Int := if bitAt mod 3 then (x : Int) else toSigned 32 x
  match mod % 8 with
  | 0 => v a == v b
  | 1 => v a != v b
  | 2 => decide (v a < v b)
  | 3 => decide (v a ≤ v b)
  | 4 => decide (v b < v a)
  | _ => decide (v b ≤ v a)

/-- The class of a pattern, as the bit of MOD that selects it: NaN, −∞, +∞, ±0, subnormal, normal (R259). -/
def fclass32 (a : Nat) : Nat :=
  if isNan32 a then 0
  else if !finite32 a then (if bitAt a 31 then 1 else 2)
  else if a % 2 ^ 31 = 0 then 3
  else if bits a 23 8 = 0 then 4
  else 5

/-- Shift right with sign fill. -/
def shra32 (n a : Nat) : Nat := ofSigned 32 (toSigned 32 a / (2 ^ n : Nat))

/-- CVTFI: the int32 pattern, and whether it saturated or met a NaN (R259). -/
def cvtfi (mode a : Nat) : Nat × Bool :=
  match f32 a with
  | .nan => (0, true)
  | .inf s => (if s then 0x80000000 else 0x7FFFFFFF, true)
  | .fin s m e =>
    let z := Fl.toInt mode s m e
    if z < -(2 ^ 31 : Int) then (0x80000000, true)
    else if (2 ^ 31 : Int) ≤ z then (0x7FFFFFFF, true)
    else (ofSigned 32 z, false)

/-! ### The mask generator (16 R436) -/

def mod64 (x : Nat) : Nat := x % 2 ^ 64

/-- Left rotation of 64 bits. -/
def rotl64 (x r : Nat) : Nat := mod64 (x * 2 ^ r) + x / 2 ^ (64 - r)

/-- The 64-bit word of a seed and a counter (R436). -/
def maskGen (seed step layer mbatch elem : Nat) : Nat :=
  let k0 := mod64 seed
  let k1 := k0 ^^^ 0x9E3779B97F4A7C15
  let hi := step % 2 ^ 32 * 2 ^ 32 + layer % 65536 * 65536 + mbatch % 65536
  let round (x : Nat × Nat) (r : Nat) : Nat × Nat := let a := mod64 (x.1 + x.2); (a, rotl64 x.2 r ^^^ a)
  let x := round (round (round (mod64 (elem + k0), mod64 (hi + k1)) 16) 40) 12
  let x := (mod64 (x.1 + k1), mod64 (x.2 + k0 + 1))
  let x := round (round (round x 28) 52) 24
  mod64 (x.1 + k0) ^^^ mod64 (x.2 + k1 + 2)

/-- The generator word of a lane (R260). -/
def VeRun.draw (r : VeRun) (i : Nat) : Nat :=
  maskGen r.seed (fieldAt r.tbl 0x08 4) (fieldAt r.tbl 0x0C 2) (fieldAt r.tbl 0x0E 2)
    (mod64 (fieldAt r.tbl 0x00 8 + r.row * r.elems + r.col + i))

/-- Stochastic rounding to bfloat16 precision (R260). -/
def srbf16 (a w : Nat) : Nat :=
  if isNan32 a then nan32 else if !finite32 a then a else (a + bits w 32 16) / 65536 * 65536

/-! ### One meaning for each instruction -/

/-- NOP: +0. -/
def execVeNop (core : Nat) (s : State) : Out := s.run fun d => d.vePure core 0x00 fun _ _ _ => 0
/-- COPY: A. -/
def execVeCopy (core : Nat) (s : State) : Out := s.run fun d => d.vePure core 0x03 fun a _ _ => a
/-- PUT: B, written only in lanes where A is true. -/
def execVePut (core : Nat) (s : State) : Out := s.run fun d =>
  d.veDo core 0x04 (fun _ _ l => l.b) fun l => bitAt l.a 31
/-- ADD. -/
def execVeAdd (core : Nat) (s : State) : Out := s.run fun d => d.vePure core 0x08 fun a b _ => add32 a b
/-- SUB. -/
def execVeSub (core : Nat) (s : State) : Out := s.run fun d => d.vePure core 0x09 fun a b _ => sub32 a b
/-- MUL. -/
def execVeMul (core : Nat) (s : State) : Out := s.run fun d => d.vePure core 0x0A fun a b _ => mul32 a b
/-- FMA. -/
def execVeFma (core : Nat) (s : State) : Out := s.run fun d => d.vePure core 0x0B fma32
/-- FMS. -/
def execVeFms (core : Nat) (s : State) : Out := s.run fun d => d.vePure core 0x0C fms32
/-- FNMA. -/
def execVeFnma (core : Nat) (s : State) : Out := s.run fun d => d.vePure core 0x0D fnma32
/-- MIN. -/
def execVeMin (core : Nat) (s : State) : Out := s.run fun d => d.vePure core 0x0E fun a b _ => min32 false a b
/-- MAX. -/
def execVeMax (core : Nat) (s : State) : Out := s.run fun d => d.vePure core 0x0F fun a b _ => max32 false a b
/-- MINNUM. -/
def execVeMinnum (core : Nat) (s : State) : Out := s.run fun d => d.vePure core 0x10 fun a b _ => min32 true a b
/-- MAXNUM. -/
def execVeMaxnum (core : Nat) (s : State) : Out := s.run fun d => d.vePure core 0x11 fun a b _ => max32 true a b
/-- ABS. -/
def execVeAbs (core : Nat) (s : State) : Out := s.run fun d => d.vePure core 0x12 fun a _ _ => a % signBit32
/-- NEG. -/
def execVeNeg (core : Nat) (s : State) : Out := s.run fun d => d.vePure core 0x13 fun a _ _ => neg32 a
/-- COPYSIGN. -/
def execCopysign (core : Nat) (s : State) : Out := s.run fun d =>
  d.vePure core 0x14 fun a b _ => a % signBit32 + b / signBit32 * signBit32
/-- CLAMP. -/
def execVeClamp (core : Nat) (s : State) : Out := s.run fun d =>
  d.vePure core 0x15 fun a b c => min32 false (max32 false a b) c
/-- LERP. -/
def execLerp (core : Nat) (s : State) : Out := s.run fun d => d.vePure core 0x16 fun a b c => fma32 c (sub32 b a) a
/-- MULP2. -/
def execMulp2 (core : Nat) (s : State) : Out := s.run fun d => d.veModal core 0x17 fun m a _ => mulp2 (toSigned 9 m) a
/-- NRRCP. -/
def execNrrcp (core : Nat) (s : State) : Out := s.run fun d => d.vePure core 0x18 fun a b _ => nrrcp a b
/-- NRRSQ. -/
def execNrrsq (core : Nat) (s : State) : Out := s.run fun d => d.vePure core 0x19 fun a b _ => nrrsq a b
/-- RINT. -/
def execRint (core : Nat) (s : State) : Out := s.run fun d => d.veModal core 0x1A fun m a _ => rint32 (m % 4) a
/-- CMP. -/
def execVeCmp (core : Nat) (s : State) : Out := s.run fun d => d.veModal core 0x20 fun m a b => mask32 (cmp32 (m % 8) a b)
/-- SEL. -/
def execVeSel (core : Nat) (s : State) : Out := s.run fun d => d.vePure core 0x21 fun a b c => if bitAt a 31 then b else c
/-- FCLASS. -/
def execFclass (core : Nat) (s : State) : Out := s.run fun d => d.veModal core 0x22 fun m a _ => mask32 (bitAt m (fclass32 a))
/-- AND. -/
def execVeAnd (core : Nat) (s : State) : Out := s.run fun d => d.vePure core 0x24 fun a b _ => a &&& b
/-- OR. -/
def execVeOr (core : Nat) (s : State) : Out := s.run fun d => d.vePure core 0x25 fun a b _ => a ||| b
/-- XOR. -/
def execVeXor (core : Nat) (s : State) : Out := s.run fun d => d.vePure core 0x26 fun a b _ => a ^^^ b
/-- ANDN: A AND NOT B. -/
def execVeAndn (core : Nat) (s : State) : Out := s.run fun d => d.vePure core 0x27 fun a b _ => a &&& (0xFFFFFFFF - b)
/-- SHL. -/
def execVeShl (core : Nat) (s : State) : Out := s.run fun d => d.veModal core 0x28 fun m a _ => a * 2 ^ (m % 32) % 2 ^ 32
/-- SHR. -/
def execVeShr (core : Nat) (s : State) : Out := s.run fun d => d.veModal core 0x29 fun m a _ => a / 2 ^ (m % 32)
/-- SHRA. -/
def execVeShra (core : Nat) (s : State) : Out := s.run fun d => d.veModal core 0x2A fun m a _ => shra32 (m % 32) a
/-- IADD. -/
def execIadd (core : Nat) (s : State) : Out := s.run fun d => d.vePure core 0x2B fun a b _ => (a + b) % 2 ^ 32
/-- ISUB. -/
def execIsub (core : Nat) (s : State) : Out := s.run fun d => d.vePure core 0x2C fun a b _ => (a + (2 ^ 32 - b)) % 2 ^ 32
/-- IMUL. -/
def execImul (core : Nat) (s : State) : Out := s.run fun d => d.vePure core 0x2D fun a b _ => a * b % 2 ^ 32
/-- ICMP. -/
def execIcmp (core : Nat) (s : State) : Out := s.run fun d => d.veModal core 0x2E fun m a b => mask32 (icmp32 m a b)
/-- CVTIF. -/
def execCvtif (core : Nat) (s : State) : Out := s.run fun d => d.vePure core 0x30 fun a _ _ => int32 (toSigned 32 a)
/-- CVTFI: saturations are counted per lane in VE_SAT. -/
def execCvtfi (core : Nat) (s : State) : Out := s.run fun d =>
  let sats := match kvGet core d.ve with
    | some r =>
      let w := r.word
      if d.live && r.pos != 0 && decide (r.pos ≤ r.len) && veOp w == 0x31 then
        ((r.operand (veA w)).filter fun a => (cvtfi (veMod w % 4) a).2).length
      else 0
    | none => 0
  (d.inc (Reg.VE_SAT.COUNT core) sats).veModal core 0x31 fun m a _ => (cvtfi (m % 4) a).1
/-- RBF16. -/
def execRbf16 (core : Nat) (s : State) : Out := s.run fun d => d.vePure core 0x32 fun a _ _ => bf16to32 (to16 a)
/-- SRBF16. -/
def execSrbf16 (core : Nat) (s : State) : Out := s.run fun d => d.veDo core 0x33 fun r _ l => srbf16 l.a (r.draw l.i)
/-- SFU: f(A). -/
def execVeSfu (core : Nat) (s : State) : Out := s.run fun d =>
  d.veDo core 0x38 fun _ w l => sfuEval (d.sfuTable core (veMod w % 16)) l.a
/-- SFUBAS: f(A + B) × C. -/
def execSfubas (core : Nat) (s : State) : Out := s.run fun d =>
  d.veDo core 0x39 fun _ w l => mul32 (sfuEval (d.sfuTable core (veMod w % 16)) (add32 l.a l.b)) l.c
/-- SFUGATE: A × f(B). -/
def execSfugate (core : Nat) (s : State) : Out := s.run fun d =>
  d.veDo core 0x3A fun _ w l => mul32 l.a (sfuEval (d.sfuTable core (veMod w % 16)) l.b)
/-- DROPM: w[31:0] ≥ B. -/
def execDropm (core : Nat) (s : State) : Out := s.run fun d =>
  d.veDo core 0x3B fun r _ l => mask32 (decide (l.b ≤ r.draw l.i % 2 ^ 32))

/-! ### VE_PROGRAM_LOAD (R264, R265) -/

/-- The parameter checks of VE_PROGRAM_LOAD. -/
def veLoadParams (c : Cmd) : List PChk :=
  let pr (bad : Bool) (off : Nat) : PChk := pchk bad 0x0907 off
  let load := c.par 0x0D 1 == 0
  [{ paddr c 0 with bad := load && (paddr c 0).bad }, pr (load && c.par 0 8 % 4 != 0) 0x00, pr (decide (959 < c.par 8 2)) 0x08,
    pr (c.par 0x0A 2 == 0 || decide (960 < c.par 8 2 + c.par 0x0A 2)) 0x0A, pr (decide (2 < c.par 0x0C 1)) 0x0C,
    pr (decide (1 < c.par 0x0D 1)) 0x0D]

/-- The address ranges of VE_PROGRAM_LOAD. -/
def veLoadRanges (c : Cmd) : List (Bool × Nat × Nat) :=
  if c.par 0x0D 1 = 0 then [(false, c.par 0 8, 4 * c.par 0x0A 2)] else []

/-- Pages that instructions [base, base + count) cover. -/
def pagesOf (base count : Nat) : List Nat := rangeFrom (base / 64) ((base + count - 1) / 64 + 1)

/-- A running VE_RUN of a core uses one of some pages (R265). -/
def Dev.pagesInUse (d : Dev) (core : Nat) (ps : List Nat) : Bool :=
  match kvGet core d.ve with
  | some r =>
    let pc := d.rd (Reg.VE_BODY.PC core)
    ps.any fun p => decide (pc / 64 ≤ p) && decide (p ≤ (pc + r.body.length) / 64)
  | none => false

/-- Set a page's owner, or free it. -/
def Dev.setPage (core p : Nat) (owner : Option Nat) (d : Dev) : Dev :=
  let d := d.wr (Reg.VE_PAGES.USED core) (setBits (d.rd (Reg.VE_PAGES.USED core)) p 1 (b2n owner.isSome))
  d.wr (Reg.VE_PAGE_OWNER.CTX core) (setBits (d.rd (Reg.VE_PAGE_OWNER.CTX core)) (4 * p) 4 (owner.getD 0))

/-- Write instruction words from an address of the store on. -/
def Dev.storeWords (d : Dev) (core base : Nat) (ws : List Nat) : Dev :=
  { d with veStore := ((List.range ws.length).zip ws).foldl (fun m (i, w) => kvPut (1024 * core + base + i) w m) d.veStore }

/-- VE_PROGRAM_LOAD (R264): held while a run uses a page it covers; a load that meets another context's page changes nothing. -/
def execVeProgramLoad (slot : Nat) (s : State) : Out := s.run fun d => d.onCmd slot 0x0A02 fun c d =>
  let base := c.par 8 2
  let ps := pagesOf base (c.par 0x0A 2)
  let cores := coresOf (c.par 0x0C 1)
  let foreign (k p : Nat) : Bool := match d.pageOwner k p with
    | some o => o != c.ctx
    | none => false
  match d.unitBlocked (cores.map domVe) 0x0913 with
  | some e => d.endCmd slot e.major e.detail 0
  | none =>
    if c.par 0x0D 1 = 1 then
      let own (k p : Nat) : Bool := d.pageOwner k p == some c.ctx
      if cores.any fun k => d.pagesInUse k (ps.filter (own k)) then d
      else (d.forEach cores fun k d => d.forEach (ps.filter (own k)) fun p d => d.setPage k p none).okCmd slot
    else if cores.any fun k => ps.any (foreign k) then d.endCmd slot 0x04 0x0911 0
    else if cores.any fun k => d.pagesInUse k ps then d
    else
      match d.read byCp c.ctx (c.par 0 8) (4 * c.par 0x0A 2) with
      | ⟨d, .error e⟩ => d.endCmd slot e.major e.detail 0
      | ⟨d, .ok bs⟩ =>
        let d := d.forEach cores fun k d =>
          (d.storeWords k base ((chunksOf 4 bs).map leNat)).forEach ps fun p d => d.setPage k p (some c.ctx)
        d.okCmd slot

/-! ### The VE_RUN command (R267) -/

/-- The parameter checks of VE_RUN. -/
def veRunParams (c : Cmd) : List PChk :=
  let pr (bad : Bool) (off : Nat) : PChk := pchk bad 0x0907 off
  let k := c.par 0x0E 1
  [paddr c 0, pr (c.par 0 8 % 64 != 0 || (decide (k < 2) && !inSpm k (c.par 0 8) 320)) 0x00, pr (c.par 8 4 == 0) 0x08,
    pr (decide (1023 < c.par 0x0C 2)) 0x0C, pr (decide (1 < k)) 0x0E]

/-- The address ranges of VE_RUN. -/
def veRunRanges (c : Cmd) : List (Bool × Nat × Nat) := [(false, c.par 0 8, 320)]

/-- Iterations of a stage of a VE_RUN with body length L (R267). -/
def veStageIters (l : Nat) : Nat := 8 * (3000 / max l 1)

/-- VE_RUN (R267): CP1 expands the next stage once the one before has completed. -/
def execVeRun (slot : Nat) (s : State) : Out := s.run fun d => d.onRoutine slot 0x0305 fun c d =>
  if !c.todo.isEmpty || !(d.cmdTds slot).isEmpty then d
  else
    let core := c.par 0x0E 1 % 2
    let iters := c.par 8 4
    let per := if c.total = 0 then (match d.findBody core c.ctx 0x0305 (c.par 0x0C 2) with
      | .body ws => if ws.length ≤ 1 then iters else veStageIters (ws.length - 1)
      | _ => iters) else c.aux.getD 2 1
    let d := if c.total = 0 then
        (d.assign slot [core]).updCmd slot fun c => { c with total := cdiv iters per, aux := [0, 0, per] }
      else d
    let n := min per (iters - c.done * per)
    d.addTodo slot [(core, tdMake 0x20 4 [(0x18, 8, c.par 0 8), (0x20, 2, c.par 0x0C 2), (0x24, 4, n)])]

end Sys2Proof.Machine
end

