-- ==== Sys2Proof/Machine/Scan.lean ====
section
/-!
DEFINITION. The scan unit and the two-speed scan (chapter 11): SCAN descriptors, SCAN_RUN, carry tables and look-back.
Choices: DEDUCED, notes/assumptions/24.md.
-/
namespace Sys2Proof.Machine

/-! ### The recurrence (R290, R294, R295) -/

/-- One step in real form: h := FMA(a, h, b) in each lane. -/
def recurReal : (a h b : List Nat) → List Nat
  | x :: xs, h :: hs, b :: bs => fma32 x h b :: recurReal xs hs bs
  | _, _, _ => []

/-- One step in complex form, on pairs (real, imaginary). -/
def recurCplx : (a h b : List Nat) → List Nat
  | ar :: ai :: xs, hr :: hi :: hs, br :: bi :: bs =>
    fma32 ar hr (fma32 (neg32 ai) hi br) :: fma32 ar hi (fma32 ai hr bi) :: recurCplx xs hs bs
  | _, _, _ => []

/-- One step; with a = P and b = Q it is apply(P, Q, h). -/
def recur (cplx : Bool) (a h b : List Nat) : List Nat := if cplx then recurCplx a h b else recurReal a h b

/-- The conjugate of a vector of pairs (CONJ). -/
def conjVec : List Nat → List Nat
  | ar :: ai :: xs => ar :: neg32 ai :: conjVec xs
  | l => l

/-- A step's a and b. -/
abbrev ScanStep := List Nat × List Nat

/-- The state 1.0 of a vector of `w` elements. -/
def onesVec (cplx : Bool) (w : Nat) : List Nat := (List.range w).map fun i => if cplx && i % 2 == 1 then 0 else one32

def zeroVec (w : Nat) : List Nat := List.replicate w 0

/-- The prefix summaries of a chunk's steps, in order (R294, R295). -/
def prefixesGo (cplx : Bool) (w : Nat) : (p q : List Nat) → List ScanStep → List (List Nat × List Nat)
  | _, _, [] => []
  | p, q, (a, b) :: l =>
    let p' := recur cplx a p (zeroVec w)
    let q' := recur cplx a q b
    (p', q') :: prefixesGo cplx w p' q' l

def prefixes (cplx : Bool) (w : Nat) (steps : List ScanStep) : List (List Nat × List Nat) :=
  prefixesGo cplx w (onesVec cplx w) (zeroVec w) steps

/-- The plain scan's states. -/
def plainStates (cplx : Bool) : (h : List Nat) → List ScanStep → List (List Nat)
  | _, [] => []
  | h, (a, b) :: l => let h' := recur cplx a h b; h' :: plainStates cplx h' l

/-- The chunked form's states of one chunk from its carry. -/
def chunkStates (cplx : Bool) (h : List Nat) (ps : List (List Nat × List Nat)) : List (List Nat) :=
  ps.map fun (p, q) => recur cplx p h q

/-- The chunked form over chunks, each from the last state of the one before. -/
def splitStates (cplx : Bool) (w : Nat) : (h : List Nat) → List (List ScanStep) → List (List Nat)
  | _, [] => []
  | h, c :: cs =>
    let out := chunkStates cplx h (prefixes cplx w c)
    out ++ splitStates cplx w (out.getLastD h) cs

/-- A record or a carry as 768 bytes; inactive lanes read 0 where they are stored. -/
def vec768 (v : List Nat) : List Byte := (v.flatMap (leBytes 4) ++ zeros 768).take 768

def vecOf (w : Nat) (bs : List Byte) : List Nat := (List.range w).map fun i => fieldAt bs (4 * i) 4

/-! ### The scan parameter block (R292, R296) -/

/-- A scan parameter block with its descriptor's fields. -/
structure ScanParam where
  op     : Nat
  cplx   : Bool
  steps  : Nat
  a      : Nat
  b      : Nat
  h      : Nat
  c      : Nat
  aS     : Nat
  bS     : Nat
  hS     : Nat
  lanes  : Nat
  chunk  : Nat
  in16   : Bool
  out16  : Bool
  carry  : Bool
  final  : Bool
  conj   : Bool
  split  : Bool
  bZero  : Bool
  aOne   : Bool

def scanParam (t : Td) (bs : List Byte) : ScanParam :=
  let fmt := fieldAt bs 0x30 1
  let fl := fieldAt bs 0x31 1
  { op := t.f 0x20 1, cplx := t.f 0x21 1 == 1, steps := t.f 0x24 4, a := fieldAt bs 0 8, b := fieldAt bs 8 8, h := fieldAt bs 0x10 8
    c := fieldAt bs 0x18 8, aS := fieldAt bs 0x20 4, bS := fieldAt bs 0x24 4, hS := fieldAt bs 0x28 4, lanes := fieldAt bs 0x2C 2
    chunk := fieldAt bs 0x2E 2, in16 := bitAt fmt 0, out16 := bitAt fmt 1, carry := bitAt fl 0, final := bitAt fl 1
    conj := bitAt fl 2, split := bitAt fl 3, bZero := bitAt fl 4, aOne := bitAt fl 5 }

/-- Elements of a step's vector. -/
def ScanParam.width (p : ScanParam) : Nat := if p.cplx then 2 * p.lanes else p.lanes

/-- The operation reads a, reads b, reads the carry-in. -/
def ScanParam.usesA (p : ScanParam) : Bool := p.op == 2 || !p.aOne
def ScanParam.usesB (p : ScanParam) : Bool := p.op != 2 && !p.bZero
def ScanParam.usesC (p : ScanParam) : Bool := p.op != 1 && p.carry

/-- Bytes of one input row, of one output row, and output rows. -/
def ScanParam.inRow (p : ScanParam) : Nat := if p.op = 2 then 1536 else p.width * (if p.in16 then 2 else 4)
def ScanParam.outRow (p : ScanParam) : Nat := if p.op = 1 then 1536 else p.width * (if p.out16 then 2 else 4)
def ScanParam.outRows (p : ScanParam) : Nat := if p.op = 1 then cdiv p.steps (max p.chunk 1) else p.steps

/-- The extents an operation reads, and the one it writes. -/
def ScanParam.inExtents (p : ScanParam) : List (Nat × Nat) :=
  (if p.usesA then [(p.a, rowsExtent p.aS p.steps p.inRow)] else [])
    ++ (if p.usesB then [(p.b, rowsExtent p.bS p.steps p.inRow)] else [])
    ++ (if p.usesC then [(p.c, 768)] else [])

def ScanParam.outExtent (p : ScanParam) : Nat × Nat := (p.h, rowsExtent p.hS p.outRows p.outRow)

/-- The check of R296: the detail of the first failure. -/
def scanFault (core : Nat) (p : ScanParam) : Option Nat :=
  let off128 (x : Nat) : Bool := x % 128 != 0
  let zeroOk := p.op == 0 || p.op == 3
  let align := off128 p.h || off128 p.hS || (p.usesA && (off128 p.a || off128 p.aS || (p.aS == 0 && !zeroOk)))
    || (p.usesB && (off128 p.b || off128 p.bS || (p.bS == 0 && !zeroOk))) || (p.usesC && off128 p.c)
  let chunked := p.op == 1 || ((p.op == 0 || p.op == 3) && p.split)
  let range := !(decide (1 ≤ p.lanes ∧ p.lanes ≤ (if p.cplx then 96 else 192)))
    || (chunked && !(decide (16 ≤ p.chunk ∧ p.chunk ≤ 4096))) || decide (p.hS < p.outRow) || (p.op == 2 && decide (p.aS < 1536))
  if align || range || ((p.outExtent :: p.inExtents).any fun x => !inSpm core x.1 x.2) then some 0x0B01
  else if p.inExtents.any fun x => overlap p.outExtent.1 p.outExtent.2 x.1 x.2 then some 0x0B02
  else none

/-! ### SCAN descriptors (R293) -/

/-- Decode a row of elements. -/
def vecIn (half : Bool) (bs : List Byte) : List Nat := if half then (halves bs).map bf16to32 else (chunksOf 4 bs).map leNat

/-- Encode a row of states (R291). -/
def vecOut (half : Bool) (v : List Nat) : List Byte := v.flatMap fun x => if half then leBytes 2 (to16 x) else leBytes 4 x

/-- Read the a and b of steps, in the order given. -/
def Dev.scanSteps (d : Dev) (core ctx : Nat) (p : ScanParam) : List Nat → Dev × Except Fail (List ScanStep)
  | [] => (d, .ok [])
  | t :: ts =>
    let w := p.width
    match (if p.usesA then d.coreRead core ctx (p.a + t * p.aS) p.inRow else ⟨d, .ok []⟩) with
    | ⟨d, .error e⟩ => (d, .error e)
    | ⟨d, .ok ab⟩ =>
      match (if p.usesB then d.coreRead core ctx (p.b + t * p.bS) p.inRow else ⟨d, .ok []⟩) with
      | ⟨d, .error e⟩ => (d, .error e)
      | ⟨d, .ok bb⟩ =>
        let a := if p.usesA then vecIn p.in16 ab else onesVec p.cplx w
        let a := if p.cplx && p.conj then conjVec a else a
        let b := if p.usesB then vecIn p.in16 bb else zeroVec w
        match d.scanSteps core ctx p ts with
        | (d, .ok l) => (d, .ok ((a, b) :: l))
        | e => e

/-- Write rows (address, bytes). -/
def Dev.scanWrite (d : Dev) (core ctx : Nat) : List (Nat × List Byte) → Put
  | [] => ⟨d, none⟩
  | (a, bs) :: l =>
    match d.coreWrite core ctx a bs with
    | ⟨d, none⟩ => d.scanWrite core ctx l
    | p => p

/-- The chunks of the steps, each in the order its steps are taken. -/
def stepChunks (steps chunk : Nat) (rev : Bool) : List (List Nat) :=
  let cs := chunksOf chunk (List.range steps)
  if rev then (cs.map List.reverse).reverse else cs

/-- Run an effect for a SCAN descriptor of operation `op`: the domain is ON and its parameter block passes the check. -/
def Dev.onScan (d : Dev) (id op : Nat) (f : Td → ScanParam → Dev → Put) : Dev :=
  match d.td? id with
  | some t =>
    if t.f 0x20 1 ≠ op then d
    else
      d.onTd id [0x30] fun t d =>
        match d.unitBlocked [domSu t.core] 0x0B10 with
        | some e => d.failTd id e
        | none =>
          match d.coreRead t.core t.ctx (t.f 0x18 8) 64 with
          | ⟨d, .error e⟩ => d.failTd id e
          | ⟨d, .ok bs⟩ =>
            let p := scanParam t bs
            let d := (d.wr (Reg.SU_STATUS.OP t.core) op).wr (Reg.SU_STATUS.COMPLEX t.core) (b2n p.cplx)
            let d := (d.wr (Reg.SU_STATUS.SPLIT t.core) (b2n (p.split && op != 1 && op != 2))).wr (Reg.SU_STATUS.CTX t.core) t.ctx
            match scanFault t.core p with
            | some det => (d.inc (Reg.SU_ERR.CFG t.core)).failTd id ⟨0x02, det, 0⟩
            | none =>
              match f t p d with
              | ⟨d, some e⟩ => d.failTd id e
              | ⟨d, none⟩ => (d.incMod (Reg.SU_STEPS.COUNT t.core) p.steps).finishTd id
  | none => d

/-- The carry-in of a descriptor (R292). -/
def Dev.scanCarry (d : Dev) (core ctx : Nat) (p : ScanParam) : Dev × Except Fail (List Nat) :=
  if p.usesC then
    match d.coreRead core ctx p.c 768 with
    | ⟨d, .ok bs⟩ => (d, .ok (vecOf p.width bs))
    | ⟨d, .error e⟩ => (d, .error e)
  else (d, .ok (zeroVec p.width))

/-- The scan of R293, OP 0 and OP 3. -/
def Dev.scanStates (d : Dev) (t : Td) (p : ScanParam) (rev : Bool) : Put :=
  match d.scanCarry t.core t.ctx p with
  | (d, .error e) => ⟨d, some e⟩
  | (d, .ok h) =>
    let chunks := stepChunks p.steps (if p.split then p.chunk else p.steps) rev
    let order := chunks.flatten
    match d.scanSteps t.core t.ctx p order with
    | (d, .error e) => ⟨d, some e⟩
    | (d, .ok steps) =>
      let hs := if p.split then splitStates p.cplx p.width h (if rev then
            -- in reverse the chunk taken first may be the short one
            (let n := (chunks.headD []).length; steps.take n :: chunksOf p.chunk (steps.drop n))
          else chunksOf p.chunk steps)
        else plainStates p.cplx h steps
      let rows := (order.zip hs).map fun (t, v) => (p.h + t * p.hS, vecOut p.out16 v)
      d.scanWrite t.core t.ctx (if p.final then rows.drop (rows.length - 1) else rows)

/-- SCAN (R293, OP 0). -/
def execScan (id : Nat) (s : State) : Out := s.run fun d => d.onScan id 0 fun t p d => d.scanStates t p false

/-- REVERSE_SCAN (R293, OP 3). -/
def execReverseScan (id : Nat) (s : State) : Out := s.run fun d => d.onScan id 3 fun t p d => d.scanStates t p true

/-- Summaries of chunks from number `k` on: FLAGS bit 3 folds each chunk from its last step (R293, R294). -/
def Dev.scanSummaries (d : Dev) (t : Td) (p : ScanParam) : (k : Nat) → List (List Nat) → Put
  | _, [] => ⟨d, none⟩
  | k, c :: cs =>
    match d.scanSteps t.core t.ctx p (if p.split then c.reverse else c) with
    | (d, .error e) => ⟨d, some e⟩
    | (d, .ok steps) =>
      let (s1, s2) := (prefixes p.cplx p.width steps).getLastD (onesVec p.cplx p.width, zeroVec p.width)
      let at_ := p.h + k * p.hS
      match d.scanWrite t.core t.ctx [(at_, vecOut false s1), (at_ + 0x300, vecOut false s2)] with
      | ⟨d, some e⟩ => ⟨d, some e⟩
      | ⟨d, none⟩ => d.scanSummaries t p (k + 1) cs

/-- CHUNK_SUMMARY (R293, OP 1). -/
def execChunkSummary (id : Nat) (s : State) : Out := s.run fun d => d.onScan id 1 fun t p d =>
  d.scanSummaries t p 0 (stepChunks p.steps p.chunk false)

/-- Apply records from number `k` on to a state (R293, OP 2). -/
def Dev.scanCombine (d : Dev) (t : Td) (p : ScanParam) : (h : List Nat) → (ks : List Nat) → Put
  | _, [] => ⟨d, none⟩
  | h, k :: ks =>
    match d.coreRead t.core t.ctx (p.a + k * p.aS) 1536 with
    | ⟨d, .error e⟩ => ⟨d, some e⟩
    | ⟨d, .ok bs⟩ =>
      let h := recur p.cplx (vecOf p.width bs) h (vecOf p.width (bs.drop 0x300))
      match (if p.final && !ks.isEmpty then ⟨d, none⟩ else d.scanWrite t.core t.ctx [(p.h + k * p.hS, vecOut p.out16 h)]) with
      | ⟨d, some e⟩ => ⟨d, some e⟩
      | ⟨d, none⟩ => d.scanCombine t p h ks

/-- CARRY_COMBINE (R293, OP 2). -/
def execCarryCombine (id : Nat) (s : State) : Out := s.run fun d => d.onScan id 2 fun t p d =>
  match d.scanCarry t.core t.ctx p with
  | (d, .error e) => ⟨d, some e⟩
  | (d, .ok h) => d.scanCombine t p h (List.range p.steps)

/-! ### SCAN_RUN: operands and checks (R309, R310) -/

/-- The operands of SCAN_RUN. -/
structure RunScan where
  a      : Nat
  b      : Nat
  h      : Nat
  carry  : Nat
  map    : Nat
  epoch  : Nat
  aS     : Nat
  bS     : Nat
  hS     : Nat
  steps  : Nat
  chunk  : Nat
  lanes  : Nat
  mode   : Nat
  rev    : Bool
  conj   : Bool
  in16   : Bool
  out16  : Bool
  final  : Bool
  seg    : Nat
  segs   : Nat
  table  : Nat
  core   : Nat
  look   : Nat
  group  : Nat

def Cmd.runScan (c : Cmd) : RunScan :=
  let fl := c.par 0x45 1
  { a := c.par 0 8, b := c.par 8 8, h := c.par 0x10 8, carry := c.par 0x18 8, map := c.par 0x20 8, epoch := c.par 0x28 8
    aS := c.par 0x30 4, bS := c.par 0x34 4, hS := c.par 0x38 4, steps := c.par 0x3C 4, chunk := c.par 0x40 2, lanes := c.par 0x42 2
    mode := c.par 0x44 1, rev := bitAt fl 0, conj := bitAt fl 1, in16 := bitAt fl 2, out16 := bitAt fl 3, final := bitAt fl 4
    seg := c.par 0x46 1, segs := c.par 0x47 1, table := c.par 0x48 1, core := c.par 0x49 1
    look := if c.par 0x4A 2 = 0 then 64 else c.par 0x4A 2, group := c.par 0x4E 2 }

def RunScan.cplx (x : RunScan) : Bool := x.mode == 1
def RunScan.width (x : RunScan) : Nat := if x.cplx then 2 * x.lanes else x.lanes
def RunScan.chunks (x : RunScan) : Nat := cdiv x.steps (max x.chunk 1)
/-- Bytes of a row of b, of a (MODE 2: of the group decays), of a state. -/
def RunScan.bRow (x : RunScan) : Nat := x.width * (if x.in16 then 2 else 4)
def RunScan.aRow (x : RunScan) : Nat := if x.mode = 2 then 4 * (x.lanes / max x.group 1) else x.bRow
def RunScan.hRow (x : RunScan) : Nat := x.width * (if x.out16 then 2 else 4)

/-- The cores a SCAN_RUN may use: 3 both, 2 either. -/
def scanCores (core : Nat) : List Nat := if core < 2 then [core] else [0, 1]

/-- Entry `i` of a segment map. -/
def segOf (bs : List Byte) (i : Nat) : Segment :=
  let o := 32 * i
  { dev := fieldAt bs o 2 % 4096, ctx := fieldAt bs (o + 2) 1 % 16, home := fieldAt bs (o + 4) 2 % 4096
    mirror := fieldAt bs (o + 6) 2 % 4096, first := fieldAt bs (o + 8) 4, chunks := fieldAt bs (o + 12) 4 }

def segsOf (bs : List Byte) (n : Nat) : List Segment := (List.range n).map (segOf bs)

/-- Each entry starts where the one before ends, the first at chunk 0, with 1-4,096 chunks. -/
def segsChain : (at_ : Nat) → List Segment → Bool
  | _, [] => true
  | k, g :: l => g.first == k && decide (1 ≤ g.chunks ∧ g.chunks ≤ 4096) && segsChain (k + g.chunks) l

/-- A walk from chunks [lo, hi) can reach a segment within LOOKBACK chunks. -/
def segReachable (x : RunScan) (own g : Segment) : Bool :=
  if x.rev then decide (own.first + own.chunks ≤ g.first) && decide (g.first < own.first + own.chunks + x.look)
  else decide (g.first + g.chunks ≤ own.first) && decide (own.first < g.first + g.chunks + x.look)

/-- SEG_MAP (R310). -/
def Dev.segMapBad (d : Dev) (ctx : Nat) (x : RunScan) (l : List Segment) : Bool :=
  let me := d.rd Reg.FAB_ID.DEVICE_ID
  match l[x.seg]? with
  | none => true
  | some own =>
    let named (g : Segment) : Bool :=
      if g.dev = me then g.mirror == g.home
      else d.soKind g.mirror == 3 && d.rd (Reg.SO_CFG.HOME_DEV g.mirror) == g.dev && d.rd (Reg.SO_CFG.ARG g.mirror) == g.home
    !segsChain 0 l || own.dev != me || own.chunks != x.chunks || !d.soAllowed ctx own.home
      || l.any fun g => segReachable x own g && !named g

/-- The map's bytes, as CP0 reads them at the check. -/
def Dev.scanMap (d : Dev) (x : RunScan) : List Byte := d.peek x.map (32 * x.segs)

/-- The parameter checks of SCAN_RUN (R309, R310). -/
def Dev.scanRunParams (d : Dev) (c : Cmd) : List PChk :=
  let x := c.runScan
  let sh (bad : Bool) (off : Nat) : PChk := pchk bad 0x0B03 off
  let place (a : Nat) : Bool := match d.region a with
    | .hbm | .reserved | .spm _ => false
    | _ => true
  let cols := (scanCores x.core).foldl (fun m k => min m (d.rd (Reg.ARR_COLS.COLS k))) 192
  let spm := (x.chunk * 6144 + 0x40000 + 0xFFFF) / 0x10000 * 0x10000
  let okMap := !(decide (2 ^ 48 ≤ x.map)) && !place x.map && decide (1 ≤ x.segs ∧ x.segs ≤ 64)
  let segs := if okMap then segsOf (d.scanMap x) x.segs else []
  let routed (g : Segment) : Bool := g.dev == d.rd Reg.FAB_ID.DEVICE_ID || (match kvGet g.dev d.fab.routes with
    | some (_, v) => v
    | none => false)
  [paddr c 0x00, sh (place x.a) 0x00, paddr c 0x08, paddr c 0x10, paddr c 0x18, paddr c 0x20, sh (place x.map) 0x20,
    sh (x.steps == 0 || decide (4096 * x.chunk < x.steps) || (x.seg + 1 != x.segs && x.steps % max x.chunk 1 != 0)) 0x3C,
    sh (if x.mode = 2 then !(decide (16 ≤ x.chunk ∧ x.chunk ≤ 192)) || x.chunk % 16 != 0
        else !(decide (16 ≤ x.chunk ∧ x.chunk ≤ 4096))) 0x40,
    sh (!(decide (1 ≤ x.lanes ∧ x.lanes ≤ (if x.cplx then 96 else 192)))) 0x42, sh (decide (2 < x.mode)) 0x44]
  ++ [sh (decide (x.segs ≤ x.seg)) 0x46, sh (!(decide (1 ≤ x.segs ∧ x.segs ≤ 64))) 0x47, sh (decide (15 < x.table)) 0x48,
    sh (decide (3 < x.core)) 0x49, sh (decide (4096 < x.look)) 0x4A,
    sh (x.mode == 2 && (!(decide (8 ≤ x.group ∧ x.group ≤ cols)) || x.group % 8 != 0 || x.lanes % max x.group 1 != 0)) 0x4E,
    sh (c.par 0x50 4 % 65536 != 0) 0x50, sh (c.par 0x54 4 % 65536 != 0) 0x54, pchk (decide (c.par 0x54 4 < spm)) 0x0B05 0x54,
    pchk (okMap && d.segMapBad c.ctx x segs) 0x0B04 0x20,
    ⟨okMap && segs.any fun g => !routed g, failNoRoute.major, failNoRoute.detail, 0x20⟩]

/-- The address ranges of SCAN_RUN. -/
def scanRunRanges (c : Cmd) : List (Bool × Nat × Nat) :=
  let x := c.runScan
  rowRanges false x.a x.aS x.steps x.aRow ++ rowRanges false x.b x.bS x.steps x.bRow ++ rowRanges true x.h x.hS x.steps x.hRow
    ++ (if x.carry = 0 then [] else [(false, x.carry, 768)]) ++ [(false, x.map, 32 * x.segs)]
    ++ (scanCores x.core).map fun k => (true, spmBase k + c.par 0x50 4, c.par 0x54 4)

/-! ### The work of one chunk (R295, R298, R311) -/

/-- Read rows by a porter of the core. -/
def Dev.scanRows (d : Dev) (core ctx a stride n : Nat) (ts : List Nat) : Dev × Except Fail (List (List Byte)) :=
  d.readAll (byPorter (8 * core)) ctx (ts.map fun t => (a + t * stride, n))

/-- Λ, E and Hl of one group over a chunk (R298): log-decays and the group's rows of b, in the order the steps are taken. -/
def twoSpeedGroup (gs : List Nat) (bs : List (List Nat)) : List (Nat × List Nat) :=
  let exp0 := sfuEval (vendorTable 0)
  let lam := (plainStates false [0] (gs.map fun g => ([one32], [g]))).map fun v => v.headD 0
  let n := lam.length
  let cols := (bs.headD []).length
  (List.range n).map fun t =>
    let dec (s : Nat) : Nat :=
      if s ≤ t then bf16to32 (to16 (exp0 (sub32 (lam.getD t 0) (lam.getD s 0)))) else 0
    let col (j : Nat) : Nat := columnSum 0 (columnTerms 0 n (fun s => dec s / 65536) fun s => to16 ((bs.getD s []).getD j 0))
    (exp0 (lam.getD t 0), (List.range cols).map col)

/-- The prefix pairs of a chunk in any mode: h(t) = apply of the pair at t (R295, R298). -/
def runPrefixes (x : RunScan) (as bs : List (List Byte)) : List (List Nat × List Nat) :=
  let bv := bs.map (vecIn x.in16)
  if x.mode = 2 then
    let gs := as.map fun r => (chunksOf 4 r).map leNat
    let groups := (List.range (x.lanes / max x.group 1)).map fun q =>
      twoSpeedGroup (gs.map fun g => g.getD q 0) (bv.map fun b => (b.drop (q * x.group)).take x.group)
    (List.range bs.length).map fun t =>
      (groups.flatMap fun g => let e := g.getD t (0, []); List.replicate e.2.length e.1, groups.flatMap fun g => (g.getD t (0, [])).2)
  else
    let av := as.map fun r => let v := vecIn x.in16 r; if x.cplx && x.conj then conjVec v else v
    prefixes x.cplx x.width (av.zip bv)

/-- The steps of chunk `i` of the segment, in the order they are taken. -/
def RunScan.chunkSteps (x : RunScan) (i : Nat) : List Nat :=
  let l := rangeFrom (i * x.chunk) (min x.steps ((i + 1) * x.chunk))
  if x.rev then l.reverse else l

/-- Read a chunk and form its prefix pairs. -/
def Dev.chunkPrefixes (d : Dev) (core ctx : Nat) (x : RunScan) (i : Nat) : Dev × Except Fail (List (List Nat × List Nat)) :=
  let ts := x.chunkSteps i
  match d.scanRows core ctx x.a x.aS x.aRow ts with
  | (d, .error e) => (d, .error e)
  | (d, .ok as) =>
    match d.scanRows core ctx x.b x.bS x.bRow ts with
    | (d, .error e) => (d, .error e)
    | (d, .ok bs) => (d, .ok (runPrefixes x as bs))

/-! ### Carry tables (R301-R304) -/

def entry0 : CarryEntry := { state := 0, form := 0, lanes := 0, steps := 0, reason := 0, p := [], q := [], h := [] }

/-- Entry of a chunk in a slot; INCOMPLETE when nothing has been written. -/
def Dev.carryEntry (d : Dev) (slot k : Nat) : CarryEntry :=
  match kvGet slot d.carry with
  | some s => (kvGet k s.entries).getD entry0
  | none => entry0

def Dev.setEntry (d : Dev) (slot k : Nat) (e : CarryEntry) : Dev :=
  match kvGet slot d.carry with
  | some s => { d with carry := kvPut slot { s with entries := kvPut k e s.entries } d.carry }
  | none => d

/-- Unbind a slot. -/
def Dev.unbindCarry (d : Dev) (slot : Nat) : Dev := ({ d with carry := kvDel slot d.carry } : Dev).setReg (Reg.CARRY_SLOT.BOUND slot).reg 0

/-- The segment of a run that holds a chunk. -/
def ScanRun.segAt (r : ScanRun) (k : Nat) : Option Segment := r.segs.find? fun g => decide (g.first ≤ k) && decide (k < g.first + g.chunks)

/-- Chunks of the whole sequence. -/
def ScanRun.total (r : ScanRun) : Nat := (r.segs.map fun g => g.chunks).sum

/-- This device's segment. -/
def ScanRun.own (r : ScanRun) (x : RunScan) : Segment := r.segs.getD x.seg ⟨0, 0, 0, 0, 0, 0⟩

/-- The chunk whose carry-in the command gives (R305). -/
def ScanRun.firstChunk (r : ScanRun) (x : RunScan) : Nat := if x.rev then r.total - 1 else 0

/-- Chunks of a range in processing order. -/
def chunkOrder (rev : Bool) (lo hi : Nat) : List Nat := if rev then (rangeFrom lo hi).reverse else rangeFrom lo hi

/-- The chunk processed before `k`. -/
def prevChunk (rev : Bool) (k : Nat) : Nat := if rev then k + 1 else k - 1

/-- Publish a number of state changes on the segment SO (R303). -/
def Dev.publish (d : Dev) (ctx home n : Nat) : Dev := if n = 0 then d else (d.soOp .none ctx home false n).dev

def Dev.scan? (d : Dev) (slot : Nat) : Option ScanRun := kvGet slot d.scans
def Dev.setScan (d : Dev) (slot : Nat) (r : ScanRun) : Dev := { d with scans := kvPut slot r d.scans }

/-- The share at an index replaced. -/
def ScanRun.setShare (r : ScanRun) (i : Nat) (s : ScanShare) : ScanRun := { r with shares := r.shares.set i s }

/-- Mark entries FAILED that are neither INCLUSIVE nor FAILED: registers, and the segment SO (R302, R305, R307). -/
def Dev.markFailed (d : Dev) (c : Cmd) (home reason : Nat) (ks : List Nat) : Dev :=
  let x := c.runScan
  let ks := ks.filter fun k => (d.carryEntry x.table k).state < 2
  let d := d.forEach ks fun k d =>
    let e := d.carryEntry x.table k
    let d := d.setEntry x.table k { e with state := 3, reason := reason }
    ((d.inc Reg.CARRY_FAILS.COUNT).wr Reg.CARRY_LAST_FAIL.CHUNK k).wr Reg.CARRY_LAST_FAIL.REASON reason
  d.publish c.ctx home ks.length

/-- fail(k, reason) of R305: the command ends with a failure. `dev` holds the entry the walk waited on or found FAILED. -/
def Dev.scanFail (d : Dev) (c : Cmd) (r : ScanRun) (k reason dev : Nat) (f : Fail) : Dev :=
  let x := c.runScan
  let own := r.own x
  let ks := chunkOrder x.rev own.first (own.first + own.chunks)
  let d := d.markFailed c own.home reason (ks.dropWhile fun j => j != k)
  (d.wr Reg.CARRY_LAST_FAIL.DEV dev).failStaged c.slot f

/-- The SCAN_RUN ends: unless it ended OK, entries that are not INCLUSIVE turn FAILED (R307); its slot is no longer running. -/
def Dev.scanClose (d : Dev) (c : Cmd) (ok : Bool) : Dev :=
  match d.scan? c.slot with
  | none => d
  | some r =>
    let x := c.runScan
    let own := r.own x
    let d := if ok then d else d.markFailed c own.home 3 (chunkOrder x.rev own.first (own.first + own.chunks))
    let d := { d with scans := kvDel c.slot d.scans }
    let d := { d with fab := { d.fab with txns := d.fab.txns.filter fun t => t.who != .carry (2 * c.slot) && t.who != .carry (2 * c.slot + 1) } }
    let other := d.cp0.cmds.any fun y => y.slot != c.slot && (d.scan? y.slot).isSome && y.runScan.table == x.table
    if other then d else d.wr (Reg.CARRY_SLOT.RUNNING x.table) 0

/-- Bind the slot of a SCAN_RUN (R301); `false` when it is busy. -/
def Dev.bindCarry (d : Dev) (c : Cmd) (entries : Nat) : Dev × Bool :=
  let x := c.runScan
  let t := x.table
  let fresh (d : Dev) : Dev :=
    let d := { d with carry := kvPut t ⟨c.ctx, x.epoch, []⟩ d.carry }
    d.setReg (Reg.CARRY_SLOT.BOUND t).reg (3 + c.ctx * 16 + min entries 4096 * 256 + x.epoch % 2 ^ 32 * 2 ^ 32)
  match kvGet t d.carry with
  | none => (fresh d, true)
  | some s =>
    if s.ctx = c.ctx ∧ s.epoch = x.epoch then (d.wr (Reg.CARRY_SLOT.RUNNING t) 1, true)
    else if d.on (Reg.CARRY_SLOT.RUNNING t) then (d, false)
    else (fresh d, true)

/-- An entry's bytes 0x000-0x93F (R301). -/
def entryBytes (e : CarryEntry) (k epoch : Nat) : List Byte :=
  leBytes 1 e.state ++ leBytes 1 e.form ++ leBytes 2 e.lanes ++ leBytes 4 k ++ leBytes 8 epoch ++ leBytes 4 e.steps
    ++ leBytes 1 e.reason ++ zeros 43 ++ vec768 e.p ++ vec768 e.q ++ vec768 e.h

/-- How many of its bytes a CARRY_DATA carries (15 R400). -/
def entryLen (state : Nat) : Nat := if state = 2 then 0x940 else if state = 1 then 0x640 else 0x40

/-- An entry read back from a CARRY_DATA. -/
def entryOf (w : Nat) (bs : List Byte) : CarryEntry :=
  { state := fieldAt bs 0 1, form := fieldAt bs 1 1, lanes := fieldAt bs 2 2, steps := fieldAt bs 0x10 4, reason := fieldAt bs 0x14 1
    p := vecOf w (bs.drop 0x40), q := vecOf w (bs.drop 0x340), h := vecOf w (bs.drop 0x640) }

/-! ### Look-back (R305) -/

/-- Phase 2 of a share with the carry of its first chunk known: the chain over its summaries, all entries INCLUSIVE, published
in one batch (R311). -/
def Dev.finishCarry (d : Dev) (c : Cmd) (r : ScanRun) (i : Nat) (s : ScanShare) (h0 : List Nat) : Dev :=
  let x := c.runScan
  let step (acc : Dev × List Nat × Nat) (k : Nat) : Dev × List Nat × Nat :=
    let (d, h, n) := acc
    let e := d.carryEntry x.table k
    if e.state = 2 then (d, e.h, n)
    else
      let h := recur x.cplx e.p h e.q
      (d.setEntry x.table k { e with state := 2, h := h }, h, n + 1)
  let (d, _, n) := (chunkOrder x.rev s.lo s.hi).foldl step (d, h0, 0)
  let d := d.publish c.ctx (r.own x).home n
  d.setScan c.slot (r.setShare i { s with phase := 3, pos := 0, h0 := h0, walk := none })

/-- One reading of the walk (R305): entry `e` of chunk `w.j`; `none` when the walk has ended or waits. -/
def Dev.walkEntry (d : Dev) (c : Cmd) (r : ScanRun) (i : Nat) (s : ScanShare) (w : Walk) (e : CarryEntry) : Dev × Option (ScanRun × ScanShare × Walk) :=
  let x := c.runScan
  let k := (chunkOrder x.rev s.lo s.hi).headD 0
  let dist := if x.rev then w.j - k else k - w.j
  let dev := match r.segAt w.j with
    | some g => g.dev
    | none => 0
  if e.state = 3 then (d.scanFail c r k 2 dev ⟨0x0E, 0x0B21, 0⟩, none)
  else if e.state = 2 then
    (d.finishCarry c r i s (w.pending.foldl (fun h (p, q) => recur x.cplx p h q) e.h), none)
  else if e.state = 1 ∧ dist < x.look then
    let w := { w with pending := (e.p, e.q) :: w.pending, j := prevChunk x.rev w.j, asked := false, waiting := false }
    let s := { s with walk := some w }
    let r := r.setShare i s
    (d.setScan c.slot r, some (r, s, w))
  else
    let s := { s with walk := some { w with asked := false, waiting := true } }
    ((d.setScan c.slot (r.setShare i s)).incMod Reg.CARRY_WAITS.COUNT, none)

/-- Walk on: read entries of this device, send a carry read for an entry of another (R304, R305); `fuel` bounds the walk. -/
def Dev.walkRun (d : Dev) (c : Cmd) (r : ScanRun) (i : Nat) (s : ScanShare) (w : Walk) : (fuel : Nat) → Dev
  | 0 => d
  | n + 1 =>
    let x := c.runScan
    match r.segAt w.j with
    | none => d
    | some g =>
      let w := { w with seen := d.soValue g.mirror, waiting := false }
      if g.dev = d.rd Reg.FAB_ID.DEVICE_ID then
        match d.walkEntry c r i s w (d.carryEntry x.table w.j) with
        | (d, none) => d
        | (d, some (r, s, w)) => d.walkRun c r i s w n
      else
        let k := { d.newPkt ptCarryRead g.dev g.ctx c.ctx x.table with
          arg := w.j, data := leBytes 8 x.epoch ++ leBytes 2 1 ++ zeros 6 }
        match d.request k (.carry (2 * c.slot + i)) c.ctx 0 0 0 with
        | (d, none) =>
          d.scanFail c r ((chunkOrder x.rev s.lo s.hi).headD 0) 3 g.dev failNoRoute
        | (d, some _) => d.setScan c.slot (r.setShare i { s with walk := some { w with asked := true } })

/-- A walk's fuel: the chunks of the sequence. -/
def walkFuel (r : ScanRun) : Nat := r.total + 1

/-- The carry-in of the sequence's first chunk (R309). -/
def Dev.carryIn (d : Dev) (core ctx : Nat) (x : RunScan) : Dev × Except Fail (List Nat) :=
  if x.carry = 0 then (d, .ok (zeroVec x.width))
  else match d.read (byPorter (8 * core)) ctx x.carry 768 with
    | ⟨d, .ok bs⟩ => (d, .ok (vecOf x.width bs))
    | ⟨d, .error e⟩ => (d, .error e)

/-! ### The stages (R311) -/

/-- The units a share needs: the SU, and for MODE 2 the VE, the SFU and the array; the porters that stage its inputs. -/
def Dev.scanRefusal (d : Dev) (core mode : Nat) : Option Fail :=
  match d.unitBlocked [domSu core] 0x0B10 with
  | some e => some e
  | none =>
    match (if mode = 2 then d.arrRefusal core else none) with
    | some e => some e
    | none =>
      match (if mode = 2 then d.unitBlocked [domVe core, domSfu core] 0x0913 else none) with
      | some e => some e
      | none => d.unitBlocked [domPorters core] 0x0D21

/-- Phase 1 of one chunk: its summary, published AGGREGATE, or INCLUSIVE for the sequence's first chunk. -/
def Dev.scanSummary (d : Dev) (c : Cmd) (r : ScanRun) (i : Nat) (s : ScanShare) : Dev :=
  let x := c.runScan
  let own := r.own x
  let k := (chunkOrder x.rev s.lo s.hi).getD s.pos 0
  let next (d : Dev) : Dev :=
    let pos := s.pos + 1
    let s := if pos = s.hi - s.lo then { s with phase := 2, pos := 0 } else { s with pos := pos }
    d.setScan c.slot (r.setShare i s)
  let e := d.carryEntry x.table k
  if e.state = 3 then d.scanFail c r k 2 own.dev ⟨0x0E, 0x0B21, 0⟩
  else
    match d.chunkPrefixes s.core c.ctx x (k - own.first) with
    | (d, .error f) => d.failStaged c.slot f
    | (d, .ok ps) =>
      let (p, q) := ps.getLastD ([], [])
      let e' : CarryEntry := { state := 1, form := b2n x.cplx + 2 * b2n (x.mode == 2), lanes := x.lanes, steps := (x.chunkSteps (k - own.first)).length
                               reason := 0, p := p, q := q, h := [] }
      let d := d.incMod (Reg.SU_STEPS.COUNT s.core) e'.steps
      if e.state ≠ 0 then next d
      else if k = r.firstChunk x then
        match d.carryIn s.core c.ctx x with
        | (d, .error f) => d.failStaged c.slot f
        | (d, .ok h) => next ((d.setEntry x.table k { e' with state := 2, h := recur x.cplx p h q }).publish c.ctx own.home 1)
      else next ((d.setEntry x.table k e').publish c.ctx own.home 1)

/-- Phase 3 of one chunk: its states from its carry; FINAL_ONLY writes the last state of the segment alone. -/
def Dev.scanOutputs (d : Dev) (c : Cmd) (r : ScanRun) (i : Nat) (s : ScanShare) : Dev :=
  let x := c.runScan
  let own := r.own x
  let order := chunkOrder x.rev s.lo s.hi
  let k := order.getD s.pos 0
  let h := if s.pos = 0 then s.h0 else (d.carryEntry x.table (prevChunk x.rev k)).h
  match d.chunkPrefixes s.core c.ctx x (k - own.first) with
  | (d, .error f) => d.failStaged c.slot f
  | (d, .ok ps) =>
    let rows := ((x.chunkSteps (k - own.first)).zip (chunkStates x.cplx h ps)).map fun (t, v) =>
      (x.h + t * x.hS, vecOut x.out16 v)
    let lastOf := (chunkOrder x.rev own.first (own.first + own.chunks)).getLastD 0
    let rows := if x.final then (if k = lastOf then rows.drop (rows.length - 1) else []) else rows
    match d.writeAll (byPorter (8 * s.core)) c.ctx rows with
    | ⟨d, some f⟩ => d.failStaged c.slot f
    | ⟨d, none⟩ =>
      let d := d.incMod (Reg.SU_STEPS.COUNT s.core) (x.chunkSteps (k - own.first)).length
      let pos := s.pos + 1
      let s := if pos = s.hi - s.lo then { s with phase := 4, pos := 0 } else { s with pos := pos }
      let d := (d.setScan c.slot (r.setShare i s)).pieceDone c.slot
      match d.cmd? c.slot with
      | some c => if c.done = c.total then d.okCmd c.slot c.progress else d
      | none => d

/-- One stage of a share. -/
def Dev.scanStage (d : Dev) (c : Cmd) (r : ScanRun) (i : Nat) (s : ScanShare) : Dev :=
  let x := c.runScan
  match d.scanRefusal s.core x.mode with
  | some e => d.failStaged c.slot e
  | none =>
    match d.writeFree (byPorter (8 * s.core)) c.ctx (spmBase s.core + c.par 0x50 4) (c.par 0x54 4) with
    | ⟨d, some e⟩ => d.failStaged c.slot e
    | ⟨d, none⟩ =>
      match s.phase with
      | 1 => d.scanSummary c r i s
      | 2 =>
        let k := (chunkOrder x.rev s.lo s.hi).headD 0
        if k = r.firstChunk x then
          match d.carryIn s.core c.ctx x with
          | (d, .error f) => d.failStaged c.slot f
          | (d, .ok h) => d.finishCarry c r i s h
        else d.walkRun c r i s ⟨prevChunk x.rev k, [], 0, false, false⟩ (walkFuel r)
      | _ => d.scanOutputs c r i s

/-- The shares of a run: one, or with CORE = 3 the first half of the chunks for SC0 and the second for SC1 (R300). -/
def scanShares (own : Segment) (core : Nat) (both : Bool) : List ScanShare :=
  let sh (k lo hi : Nat) : ScanShare := ⟨k, lo, hi, 1, 0, [], none⟩
  let mid := own.first + cdiv own.chunks 2
  if both && decide (1 < own.chunks) then [sh 0 own.first mid, sh 1 mid (own.first + own.chunks)]
  else [sh core own.first (own.first + own.chunks)]

/-- SCAN_RUN (R311): the first command binds the slot and snapshots the map; each later one runs the next stage of the first
share that neither waits nor is asked to park. -/
def execScanRun (slot : Nat) (s : State) : Out := s.run fun d => d.onRoutine slot 0x0303 fun c d =>
  let x := c.runScan
  match d.scan? slot with
  | none =>
    match d.readAll byCp c.ctx [(x.map, 32 * x.segs)] with
    | (d, .error e) => d.endCmd slot e.major e.detail 0
    | (d, .ok bs) =>
      let segs := segsOf (bs.headD []) x.segs
      match d.bindCarry c x.chunks with
      | (d, false) => d.endCmd slot 0x04 0x0B11 0
      | (d, true) =>
        let own := segs.getD x.seg ⟨0, 0, 0, 0, 0, 0⟩
        let core := d.pickCore x.core
        let shares := scanShares own (if x.core = 3 then 0 else core) (x.core == 3)
        let d := (d.assign slot (shares.map fun s => s.core)).updCmd slot fun c => { c with total := x.chunks }
        d.setScan slot ⟨segs, shares⟩
  | some r =>
    let free (s : ScanShare) : Bool := decide (s.phase ≤ 3) && s.walk.isNone && !c.preempt.contains s.core
      && !c.suspended.contains s.core && (x.mode != 2 || (d.arrOf s.core).owner.isNone)
    match r.shares.findIdx? free with
    | some i =>
      match r.shares[i]? with
      | some sh => d.scanStage c r i sh
      | none => d
    | none => d

/-- Run an effect on the waiting walk of a share of a SCAN_RUN. -/
def Dev.onWalk (d : Dev) (slot share : Nat) (f : Cmd → ScanRun → ScanShare → Walk → Dev → Dev) : Dev :=
  match d.cmd? slot, d.scan? slot with
  | some c, some r =>
    match r.shares[share]? with
    | some s =>
      match s.walk with
      | some w => if d.live && c.phase == .running && c.fin.isNone && c.stop.isNone then f c r s w d else d
      | none => d
    | none => d
  | _, _ => d

/-- The segment SO a walk waits on. -/
def walkSo (r : ScanRun) (w : Walk) : Nat :=
  match r.segAt w.j with
  | some g => g.mirror
  | none => 0

/-- A walk gives up: TIMEOUT, CARRY_TIMEOUT (R307). -/
def Dev.walkTimeout (d : Dev) (c : Cmd) (r : ScanRun) (s : ScanShare) (w : Walk) : Dev :=
  let dev := match r.segAt w.j with
    | some g => g.dev
    | none => 0
  d.scanFail c r ((chunkOrder c.runScan.rev s.lo s.hi).headD 0) 1 dev ⟨0x05, 0x0B20, 0⟩

/-- LOOKBACK_STEP (R305): the segment SO has moved past the value the walk saw, and the walk goes on; a mirror that has turned
STALE counts as a carry timeout. -/
def execLookbackStep (slot share : Nat) (s : State) : Out := s.run fun d => d.onWalk slot share fun c r sh w d =>
  let so := walkSo r w
  if d.soKind so = 3 ∧ d.soStale so then d.walkTimeout c r sh w
  else if w.waiting && decide (w.seen + 1 ≤ d.soValue so) then d.walkRun c r share sh w (walkFuel r)
  else d

/-- CARRY_TIMEOUT (R307): a wait, or a carry read, has taken CARRY_TIMEOUT_MS. -/
def execCarryTimeout (slot share : Nat) (s : State) : Out := s.run fun d => d.onWalk slot share fun c r sh w d =>
  if w.waiting || w.asked then d.walkTimeout c r sh w else d

/-! ### Carry reads over the fabric (R304) -/

/-- CARRY_READ (R304): the owner answers one CARRY_DATA per chunk, or refuses. -/
def execCarryRead (s : State) : Out := s.run fun d => d.onPkt ptCarryRead fun k d =>
  let slot := k.addr % 16
  let epoch := fieldAt k.data 0 8
  let n := fieldAt k.data 8 2
  if k.data.length ≠ 16 ∨ !(decide (1 ≤ n ∧ n ≤ 64)) then d.dropPkt
  else
    let foreign := match kvGet slot d.carry with
      | some s => s.ctx != k.dctx
      | none => false
    if !d.on (Reg.CTX_FAB.ACCEPT k.dctx) || foreign then
      let det := if !d.on (Reg.CTX_FAB.ACCEPT k.dctx) then 0x0308 else 0x0304
      ((d.inc Reg.CARRY_FAILS.REFUSED).violation k.dctx byFabric (k.addr % 2 ^ 48) det).ackPkt k 1
    else
      let d := d.incMod Reg.CARRY_READS.COUNT
      d.forEach (List.range n) fun i d =>
        let j := k.arg + i
        let e := match kvGet slot d.carry with
          | some s => if s.epoch = epoch then d.carryEntry slot j else entry0
          | none => entry0
        (d.sendPkt { k with typ := ptCarryData, adaptive := false, dst := k.src, src := d.rd Reg.FAB_ID.DEVICE_ID, dctx := k.sctx
                            sctx := k.dctx, hops := 0, status := 0, arg := j, data := (entryBytes e j epoch).take (entryLen e.state) }).1

/-- CARRY_DATA (R304, R305): an entry arrives for a walk that asked for it. -/
def execCarryData (s : State) : Out := s.run fun d => d.onPkt ptCarryData fun k d =>
  match d.fab.txns.find? fun t => t.tag == k.tag && t.typ == ptCarryRead with
  | none => (d.inc Reg.FAB_LATE_RSP.COUNT).occur clsDropped
  | some t =>
    let d := { d with fab := { d.fab with txns := d.fab.txns.filter fun u => u.tag != k.tag } }
    match t.who with
    | .carry id => d.onWalk (id / 2) (id % 2) fun c r sh w d =>
        if w.asked && w.j == k.arg then
          match d.walkEntry c r (id % 2) sh w (entryOf c.runScan.width k.data) with
          | (d, none) => d
          | (d, some (r, sh, w)) => d.walkRun c r (id % 2) sh w (walkFuel r)
        else d
    | _ => d

/-- A carry read is answered with a failure (R304, R307; 15 R407). -/
def Dev.carryRefused (d : Dev) (id : Nat) (f : Fail) : Dev := d.onWalk (id / 2) (id % 2) fun c r sh w d =>
  let dev := match r.segAt w.j with
    | some g => g.dev
    | none => 0
  d.scanFail c r ((chunkOrder c.runScan.rev sh.lo sh.hi).headD 0) (if f.major = 0x10 then 4 else 3) dev f

end Sys2Proof.Machine
end

