-- ==== Sys2Proof/Machine/WayBase.lean ====
section
/-!
DEFINITION. Waystation transfers (17 R466–R468): slot headers, the pieces of a checkpoint or a restore, their end.
-/
namespace Sys2Proof.Machine

/-! ### Slot headers (R466) -/

def wsEmpty : Nat := 0
def wsWriting : Nat := 1
def wsValid : Nat := 2

/-- The body follows the header at this offset (R466). -/
def wayBodyOff : Nat := 0x1000

/-- The 256 bytes of a slot header. -/
def WayHead.bytes (h : WayHead) : List Byte :=
  let b := leBytes 1 h.state ++ leBytes 1 h.kind ++ leBytes 2 h.owner ++ leBytes 4 h.seq ++ leBytes 8 h.epoch ++ leBytes 4 h.step
    ++ leBytes 1 h.scaleE ++ leBytes 1 h.cur ++ leBytes 2 h.entries ++ leBytes 8 h.body ++ h.ledger ++ leBytes 8 h.shardCrc
    ++ leBytes 8 h.roomsCrc ++ leBytes 8 h.shardOff ++ leBytes 8 h.recordsOff ++ leBytes 8 h.roomsOff ++ zeros 112
  b ++ leBytes 8 (crc64 b)

/-- A slot header from its bytes, when its CRC matches. -/
def wayHeadOf (b : List Byte) : Option WayHead :=
  if b.length = 256 ∧ fieldAt b 0xF8 8 = crc64 (b.take 0xF8) then
    let f (o l : Nat) : Nat := fieldAt b o l
    some { state := f 0 1, kind := f 1 1, owner := f 2 2 % 4096, seq := f 4 4, epoch := f 8 8, step := f 0x10 4, scaleE := f 0x14 1
           cur := f 0x15 1, entries := f 0x16 2, body := f 0x18 8, ledger := (b.drop 0x20).take 64, shardCrc := f 0x60 8
           roomsCrc := f 0x68 8, shardOff := f 0x70 8, recordsOff := f 0x78 8, roomsOff := f 0x80 8 }
  else none

/-- Where hosted slot `k` lies: in the waystation part of the device-reserved region, behind the Inn's (R465;
DESIGN CHOICE, notes/assumptions/27.md). -/
def Dev.waySlot (d : Dev) (k : Nat) : Nat :=
  (d.rd Reg.INN_BACKING.BASE + d.rd Reg.INN_BACKING.SIZE + k * d.way.slotGib) * gib

/-- GiB of the waystation part: what the reserved region holds beside the Inn's backing and 2 GiB (20 R538). -/
def Dev.wayGib (d : Dev) : Nat := 36 * d.stacks - d.rd Reg.MEM_RESV_BASE.BASE - d.rd Reg.INN_BACKING.SIZE - 2

/-- The header of hosted slot `k`, when its CRC matches. -/
def Dev.hostedHead (d : Dev) (k : Nat) : Option WayHead := wayHeadOf (d.peek (d.waySlot k) 256)

/-- The state of hosted slot `k`: VALID only with a matching CRC (R467). -/
def Dev.hostedState (d : Dev) (k : Nat) : Nat :=
  match d.hostedHead k with
  | some h => min h.state wsValid
  | none => if d.peekNat (d.waySlot k) 1 = 0 then wsEmpty else wsWriting

/-! ### Status (R478) -/

/-- The newest VALID checkpoint on the partner: its slot and step counter. -/
def Dev.newestSent (d : Dev) : Option (Nat × WaySent) :=
  (d.way.sent.filter fun x => x.2.valid).foldl (fun b x => match b with
    | some y => if y.2.seq < x.2.seq then some x else b
    | none => some x) none

/-- LEDG_WAY_STATUS and LEDG_WAY_STEP follow the waystation. -/
def Dev.wayShow (d : Dev) : Dev :=
  let w := d.way
  let st (k : Nat) : Nat := if w.host then d.hostedState k else 0
  let bound := w.sender.isSome || w.accept.isSome
  let d := d.wr Reg.LEDG_WAY_STATUS.PARTNER (if bound then w.partner else if w.host then w.hostDev else 0)
  let d := (d.wr Reg.LEDG_WAY_STATUS.SENDER (b2n w.sender.isSome)).wr Reg.LEDG_WAY_STATUS.HOST (b2n w.host)
  let d := (d.wr Reg.LEDG_WAY_STATUS.SLOT0 (st 0)).wr Reg.LEDG_WAY_STATUS.SLOT1 (st 1)
  let d := d.wr Reg.LEDG_WAY_STATUS.BUSY (b2n (w.job.isSome || w.rjob.isSome || (w.accept.isSome && w.head.isSome)))
  d.wr Reg.LEDG_WAY_STEP.STEP (match d.newestSent with
    | some (_, x) => x.step
    | none => 0)

/-! ### A transfer -/

def Dev.wayJob (d : Dev) (restore : Bool) : Option WayJob := if restore then d.way.rjob else d.way.job

def Dev.setWayJob (d : Dev) (restore : Bool) (j : Option WayJob) : Dev :=
  if restore then { d with way := { d.way with rjob := j } } else { d with way := { d.way with job := j } }

/-- Pieces of a transfer that are not yet acknowledged. -/
def Dev.wayOut (d : Dev) (restore : Bool) : Nat := (d.fab.txns.filter fun t => t.who == .way restore).length

/-- Bytes [o, o + n) of a list of memory ranges laid one behind the other. -/
def Dev.segRead (d : Dev) : (segs : List (Nat × Nat)) → (o n : Nat) → Dev × Except Fail (List Byte)
  | [], _, _ => (d, .ok [])
  | (a, len) :: l, o, n =>
    if n = 0 then (d, .ok [])
    else if len ≤ o then d.segRead l (o - len) n
    else
      let m := min n (len - o)
      match d.readRaw byCp none (a + o) m with
      | ⟨d, .error e⟩ => (d, .error e)
      | ⟨d, .ok bs⟩ =>
        match d.segRead l 0 (n - m) with
        | (d, .ok rest) => (d, .ok (bs ++ rest))
        | r => r

def segLen (segs : List (Nat × Nat)) : Nat := (segs.map fun x => x.2).sum

/-- Bytes [o, o + n) of a transfer's body. -/
def Dev.wayBody (d : Dev) (j : WayJob) (o n : Nat) : Dev × Except Fail (List Byte) :=
  let s := segLen j.segs
  match d.segRead j.segs o n with
  | (d, .error e) => (d, .error e)
  | (d, .ok bs) => (d, .ok (bs ++ (j.tail.drop (o + bs.length - s)).take (n - bs.length)))

/-- Send bytes of a slot at an offset (R468; 15 R400). ARG 1 marks a restore (DESIGN CHOICE, notes/assumptions/27.md). -/
def Dev.waySend (d : Dev) (restore : Bool) (j : WayJob) (off : Nat) (bs : List Byte) : Dev × Option Fail :=
  let k := { d.newPkt ptWayWrite j.dev j.ctx (d.rd Reg.LEDG_STATUS.CTX) (off + j.slot * 2 ^ 48) with arg := b2n restore, data := bs }
  match d.request k (.way restore) j.ctx 0 bs.length 0 with
  | (d, some _) => (d, none)
  | (d, none) => (d, some failNoRoute)

/-- Forget the open pieces of a transfer: their responses will be late. -/
def Dev.wayClose (d : Dev) (restore : Bool) : Dev :=
  { d with fab := { d.fab with txns := d.fab.txns.filter fun t => t.who != .way restore } }

/-- A transfer fails: a checkpoint is counted and reported, the command behind it ends (R469, R471, R473). -/
def Dev.wayFail (d : Dev) (restore : Bool) (f : Fail) : Dev :=
  match d.wayJob restore with
  | none => d
  | some j =>
    let d := (d.wayClose restore).setWayJob restore none
    let d := if restore then d
      else (d.inc Reg.LEDG_WAY_FAILS.COUNT).raise 0x1105 clsContained (some (d.rd Reg.LEDG_STATUS.CTX)) f.major j.dev j.head.step f.detail
    let d := match j.cmd with
      | some slot => d.endCmd slot f.major f.detail 0
      | none => d
    d.wayShow

/-- Issue pieces of at most 2,048 bytes of the body, at most 64 unacknowledged; `fuel` bounds them. -/
def Dev.wayPump (d : Dev) (restore : Bool) : (fuel : Nat) → Dev
  | 0 => d
  | n + 1 =>
    match d.wayJob restore with
    | none => d
    | some j =>
      if j.phase ≠ 1 ∨ j.upto ≤ j.sent ∨ 64 ≤ d.wayOut restore then d
      else
        let len := min 2048 (j.upto - j.sent)
        match d.wayBody j j.sent len with
        | (d, .error e) => d.wayFail restore e
        | (d, .ok bs) =>
          match d.waySend restore j (wayBodyOff + j.sent) bs with
          | (d, some e) => d.wayFail restore e
          | (d, none) =>
            let shard := bs.take (segLen j.segs - j.sent)
            (d.setWayJob restore (some { j with sent := j.sent + len, crc := crc64Run j.crc shard })).wayPump restore n

/-- The header in its last form: VALID, with the CRC of the shard section as it was sent (R467). -/
def WayJob.final (j : WayJob) (restore : Bool) : WayHead :=
  if restore then j.head else { j.head with state := wsValid, shardCrc := j.crc ^^^ ones64 }

/-- Send the last header of a transfer. -/
def Dev.wayFinish (d : Dev) (restore : Bool) : Dev :=
  match d.wayJob restore with
  | none => d
  | some j =>
    match d.waySend restore j 0 (j.final restore).bytes with
    | (d, some e) => d.wayFail restore e
    | (d, none) => d.setWayJob restore (some { j with phase := 2, head := j.final restore })

/-- What can go out now goes out; a transfer whose last header is acknowledged is complete (R467, R469). -/
def Dev.wayStep (d : Dev) (restore : Bool) : Dev :=
  match d.wayJob restore with
  | none => d
  | some j =>
    if d.wayOut restore ≠ 0 then d.wayPump restore 64
    else
      match j.phase with
      | 0 => (d.setWayJob restore (some { j with phase := 1 })).wayPump restore 64
      | 1 =>
        if j.sent < j.upto then d.wayPump restore 64
        else if j.cmd.isNone ∧ j.head.body ≤ j.sent then d.wayFinish restore
        else d
      | _ =>
        let d := d.setWayJob restore none
        let d := if restore then d
          else { d with way := { d.way with sent := kvPut j.slot ⟨j.head.seq, j.head.step, true⟩ d.way.sent } }
        let d := match j.cmd with
          | some slot => d.okCmd slot
          | none => d
        d.wayShow

/-- Start a transfer: its header goes out as WRITING (R467). -/
def Dev.wayStart (d : Dev) (restore : Bool) (j : WayJob) : Dev :=
  let d := d.setWayJob restore (some j)
  let d := if restore then d else { d with way := { d.way with sent := kvPut j.slot ⟨j.head.seq, j.head.step, false⟩ d.way.sent } }
  match d.waySend restore j 0 ({ j.head with state := wsWriting } : WayHead).bytes with
  | (d, some e) => d.wayFail restore e
  | (d, none) => d.wayShow

/-- The failure that a host's status stands for (15 R407; 17 R471, R473, R474). -/
def wayStatusFail (restore : Bool) (st : Nat) : Option Fail :=
  if restore then if st = 1 then some ⟨0x0F, 0x1124, 0⟩ else if st = 3 then some ⟨0x0E, 0x1141, 0⟩ else none
  else if st = 6 + Config.waySmallStatus.toNat then some ⟨0x04, 0x1113, 0⟩ else none

end Sys2Proof.Machine
end

