-- ==== Sys2Proof/Machine/FabTx.lean ====
section
/-!
DEFINITION. Remote transactions (15 R405–R409) and the fabric commands FAB_ROUTE_LOAD, FAB_PORT_CTL, REMOTE_COPY, DIAG_LOOPBACK
(R420–R423).
Choices: DEDUCED, notes/assumptions/14.md.
-/
namespace Sys2Proof.Machine

/-! ### At the home (03 R86, R87; 15 R405) -/

/-- The first refused byte of a remote access and its detail (03 R86, R87). -/
def Dev.remoteRefused (d : Dev) (k : FabPkt) (wr : Bool) (n : Nat) : Option (Nat × Nat) :=
  if !d.on (Reg.CTX_FAB.ACCEPT k.dctx) then some (k.addr % 2 ^ 48, 0x0308)
  else if d.region (k.addr % 2 ^ 48) == .host then some (k.addr % 2 ^ 48, 0x0305)
  else d.firstRefused k.dctx wr (k.addr % 2 ^ 48) n

/-- The response status of a failed access at the home. -/
def homeStatus (f : Fail) : Nat := if f.major = 0x0F then 5 else if f.major = 0x0E then 3 else if f.major = 0x08 then 5 else 1

/-- A remote request passes its checks, or is answered with its refusal. -/
def Dev.onRemote (d : Dev) (k : FabPkt) (wr : Bool) (n : Nat) (f : Dev → Dev) : Dev :=
  match d.remoteRefused k wr n with
  | some (a, det) => (d.violation k.dctx byFabric a det).ackPkt k 1
  | none => if d.epochDiffers k then d.ackPkt k 4 else f d

/-- MEM_WRITE (R405). -/
def execMemWrite (s : State) : Out := s.run fun d => d.onPkt ptMemWrite fun k d =>
  d.onRemote k true k.data.length fun d =>
    match d.writeRaw byFabric (some k.dctx) (k.addr % 2 ^ 48) k.data with
    | ⟨d, none⟩ => d.ackPkt k 0
    | ⟨d, some f⟩ => d.ackPkt k (homeStatus f)

/-- MEM_READ (R405). -/
def execMemRead (s : State) : Out := s.run fun d => d.onPkt ptMemRead fun k d =>
  d.onRemote k false k.arg fun d =>
    match d.readRaw byFabric (some k.dctx) (k.addr % 2 ^ 48) k.arg with
    | ⟨d, .error f⟩ => d.ackPkt k (homeStatus f)
    | ⟨d, .ok bs⟩ =>
      (d.sendPkt { k with
        typ := ptReadData, adaptive := true, dst := k.src, src := d.myId, dctx := k.sctx, sctx := k.dctx, hops := 0
        status := 0, data := bs, port := 32 }).1

/-- SO_OP_PKT (R405; 03 R87, 22 R586). `ue`: the object turns out uncorrectable. -/
def execSoOpPkt (ue : Bool) (s : State) : Out := s.run fun d => d.onPkt ptSoOp fun k d =>
  let n := k.addr % 4096
  let det := d.soRemoteDetail k
  if det != 0 then d.soRefuse k det
  else if d.epochDiffers k then d.ackPkt k 4
  else
    let d := if ue then d.soMeetUe n else d
    match d.soOp .none k.dctx n (bitAt k.arg 0) (leNat k.data) with
    | ⟨d, .fail 0x0E _⟩ => d.ackPkt k 3
    | ⟨d, .fail _ _⟩ => d.ackPkt k 5
    | ⟨d, _⟩ => d.ackPkt k 0

/-! ### At the source (R406, R407) -/

/-- The failure a response status stands for (R407). -/
def statusFail (st : Nat) : Fail :=
  match st with
  | 1 => ⟨0x10, 0x0308, 0⟩
  | 2 => failNoRoute
  | 3 => ⟨0x0E, 0x0F30, 0⟩
  | 4 => ⟨0x0E, 0x0F32, 0⟩
  | _ => ⟨0x0F, 0x0F13, 0⟩

/-- Close a transaction. -/
def Dev.closeTxn (d : Dev) (tag : Nat) : Dev := { d with fab := { d.fab with txns := d.fab.txns.filter fun t => t.tag != tag } }

/-- The porter that runs a descriptor's list. -/
def Dev.porterOf (d : Dev) (td : Nat) : Option (Nat × PorterRun) := d.porters.find? fun p => p.2.td == td

/-- A transaction fails (R407): its porter list, descriptor, command, bind or look-back fails. A header signal of a command that
has ended replaces its status (05 R128). -/
def Dev.txnFail (d : Dev) (t : Txn) (f : Fail) : Dev :=
  let d := d.closeTxn t.tag
  match t.who with
  | .td id => match d.porterOf id with
    | some (p, r) => d.failPorter p (r.list + 64 * t.group) f
    | none => d.failTd id f
  | .cmd slot =>
    if t.typ = ptWayWrite then d.raise 0x1105 clsContained (some (d.rd Reg.LEDG_STATUS.CTX)) f.major t.dev t.group f.detail
    else if t.typ = ptSoOp then d.updCmd slot fun c => { c with fin := some ⟨f.major, f.detail, c.stopResult⟩ }
    else d.failStaged slot f
  | .bind slot => match d.so.binds.find? fun b => b.cmd == slot with
    | some b => (d.endBind b false t.ctx).endCmd slot f.major f.detail 0
    | none => d
  | .carry id => d.carryRefused id f
  | .way r => d.wayFail r f
  | .porter _ | .none => d

/-- A transaction has succeeded: its porter goes on. -/
def Dev.txnDone (d : Dev) (t : Txn) : Dev :=
  let d := d.closeTxn t.tag
  match t.who with
  | .td id => match d.porterOf id with
    | some (p, _) => d.porterSettle p
    | none => d
  | .way r => d.wayStep r
  | _ => d

/-- The open transaction that a response answers; a late response is dropped and counted (R406). -/
def Dev.onResponse (d : Dev) (k : FabPkt) (f : Txn → Dev → Dev) : Dev :=
  match d.fab.txns.find? fun t => t.tag == k.tag with
  | some t => f t d
  | none => (d.inc Reg.FAB_LATE_RSP.COUNT).occur clsDropped

/-- ACK (R406, R407); a bind's status for a full push table ends it with MIRROR_FULL (07 R198). -/
def execAck (s : State) : Out := s.run fun d => d.onPkt ptAck fun k d => d.onResponse k fun t d =>
  if k.status = 0 then d.txnDone t
  else
    match t.who with
    | .bind _ => d.txnFail t (if 5 < k.status then ⟨0x04, 0x0703, 0⟩ else statusFail k.status)
    | .way r => d.txnFail t ((wayStatusFail r k.status).getD (statusFail k.status))
    | _ => d.txnFail t (statusFail k.status)

/-- READ_DATA (R406): the bytes go to the transaction's destination. -/
def execReadData (s : State) : Out := s.run fun d => d.onPkt ptReadData fun k d => d.onResponse k fun t d =>
  let who := match t.who with
    | .td id => match d.porterOf id with
      | some (p, _) => byPorter p
      | none => byCp
    | _ => byPorter t.group
  match d.write who t.ctx t.dst (k.data.take t.len) with
  | ⟨d, none⟩ => d.txnDone t
  | ⟨d, some f⟩ => d.txnFail t f

/-- FAB_TRANSACTION_TIMEOUT (R406): the timeout of an open MEM_WRITE, MEM_READ, SO_OP or WAYSTATION_WRITE expires. -/
def execFabTransactionTimeout (tag : Nat) (s : State) : Out := s.run fun d =>
  match d.fab.txns.find? fun t => t.tag == tag && ([ptMemWrite, ptMemRead, ptSoOp, ptWayWrite] : List Nat).contains t.typ with
  | some t => d.txnFail t ⟨0x05, 0x0F20, 0⟩
  | none => d

/-! ### FAB_ROUTE_LOAD (R402, R411, R420) -/

/-- The parameter checks of FAB_ROUTE_LOAD. -/
def Dev.routeParams (d : Dev) (c : Cmd) : List PChk :=
  let load := c.par 0x0A 1 == 0
  [paddr c 0, pfield (load && (c.par 0 8 % 64 != 0 || d.region (c.par 0 8) != .hbm)) 0x00, pfield (decide (1 < c.par 8 1)) 0x08,
    pfield (c.par 8 1 == 1 && decide (15 < c.par 9 1)) 0x09,
    pfield (decide (1 < c.par 0x0A 1) || (c.par 0x0A 1 == 1 && c.par 8 1 == 0)) 0x0A]

/-- The address range of FAB_ROUTE_LOAD. -/
def routeRanges (c : Cmd) : List (Bool × Nat × Nat) := if c.par 0x0A 1 = 0 then [(false, c.par 0 8, c.par 0x0C 4)] else []

/-- A route table passes its checks (R402). -/
def routeTableOk (bs : List Byte) : Bool :=
  bs.length == 64 + 32768 && fieldAt bs 2 2 == 1 && fieldAt bs 0x38 8 == crc64 (bs.take 0x38 ++ bs.drop 64)

/-- A group table read from its bytes, if it passes its checks (R411). -/
def groupOf (id : Nat) (bs : List Byte) : Option Group :=
  let n := fieldAt bs 4 2
  let r := fieldAt bs 6 1
  let rings := (List.range r).map fun k => (List.range n).map fun i => fieldAt bs (0x40 + 2 * (k * n + i)) 2 % 4096
  let first := rings.headD []
  let ok := bs.length == 0x40 + 2 * n * r && decide (1 ≤ n ∧ n ≤ 4096 ∧ 1 ≤ r ∧ r ≤ 8)
    && fieldAt bs 0x38 8 == crc64 (bs.take 0x38 ++ bs.drop 0x40)
    && rings.all (fun l => l.eraseDups.length == n && l.contains id && l.all first.contains)
  if ok then some ⟨fieldAt bs 0 4, n, rings⟩ else none

/-- A group slot is used by a running collective. -/
def Dev.groupBusy (d : Dev) (slot : Nat) : Bool := d.fab.colls.any fun c => c.slot == slot

def Dev.setGroups (d : Dev) (g : KV Group) : Dev :=
  ({ d with fab := { d.fab with groups := g } } : Dev).wr Reg.FAB_STATUS.GROUPS ((g.map fun x => 2 ^ x.1).sum)

/-- Something is open that carries the device ID (R420). -/
def Dev.idInUse (d : Dev) : Bool :=
  !d.fab.txns.isEmpty || !d.so.mirrors.isEmpty || !d.so.pushes.isEmpty || !d.carry.isEmpty || !d.fab.colls.isEmpty

/-- FAB_ROUTE_LOAD (R420). -/
def execFabRouteLoad (slot : Nat) (s : State) : Out := s.run fun d => d.onCmd slot 0x0601 fun c d =>
  let g := c.par 9 1
  if c.par 0x0A 1 = 1 then
    if d.groupBusy g then d.endCmd slot 0x04 0x0F10 0 else (d.setGroups (kvDel g d.fab.groups)).okCmd slot
  else
    match d.read byCp c.ctx (c.par 0 8) (c.par 0x0C 4) with
    | ⟨d, .error e⟩ => d.endCmd slot e.major e.detail 0
    | ⟨d, .ok bs⟩ =>
      if c.par 8 1 = 1 then
        match groupOf d.myId bs with
        | none => d.endCmd slot 0x02 0x0F02 0x20
        | some t => if d.groupBusy g then d.endCmd slot 0x04 0x0F10 0 else (d.setGroups (kvPut g t d.fab.groups)).okCmd slot
      else if !routeTableOk bs then d.endCmd slot 0x02 0x0F02 0x20
      else
        let id := fieldAt bs 0 2 % 4096
        if id ≠ d.myId ∧ d.idInUse then d.endCmd slot 0x04 0x0F10 0
        else
          let entry (k : Nat) : Nat × (Nat × Bool) :=
            let e := fieldAt bs (64 + 8 * k) 8
            (k, (e % 2 ^ 32, bitAt e 32))
          let rs := ((List.range 4096).map entry).filter fun x => x.2.1 != 0 || x.2.2
          (({ d with fab := { d.fab with routes := rs } } : Dev).wr Reg.FAB_ID.DEVICE_ID id).okCmd slot

/-! ### FAB_PORT_CTL (R421) -/

/-- The parameter checks of FAB_PORT_CTL. -/
def Dev.portCtlParams (d : Dev) (c : Cmd) : List PChk :=
  [pchk (decide (d.ports ≤ c.par 0 1)) 0x0F01 0x00, pfield (decide (2 < c.par 1 1)) 0x01, pfield (decide (2 < c.par 2 1)) 0x02,
    pfield (decide (1 < c.par 3 1)) 0x03]

/-- FAB_PORT_CTL (R421, R391). -/
def execFabPortCtl (slot : Nat) (s : State) : Out := s.run fun d => d.onCmd slot 0x0604 fun c d =>
  let p := c.par 0 1
  let op := c.par 1 1
  let gen := if c.par 2 1 = 0 then 2 else c.par 2 1
  if op = 1 ∧ !d.domOn (domPort p) then d.endCmd slot 0x0F 0x0F12 0
  else
    let d := d.setPort p { d.port p with maxGen := gen, c2m := c.par 3 1 == 1 }
    let d := match op with
      | 0 =>
        if (d.portState p = psUp ∨ d.portState p = psRetrain) ∧ !(d.port p).retry.isEmpty then d.setPort p { d.port p with flushing := true }
        else d.portTo p psDisabled
      | 1 => if d.portState p = psDisabled then d.portTo p psDown else d
      | _ => d.portRetrain p
    d.okCmd slot

/-! ### REMOTE_COPY (R422) -/

/-- The parameter checks of REMOTE_COPY. -/
def Dev.remoteParams (d : Dev) (c : Cmd) : List PChk :=
  let n := c.par 0x10 8
  let cfg (b : Bool) (off : Nat) : PChk := pchk b 0x0F04 off
  [paddr c 0, paddr c 8, cfg (!(decide (1 ≤ n ∧ n ≤ 2 ^ 40))) 0x10, cfg (decide (1 < c.par 0x1B 1)) 0x1B, cfg (decide (2 < c.par 0x1C 1)) 0x1C,
    pchk (c.par 0x18 2 % 4096 == d.myId && overlap (c.par 0 8) n (c.par 8 8) n) 0x0D03 0x00]

/-- The local range of REMOTE_COPY. -/
def remoteRanges (c : Cmd) : List (Bool × Nat × Nat) :=
  if c.par 0x1B 1 = 0 then [(false, c.par 0 8, c.par 0x10 8)] else [(true, c.par 8 8, c.par 0x10 8)]

/-- Open transactions of a command. -/
def Dev.cmdTxns (d : Dev) (slot : Nat) : Nat := (d.fab.txns.filter fun t => t.who == .cmd slot).length

/-- Issue pieces (offset, length) of a REMOTE_COPY, at most 64 remote blocks outstanding; answers the number issued. -/
def Dev.remoteIssue (d : Dev) (c : Cmd) (p : Nat) : List (Nat × Nat) → (n : Nat) → Dev × Except Fail Nat
  | [], n => (d, .ok n)
  | (o, len) :: l, n =>
    if 64 ≤ d.cmdTxns c.slot then (d, .ok n)
    else
      let dev := c.par 0x18 2 % 4096
      let rctx := c.par 0x1A 1 % 16
      let ep := c.par 0x20 4
      let src := c.par 0 8 + o
      let dst := c.par 8 8 + o
      if c.par 0x1B 1 = 0 then
        match d.read (byPorter p) c.ctx src len with
        | ⟨d, .error e⟩ => (d, .error e)
        | ⟨d, .ok bs⟩ =>
          match d.request { d.newPkt ptMemWrite dev rctx c.ctx dst with data := bs, epoch := ep } (.cmd c.slot) c.ctx dst len p with
          | (d, none) => (d, .error failNoRoute)
          | (d, some _) => (d.incMod (Reg.PRT_BYTES.COUNT p) len).remoteIssue c p l (n + 1)
      else
        match d.request { d.newPkt ptMemRead dev rctx c.ctx src with arg := len, epoch := ep } (.cmd c.slot) c.ctx dst len p with
        | (d, none) => (d, .error failNoRoute)
        | (d, some _) => (d.incMod (Reg.PRT_BYTES.COUNT p) len).remoteIssue c p l (n + 1)

/-- REMOTE_COPY (R422): each command issues what may go out of the present chunk; a chunk is complete once all of it is issued
and acknowledged. -/
def execRemoteCopy (slot : Nat) (s : State) : Out := s.run fun d => d.onRoutine slot 0x0603 fun c d =>
  let total := cdiv (c.par 0x10 8) d.memChunk
  let (d, err) := if c.total != 0 then (d, none)
    else
      let cores := [d.pickCore (c.par 0x1C 1)]
      let d := d.assign slot cores
      if total ≤ 1 then (d.updCmd slot fun c => { c with total := total }, none)
      else d.tabOpen { c with cores := cores } total (c.par 0x20 4)
  match err, d.cmd? slot with
  | some e, _ => d.endCmd slot e.major e.detail 0
  | none, none => d
  | none, some c =>
    if c.total ≤ c.done then d.okCmd slot (c.par 0x10 8)
    else
      let core := c.cores.headD 0
      match d.unitBlocked [domPorters core] 0x0D21 with
      | some e => d.failStaged slot e
      | none =>
        let p := 20 + 2 * core + c.done % min 2 d.memPorters
        let lo := c.done * d.memChunk
        let n := min d.memChunk (c.par 0x10 8 - lo)
        let ps := (burstsOf (c.par 8 8 + lo) n).map fun (o, m) => (lo + o, m)
        let sent := c.aux.headD 0
        match d.remoteIssue c p (ps.drop sent) sent with
        | (d, .error e) => d.failStaged slot e
        | (d, .ok k) =>
          if k < ps.length ∨ d.cmdTxns slot ≠ 0 then d.updCmd slot fun c => { c with aux := [k] }
          else
            let d := (d.pieceDone slot).updCmd slot fun c => { c with aux := [0] }
            let d := d.inc (Reg.PRT_DESCS.COUNT p)
            if c.done + 1 = c.total then d.okCmd slot (c.par 0x10 8) else d

/-! ### DIAG_LOOPBACK (R423) -/

/-- The parameter checks of DIAG_LOOPBACK. -/
def Dev.loopParams (d : Dev) (c : Cmd) : List PChk :=
  [pchk (decide (d.ports ≤ c.par 0 1)) 0x0F01 0x00, pfield (decide (1 < c.par 1 1)) 0x01, pfield (c.par 4 4 == 0) 0x04]

/-- Pattern `i` of a loopback run whose free values start at number `k`: the spec gives no pattern (DESIGN CHOICE, notes/assumptions/22.md). -/
def loopPattern (k i : Nat) : List Byte := (List.range 2048).map fun b => freeByte (k + 256 * i) b

/-- Flits of pattern `i` that differ: a LOOPBACK packet has 9 flits of 244 bytes under its header. -/
def loopDiffer (sent got : List Byte) : Nat :=
  ((chunksOf 244 (zeros 32 ++ sent)).zip (chunksOf 244 (zeros 32 ++ got))).countP fun x => x.1 != x.2

/-- The end of a DIAG_LOOPBACK: `bad` flits differed. -/
def Dev.loopEnd (d : Dev) (slot bad : Nat) : Dev :=
  let d := d.pieceDone slot
  if bad = 0 then d.okCmd slot else d.endCmd slot 0x0E 0x0F33 (bad % 2 ^ 32)

/-- Send LOOPBACK packet `i` of a far-end run on its port. -/
def Dev.loopSend (d : Dev) (c : Cmd) (k i : Nat) : Dev :=
  let p := c.par 0 1
  let pkt := { d.newPkt ptLoopback (d.rd (Reg.FAB_PORT_PEER.DEV p)) 0 c.ctx 0 with tag := c.slot, arg := i, data := loopPattern k i }
  let x := d.port p
  (d.setPort p { x with queue := x.queue ++ [{ pkt with hops := 1 }] }).pumpPort p

/-- DIAG_LOOPBACK (R423). Near-end: `bad` is the number of flits that come back different inside the PCS. Far-end: packets of 9
flits go out one after the other, and LOOPBACK compares what returns. -/
def execDiagLoopback (slot bad : Nat) (s : State) : Out := s.run fun d => d.onRoutine slot 0x0803 fun c d =>
  let p := c.par 0 1
  if c.par 1 1 = 0 then
    if d.portState p ≠ psDisabled then d.endCmd slot 0x04 0x0F10 0
    else (d.updCmd slot fun c => { c with total := 1 }).loopEnd slot (min bad (c.par 4 4))
  else if c.total = 0 then
    if d.portState p ≠ psUp then d.endCmd slot 0x04 0x0F10 0
    else
      let n := cdiv (c.par 4 4) 9
      let k := d.free
      let d := { d with free := d.free + 256 * n }
      (d.updCmd slot fun c => { c with total := n, aux := [k] }).loopSend c k 0
  else d

/-- LOOPBACK (R423): a packet of this device's own far-end run is compared, any other is sent back. -/
def execLoopback (s : State) : Out := s.run fun d => d.onPkt ptLoopback fun k d =>
  match d.cp0.cmds.find? fun c => c.slot == k.tag && c.opcode == 0x0803 && c.phase == .running && c.par 0 1 == k.port with
  | some c =>
    let base := c.aux.headD 0
    let bad := c.hits + loopDiffer (loopPattern base k.arg) k.data
    let d := d.updCmd c.slot fun c => { c with hits := bad }
    if c.total ≤ c.done + 1 then d.loopEnd c.slot bad
    else (d.pieceDone c.slot).loopSend c base (c.done + 1)
  | none =>
    if k.port < 32 then
      let x := d.port k.port
      (d.setPort k.port { x with queue := x.queue ++ [{ k with dst := k.src, src := d.myId, hops := 1 }] }).pumpPort k.port
    else d

end Sys2Proof.Machine
end

