-- ==== Sys2Proof/Machine/Govern.lean ====
section
/-!
DEFINITION. The clock governor and the AVS loop (19 R512-R516), clamp reporting (R520), and the completion of policy commands at
a loop's next evaluation (R522).
-/
namespace Sys2Proof.Machine

/-! ### Clamps (R520) -/

/-- The clamp in force of a loop and a target. -/
def Dev.clamp? (d : Dev) (loop target : Nat) : Option Clamp := d.pwr.clamps.find? fun c => c.loop == loop && c.target == target

def Dev.setClamps (d : Dev) (l : List Clamp) : Dev := { d with pwr := { d.pwr with clamps := l } }

/-- PWR_CLAMP_REASON describes a clamp. -/
def Dev.clampRecord (d : Dev) (c : Clamp) : Dev :=
  let d := (d.wr Reg.PWR_CLAMP_REASON.REASON c.reason).wr Reg.PWR_CLAMP_REASON.LOOP c.loop
  let d := (d.wr Reg.PWR_CLAMP_REASON.TARGET c.target).wr Reg.PWR_CLAMP_REASON.PINNED c.pinned
  d.wr Reg.PWR_CLAMP_REASON.HELD c.held

/-- Whether PWR_CLAMP_REASON describes the clamp of a loop and a target. -/
def Dev.clampShown (d : Dev) (loop target : Nat) : Bool :=
  d.rd Reg.PWR_CLAMP_REASON.REASON != 0 && d.rd Reg.PWR_CLAMP_REASON.LOOP == loop && d.rd Reg.PWR_CLAMP_REASON.TARGET == target

/-- A safety limit keeps a loop from holding a pin or a floor. A clamp in force only takes the new held value. -/
def Dev.clamp (d : Dev) (loop target reason pinned held : Nat) : Dev :=
  match d.clamp? loop target with
  | some c =>
    let d := d.setClamps (d.pwr.clamps.map fun x => if x == c then { c with held := held } else x)
    if d.clampShown loop target then d.wr Reg.PWR_CLAMP_REASON.HELD held else d
  | none =>
    let c : Clamp := ⟨loop, target, reason, pinned, held⟩
    let d := ((d.setClamps (d.pwr.clamps ++ [c])).clampRecord c).inc (Reg.PWR_CLAMP_COUNT.COUNT loop)
    let d := d.wr Reg.PWR_CLAMP_ACTIVE.LOOPS (setBits (d.rd Reg.PWR_CLAMP_ACTIVE.LOOPS) loop 1 1)
    d.raise 0x1301 clsInfo none reason (loop * 256 + target) (pinned % 2 ^ 16 * 2 ^ 16 + held % 2 ^ 16) 0

/-- A clamp ends. -/
def Dev.unclamp (d : Dev) (loop target : Nat) : Dev :=
  match d.clamp? loop target with
  | none => d
  | some c =>
    let d := d.setClamps (d.pwr.clamps.filter fun x => x != c)
    let d := if d.pwr.clamps.any (fun x => x.loop == loop) then d
      else d.wr Reg.PWR_CLAMP_ACTIVE.LOOPS (setBits (d.rd Reg.PWR_CLAMP_ACTIVE.LOOPS) loop 1 0)
    d.raise 0x1302 clsInfo none 0 (loop * 256 + target) c.held 0

/-! ### VDD_CD (R516; 21 R561) -/

/-- Round up to a multiple of 5 mV. -/
def roundUp5 (mv : Nat) : Nat := cdiv mv 5 * 5

/-- The reading of the hottest compute-die sensor in tenths of a degree, 0 before the first. -/
def Dev.junction (d : Dev) : Int :=
  match kvGet 1 d.mgt.sensors with
  | some x => x.value
  | none => 0

/-- Every compute-die sensor is unavailable (21 R555). -/
def Dev.junctionBlind (d : Dev) : Bool :=
  match kvGet 1 d.mgt.sensors with
  | some x => x.unavailable
  | none => false

/-- VDD_CD that a frequency needs without the margin. -/
def Dev.vddBare (d : Dev) (mhz : Nat) : Nat := Config.fusedVdd mhz + (Config.avsGuard d.junction).val

/-- The margin pin as it can be held at a frequency: what 0.900 V leaves. -/
def Dev.marginHeld (d : Dev) (mhz : Nat) : Nat := min (d.rd Reg.PWR_AVS.MARGIN) ((900 - roundUp5 (d.vddBare mhz)) / 5)

/-- VDD_CD for a frequency: rounded up to 5 mV and within the regulator's range. -/
def Dev.vddFor (d : Dev) (mhz : Nat) : Nat := max 650 (min 900 (roundUp5 (d.vddBare mhz + 5 * d.marginHeld mhz)))

/-- The highest CCLK that 0.900 V carries. -/
def Dev.cclkMax (d : Dev) : Nat :=
  let fs := ((List.range 57).map fun i => 500 + 25 * i).filter fun f => decide (roundUp5 (d.vddBare f) ≤ 900)
  fs.foldl max 500

/-- A MHz value as a register holds it: a multiple of 25 within 500–1,900 (R524). -/
def mhzOf (v : Nat) : Nat := min 1900 (max 500 (v / 25 * 25))

/-- The governor gives a core a new CCLK target; the PLL slews towards it (02 R48, R57). -/
def Dev.setCclk (d : Dev) (core mhz : Nat) : Dev :=
  let d := d.wr (Reg.CLK_CCLK.TGT_MHZ core) mhz
  d.wr (Reg.CLK_CCLK.SLEWING core) (b2n (d.rd (Reg.CLK_CCLK.CUR_MHZ core) != mhz))

/-- The frequency a core runs at, slews to, or is to be raised to: what VDD_CD must carry. -/
def Dev.cclkNeed (d : Dev) (core : Nat) : Nat :=
  max (max (d.rd (Reg.CLK_CCLK.CUR_MHZ core)) (d.rd (Reg.CLK_CCLK.TGT_MHZ core))) ((kvGet core d.pwr.want).getD 0)

/-- The higher of the two. -/
def Dev.cclkTop (d : Dev) : Nat := max (d.cclkNeed 0) (d.cclkNeed 1)

/-- Raise a core to the target decided on, once VDD_CD carries it (02 R48); no core while a regulator fault stands (21 R561). -/
def Dev.cclkRaise (d : Dev) (core : Nat) : Dev :=
  let w := (kvGet core d.pwr.want).getD 0
  if d.rd (Reg.CLK_CCLK.TGT_MHZ core) < w ∧ !d.pwr.avsFault ∧ d.pwr.avsSettled ∧ d.vddFor d.cclkTop ≤ d.rd Reg.PWR_AVS.VDD_MV then
    d.setCclk core w
  else d

/-- The AVS loop: it clamps the margin that 0.900 V has no room for, and requests the voltage that the faster core needs. -/
def Dev.avsEval (d : Dev) : Dev :=
  let top := d.cclkTop
  let m := d.rd Reg.PWR_AVS.MARGIN
  let held := d.marginHeld top
  let d := if held < m then d.clamp 1 0 7 m held else d
  let v := d.vddFor top
  if v = d.rd Reg.PWR_AVS.VDD_MV then d
  else
    let d := (d.wr Reg.PWR_AVS.VDD_MV v).emit (.avsVoltage v)
    { d with pwr := { d.pwr with avsWanted := v, avsSettled := false, avsOpen := true } }

/-- A regulator fault (21 R561, R562): the event and ALERT_N. -/
def Dev.regulatorFault (d : Dev) (rail status : Nat) : Dev :=
  (d.alert Reg.MGT_ALERT_STATUS.REGULATOR).raise 0x1502 clsContained none rail 0 status 0 .yes

/-! ### The clock governor (R513-R515) -/

/-- 1 ms power above 140 % of the limit. -/
def Dev.overMs (d : Dev) : Bool := decide (7 * d.rd Reg.PWR_LIMIT.WATTS < 5 * d.pwr.power1ms)

/-- 1 s power above the limit. -/
def Dev.overSec (d : Dev) : Bool := decide (d.rd Reg.PWR_LIMIT.WATTS < d.pwr.power1s)

/-- The reason of the safety limit that holds both cores, if a cause persists (R515, R520; 21 R555). -/
def Dev.coreCause (d : Dev) : Option Nat :=
  if !d.board.railsOut.isEmpty then some 5
  else if d.junctionBlind || d.pwr.hot then some 1
  else if d.pwr.overEdc then some 3
  else if d.overMs || d.overSec then some 4
  else none

/-- A safety limit lowers a core's target by some MHz. -/
def Dev.capLower (d : Dev) (core mhz : Nat) : Dev :=
  let from_ := min ((kvGet core d.pwr.caps).getD 1900) (d.rd (Reg.CLK_CCLK.TGT_MHZ core))
  { d with pwr := { d.pwr with caps := kvPut core (max 500 (from_ - mhz)) d.pwr.caps, why := (d.coreCause).getD d.pwr.why } }

/-- Floor and ceiling of a core as the governor uses them; a floor above the ceiling is used as the ceiling (R513, R524). -/
def Dev.cclkRange (d : Dev) (core : Nat) : Nat × Nat :=
  let ce := if d.rd (Reg.PWR_CCLK_RANGE.CEIL core) = 0 then 1900 else d.rd (Reg.PWR_CCLK_RANGE.CEIL core)
  let fl := if d.rd (Reg.PWR_CCLK_RANGE.FLOOR core) = 0 then 500 else d.rd (Reg.PWR_CCLK_RANGE.FLOOR core)
  (min fl ce, ce)

/-- What the controls ask of a core: the pin, or the preference within floor and ceiling (R513). -/
def Dev.cclkSetting (d : Dev) (core : Nat) : Nat :=
  if d.on (Reg.PWR_CCLK_PIN.EN core) then mhzOf (d.rd (Reg.PWR_CCLK_PIN.MHZ core))
  else
    let (fl, ce) := d.cclkRange core
    min ce (max fl ((kvGet core d.pwr.pref).getD 500))

/-- The pin or floor of a core that a clamp would override. -/
def Dev.cclkPinned (d : Dev) (core : Nat) : Nat :=
  if d.on (Reg.PWR_CCLK_PIN.EN core) then mhzOf (d.rd (Reg.PWR_CCLK_PIN.MHZ core))
  else if d.rd (Reg.PWR_CCLK_RANGE.FLOOR core) = 0 then 0
  else (d.cclkRange core).1

/-- Resolve a core's controls and limits, give it its target and report a clamp (R513, R516, R520). -/
def Dev.cclkResolve (d : Dev) (core : Nat) : Dev :=
  let cap := (kvGet core d.pwr.caps).getD 1900
  let top := d.cclkMax
  let held := min (d.cclkSetting core) (min cap top)
  let pin := d.cclkPinned core
  let d := { d with pwr := { d.pwr with want := kvPut core held d.pwr.want } }
  let d := if held < d.rd (Reg.CLK_CCLK.TGT_MHZ core) then d.setCclk core held else d
  let d := d.avsEval.cclkRaise core
  if held < pin then d.clamp 0 core (if cap < pin then d.pwr.why else 7) pin held else d

/-- A safety limit strikes between evaluations: both cores are held to `mhz` less and resolved (02 R41; R515). -/
def Dev.governBy (d : Dev) (mhz : Nat) : Dev := d.forEach [0, 1] fun c d => (d.capLower c mhz).cclkResolve c

/-- Both targets to 500 MHz (02 R41; 21 R555). -/
def Dev.governAll (d : Dev) : Dev := d.governBy 1900

/-! ### Completion at an evaluation (R522) -/

/-- A lane width as PWR_LANE_POLICY writes it: 1 ×1, 2 ×2, 3 ×4. -/
def widthCode (w : Nat) : Nat := if w = 4 then 3 else w

/-- The value in force of a loop and a target. -/
def Dev.policyValue (d : Dev) (loop t : Nat) : Nat :=
  match loop with
  | 0 => (kvGet t d.pwr.want).getD (d.rd (Reg.CLK_CCLK.TGT_MHZ t))
  | 1 => d.marginHeld d.cclkTop
  | 2 =>
    let ceil := if d.rd (Reg.PWR_HBM_POLICY.CEIL t) = 0 ∨ d.on (Reg.PWR_HBM_POLICY.PIN_FULL t) then 16 else d.rd (Reg.PWR_HBM_POLICY.CEIL t)
    if d.on (Reg.MEM_STATUS.BW_CAPPED t) then min ceil 8 else ceil
  | 3 => widthCode (d.rd (Reg.FAB_PORT_STATUS.WIDTH t))
  | _ => d.rd Reg.PWR_LIMIT.WATTS

/-- RESULT of PWR_POLICY_SET: the value in force, and whether it is clamped. -/
def Dev.policyResult (d : Dev) (loop t : Nat) : Nat := d.policyValue loop t % 2 ^ 32 + b2n (d.clamp? loop t).isSome * 2 ^ 32

/-- A loop has evaluated a target: the commands that wait for nothing else complete. -/
def Dev.policyDone (d : Dev) (loop t : Nat) : Dev :=
  let hit := d.pwr.policy.filter fun x => x.2.1 == loop && x.2.2 == t
  let d := { d with pwr := { d.pwr with policy := d.pwr.policy.filter fun x => !(x.2.1 == loop && x.2.2 == t) } }
  d.forEach hit fun x d =>
    if d.pwr.policy.any fun y => y.1 == x.1 then d
    else
      let first := match d.cmd? x.1 with
        | some c => if c.par 1 1 = 0xFF ∨ loop = 1 ∨ loop = 4 then 0 else c.par 1 1
        | none => 0
      d.okCmd x.1 (d.policyResult loop first)

end Sys2Proof.Machine
end

