-- ==== Sys2Proof/Machine/InnBase.lean ====
section
/-!
DEFINITION. The Inn's shared operations (chapter 14): rooms and their images, hall slots and eviction, locks, poison, the
ledger's outcomes.
-/
namespace Sys2Proof.Machine

/-! ### Classes and rooms -/

def roomKey (cls guest : Nat) : Nat := cls * 2 ^ 24 + guest

def Dev.room? (d : Dev) (cls guest : Nat) : Option Room := kvGet (roomKey cls guest) d.inn.rooms

def Room.key (r : Room) : Nat := roomKey r.cls r.guest

def Dev.setRoom (d : Dev) (r : Room) : Dev := { d with inn := { d.inn with rooms := kvPut r.key r d.inn.rooms } }

def Dev.dropRoom (d : Dev) (r : Room) : Dev := { d with inn := { d.inn with rooms := kvDel r.key d.inn.rooms } }

def Dev.roomsOf (d : Dev) (p : Room → Bool) : List Room := (d.inn.rooms.map fun x => x.2).filter p

/-- Room size Z of a class. -/
def Dev.roomSize (d : Dev) (cls : Nat) : Nat := 2 ^ d.rd (Reg.INN_CLASS.SIZE_LOG2 cls)

def Dev.classOn (d : Dev) (cls : Nat) : Bool := decide (cls < 16) && d.on (Reg.INN_CLASS.EXISTS cls)

def Dev.classCtx (d : Dev) (cls : Nat) : Nat := d.rd (Reg.INN_CLASS.CTX cls)

/-- A context may not use a class: it does not exist, or belongs to another (R359). -/
def Dev.classRefusal (d : Dev) (ctx cls : Nat) : Option Fail :=
  if !d.classOn cls then some ⟨0x02, 0x0E01, 0⟩
  else if d.classCtx cls ≠ ctx then some ⟨0x10, 0x0E10, 0⟩
  else none

/-- RESULT of a refusal: a PARAM_RANGE names the byte offset of its field in the entry (05 R135). -/
def refusedAt (e : Fail) (off : Nat) : Nat := if e.major = 0x02 then off else 0

def inHall (a : Nat) : Bool := decide (hallBase ≤ a ∧ a < hallBase + hallSize)

def roomCode (s : RoomState) : Nat :=
  match s with
  | .idle => 1 | .locked => 2 | .staged => 3 | .busy => 4 | .poisoned => 5

/-! ### Status (R385) -/

/-- Images and reservations in the hall: address and size. -/
def Dev.hallExtents (d : Dev) : List (Nat × Nat) :=
  d.inn.rooms.flatMap fun (_, r) =>
    let z := d.roomSize r.cls
    ((r.addr :: r.resv.toList ++ r.staged.toList ++ (r.prev.map fun x => x.1).toList).filter inHall).map fun a => (a, z)

/-- Bring the Inn's status registers up to date with its rooms. -/
def Dev.innStatus (d : Dev) : Dev :=
  let d := d.wr Reg.INN_ROOMS.LODGED d.inn.rooms.length
  let d := d.wr Reg.INN_HALL.USED ((d.hallExtents.map fun e => e.2 / 512).sum)
  let pins := d.roomsOf fun r => r.pinned && inHall r.addr
  let d := d.wr Reg.INN_HALL_PINNED.UNITS ((pins.map fun r => d.roomSize r.cls / 512).sum)
  d.forEach (List.range 16) fun k d =>
    let rs := d.roomsOf fun r => r.cls == k
    (d.wr (Reg.INN_CLASS_USE.LODGED k) rs.length).wr (Reg.INN_CLASS_USE.IN_HALL k) (rs.countP fun r => inHall r.addr)

/-! ### Images (R361, R376) -/

/-- The 32-byte header of an image (R361). -/
def roomHeader (cls guest step epoch lock z : Nat) : List Byte :=
  leBytes 3 guest ++ leBytes 1 cls ++ leBytes 4 step ++ leBytes 8 epoch ++ leBytes 4 lock ++ leBytes 4 (z - 32) ++ zeros 8

/-- Words found bad by an operation: uncorrectable (true) or correctable. -/
def Dev.sprout (d : Dev) (l : List (Nat × Bool)) : Dev :=
  d.forEach l fun (a, u) d =>
    let w := a / 8 * 8
    if u then { d with ue := w :: d.ue.filter fun x => x != w }
    else if d.ue.contains w then d else { d with ce := w :: d.ce.filter fun x => x != w }

/-- A room's published image is uncorrectable (R376). A locked room keeps its lock. -/
def Dev.poison (d : Dev) (r : Room) : Dev :=
  let d := d.setRoom (if r.state = .locked then { r with bad := true } else { r with state := .poisoned })
  let d := (d.inc Reg.INN_ERR.POISONED).wr Reg.INN_LAST_POISON.GUEST r.guest
  (d.wr Reg.INN_LAST_POISON.CLASS r.cls).raise 0x0E01 clsContained (some (d.classCtx r.cls)) r.cls r.guest 0 0

/-- What the Inn's read of an image answers. -/
inductive ImageRes where
  | ok (bs : List Byte)
  | bad
  | fail (f : Fail)

/-- The Inn reads `n` bytes of an image: hall words under the SECDED of R376, backing words under 13 R333 and R334. -/
def Dev.innRead (d : Dev) (ctx : Nat) (a n : Nat) : Dev × ImageRes :=
  if inHall a then
    if (d.ue.find? (touchesWord a n)).isSome then (d, .bad)
    else
      let ws := d.ce.filter (touchesWord a n)
      let d := { d with ce := d.ce.filter fun w => !touchesWord a n w }
      let d := if ws.isEmpty then d else (d.inc Reg.INN_CE.COUNT ws.length).corrected 2 0 ws.length
      (d, .ok (d.peek a n))
  else
    match d.readRaw byInn (some ctx) a n with
    | ⟨d, .ok bs⟩ => (d, .ok bs)
    | ⟨d, .error f⟩ => if f.major = 0x0E then (d, .bad) else (d, .fail f)

/-- The Inn writes an image. -/
def Dev.innWrite (d : Dev) (a : Nat) (bs : List Byte) : Dev :=
  let d := d.poke a bs
  if inHall a then d else d.countHbm true a bs.length

/-! ### Hall slots (R378, R380) -/

/-- Quarter of a hall address. -/
def hallQuarter (a : Nat) : Nat := (a - hallBase) / (hallSize / 4)

/-- Quarters that take images: ON. -/
def Dev.quartersOn (d : Dev) : List Nat := (List.range 4).filter fun q => d.domOn (domHall q)

/-- Quarters in which the Inn places images: ON and in service (21 R565). -/
def Dev.quartersUse (d : Dev) : List Nat := d.quartersOn.filter fun q => d.unitState (domHall q) == 0

/-- The lowest free hall slot of size `z`: aligned to `z`, inside one quarter of a list (DESIGN CHOICE, notes/assumptions/23.md). -/
def Dev.hallFree (d : Dev) (qs : List Nat) (z : Nat) : Option Nat :=
  let used := d.hallExtents
  let q0 := qs.map fun q => hallBase + q * (hallSize / 4)
  let cands := q0 ++ used.map fun e => cdiv (e.1 + e.2) z * z
  let fits (a : Nat) : Bool :=
    inHall a && qs.contains (hallQuarter a) && decide (a + z ≤ hallBase + (hallQuarter a + 1) * (hallSize / 4))
      && !(used.any fun e => overlap a z e.1 e.2)
  match cands.filter fits with
  | [] => none
  | a :: l => some (l.foldl min a)

/-- The room to evict next: IDLE, unpinned, in the hall; oldest check-in first, then the lowest class and guest. A room whose
kept image holds its backing slot stays. -/
def Dev.victim (d : Dev) (p : Room → Bool) : Option Room :=
  let rs := d.roomsOf fun r => r.state == .idle && !r.pinned && inHall r.addr && p r && (r.prev.map fun x => x.1) != some r.slot
  match rs with
  | [] => none
  | r :: l => some (l.foldl (fun b x => if x.lastMs < b.lastMs then x else b) r)

/-- Evict a room: its image is copied to its backing slot and the index entry switches (R378). -/
def Dev.evict (d : Dev) (r : Room) : Dev :=
  let ctx := d.classCtx r.cls
  match d.innRead ctx r.addr (d.roomSize r.cls) with
  | (d, .bad) => d.poison r
  | (d, .fail _) => d
  | (d, .ok bs) => ((d.innWrite r.slot bs).setRoom { r with addr := r.slot }).inc Reg.INN_EVICTIONS.COUNT

/-- A free hall slot of size `z`, after evictions if need be; `fuel` bounds them. -/
def Dev.hallSlot (d : Dev) (z : Nat) : (fuel : Nat) → Dev × Option Nat
  | 0 => (d, none)
  | n + 1 =>
    match d.hallFree d.quartersUse z with
    | some a => (d, some a)
    | none =>
      match d.victim fun r => d.quartersUse.contains (hallQuarter r.addr) with
      | none => (d, none)
      | some r => (d.evict r).hallSlot z n

def Dev.hallSlotFor (d : Dev) (z : Nat) : Dev × Option Nat := d.hallSlot z (d.inn.rooms.length + 1)

/-- Bytes of a context's unpinned images in the hall. -/
def Dev.hallUnpinned (d : Dev) (ctx : Nat) : Nat :=
  ((d.roomsOf fun r => !r.pinned && inHall r.addr && d.classCtx r.cls == ctx).map fun r => d.roomSize r.cls).sum

/-- Evict a context's unpinned rooms until it is within its ceiling (R380); `fuel` bounds them. -/
def Dev.innCeil (d : Dev) (ctx : Nat) : (fuel : Nat) → Dev
  | 0 => d
  | n + 1 =>
    let ceil := d.rd (Reg.INN_PIN_QUOTA.CEIL ctx)
    if ceil = 0 ∨ d.hallUnpinned ctx ≤ ceil * 0x10000 then d
    else
      match d.victim fun r => d.classCtx r.cls == ctx with
      | none => d
      | some r => (d.evict r).innCeil ctx n

/-! ### Lodging (R363, R364, R370) -/

/-- The lowest free backing slot of a class's run. -/
def Dev.backingSlot (d : Dev) (cls : Nat) : Nat :=
  let z := d.roomSize cls
  let base := match kvGet cls d.inn.classes with
    | some c => c.base
    | none => 0
  let used := (d.roomsOf fun r => r.cls == cls).map fun r => r.slot
  ((List.range (used.length + 1)).map fun i => base + i * z).find? (fun a => !used.contains a) |>.getD base

def Dev.classFull (d : Dev) (cls : Nat) : Bool :=
  decide (d.rd (Reg.INN_CLASS.CAPACITY cls) ≤ (d.roomsOf fun r => r.cls == cls).length)

/-- State bytes of a class's template. -/
def Dev.template (d : Dev) (cls : Nat) : List Byte :=
  let n := d.roomSize cls - 32
  match kvGet cls d.inn.classes with
  | some c => if c.tmpl.isEmpty then zeros n else c.tmpl
  | none => zeros n

/-- Lodge a new guest: its image goes to its backing slot (DESIGN CHOICE, notes/assumptions/23.md). -/
def Dev.lodge (d : Dev) (cls guest step : Nat) (bs : List Byte) : Dev :=
  let a := d.backingSlot cls
  let r : Room := { cls, guest, state := .idle, bad := false, step, epoch := 0, addr := a, slot := a, lock := none, expired := none
                    resv := none, staged := none, prev := none, pinned := false, clamped := false, lastMs := d.timeMs }
  (d.innWrite a (roomHeader cls guest step 0 0 (d.roomSize cls) ++ bs)).setRoom r

/-! ### Locks (R372) and ledger outcomes (R382) -/

/-- End a lock without advance: LOCK_ID reads 0 again, the reserved slot is free. -/
def Dev.unlock (d : Dev) (r : Room) (expired : Option Nat) : Dev :=
  let d := if r.bad then d else d.pokeNat (r.addr + 0x10) 4 0
  d.setRoom { r with
    state := if r.bad then .poisoned else .idle
    bad := false, lock := none, resv := none, expired := expired }

/-- Every room a command still holds is unlocked without advance (R372). -/
def Dev.innEndCmd (d : Dev) (tag : Nat) : Dev :=
  d.forEach (d.roomsOf fun r => r.state == .locked && r.lock == some tag) fun r d => d.unlock r none

/-- A reset unlocks every locked room (R386). -/
def Dev.innUnlockAll (d : Dev) : Dev := d.forEach (d.roomsOf fun r => r.state == .locked) fun r d => d.unlock r none

/-- Publish the image at `a` of a room: step + 1, unlocked. -/
def Dev.publishRoom (d : Dev) (r : Room) (a epoch : Nat) (keep : Bool) : Dev :=
  let step := (r.step + 1) % 2 ^ 32
  let d := d.setRoom { r with
    state := .idle, bad := false, lock := none, resv := none, staged := none, expired := none, addr := a, step := step, epoch := epoch
    prev := if keep then some (r.addr, r.step, r.epoch) else r.prev }
  d.inc Reg.INN_CHECKOUTS.COUNT

/-- FLIP, or the ADOPT of one: every staged or retained image is published with the new epoch, the previous one kept (R382; 17 R459). -/
def Dev.innFlip (d : Dev) (epoch : Nat) : Dev :=
  d.forEach (d.roomsOf fun r => r.state == .staged || (r.state == .idle && r.staged.isSome)) fun r d =>
    match r.staged with
    | some a => (d.pokeNat (a + 8) 8 epoch).publishRoom r a epoch true
    | none => d

/-- ABORT: every staged room keeps its previous image and is unlocked; the staged image is retained (R382; 17 R460). -/
def Dev.innAbort (d : Dev) : Dev := d.forEach (d.roomsOf fun r => r.state == .staged) fun r d => d.unlock r none

/-- Images retained are freed (17 R460). -/
def Dev.innRelease (d : Dev) : Dev :=
  d.forEach (d.roomsOf fun r => r.state != .staged && r.staged.isSome) fun r d => d.setRoom { r with staged := none }

/-- SKIP, or a reset: every staged room keeps its previous image, and the staged one is freed (R382; 20 R528). -/
def Dev.innDiscard (d : Dev) : Dev :=
  d.forEach (d.roomsOf fun r => r.state == .staged) fun r d => d.unlock { r with staged := none } none

/-- REVERTIBLE clears: kept images are freed (R382). -/
def Dev.innForget (d : Dev) : Dev := d.forEach (d.roomsOf fun r => r.prev.isSome) fun r d => d.setRoom { r with prev := none }

/-- REVERT: every kept image is published again with its step and epoch (R382). -/
def Dev.innRevert (d : Dev) : Dev :=
  d.forEach (d.roomsOf fun r => r.prev.isSome) fun r d =>
    match r.prev with
    | some (a, st, ep) => d.setRoom { r with addr := a, step := st, epoch := ep, prev := none }
    | none => d

end Sys2Proof.Machine
end

