-- ==== Sys2Proof/Machine/SrvBase.lean ====
section
/-!
DEFINITION. Serving's shared operations (chapter 18): watermarks, the reorder window, gaps, open batches, the result ring's space.
-/
namespace Sys2Proof.Machine

/-! ### Watermarks (R480, R484) -/

/-- The class with DEFAULT set that a context serves through (R480, 14 R360). -/
def Dev.defaultClass (d : Dev) (ctx : Nat) : Option Nat :=
  (List.range 16).find? fun k => d.classOn k && d.classCtx k == ctx && d.on (Reg.INN_CLASS.DEFAULT k)

/-- LAST_SEQ and LAST_TS_US of a guest's published ingest record, when SEEN (R480). -/
def Dev.ingestRecord (d : Dev) (ctx guest : Nat) : Option (Nat × Nat) :=
  match d.defaultClass ctx with
  | none => none
  | some k =>
    match d.room? k guest with
    | none => none
    | some r => if bitAt (d.peekNat (r.addr + 36) 4) 0 then some (d.peekNat (r.addr + 32) 4, d.peekNat (r.addr + 40) 8) else none

/-- How far sequence number `b` lies ahead of `a`, modulo 2^32 (R484). -/
def seqAhead (a b : Nat) : Nat := (b + 2 ^ 32 - a % 2 ^ 32) % 2 ^ 32

/-- The later of two watermarks. -/
def laterMark (a b : Option (Nat × Nat)) : Option (Nat × Nat) :=
  match a, b with
  | some x, some y => if 0 < seqAhead x.1 y.1 ∧ seqAhead x.1 y.1 < 2 ^ 31 then some y else some x
  | some x, none => some x
  | none, y => y

def srvGuest0 : SrvGuest := ⟨none, [], none, none⟩

def Dev.srvGuest (d : Dev) (ctx guest : Nat) : SrvGuest := ((kvGet ctx d.srv.guests).bind (kvGet guest)).getD srvGuest0

/-- Keep what CP2 tracks of a guest; nothing is kept of a guest it tracks nothing of. -/
def Dev.setSrvGuest (d : Dev) (ctx guest : Nat) (g : SrvGuest) : Dev :=
  let m := (kvGet ctx d.srv.guests).getD []
  let m := if g = srvGuest0 then kvDel guest m else kvPut guest g m
  { d with srv := { d.srv with guests := if m.isEmpty then kvDel ctx d.srv.guests else kvPut ctx m d.srv.guests } }

/-- The ingest record of a guest with its frame in flight (R484). -/
def Dev.srvSeen (d : Dev) (ctx guest : Nat) (g : SrvGuest) : Option (Nat × Nat) := laterMark (d.ingestRecord ctx guest) g.infl

/-- The sequence number that the guest's frames follow: what has been consumed or is in flight, a watermark that a gap policy has
moved, or what a first frame that did not publish followed (R485, R486). -/
def Dev.srvLast (d : Dev) (ctx guest : Nat) (g : SrvGuest) : Option (Nat × Nat) :=
  match laterMark (d.srvSeen ctx guest g) g.mark with
  | some x => some x
  | none => g.base

/-- The watermark that the ingest filter compares with: behind every gap given up (R484, R485). -/
def Dev.srvMark (d : Dev) (ctx guest : Nat) (g : SrvGuest) : Option (Nat × Nat) :=
  match laterMark (d.srvSeen ctx guest g) g.mark with
  | none => none
  | some x => g.held.foldl (fun m f => if f.passed then laterMark m (some ((f.seq + 2 ^ 32 - 1) % 2 ^ 32, x.2)) else m) (some x)

/-- Held frames in sequence order behind `last`. -/
def heldOrder (last : Nat) (l : List Frame) : List Frame :=
  sortBy (fun a b => decide (seqAhead last a.seq ≤ seqAhead last b.seq)) l

/-- The first frame of a sequence whose predecessor is missing, with the sequence number before the gap (R485). -/
def firstGap (last : Nat) : List Frame → Option (Nat × Frame)
  | [] => none
  | f :: l => if !f.passed && seqAhead last f.seq != 1 then some (last, f) else firstGap f.seq l

/-- The first gap of a guest. -/
def Dev.srvGap (d : Dev) (ctx guest : Nat) (g : SrvGuest) : Option (Nat × Frame) :=
  match d.srvLast ctx guest g with
  | some (last, _) => firstGap last (heldOrder last g.held)
  | none => none

/-! ### Frames of a command (R483) -/

/-- Frames that CP2 holds, in reorder windows and in batches whose result is not written. -/
def Dev.srvFrames (d : Dev) (ctx : Nat) : List Frame :=
  (((kvGet ctx d.srv.guests).getD []).flatMap fun x => x.2.held)
    ++ (d.srv.batches.filter fun b => b.ctx == ctx).flatMap fun b => b.frames.drop b.pos

/-- The held-frame pool is full (R483); a fill step has no samples to hold. -/
def Dev.poolFull (d : Dev) : Bool :=
  decide (65536 ≤ ((List.range 16).map fun c => (d.srvFrames c).countP fun f => !f.fill).sum)

/-- A SAMPLE_BATCH completes once every frame of its table has produced a result or been dropped (R483; 01 R23). `aux`: 1 its table is
ingested, 2 its stop has been seen to; a second element says that some frame did not end OK. -/
def Dev.sampleDone (d : Dev) (slot : Nat) : Dev :=
  match d.cmd? slot with
  | none => d
  | some c =>
    if c.phase != .running || c.aux.headD 0 == 0 || (d.srvFrames c.ctx).any (fun f => f.cmd == some slot) then d
    else d.endCmd slot (if c.aux.length = 1 then 0 else 1) 0 c.progress

/-- A frame of a command has its result, or has been dropped. -/
def Dev.frameEnds (d : Dev) (cmd : Option Nat) (result ok : Bool) : Dev :=
  match cmd with
  | none => d
  | some slot =>
    let d := d.updCmd slot fun c =>
      let c := if result then { c with done := c.done + 1 } else { c with total := c.total + 1 }
      if result && ok then c else { c with aux := [c.aux.headD 0, 1] }
    d.sampleDone slot

/-- Count a dropped frame (R484). -/
def Dev.dropFrame (d : Dev) (f : Fld) (cmd : Option Nat) : Dev := ((d.inc f).occur clsDropped).frameEnds cmd false false

/-! ### Open batches (R487) -/

/-- The room of a guest in the DEFAULT class is checked in or staged (01 R21). -/
def Dev.roomOut (d : Dev) (ctx guest : Nat) : Bool :=
  match (d.defaultClass ctx).bind fun k => d.room? k guest with
  | some r => r.state == .locked || r.state == .staged
  | none => false

def Dev.updBatch (d : Dev) (tag : Nat) (f : Batch → Batch) : Dev :=
  { d with srv := { d.srv with batches := d.srv.batches.map fun b => if b.tag = tag then f b else b } }

/-- Result-ring entries reserved for closed batches (R487). -/
def Dev.ringReserved (d : Dev) (ctx : Nat) : Nat :=
  ((d.srv.batches.filter fun b => b.ctx == ctx && b.layout.isSome).map fun b => b.frames.length - b.pos).sum

/-- Result-ring entries that CP2 may still reserve: one of them stays unused (R491). -/
def Dev.ringFree (d : Dev) (ctx : Nat) (r : SrvRing) : Nat :=
  let n := 2 ^ r.log2
  n - 1 - (d.rd (Reg.SRV_RING_TAIL.TAIL ctx) + n - d.rd (Reg.SRV_RING_HEAD.HEAD ctx) % n) % n - d.ringReserved ctx

/-- Close the context's open batches that are full, due or flushed, oldest first, while the ring has an entry for each frame (R487). -/
def Dev.srvClose (d : Dev) (ctx : Nat) : Dev :=
  match kvGet ctx d.srv.rings, kvGet ctx d.srv.lists with
  | some r, some l =>
    d.forEach (d.srv.batches.filter fun b => b.ctx == ctx && b.layout.isNone) fun b d =>
      if (b.due || b.flush || decide (64 ≤ b.frames.length)) && decide (b.frames.length ≤ d.ringFree ctx r) then
        d.updBatch b.tag fun b => { b with layout := some { l with out := r.size } }
      else d
  | _, _ => d

/-- A frame becomes ready: it is in flight, in an open batch (R484, R487). -/
def Dev.frameReady (d : Dev) (ctx : Nat) (f : Frame) : Dev :=
  let g := d.srvGuest ctx f.guest
  let d := d.setSrvGuest ctx f.guest { g with infl := some (f.seq, f.ts) }
  match d.srv.batches.find? fun b => b.ctx == ctx && b.layout.isNone && decide (b.frames.length < 64) with
  | some b => (d.updBatch b.tag fun b => { b with frames := b.frames ++ [f] }).srvClose ctx
  | none =>
    let b : Batch := { tag := d.cp0.nextSlot, ctx, frames := [f], due := false, flush := false, layout := none, core := 0, half := 0, step := 0
                       sts := [], resv := [], pos := 0 }
    ({ d with
      srv := { d.srv with batches := d.srv.batches ++ [b] }
      cp0 := { d.cp0 with nextSlot := (d.cp0.nextSlot + 1) % 2 ^ 32 } } : Dev).srvClose ctx

/-! ### Gaps (R485) -/

/-- One application of SRV_CFG.GAP_POLICY to the first gap of a guest. -/
def Dev.gapPolicy (d : Dev) (ctx guest : Nat) : Dev :=
  let g := d.srvGuest ctx guest
  let d := d.inc (Reg.SRV_GAP.GAPS ctx)
  let gap := d.srvGap ctx guest g
  let m := match gap with
    | some (last, f) => seqAhead last f.seq - 1
    | none => 0
  let pass (d : Dev) : Dev :=
    match gap with
    | some (_, f) =>
      d.setSrvGuest ctx guest { g with held := g.held.map fun (x : Frame) => if x.seq = f.seq then { x with passed := true } else x }
    | none => d
  match d.rd (Reg.SRV_CFG.GAP_POLICY ctx) with
  | 1 =>
    if d.rd (Reg.SRV_CFG.MAX_FILL ctx) < m then pass (d.inc (Reg.SRV_GAP.GAP_LONG ctx))
    else
      match gap with
      | none => d
      | some (last, _) =>
        let fill (i : Nat) : Frame :=
          { guest, seq := (last + 1 + i) % 2 ^ 32, ts := (Config.freeQWord (d.free + i)).toNat, samples := 0, data := [], fill := true, passed := false
            cmd := none, bell := none }
        let d := d.setSrvGuest ctx guest { g with held := g.held ++ (List.range m).map fill }
        { d with free := d.free + m }
  | 2 =>
    match d.srvLast ctx guest g with
    | none => d
    | some (last, _) =>
      match (heldOrder last g.held).getLast? with
      | none => d
      | some top =>
        let d := d.setSrvGuest ctx guest { g with held := [], mark := some (top.seq, top.ts) }
        d.forEach g.held fun f d => if f.fill then d else d.dropFrame (Reg.SRV_DROP_B.SKIPPED ctx) f.cmd
  | _ => pass d

/-- Make the guest's next frame ready when nothing is in flight; with GAP_US 0 a gap that opens is given up at once (R481, R485).
`fuel` bounds the applications. -/
def Dev.srvAdvance (d : Dev) (ctx guest : Nat) : (fuel : Nat) → Dev
  | 0 => d
  | n + 1 =>
    let g := d.srvGuest ctx guest
    let next : Option (Frame × Bool) := match d.srvLast ctx guest g with
      | some (last, _) => (heldOrder last g.held).head?.map fun (f : Frame) => (f, f.passed || seqAhead last f.seq == 1)
      | none => g.held.head?.map fun f => (f, true)
    match next with
    | none => d
    | some (f, next) =>
      if g.infl.isNone && next && !d.roomOut ctx guest then
        (d.setSrvGuest ctx guest { g with held := g.held.filter fun x => x.seq != f.seq, base := none }).frameReady ctx f |>.srvAdvance ctx guest n
      else if (d.srvGap ctx guest g).isSome && d.rd (Reg.SRV_CFG.GAP_US ctx) == 0 then (d.gapPolicy ctx guest).srvAdvance ctx guest n
      else d

/-- Make ready what can be; a guest has at most as many gaps as held frames. -/
def Dev.srvNext (d : Dev) (ctx guest : Nat) : Dev := d.srvAdvance ctx guest (2 * (d.srvGuest ctx guest).held.length + 2)

/-- Rooms have been checked out or unlocked: frames that waited for them become ready (01 R21). -/
def Dev.srvWake (d : Dev) : Dev :=
  d.forEach d.srv.guests fun (c, m) d => d.forEach m fun (g, x) d => if x.held.isEmpty then d else d.srvNext c g

end Sys2Proof.Machine
end

