-- ==== Sys2Proof/Machine/Inn.lean ====
section
/-!
DEFINITION. The Inn's commands and descriptors (chapter 14), scrubbing (13 R335).
-/
namespace Sys2Proof.Machine

/-! ### Parameter checks (R360–R365) -/

def innCfg (bad : Bool) (off : Nat) : PChk := pchk bad 0x0E02 off

/-- The parameter checks of the Inn's commands. -/
def innParams (c : Cmd) : List PChk :=
  match c.opcode with
  | 0x0401 =>
    let create := c.par 1 1 == 0
    [innCfg (decide (15 < c.par 0 1)) 0x00, innCfg (decide (1 < c.par 1 1)) 0x01,
      innCfg (create && !(decide (9 ≤ c.par 2 1 ∧ c.par 2 1 ≤ 18))) 0x02,
      innCfg (create && !(decide (1 ≤ c.par 4 4 ∧ c.par 4 4 ≤ 16777216))) 0x04]
  | 0x0402 =>
    [paddr c 0, innCfg (c.par 9 1 == 1 && c.par 0 8 % 128 != 0) 0x00, pchk (decide (15 < c.par 8 1)) 0x0E01 0x08,
      innCfg (decide (1 < c.par 9 1)) 0x09]
  | 0x0403 => [paddr c 0, innCfg (c.par 0 8 % 128 != 0) 0x00]
  | 0x0407 => [paddr c 8, innCfg (c.par 8 8 % 128 != 0) 0x08]
  | 0x0408 => [innCfg (decide (1 < c.par 4 1)) 0x04]
  | _ => []

/-- The address ranges of the Inn's commands. -/
def Dev.innRanges (d : Dev) (c : Cmd) : List (Bool × Nat × Nat) :=
  match c.opcode with
  | 0x0402 => if c.par 9 1 = 1 then [(false, c.par 0 8, d.roomSize (c.par 8 1) - 32)] else []
  | 0x0403 => if c.par 0 8 = 0 then [] else [(false, c.par 0 8, d.roomSize (c.par 0x0B 1 % 16) - 32)]
  | 0x0407 => [(true, c.par 8 8, d.roomSize (c.par 3 1 % 16))]
  | _ => []

/-! ### Class commands -/

/-- The first fit of a backing run of `n` bytes behind the 512 MiB of the index (R360, R377). -/
def Dev.backingFit (d : Dev) (n : Nat) : Option Nat :=
  let lo := d.rd Reg.INN_BACKING.BASE * gib + 0x20000000
  let hi := (d.rd Reg.INN_BACKING.BASE + d.rd Reg.INN_BACKING.SIZE) * gib
  let runs := d.inn.classes.map fun (k, c) => (c.base, d.rd (Reg.INN_CLASS.CAPACITY k) * d.roomSize k)
  let ok (a : Nat) : Bool := decide (lo ≤ a ∧ a + n ≤ hi) && !(runs.any fun r => overlap a n r.1 r.2)
  match (lo :: runs.map fun r => r.1 + r.2).filter ok with
  | [] => none
  | a :: l => some (l.foldl min a)

/-- INN_CAPACITY follows the classes. -/
def Dev.capacitySum (d : Dev) : Nat := (d.inn.classes.map fun x => d.rd (Reg.INN_CLASS.CAPACITY x.1)).sum

/-- A room state that refuses work: its major and detail (R366). -/
def roomBusy (s : RoomState) : Option Fail :=
  match s with
  | .locked | .staged => some ⟨0x09, 0x0E20, 0⟩
  | .busy => some ⟨0x09, 0x0E21, 0⟩
  | _ => none

/-- INN_CLASS_SET (R360). -/
def execInnClassSet (slot : Nat) (s : State) : Out := s.run fun d => d.onCmd slot 0x0401 fun c d =>
  let k := c.par 0 1
  let fl := c.par 3 1
  let cap := c.par 4 4
  let z := 2 ^ c.par 2 1
  if c.par 1 1 = 0 then
    if d.classOn k then d.endCmd slot 0x04 0x0E11 0
    else if 16777216 < d.capacitySum + cap then d.endCmd slot 0x04 0x0E12 0
    else
      match d.backingFit (cap * z) with
      | none => d.endCmd slot 0x04 0x0E13 0
      | some a =>
        let clash := bitAt fl 1 && (List.range 16).any fun q =>
          d.classOn q && d.classCtx q == c.ctx && d.on (Reg.INN_CLASS.DEFAULT q)
        if clash then d.endCmd slot 0x02 0x0E02 0x23
        else
          let lock := if c.par 8 2 = 0 then 100 else c.par 8 2
          let v := 1 + c.par 2 1 * 2 + c.ctx * 2 ^ 8 + fl % 8 * 2 ^ 12 + lock * 2 ^ 16 + cap * 2 ^ 32
          let d := d.setReg (Reg.INN_CLASS.EXISTS k).reg v
          let d := { d with inn := { d.inn with classes := kvPut k ⟨a, []⟩ d.inn.classes } }
          (d.wr Reg.INN_CAPACITY.SUM d.capacitySum).innStatus.okCmd slot
  else
    match d.classRefusal c.ctx k with
    | some e => d.endCmd slot e.major e.detail (refusedAt e 0x20)
    | none =>
      let rs := d.roomsOf fun r => r.cls == k
      if rs.any fun r => r.state == .locked || r.state == .staged then d.endCmd slot 0x09 0x0E20 0
      else if rs.any fun r => r.state == .busy then d.endCmd slot 0x09 0x0E21 0
      else
        let d := d.forEach rs fun r d => d.dropRoom r
        let d := { d with inn := { d.inn with classes := kvDel k d.inn.classes } }
        let d := d.setReg (Reg.INN_CLASS.EXISTS k).reg 0
        (d.wr Reg.INN_CAPACITY.SUM d.capacitySum).innStatus.okCmd slot

/-- Run an effect for a command on a class its context owns; `off`: where its entry names the class. -/
def Dev.onClass (d : Dev) (slot op off : Nat) (cls : Cmd → Nat) (f : Cmd → Nat → Dev → Dev) : Dev :=
  d.onCmd slot op fun c d =>
    match d.classRefusal c.ctx (cls c) with
    | some e => d.endCmd slot e.major e.detail (refusedAt e off)
    | none => (f c (cls c) d).innStatus

/-- INN_TEMPLATE_LOAD (R363). -/
def execInnTemplateLoad (slot : Nat) (s : State) : Out := s.run fun d => d.onClass slot 0x0402 0x28 (fun c => c.par 8 1) fun c k d =>
  let put (d : Dev) (bs : List Byte) : Dev :=
    { d with inn := { d.inn with classes := match kvGet k d.inn.classes with
      | some x => kvPut k { x with tmpl := bs } d.inn.classes
      | none => d.inn.classes } }
  if c.par 9 1 = 0 then (put d []).okCmd slot
  else
    match d.read byInn c.ctx (c.par 0 8) (d.roomSize k - 32) with
    | ⟨d, .error e⟩ => d.endCmd slot e.major e.detail 0
    | ⟨d, .ok bs⟩ => (put d bs).okCmd slot

/-- INN_LODGE (R364). A replaced room's image stays where it lies. -/
def execInnLodge (slot : Nat) (s : State) : Out := s.run fun d =>
  d.onClass slot 0x0403 0x2B (fun c => c.par 0x0B 1 % 16) fun c k d =>
    let g := c.par 8 3
    let step := c.par 0x10 4
    let old := d.room? k g
    let busy := old.bind fun r => roomBusy r.state
    match busy with
    | some e => d.endCmd slot e.major e.detail 0
    | none =>
      if old.isSome && !bitAt (c.par 0x0C 1) 0 then d.endCmd slot 0x02 0x0E03 0x28
      else if old.isNone && d.classFull k then d.endCmd slot 0x04 0x0E12 0
      else
        let src : Got := if c.par 0 8 = 0 then ⟨d, .ok (d.template k)⟩ else d.read byInn c.ctx (c.par 0 8) (d.roomSize k - 32)
        match src with
        | ⟨d, .error e⟩ => d.endCmd slot e.major e.detail 0
        | ⟨d, .ok bs⟩ =>
          match old with
          | none => (d.lodge k g step bs).okCmd slot
          | some r =>
            let d := d.innWrite r.addr (roomHeader k g step 0 0 (d.roomSize k) ++ bs)
            (d.setRoom { r with state := .idle, bad := false, step := step, epoch := 0, expired := none, prev := none, staged := none }).okCmd slot

/-- Run an effect for a command on a lodged room; a FREE guest fails with GUEST_NOT_LODGED (R366). -/
def Dev.onRoom (d : Dev) (slot op : Nat) (f : Cmd → Room → Dev → Dev) : Dev :=
  d.onClass slot op 0x23 (fun c => c.par 3 1 % 16) fun c k d =>
    match d.room? k (c.par 0 3) with
    | none => d.endCmd slot 0x02 0x0E04 0x20
    | some r => f c r d

/-- INN_RELEASE (R366). -/
def execInnRelease (slot : Nat) (s : State) : Out := s.run fun d => d.onRoom slot 0x0404 fun _ r d =>
  match roomBusy r.state with
  | some e => d.endCmd slot e.major e.detail 0
  | none => (d.dropRoom r).okCmd slot

/-- Bytes a context has pinned (R379). -/
def Dev.pinnedBytes (d : Dev) (ctx : Nat) : Nat :=
  ((d.roomsOf fun r => r.pinned && d.classCtx r.cls == ctx).map fun r => d.roomSize r.cls).sum

/-- INN_PIN (R366, R379). -/
def execInnPin (slot : Nat) (s : State) : Out := s.run fun d => d.onRoom slot 0x0405 fun c r d =>
  if r.state = .busy then d.endCmd slot 0x09 0x0E21 0
  else if r.state = .poisoned ∨ r.bad then d.endCmd slot 0x0A 0x0E22 0
  else if r.pinned then d.okCmd slot
  else if d.rd (Reg.INN_PIN_QUOTA.QUOTA c.ctx) * 0x10000 < d.pinnedBytes c.ctx + d.roomSize r.cls then
    (d.inc Reg.INN_ERR.PIN_REFUSED).endCmd slot 0x0B 0x0E23 0
  else (d.setRoom { r with pinned := true }).okCmd slot

/-- INN_UNPIN (R366). -/
def execInnUnpin (slot : Nat) (s : State) : Out := s.run fun d => d.onRoom slot 0x0406 fun _ r d =>
  (d.setRoom { r with pinned := false, clamped := false }).okCmd slot

/-- INN_READ_ROOM (R366, R376): the published image, whole. `bad`: words that turn out bad. -/
def execInnReadRoom (slot : Nat) (bad : List (Nat × Bool)) (s : State) : Out := s.run fun d =>
  d.onRoom slot 0x0407 fun c r d =>
    if r.state = .busy then d.endCmd slot 0x09 0x0E21 0
    else if r.state = .poisoned ∨ r.bad then d.endCmd slot 0x0A 0x0E22 0
    else
      let z := d.roomSize r.cls
      let d := d.sprout (bad.filter fun x => touchesWord r.addr z (x.1 / 8 * 8))
      match d.innRead c.ctx r.addr z with
      | (d, .bad) => (d.poison r).endCmd slot 0x0A 0x0E22 0
      | (d, .fail e) => d.endCmd slot e.major e.detail 0
      | (d, .ok bs) =>
        match d.write byInn c.ctx (c.par 8 8) bs with
        | ⟨d, some e⟩ => d.endCmd slot e.major e.detail 0
        | ⟨d, none⟩ => d.okCmd slot

/-- INN_QUERY (R367). -/
def execInnQuery (slot : Nat) (s : State) : Out := s.run fun d =>
  d.onClass slot 0x0408 0x23 (fun c => c.par 3 1 % 16) fun c k d =>
    if c.par 4 1 = 0 then
      match d.room? k (c.par 0 3) with
      | none => d.okCmd slot
      | some r =>
        let st := if r.bad then 5 else roomCode r.state
        d.okCmd slot (r.step + st * 2 ^ 32 + b2n r.pinned * 2 ^ 35 + b2n (inHall r.addr) * 2 ^ 36)
    else
      let rs := d.roomsOf fun r => r.cls == k
      d.okCmd slot (rs.length + (rs.countP fun r => inHall r.addr) * 2 ^ 32)

/-! ### INN_OP descriptors (R368–R371) -/

/-- Outcomes of R369. -/
def ocDone : Nat := 0
def ocLodged : Nat := 1
def ocBusy : Nat := 2
def ocPoisoned : Nat := 3
def ocNotLodged : Nat := 4
def ocClassFull : Nat := 5
def ocNotLocked : Nat := 6
def ocExpired : Nat := 7
def ocMismatch : Nat := 8
def ocDataError : Nat := 9
def ocStaged : Nat := 10

/-- An INN_OP's fields. -/
structure InnOp where
  core  : Nat
  ctx   : Nat
  cmd   : Nat
  list  : Nat
  spm   : Nat
  count : Nat
  op    : Nat
  cls   : Nat
  deriving DecidableEq, Repr

def Td.innOp (t : Td) : InnOp := ⟨t.core, t.ctx, t.cmd, t.f 0x18 8, t.f 0x20 8, t.f 0x28 2, t.f 0x2A 1, t.f 0x2B 1⟩

/-- The checks of an INN_OP, in order (R368). -/
def Dev.innRefusal (d : Dev) (x : InnOp) : Option Fail :=
  let z := d.roomSize x.cls
  let lo := spmBase x.core
  let inside (a n : Nat) : Bool := decide (lo ≤ a ∧ a + n ≤ lo + spmSize)
  match d.classRefusal x.ctx x.cls with
  | some e => some e
  | none =>
    if x.list % 4 ≠ 0 ∨ x.spm % 128 ≠ 0 ∨ !inside x.list (4 * x.count) ∨ !inside x.spm (x.count * z) then some ⟨0x02, 0x0E02, 0⟩
    else if d.quartersOn.isEmpty then some ⟨0x0F, 0x0E14, 0⟩
    else none

/-- The windows of an INN_OP: its list is read and written, its room area written by a CHECK_IN and read by a CHECK_OUT. -/
def Dev.innWindows (d : Dev) (x : InnOp) : Put :=
  let z := d.roomSize x.cls
  match d.windowCheck byInn x.ctx false x.list (4 * x.count) with
  | ⟨d, some e⟩ => ⟨d, some e⟩
  | ⟨d, none⟩ =>
    match d.windowCheck byInn x.ctx true x.list (4 * x.count) with
    | ⟨d, some e⟩ => ⟨d, some e⟩
    | ⟨d, none⟩ => if x.op = 2 then ⟨d, none⟩ else d.windowCheck byInn x.ctx (x.op == 0) x.spm (x.count * z)

/-- Go on with a result, or take up its failure. -/
def orElse {α : Type} (r : Except Fail α) (fail : Fail → Dev) (ok : α → Dev) : Dev :=
  match r with
  | .error e => fail e
  | .ok a => ok a

/-- Go on after an access, or take up its failure. -/
def Put.next (p : Put) (fail : Dev → Fail → Dev) (ok : Dev → Dev) : Dev :=
  match p with
  | ⟨d, some e⟩ => fail d e
  | ⟨d, none⟩ => ok d

/-- The end of an INN_OP: a failure, or its outcomes written behind the guests of its list (R369). -/
def Dev.innOpEnd (id : Nat) (x : InnOp) (guests : List Nat) (r : Dev × Except Fail (List Nat)) : Dev :=
  orElse r.2 (fun e => r.1.innStatus.failTd id e) fun ocs =>
    (r.1.innStatus.writeRaw byInn (some x.ctx) x.list ((guests.zip ocs).flatMap fun p => leBytes 3 p.1 ++ leBytes 1 p.2)).next
      (fun d e => d.failTd id e) fun d => d.finishTd id

/-- Run an INN_OP of a kind: its checks, its guest list, the effect, which answers the outcomes, and their writing. -/
def Dev.onInnOp (d : Dev) (id op : Nat) (waits : InnOp → List Nat → Dev → Bool)
    (f : InnOp → List Nat → Dev → Dev × Except Fail (List Nat)) : Dev :=
  match d.td? id with
  | none => d
  | some t =>
    let x := t.innOp
    let guests0 := (List.range x.count).map fun i => d.peekNat (x.list + 4 * i) 3
    if x.op ≠ op ∨ ((d.innRefusal x).isNone ∧ waits x guests0 d) then d
    else
      d.onTd id [0x50] fun _ d =>
        match d.innRefusal x with
        | some e => d.failTd id e
        | none =>
          match d.innWindows x with
          | ⟨d, some e⟩ => d.failTd id e
          | ⟨d, none⟩ =>
            match d.readRaw byInn (some x.ctx) x.list (4 * x.count) with
            | ⟨d, .error e⟩ => d.failTd id e
            | ⟨d, .ok bs⟩ =>
              let guests := (chunksOf 4 bs).map fun b => fieldAt b 0 3
              Dev.innOpEnd id x guests (f x guests d)

/-- What check-in makes of each listed guest before it locks any: its outcome, and whether it will be locked (R370). -/
def Dev.checkInPlan (d : Dev) (x : InnOp) : (guests seen : List Nat) → (room : Nat) → List Nat
  | [], _, _ => []
  | g :: gs, seen, left =>
    let again := seen.contains g
    match d.room? x.cls g, again with
    | _, true => ocBusy :: d.checkInPlan x gs seen left
    | some r, false =>
      match r.state with
      | .idle => ocDone :: d.checkInPlan x gs (g :: seen) left
      | .poisoned => ocPoisoned :: d.checkInPlan x gs seen left
      | _ => ocBusy :: d.checkInPlan x gs seen left
    | none, false =>
      if !d.on (Reg.INN_CLASS.AUTO_LODGE x.cls) then ocNotLodged :: d.checkInPlan x gs seen left
      else if left = 0 then ocClassFull :: d.checkInPlan x gs seen left
      else ocLodged :: d.checkInPlan x gs (g :: seen) (left - 1)

/-- Rooms a class still takes. -/
def Dev.classLeft (d : Dev) (cls : Nat) : Nat := d.rd (Reg.INN_CLASS.CAPACITY cls) - (d.roomsOf fun r => r.cls == cls).length

/-- Copy a room to scratchpad under its lock (R370, step 3). -/
def Dev.checkInRoom (d : Dev) (x : InnOp) (i g slot : Nat) : Dev × Except Fail Nat :=
  match d.room? x.cls g with
  | none => (d, .ok ocNotLodged)
  | some r =>
    let z := d.roomSize x.cls
    match d.innRead x.ctx r.addr z with
    | (d, .bad) => (d.poison r, .ok ocPoisoned)
    | (d, .fail e) => (d, .error e)
    | (d, .ok bs) =>
      let bs := bs.take 0x10 ++ leBytes 4 x.cmd ++ bs.drop 0x14
      let d := d.pokeNat (r.addr + 0x10) 4 x.cmd
      let d := d.inc (if inHall r.addr then Reg.INN_HALL_HITS.COUNT else Reg.INN_HALL_MISSES.COUNT)
      let d := (d.inc Reg.INN_CHECKINS.COUNT).setRoom
        { r with state := .locked, lock := some x.cmd, expired := none, resv := some slot, lastMs := d.timeMs }
      let d := d.trace 3 x.core (some x.ctx) none (some g) (some 0) (some r.step)
      match d.writeRaw byInn (some x.ctx) (x.spm + i * z) bs with
      | ⟨d, some e⟩ => (d, .error e)
      | ⟨d, none⟩ => (d, .ok ocDone)

/-- One guest of a CHECK_IN by its planned outcome. -/
def Dev.checkInGo (d : Dev) (x : InnOp) : List (Nat × Nat × Nat) → (ocs : List Nat) → Dev × Except Fail (List Nat)
  | [], ocs => (d, .ok ocs.reverse)
  | (i, g, plan) :: l, ocs =>
    if plan ≠ ocDone ∧ plan ≠ ocLodged then d.checkInGo x l (plan :: ocs)
    else
      let d := if plan = ocLodged then d.lodge x.cls g 0 (d.template x.cls) else d
      match d.hallSlotFor (d.roomSize x.cls) with
      | (d, none) => d.checkInGo x l (ocBusy :: ocs)
      | (d, some a) =>
        match d.checkInRoom x i g a with
        | (d, .error e) => (d, .error e)
        | (d, .ok o) => d.checkInGo x l ((if o = ocDone then plan else o) :: ocs)

/-- The hall can take a new image for every room the CHECK_IN locks, by evictions of other rooms (R378). -/
def Dev.checkInFits (d : Dev) (x : InnOp) (guests : List Nat) : Bool :=
  let plan := d.checkInPlan x guests [] (d.classLeft x.cls)
  let locks := (guests.zip plan).filter fun p => p.2 == ocDone || p.2 == ocLodged
  let hold (d : Dev) (g : Nat) : Dev :=
    match d.hallSlotFor (d.roomSize x.cls), d.room? x.cls g with
    | (d, some a), some r => d.setRoom { ((d.room? x.cls g).getD r) with state := .locked, resv := some a }
    | (d, some a), none =>
      let d := d.lodge x.cls g 0 []
      match d.room? x.cls g with
      | some r => d.setRoom { r with state := .locked, resv := some a }
      | none => d
    | (d, none), _ => d
  let d' := locks.foldl (fun d p => hold d p.1) d
  locks.all fun p => match d'.room? x.cls p.1 with
    | some r => r.resv.isSome
    | none => false

/-- CHECK_IN (R370): waits while the hall cannot take the new images (R378). `bad`: words that turn out bad. -/
def execCheckIn (id : Nat) (bad : List (Nat × Bool)) (s : State) : Out := s.run fun d =>
  d.onInnOp id 0 (fun x gs d => !d.checkInFits x gs) fun x gs d =>
    let d := d.sprout (bad.filter fun b => inHall b.1 || d.region b.1 == .reserved)
    let plan := d.checkInPlan x gs [] (d.classLeft x.cls)
    d.checkInGo x ((List.range gs.length).zip (gs.zip plan)) []

/-- One guest of a CHECK_OUT (R371, R373, R382). -/
def Dev.checkOutRoom (d : Dev) (x : InnOp) (i g : Nat) : Dev × Nat :=
  let z := d.roomSize x.cls
  let a := x.spm + i * z
  match d.room? x.cls g with
  | none => (d, ocNotLocked)
  | some r =>
    if r.state ≠ .locked ∨ r.lock ≠ some x.cmd then (d, if r.expired = some x.cmd then ocExpired else ocNotLocked)
    else
      match d.readRaw byInn (some x.ctx) a 32 with
      | ⟨d, .error _⟩ => (d, ocDataError)
      | ⟨d, .ok h⟩ =>
        if r.bad || fieldAt h 0 3 != g || fieldAt h 3 1 % 16 != x.cls || fieldAt h 4 4 != r.step || fieldAt h 0x10 4 != x.cmd then
          (d, ocMismatch)
        else
          match d.readRaw byInn (some x.ctx) (a + 32) (z - 32) with
          | ⟨d, .error _⟩ => (d, ocDataError)
          | ⟨d, .ok bs⟩ =>
            let new := r.resv.getD r.slot
            let d := d.innWrite new (roomHeader x.cls g ((r.step + 1) % 2 ^ 32) 0 0 z ++ bs)
            let d := d.trace 3 x.core (some x.ctx) none (some g) (some 1) (some r.step)
            if d.on (Reg.INN_CLASS.COMMIT_BOUND x.cls) then
              (d.setRoom { r with state := .staged, staged := some new, resv := none }, ocStaged)
            else (d.publishRoom r new 0 false, ocDone)

/-- CHECK_OUT (R371, R373). `bad`: words that turn out bad. -/
def execCheckOut (id : Nat) (bad : List (Nat × Bool)) (s : State) : Out := s.run fun d =>
  d.onInnOp id 1 (fun _ _ _ => false) fun x gs d =>
    let d := d.sprout (bad.filter fun b => d.region b.1 == .spm x.core)
    let (d, ocs) := ((List.range gs.length).zip gs).foldl (fun (acc : Dev × List Nat) p =>
      let (d, o) := acc.1.checkOutRoom x p.1 p.2
      (d, acc.2 ++ [o])) (d, [])
    ((d.innCeil x.ctx (d.inn.rooms.length + 1)).srvWake, .ok ocs)

/-- UNLOCK (R371). -/
def execUnlock (id : Nat) (s : State) : Out := s.run fun d =>
  d.onInnOp id 2 (fun _ _ _ => false) fun x gs d =>
    let (d, ocs) := gs.foldl (fun (acc : Dev × List Nat) g =>
      match acc.1.room? x.cls g with
      | some r =>
        if r.state = .locked ∧ r.lock = some x.cmd then
          ((acc.1.trace 3 x.core (some x.ctx) none (some g) (some 2) (some r.step)).unlock r none, acc.2 ++ [ocDone])
        else (acc.1, acc.2 ++ [if r.expired = some x.cmd then ocExpired else ocNotLocked])
      | none => (acc.1, acc.2 ++ [ocNotLocked])) (d, [])
    (d.srvWake, .ok ocs)

/-! ### What happens by itself -/

/-- LOCK_EXPIRY (R372): a room has been LOCKED for its class's timeout. -/
def execLockExpiry (cls guest : Nat) (s : State) : Out := s.run fun d =>
  match d.room? cls guest with
  | some r =>
    if r.state = .locked then
      let tag := r.lock.getD 0
      let d := (d.unlock r r.lock).inc Reg.INN_ERR.LOCK_EXPIRED
      (d.raise 0x0E02 clsContained (some (d.classCtx cls)) cls guest tag 0).innStatus.srvWake
    else d
  | none => d

/-- INN_EVICTION (R378): the next IDLE unpinned image leaves the hall. `bad`: words that turn out bad. -/
def execInnEviction (cls guest : Nat) (bad : List (Nat × Bool)) (s : State) : Out := s.run fun d =>
  match d.room? cls guest with
  | some r =>
    if (d.victim fun _ => true) == some r then
      ((d.sprout (bad.filter fun x => touchesWord r.addr (d.roomSize cls) (x.1 / 8 * 8))).evict r).innStatus
    else d
  | none => d

/-- PIN_MOVE_TO_HALL (R379, R380): a pinned image in HBM moves to the hall once there is space, by eviction. -/
def execPinMoveToHall (cls guest : Nat) (s : State) : Out := s.run fun d =>
  match d.room? cls guest with
  | some r =>
    if r.pinned && !inHall r.addr && r.state == .idle then
      match d.hallSlotFor (d.roomSize cls) with
      | (d, none) => d.innStatus
      | (d, some a) =>
        match d.innRead (d.classCtx cls) r.addr (d.roomSize cls) with
        | (d, .bad) => (d.poison r).innStatus
        | (d, .fail _) => d.innStatus
        | (d, .ok bs) => ((d.innWrite a bs).setRoom { r with addr := a, clamped := false }).innStatus
    else d
  | none => d

/-- SCRUB_READ (13 R335): a controller reads one word of its stack; an uncorrectable word of a published image poisons its room
(R376). -/
def execScrubRead (stack addr : Nat) (outcome : Ecc) (s : State) : Out := s.run fun d =>
  let w := addr / 8 * 8
  if d.hbmTop ≤ addr ∨ d.stackOf addr ≠ stack ∨ !d.stackReady stack then d
  else
    let d := match outcome with
      | .clean => d
      | .corrected => d.sprout [(w, false)]
      | .uncorrectable => d.sprout [(w, true)]
    if d.ue.contains w then
      let d := { d with led := { d.led with scrubbed := w :: d.led.scrubbed.filter fun x => x != w && d.ue.contains x } }
      let d := d.meetUe 3 w none
      match (d.roomsOf fun r => touchesWord r.addr (d.roomSize r.cls) w && r.state != .poisoned && !r.bad).head? with
      | some r => (d.poison r).innStatus
      | none => d
    else d.correctRange w 8

/-- A hall quarter is about to leave ON (R380): each IDLE image in it moves elsewhere in the hall, or to its backing slot.
Answers the rooms whose pin that clamps. -/
def Dev.hallVacate (d : Dev) (q : Nat) : Dev × List Room :=
  let here := d.roomsOf fun r => inHall r.addr && hallQuarter r.addr == q && (r.state == .idle || r.state == .poisoned)
  let move (acc : Dev × List Room) (r : Room) : Dev × List Room :=
    let (d, cl) := acc
    match d.innRead (d.classCtx r.cls) r.addr (d.roomSize r.cls) with
    | (d, .ok bs) =>
      match d.hallFree (d.quartersUse.filter fun x => x != q) (d.roomSize r.cls) with
      | some a => ((d.innWrite a bs).setRoom { r with addr := a }, cl)
      | none =>
        let d := (d.innWrite r.slot bs).setRoom { r with addr := r.slot, clamped := r.pinned }
        if r.pinned then (d, cl ++ [r]) else (d, cl)
    | (d, _) => ((if r.state = .poisoned then d else d.poison r) |>.setRoom
        { ((d.room? r.cls r.guest).getD r) with addr := r.slot, state := .poisoned }, cl)
  let (d, cl) := here.foldl move (d, [])
  (d.innStatus, cl)

/-- A LOCKED or STAGED room still holds a hall quarter (R380). -/
def Dev.hallHeld (d : Dev) (q : Nat) : Bool :=
  d.inn.rooms.any fun (_, r) =>
    ((r.addr :: r.resv.toList ++ r.staged.toList ++ (r.prev.map fun x => x.1).toList).any fun a => inHall a && hallQuarter a == q)
      && (r.state == .locked || r.state == .staged || r.prev.isSome || r.staged.isSome)

/-- A write of INN_PIN_QUOTA (R381): accepted while the context is IDLE and the sum of quotas stays within 384 units. -/
def Dev.pinQuotaWrite (d : Dev) (c v : Nat) : Dev :=
  let sum := (((List.range 16).filter fun k => k != c).map fun k => d.rd (Reg.INN_PIN_QUOTA.QUOTA k)).sum + bits v 0 9
  if d.ctxState c ≠ csIdle then d
  else if 384 < sum then d.inc Reg.INN_ERR.CFG_REFUSED
  else ((d.wr (Reg.INN_PIN_QUOTA.QUOTA c) (bits v 0 9)).wr (Reg.INN_PIN_QUOTA.CEIL c) (bits v 16 9)).innCeil c (d.inn.rooms.length + 1)

end Sys2Proof.Machine
end

