-- ==== Sys2Proof/Machine/PowBase.lean ====
section
/-!
DEFINITION. Power domains: classes and dependencies (19 R500, R509), requests and transitions (R502-R508), what needs a domain
(R503); the Unit State Table (21 R564-R567).
-/
namespace Sys2Proof.Machine

/-! ### Classes and dependencies (R500, R509) -/

/-- The classes of R500. -/
inductive DomClass where
  | fixed | core | hbm | inn | port | support | debug
  deriving DecidableEq, Repr

def domClass (pd : Nat) : DomClass :=
  if ([0, 1, 48, 58, 59, 63] : List Nat).contains pd then .fixed
  else if pd < 30 then .core
  else if pd < 42 then .hbm
  else if pd < 46 then .inn
  else if pd < 58 then (if (pd - 46) % 3 = 2 then .support else .port)
  else if pd = 62 then .debug
  else .support

/-- The core a core subdomain belongs to. -/
def domCoreOf (pd : Nat) : Nat := if pd < 16 then 0 else 1

/-- A SEQ domain. -/
def isSeq (pd : Nat) : Bool := pd == domSeq 0 || pd == domSeq 1

/-- The other domains of a core, in descending number. -/
def seqOthers (core : Nat) : List Nat := ((rangeFrom (2 + 14 * core) (16 + 14 * core)).filter fun x => !isSeq x).reverse

/-- The domain that must be ON before another wakes: a core's SEQ, a die's misc domain. -/
def wakeDep (pd : Nat) : Option Nat :=
  match domClass pd with
  | .core => if isSeq pd then none else some (domSeq (domCoreOf pd))
  | .port => some (48 + 3 * ((pd - 46) / 3))
  | _ => none

/-- The state that a target names. -/
def targetState (t : Nat) : Nat := if t = 0 then stOn else if t = 1 then stRetention else stOff

def Dev.domState (d : Dev) (pd : Nat) : Nat := d.rd (Reg.PWR_DOM.STATE pd)

/-- The ports of a port group. -/
def groupPorts (pd : Nat) : List Nat := rangeFrom (8 * ((pd - 46) / 3) + 4 * ((pd - 46) % 3)) (8 * ((pd - 46) / 3) + 4 * ((pd - 46) % 3) + 4)

/-! ### What needs a domain (R503; 21 R565) -/

/-- Scratchpad groups that the address fields of a descriptor name. -/
def tdGroups (t : TdWord) : List Nat :=
  ([0x18, 0x20, 0x28, 0x30, 0x38] : List Nat).filterMap fun o =>
    let a := tdf t o 8
    if spmBase 0 ≤ a ∧ a < spmBase 1 + spmSize then some (domSpm ((a - spmBase 0) / spmSize) ((a - spmBase 0) % spmSize / 0x1000000)) else none

/-- Domains that a descriptor needs on a core (DESIGN CHOICE, notes/assumptions/30.md). -/
def tdDoms (core : Nat) (t : TdWord) : List Nat :=
  (match tdKind t with
    | 0x10 | 0x11 => (List.range 4).map (domQuad core)
    | 0x20 => [domVe core]
    | 0x21 => [domRu core]
    | 0x30 => [domSu core]
    | 0x40 => [domSlv core]
    | 0x60 => [domPorters core]
    | _ => []) ++ domSeq core :: tdGroups t

/-- Domains that the stages of a routine need on a core beyond those of its descriptors. -/
def opDoms (op core : Nat) : List Nat :=
  if op = 0x0302 then (List.range 4).map (domQuad core) ++ [domVe core, domPorters core]
  else if op = 0x0303 then [domSu core, domPorters core]
  else if op = 0x0304 then [domSlv core]
  else if op = 0x0305 then [domVe core]
  else if op = 0x0502 ∨ op = 0x0503 then [domVe core, domSfu core, domRu core, domPorters core]
  else if (0x0201 ≤ op ∧ op ≤ 0x0205) ∨ op = 0x0603 then [domPorters core]
  else []

/-- A routine has a stage or chunk to come that needs a domain. -/
def Dev.needsDom (d : Dev) (c : Cmd) (pd : Nat) : Bool :=
  c.rclass != .short && !c.ofBatch && c.phase == .running && c.fin.isNone
    && ((c.todo.any fun x => (tdDoms x.1 x.2).contains pd)
      || ((d.cmdTds c.slot).any fun t => !t.started && tdBoundary t.td && (tdDoms t.core t.td).contains pd)
      || (decide (c.done + 1 < c.total) && (domClass pd == .hbm || c.cores.any fun k => (opDoms c.opcode k).contains pd)))

/-- Management preemption of every routine with a later stage that needs a domain (06 R162; R503; 21 R566). -/
def Dev.preemptFor (d : Dev) (pd : Nat) : Dev :=
  d.forEach d.cp0.cmds fun c d => if d.needsDom c pd then d.askStop c.slot 0x07 0x0620 else d

/-- Something other than domain `pd` still asks for the stop of a routine: another domain that drains, a unit out of service, a
firmware activation. -/
def Dev.stopWanted (d : Dev) (c : Cmd) : Bool :=
  d.fwActivating || (List.range 64).any fun p => (d.domState p == stDraining || d.unitState p != 0) && d.needsDom c p

/-- A drain is cancelled: stop requests that are still pending and no longer wanted fall away (R505). -/
def Dev.unpreempt (d : Dev) : Dev :=
  let f (c : Cmd) : Cmd :=
    if c.stop == some (0x07, 0x0620) && c.phase != .ended && c.fin.isNone && !d.stopWanted c then { c with stop := none } else c
  { d with cp0 := { d.cp0 with cmds := d.cp0.cmds.map f } }

/-! ### What a state change does (R507, R508) -/

/-- [a, a + n) reads zero with valid check bits. -/
def Dev.zeroRange (d : Dev) (a n : Nat) : Dev :=
  { d with
    mem := memClear d.mem a n
    undef := d.undef.flatMap (undefCut a n)
    ue := d.ue.filter fun w => !wholeWord a n w
    ce := d.ce.filter fun w => !wholeWord a n w }

/-- The VE program store of a core is cleared and every page is free but page 15 (09 R266). -/
def Dev.veClear (d : Dev) (core : Nat) : Dev :=
  let d := { d with veStore := d.veStore.filter fun x => x.1 / 1024 != core }
  (d.wr (Reg.VE_PAGES.USED core) 0x8000).wr (Reg.VE_PAGE_OWNER.CTX core) 0

/-- The user slots of a core's SFU are free (10 R281). -/
def Dev.sfuClear (d : Dev) (core : Nat) : Dev := { d with sfu := d.sfu.filter fun x => x.1 / 16 != core }

/-- A domain changes state: PWR_DOM, PWR_DOM_ON and, where it is ON or wakes, its target; traced (R523; 23 R601). -/
def Dev.setDom (d : Dev) (pd st : Nat) : Dev :=
  let d := d.wr (Reg.PWR_DOM.STATE pd) st
  let d := d.wr Reg.PWR_DOM_ON.ON (setBits (d.rd Reg.PWR_DOM_ON.ON) pd 1 (b2n (st == stOn)))
  let d := if st = stOn ∨ st = stWaking then d.wr (Reg.PWR_DOM.TARGET pd) 0 else d
  d.trace 6 pd none none none none none

/-- PENDING and PEND_TARGET (R506). -/
def Dev.setPend (d : Dev) (pd : Nat) (t : Option Nat) : Dev :=
  (d.wr (Reg.PWR_DOM.PENDING pd) (b2n t.isSome)).wr (Reg.PWR_DOM.PEND_TARGET pd) (t.getD 0)

def Dev.pend? (d : Dev) (pd : Nat) : Option Nat :=
  if d.on (Reg.PWR_DOM.PENDING pd) then some (d.rd (Reg.PWR_DOM.PEND_TARGET pd)) else none

/-- The device begins to drain what a domain holds (R503): an Inn quarter's images move, ports flush, capture stops, routines
with later stages in it are preempted. -/
def Dev.drainWork (d : Dev) (pd : Nat) : Dev :=
  let d := d.preemptFor pd
  match domClass pd with
  | .inn =>
    let q := pd - 42
    let (d, cl) := d.hallVacate q
    let v := d.freeVal
    let d := d.forEach cl fun _ d => d.inc Reg.INN_CLAMPS.COUNT
    if cl.isEmpty then d else (d.clamp 4 q 9 (bits v 0 16) (bits v 16 16)).freeNext
  | .port =>
    d.forEach (groupPorts pd) fun p d =>
      if d.portState p = psDisabled ∨ d.portState p = psDown then d
      else if (d.portState p = psUp ∨ d.portState p = psRetrain) ∧ !(d.port p).retry.isEmpty then d.setPort p { d.port p with drain := true }
      else d.portTo p psDown
  | .debug => d.wr Reg.DBG_STATUS.TRACING 0
  | _ => d

/-- The drain condition of a class holds (R503). -/
def Dev.drained (d : Dev) (pd : Nat) : Bool :=
  let quiet := !(d.seq.tds.any fun t => t.started && !t.finished && (tdDoms t.core t.td).contains pd)
  match domClass pd with
  | .core =>
    if isSeq pd then
      let core := domCoreOf pd
      let tgt := targetState (d.rd (Reg.PWR_DOM.TARGET pd))
      (d.seq.tds.all fun t => t.core != core) && (seqOthers core).all fun x => d.domState x == tgt || d.domState x == stOff
    else quiet
  | .inn => !(d.hallExtents.any fun e => hallQuarter e.1 == pd - 42)
  | .port => (groupPorts pd).all fun p => d.portState p == psDown || d.portState p == psDisabled
  | .support => pd < 60 || !(d.porters.any fun x => domPorters (porterCore x.1) == pd)
  | .debug => !d.on Reg.DBG_STATUS.TRACING && !(d.dbg.dump.any fun x => x.trace)
  | _ => true

/-- A domain reaches RETENTION or OFF: what that state does not keep is gone; a stack is in self-refresh (R508). -/
def Dev.lowEffect (d : Dev) (pd : Nat) (off : Bool) : Dev :=
  match domClass pd with
  | .core =>
    let core := domCoreOf pd
    if !off then d
    else if pd = domVe core then d.veClear core
    else if pd = domSfu core then d.sfuClear core
    else d
  | .hbm => d.wr (Reg.MEM_STATUS.SELF_REFRESH (pd - 30)) 1
  | .debug => if off then (({ d with dbg := { d.dbg with trace := [] } } : Dev).wr Reg.DBG_TRACE_WR.INDEX 0).wr Reg.DBG_TRACE_WR.WRAPPED 0 else d
  | _ => d

/-- A domain reaches ON after a wake (R507, R508; 13 R339): a scratchpad group that was OFF reads zero; a stack leaves self-refresh. -/
def Dev.wakeEffect (d : Dev) (pd : Nat) (off : Bool) : Dev :=
  match domClass pd with
  | .core =>
    let core := domCoreOf pd
    if off && decide (domSpm core 0 ≤ pd) then d.zeroRange (spmBase core + (pd - domSpm core 0) * 0x1000000) 0x1000000 else d
  | .hbm => d.wr (Reg.MEM_STATUS.SELF_REFRESH (pd - 30)) 0
  | _ => d

/-- A waking domain may reach ON: every port of a waking group is UP, DOWN or DISABLED (R507). -/
def Dev.wakeReady (d : Dev) (pd : Nat) : Bool :=
  domClass pd != .port || (groupPorts pd).all fun p => ([psDisabled, psDown, psUp, psRetrain] : List Nat).contains (d.portState p)

/-! ### Requests (R502, R505, R506, R509) -/

/-- ON to DRAINING. -/
def Dev.beginDrain (d : Dev) (pd t : Nat) : Dev :=
  let d := ((d.setPend pd none).wr (Reg.PWR_DOM.TARGET pd) t).inc (Reg.PWR_DOM.TRANSITIONS pd)
  (d.setDom pd stDraining).drainWork pd

/-- DRAINING back to ON: nothing is lost (R505). -/
def Dev.cancelDrain (d : Dev) (pd : Nat) : Dev :=
  let d := if domClass pd = .port then d.forEach (groupPorts pd) fun p d => d.setPort p { d.port p with drain := false } else d
  (d.setDom pd stOn).unpreempt

/-- RETENTION or OFF to WAKING, when an ON request is pending and the minimum dwell has ended. -/
def Dev.wakeNow (d : Dev) (pd : Nat) : Dev :=
  let st := d.domState pd
  if (st = stRetention ∨ st = stOff) ∧ d.pend? pd = some 0 ∧ d.pwr.dwell.contains pd then
    let d := { d with pwr := { d.pwr with
      dwell := d.pwr.dwell.filter fun x => x != pd
      fromOff := if st = stOff then pd :: d.pwr.fromOff else d.pwr.fromOff } }
    (d.setPend pd none).setDom pd stWaking
  else d

/-- The domain that another waits for is bound for ON. -/
def Dev.depOn (d : Dev) (pd : Nat) : Dev :=
  let st := d.domState pd
  if st = stOn ∨ st = stAbsent then d
  else if st = stDraining then d.cancelDrain pd
  else if st = stWaking then d.setPend pd none
  else (d.setPend pd (some 0)).wakeNow pd

/-- A domain but SEQ acts on its pending request in a settled state. -/
def Dev.actOne (d : Dev) (pd : Nat) : Dev :=
  let st := d.domState pd
  match d.pend? pd with
  | none => d
  | some t =>
    if st = stOn then (if t = 0 then d.setPend pd none else d.beginDrain pd t)
    else if st = stRetention ∨ st = stOff then
      if t = 0 then
        match wakeDep pd with
        | some x => if d.domOn x then d.wakeNow pd else d.depOn x
        | none => d.wakeNow pd
      else if t = 2 ∧ st = stRetention then ((d.setPend pd none).wr (Reg.PWR_DOM.TARGET pd) 2).setDom pd stIsolated
      else d.setPend pd none
    else d

/-- A request to a domain but SEQ. -/
def Dev.reqOne (d : Dev) (pd t : Nat) : Dev :=
  let st := d.domState pd
  if st = stOn then (if t = 0 then d else d.beginDrain pd t)
  else if st = stDraining then (if t = 0 then d.cancelDrain pd else d.wr (Reg.PWR_DOM.TARGET pd) t)
  else if (d.pend? pd).isNone ∧ t = d.rd (Reg.PWR_DOM.TARGET pd) then d
  else (d.setPend pd (some t)).actOne pd

/-- The other domains of a core go to the target of its SEQ domain first (R509). -/
def Dev.othersDown (d : Dev) (core t : Nat) : Dev :=
  d.forEach (seqOthers core) fun x d => if d.domState x = targetState t ∨ d.domState x = stOff then d else d.reqOne x t

/-- A domain acts on its pending request. -/
def Dev.domAct (d : Dev) (pd : Nat) : Dev :=
  if !isSeq pd then d.actOne pd
  else
    let core := domCoreOf pd
    match d.pend? pd with
    | none => d
    | some t =>
      if t = 0 then d.actOne pd
      else if d.domState pd = stOn then (d.othersDown core t).beginDrain pd t
      else if t = 2 ∧ d.domState pd = stRetention ∧ !(seqOthers core).all (fun x => d.domState x == stOff) then d.othersDown core 2
      else d.actOne pd

/-- A request reaches a domain (R502, R506, R509). -/
def Dev.domRequest (d : Dev) (pd t : Nat) : Dev :=
  if isSeq pd then
    let d := if t ≠ 0 ∧ d.domState pd ≤ stDraining then d.othersDown (domCoreOf pd) t else d
    if d.domState pd ≤ stDraining then d.reqOne pd t
    else if (d.pend? pd).isNone ∧ t = d.rd (Reg.PWR_DOM.TARGET pd) then d
    else (d.setPend pd (some t)).domAct pd
  else
    let d := match t, wakeDep pd with
      | 0, some x => if d.domState pd = stOn then d else d.depOn x
      | _, _ => d
    d.reqOne pd t

/-- PWR_DOMAIN_SETs with WAIT whose domain has reached its target complete; RETENTION asked of an OFF domain leaves it OFF (R502,
R511). -/
def Dev.domWaits (d : Dev) : Dev :=
  d.forEach d.pwr.waiting fun (slot, pd, t) d =>
    let st := d.domState pd
    if st = targetState t ∨ (t = 1 ∧ st = stOff ∧ (d.pend? pd).isNone) then
      ({ d with pwr := { d.pwr with waiting := d.pwr.waiting.filter fun x => x.1 != slot } } : Dev).okCmd slot st
    else d

/-! ### The Unit State Table (21 R564-R567) -/

/-- A sensor or effecter that changes state sends a management event, without a code of 22 R584 (21 R553; DEDUCED, notes/assumptions/31.md). -/
def Dev.sensorEvent (d : Dev) (id value : Nat) : Dev :=
  d.mgmtEvent ⟨0, clsInfo, none, d.rd Reg.ERR_EVT_SEQ.SEQ, d.timeNs, 0, id, value, 0, none⟩

/-- A joint write: the power target, and whether management set it (21 R564, R568). -/
def Dev.unitPower (d : Dev) (u t : Nat) (byMgmt : Option Bool) : Dev :=
  let d := (d.wr (Reg.MGT_UNIT.PWR_TARGET u) t).incMod (Reg.MGT_UNIT.GEN u)
  match byMgmt with
  | some b => d.wr (Reg.MGT_UNIT.PWR_BY_MGMT u) (b2n b)
  | none => d

/-- A write of one view: GEN + 1; the unit's state follows; UNIT_DISAGREE on entry into QUARANTINED, UNIT_AGREED on leaving it; a unit
that leaves IN_SERVICE stops the routines with later stages in it (21 R565-R567). Writer: 0 data path, 1 management. -/
def Dev.unitWrite (d : Dev) (u : Nat) (safety : Bool) (v writer : Nat) : Dev :=
  let old := d.unitState u
  let d := (d.wr (if safety then Reg.MGT_UNIT.SAFETY u else Reg.MGT_UNIT.WORK u) v).incMod (Reg.MGT_UNIT.GEN u)
  let new := d.unitState u
  let d := d.wr (Reg.MGT_UNIT.STATE u) new
  if new = old then d
  else
    let gen := d.rd (Reg.MGT_UNIT.GEN u)
    let views := d.rd (Reg.MGT_UNIT.WORK u) + 2 * d.rd (Reg.MGT_UNIT.SAFETY u)
    let d := if old = 0 ∧ u < 64 then d.preemptFor u else d
    let d := if new = 2 then
        ((d.inc Reg.MGT_DISAGREE.COUNT).alert Reg.MGT_ALERT_STATUS.QUARANTINE).raise 0x1503 clsContained none (views + 4 * writer) u gen 0 .yes
      else if old = 2 then d.raise 0x1504 clsInfo none new u gen 0 .yes
      else d
    d.sensorEvent (0x100 + u) (new + 1)

/-- A unit that the assembly has. -/
def Dev.unitPresent (d : Dev) (u : Nat) : Bool := if u < 64 then d.domPresent u else decide (u < 64 + d.ports)

/-- A unit that cannot be taken out of service (21 R569). -/
def unitFixed (u : Nat) : Bool := ([0, 1, 48, 58, 59, 63] : List Nat).contains u

end Sys2Proof.Machine
end

