-- ==== Sys2Proof/Machine/Ring.lean ====
section
/-!
DEFINITION. The event ring (22 R579–R582) and the trace unit's control (23 R600–R602).
-/
namespace Sys2Proof.Machine

/-! ### The event ring -/

/-- Parameter checks of EVENT_RING_SET; OP 1 ignores RING and LOG2 (R579). -/
def Dev.ringSetParams (d : Dev) (c : Cmd) : List PChk :=
  let r := c.par 0 8
  let place := d.region r == .spm 0 || d.region r == .spm 1
  if c.par 9 1 = 1 then []
  else [paddr c 0, pchk (r % 4096 != 0 || place) 0x1603 0, pchk (decide (c.par 8 1 < 6) || decide (16 < c.par 8 1)) 0x1603 8,
    pchk (decide (1 < c.par 9 1)) 0x1603 9]

/-- Its range: the ring, for writing. -/
def ringSetRanges (c : Cmd) : List (Bool × Nat × Nat) :=
  if c.par 9 1 = 1 then [] else [(true, c.par 0 8, 32 * 2 ^ c.par 8 1)]

/-- EVENT_RING_SET (R579): the ring's host address is latched; pending events follow once the command has run. -/
def execEventRingSet (slot : Nat) (s : State) : Out := s.run fun d => d.onCmd slot 0x0105 fun c d =>
  if c.par 9 1 = 1 then (d.wr Reg.ERR_EVT_CFG.EN 0).okCmd slot
  else
    let r := c.par 0 8
    let host := d.region r == .host
    let d := (d.wr Reg.ERR_EVT_BASE.BASE (r / 4096)).wr Reg.ERR_EVT_CFG.LOG2 (c.par 8 1)
    let d := (d.wr Reg.ERR_EVT_CFG.EN 1).wr Reg.ERR_EVT_HEAD.HEAD 0
    let d := (d.wr Reg.ERR_EVT_TAIL.TAIL 0).wr Reg.ERR_EVT_TAIL.PHASE 1
    ({ d with evt := { d.evt with ringHost := host, ringAddr := if host then d.hostAddr c.ctx r else r } } : Dev).okCmd slot

/-- ERR_EVT_HEAD written: entries are released; the pending events follow in order when the command ends (R581, R582). -/
def Dev.eventHeadWrite (d : Dev) (v : Nat) : Dev := d.wr Reg.ERR_EVT_HEAD.HEAD (bits v 0 16)

/-- ERR_EVT_HEAD_WRITE (R581); the ERR block is served while domains are held (R590). -/
def execErrEvtHeadWrite (value : Word) (s : State) : Out := s.run fun d =>
  if d.board.tripped then d else d.eventHeadWrite value.toNat

/-! ### The trace unit (23 R601) -/

/-- Start capture for an owner: 1 the host, 2 Hehus. -/
def Dev.traceStart (d : Dev) (owner sources filter : Nat) (wrap : Bool) : Dev :=
  let d := { d with dbg := { d.dbg with trSources := sources, trWrap := wrap, trFilter := filter, trBurst := [], trLost := [] } }
  (d.wr Reg.DBG_STATUS.TRACING 1).wr Reg.DBG_STATUS.OWNER owner

/-- Stop capture: the ownership ends. -/
def Dev.traceStop (d : Dev) : Dev := (d.wr Reg.DBG_STATUS.TRACING 0).wr Reg.DBG_STATUS.OWNER 0

/-- Clear the buffer. -/
def Dev.traceClear (d : Dev) : Dev :=
  (({ d with dbg := { d.dbg with trace := [] } } : Dev).wr Reg.DBG_TRACE_WR.INDEX 0).wr Reg.DBG_TRACE_WR.WRAPPED 0

/-- The newest `n` records, oldest first. -/
def Dev.traceNewest (d : Dev) (n : Nat) : List (List Byte) := d.dbg.trace.drop (d.dbg.trace.length - n)

/-- Parameter checks of TRACE_CTL. -/
def Dev.traceParams (d : Dev) (c : Cmd) : List PChk :=
  pchk (decide (3 < c.par 0 1)) 0x1701 0
    :: (match c.par 0 1 with
      | 1 => [pchk (decide (1 < c.par 2 1)) 0x1701 2, pchk (decide (15 < c.par 3 1) && c.par 3 1 != 0xFF) 0x1701 3]
      | 3 => [pchk (c.par 4 4 == 0 || decide (traceSize < c.par 4 4)) 0x1701 4, paddr c 8,
          pchk (c.par 8 8 % 32 != 0 || !(d.region (c.par 8 8) == .hbm || d.region (c.par 8 8) == .reserved)) 0x1701 8]
      | _ => [])

/-- Its range: what a dump writes. -/
def traceRanges (c : Cmd) : List (Bool × Nat × Nat) := if c.par 0 1 = 3 then [(true, c.par 8 8, 32 * c.par 4 4)] else []

/-- TRACE_CTL (R601). -/
def execTraceCtl (slot : Nat) (s : State) : Out := s.run fun d => d.onCmd slot 0x0804 fun c d =>
  let op := c.par 0 1
  let power := if op % 2 = 1 then d.unitBlocked [domDebug] 0x1703 else none
  match power with
  | some e => d.endCmd slot e.major e.detail 0
  | none =>
    if op ≠ 3 ∧ d.rd Reg.DBG_STATUS.OWNER = 2 then d.endCmd slot 0x04 0x1702 0
    else if op = 0 then d.traceStop.okCmd slot
    else if op = 1 then (d.traceStart 1 (c.par 1 1) (c.par 3 1) (c.par 2 1 == 1)).okCmd slot
    else if op = 2 then d.traceClear.okCmd slot
    else
      let l := d.traceNewest (c.par 4 4)
      match d.write byCp c.ctx (c.par 8 8) l.flatten with
      | ⟨d, some e⟩ => d.endCmd slot e.major e.detail 0
      | ⟨d, none⟩ => d.okCmd slot l.length

end Sys2Proof.Machine
end

