-- ==== Sys2Proof/Machine/Firmware.lean ====
section
/-!
DEFINITION. SPI NOR and firmware (20 R535–R545): the slot selector and boot configuration records, the image checks, FW_STAGE,
FW_ACTIVATE, BOOT_CFG_WRITE.
-/
namespace Sys2Proof.Machine

/-! ### Records in two copies (R537, R538; 06 R169) -/

/-- A copy of an `n`-byte record is valid: its CRC-64 stands in its last 8 bytes. -/
def copyValid (n : Nat) (b : List Byte) : Bool := b.length == n && fieldAt b (n - 8) 8 == crc64 (b.take (n - 8))

/-- The valid copy with the higher GEN, which stands at offset `g`. -/
def copyInForce (n g : Nat) (a b : List Byte) : Option (List Byte) :=
  match copyValid n a, copyValid n b with
  | true, true => some (if fieldAt a g 4 < fieldAt b g 4 then b else a)
  | true, false => some a
  | false, true => some b
  | false, false => none

/-- Copy A is the one to write: copy B is in force. -/
def writesA (n g : Nat) (a b : List Byte) : Bool :=
  !copyValid n a || (copyValid n b && decide (fieldAt a g 4 < fieldAt b g 4))

/-- `n` bytes with the fields (offset, size, value) replaced. -/
def bytesPut (b : List Byte) (fields : List (Nat × Nat × Nat)) : List Byte :=
  fields.foldl (fun b (o, l, v) => b.take o ++ leBytes l v ++ b.drop (o + l)) b

/-- A record with its CRC. -/
def sealCopy (n : Nat) (b : List Byte) : List Byte := b.take (n - 8) ++ leBytes 8 (crc64 (b.take (n - 8)))

/-! ### The slot selector (R537) -/

/-- EMPTY, WRITING, VALID, FAILED. -/
def fwEmpty : Nat := 0
def fwWriting : Nat := 1
def fwValid : Nat := 2
def fwFailed : Nat := 3

/-- With neither copy valid: ACTIVE slot A, TRIAL none, and both slots left to their image checks (DESIGN CHOICE, notes/assumptions/33.md). -/
def selDefault : List Byte := bytesPut (zeros 64) [(1, 1, 0xFF), (2, 1, fwValid), (3, 1, fwValid)]

def Dev.selector (d : Dev) : List Byte := (copyInForce 64 4 d.boot.selA d.boot.selB).getD selDefault

def Dev.fwActive (d : Dev) : Nat := fieldAt d.selector 0 1 % 2
def Dev.fwTrial (d : Dev) : Nat := fieldAt d.selector 1 1
def Dev.fwState (d : Dev) (s : Nat) : Nat := fieldAt d.selector (2 + s) 1
def Dev.fwPrev (d : Dev) : Nat := fieldAt d.selector 8 1 % 2
def Dev.fwCommitSvn (d : Dev) : Bool := bitAt (fieldAt d.selector 9 1) 0

/-- The contents of a slot. -/
def Dev.fwSlot (d : Dev) (s : Nat) : List Byte := if s = 0 then d.boot.slotA else d.boot.slotB

/-- VERSION of the image in a slot. -/
def Dev.fwVersion (d : Dev) (s : Nat) : Nat := fieldAt (d.fwSlot s) 8 4

/-- RST_FW and RST_FW_VER follow the selector (R546). -/
def Dev.fwShow (d : Dev) : Dev :=
  let d := (d.wr Reg.RST_FW.A_STATE (d.fwState 0)).wr Reg.RST_FW.B_STATE (d.fwState 1)
  let d := (d.wr Reg.RST_FW.ACTIVE d.fwActive).wr Reg.RST_FW.ACT_PENDING (b2n d.boot.actPending)
  d.forEach [0, 1] fun s d => d.wr (Reg.RST_FW_VER.VERSION s) (if d.fwState s = fwValid then d.fwVersion s else 0)

/-- One selector write: the copy not in force takes the fields and the next GEN (R537; 06 R169). -/
def Dev.selWrite (d : Dev) (fields : List (Nat × Nat × Nat)) : Dev :=
  let old := d.selector
  let new := sealCopy 64 (bytesPut old (fields ++ [(4, 4, fieldAt old 4 4 + 1)]))
  let d := if writesA 64 4 d.boot.selA d.boot.selB then { d with boot := { d.boot with selA := new } }
    else { d with boot := { d.boot with selB := new } }
  d.fwShow

/-- Write a slot's state. -/
def Dev.fwMark (d : Dev) (s st : Nat) : Dev := d.selWrite [(2 + s, 1, st)]

/-- Program bytes of a slot; erased flash reads 0xFF. -/
def flashPut (b : List Byte) (off : Nat) (bs : List Byte) : List Byte :=
  (b ++ List.replicate (off - b.length) 0xFF).take off ++ bs ++ b.drop (off + bs.length)

def Dev.setSlot (d : Dev) (s : Nat) (b : List Byte) : Dev :=
  if s = 0 then { d with boot := { d.boot with slotA := b } } else { d with boot := { d.boot with slotB := b } }

/-! ### Images (R536) -/

/-- 15 MiB, a slot. -/
def slotBytes : Nat := 0xF00000

/-- Revision ID at A1 (04 R93; 23 R603). -/
def revisionId : Nat := 1

/-- The body of an image. -/
def fwBody (img : List Byte) : List Byte := (img.drop 0x1000).take (fieldAt img 0x10 4)

/-- Why an image is not acceptable: FW_SIGNATURE, FW_STEPPING or FW_ROLLBACK (R536, R547). -/
def Dev.fwFault (d : Dev) (img : List Byte) : Option Nat :=
  let key := fieldAt img 6 1
  let n := fieldAt img 0x10 4
  let header := fieldAt img 0 4 == 0x57464C50 && fieldAt img 4 2 == 1 && decide (key < 4) && !bitAt d.board.keysRevoked key
    && Config.signatureOk key (img.take 0x100) ((img.drop 0x100).take 0x60)
    && decide (1 ≤ n ∧ n + 0x1000 ≤ slotBytes ∧ n + 0x1000 ≤ img.length) && decide (fieldAt img 0x0C 4 ≤ 63)
    && Config.sha384 (fwBody img) == (img.drop 0x20).take 48
  if !header then some 0x1420
  else if !bitAt (fieldAt img 7 1) revisionId then some 0x1423
  else if fieldAt img 0x0C 4 < d.board.svnFuse then some 0x1421
  else none

/-! ### FW_STAGE (R542) -/

/-- Parameter checks. -/
def Dev.fwStageParams (d : Dev) (c : Cmd) : List PChk :=
  let a := c.par 0 8
  [paddr c 0, pchk (a % 4096 != 0 || !(d.region a == .hbm || d.region a == .reserved)) 0x1410 0,
    pchk (decide (c.par 8 4 ≤ 0x1000) || decide (slotBytes < c.par 8 4)) 0x1410 8]

def fwStageRanges (c : Cmd) : List (Bool × Nat × Nat) := [(false, c.par 0 8, c.par 8 4)]

/-- An update may not begin: an activation is pending, a trial runs, a PLDM update runs (R542; 21 R557). -/
def Dev.fwBusy (d : Dev) : Bool := d.boot.actPending || d.on Reg.RST_STATUS.TRIAL || d.mgt.upd.active || d.fwActivating

/-- A FW_STAGE of other parameters has begun and runs. -/
def Dev.fwStaging (d : Dev) (c : Cmd) : Bool :=
  d.cp0.cmds.any fun x => x.opcode == 0x0A03 && x.slot != c.slot && x.phase == .running && x.total != 0
    && (x.par 0 8 != c.par 0 8 || x.par 8 4 != c.par 8 4)

/-- Before any flash write: the command is refused while another update runs, and the copy in HBM is checked. -/
def Dev.fwStageCheck (d : Dev) (c : Cmd) : Dev :=
  if d.fwBusy || d.fwStaging c then d.endCmd c.slot 0x04 0x1431 0
  else
    match d.read byCp c.ctx (c.par 0 8) (c.par 8 4) with
    | ⟨d, .error e⟩ => d.endCmd c.slot e.major e.detail 0
    | ⟨d, .ok img⟩ =>
      match d.fwFault img with
      | some det => d.endCmd c.slot 0x0E det 0
      | none => if fieldAt img 0x10 4 + 0x1000 = c.par 8 4 then d else d.endCmd c.slot 0x02 0x1410 0x28

/-- One 64 KiB chunk: the slot is WRITING, erased at the first chunk, programmed and read back; VALID after the last. `ok`: the
read-back matches. -/
def Dev.fwChunk (d : Dev) (c : Cmd) (ok : Bool) : Dev × Except Fail Cmd :=
  let o := 0x10000 * c.done
  let n := min 0x10000 (c.par 8 4 - o)
  let t := 1 - d.fwActive
  match d.read byCp c.ctx (c.par 0 8 + o) n with
  | ⟨d, .error e⟩ => (d, .error e)
  | ⟨d, .ok bs⟩ =>
    let d := if d.fwState t = fwWriting then d else d.fwMark t fwWriting
    let d := d.setSlot t (flashPut (if c.done = 0 then [] else d.fwSlot t) o bs)
    if !ok then (d, .error ⟨0x0E, 0x1422, 0⟩)
    else if c.done + 1 = c.total then (d.fwMark t fwValid, .ok c)
    else (d, .ok c)

/-- FW_STAGE (R542): each command runs one chunk; `ok` says whether its flash read back as written. -/
def execFwStage (slot : Nat) (ok : Bool) (s : State) : Out := s.run fun d =>
  let d := d.onRoutine slot 0x0A03 fun c d => if c.total = 0 then d.fwStageCheck c else d
  match d.cmd? slot with
  | some c => d.longRun slot 0x0A03 (cdiv (c.par 8 4) 0x10000) 0 [] (fun c => c.par 8 4) fun c d => d.fwChunk c ok
  | none => d

/-! ### FW_ACTIVATE (R543) -/

def fwActivateParams (c : Cmd) : List PChk := [pchk (decide (1 < c.par 0 1)) 0x1410 0, pchk (decide (1 < c.par 1 1)) 0x1410 1]

/-- Why a slot may not be activated: it is not VALID, or its image fails the check. -/
def Dev.fwActivateFault (d : Dev) (s : Nat) : Option (Nat × Nat) :=
  if d.fwState s ≠ fwValid then some (0x0F, 0x1430) else (d.fwFault (d.fwSlot s)).map fun det => (0x0E, det)

/-- Select a slot for trial: one selector write, none when it is ACTIVE already. `now`: by WARM reset, else at the next reset. -/
def Dev.fwSelect (d : Dev) (s : Nat) (commitSvn now : Bool) : Dev :=
  if s = d.fwActive then d
  else
    let d := { d with boot := { d.boot with actPending := !now } }
    d.selWrite [(8, 1, d.fwActive), (0, 1, s), (1, 1, s), (9, 1, b2n commitSvn)]

/-- MODE 1: commands not started end with FW_ACTIVATION; every running routine stops by management preemption (06 R162). -/
def Dev.fwStopAll (d : Dev) (own : Option Nat) : Dev :=
  d.forEach (d.cp0.cmds.filter fun c => some c.slot != own) fun c d =>
    if c.phase == .running then d.stopCmd c.slot 0x07 0x0620 else d.stopCmd c.slot 0x06 0x1402

/-- FW_ACTIVATE (R543): its completion, written last, is followed by the WARM reset. -/
def execFwActivate (slot : Nat) (s : State) : Out := s.run fun d => d.onCmd slot 0x0A04 fun c d =>
  match d.fwActivateFault (c.par 0 1) with
  | some (mj, dt) => d.endCmd slot mj dt 0
  | none =>
    let now := c.par 1 1 == 1
    let d := d.fwSelect (c.par 0 1) (bitAt (c.par 2 1) 0) now
    (if now then d.fwStopAll (some slot) else d).okCmd slot

/-! ### The boot configuration record (R538, R545) -/

/-- The defaults with no valid copy. -/
def Dev.cfgDefault (d : Dev) : List Byte :=
  sealCopy 256 (bytesPut (zeros 256) ([(0, 2, 1), (5, 1, 9), (8, 2, 0x1CA5), (0x0A, 2, 0x0100 + d.rd Reg.CTL_ASSEMBLY.CODE)]
    ++ (List.range 48).map fun i => (0x20 + i, 1, 5)))

/-- The valid copy with the higher GEN. -/
def Dev.cfgStored (d : Dev) : Option (List Byte) := copyInForce 256 0xB0 d.boot.cfgA d.boot.cfgB

/-- The record latched at the last COLD reset. -/
def Dev.cfgLatched (d : Dev) : List Byte := if d.boot.coldCfg.isEmpty then d.cfgDefault else d.boot.coldCfg

/-- The record fails R538 or R545. -/
def Dev.cfgBad (d : Dev) (b : List Byte) : Bool :=
  let inn := fieldAt b 5 1
  let way := fieldAt b 6 2
  fieldAt b 0 2 != 1 || decide (2 < fieldAt b 4 1) || inn == 0 || decide (18 * d.stacks < inn) || decide (368 < way)
    || decide (1 < fieldAt b 0x18 1) || (List.range 16).any (fun i => decide (10 < fieldAt b (0x20 + i) 1))
    || decide (36 * d.stacks < inn + way + 2 + 16)

def Dev.bootCfgParams (d : Dev) (c : Cmd) : List PChk :=
  let a := c.par 0 8
  [paddr c 0, pfield (a % 64 != 0 || !(d.region a == .hbm || d.region a == .reserved)) 0, pfield (decide (1 < c.par 8 1)) 8]

def bootCfgRanges (c : Cmd) : List (Bool × Nat × Nat) := [(c.par 8 1 == 1, c.par 0 8, 256)]

/-- BOOT_CFG_WRITE (R545): the older copy takes the record with the stored HBM_REPAIR, the next GEN and its CRC. -/
def execBootCfgWrite (slot : Nat) (s : State) : Out := s.run fun d => d.onCmd slot 0x0A05 fun c d =>
  let old := d.cfgStored.getD d.cfgDefault
  if c.par 8 1 = 1 then
    match d.write byCp c.ctx (c.par 0 8) old with
    | ⟨d, some e⟩ => d.endCmd slot e.major e.detail 0
    | ⟨d, none⟩ => d.okCmd slot
  else
    match d.read byCp c.ctx (c.par 0 8) 256 with
    | ⟨d, .error e⟩ => d.endCmd slot e.major e.detail 0
    | ⟨d, .ok b⟩ =>
      if d.cfgBad b then d.endCmd slot 0x02 0x1411 0x20
      else
        let b := b.take 0x50 ++ (old.drop 0x50).take 0x60 ++ b.drop 0xB0
        let new := sealCopy 256 (bytesPut b [(0xB0, 4, fieldAt old 0xB0 4 + 1)])
        let d := if writesA 256 0xB0 d.boot.cfgA d.boot.cfgB then { d with boot := { d.boot with cfgA := new } }
          else { d with boot := { d.boot with cfgB := new } }
        d.okCmd slot

end Sys2Proof.Machine
end

