-- ==== Sys2Proof/Machine/Execlist.lean ====
section
/-!
DEFINITION. Descriptor lists (06 R153–R157): their validation, their stages, EXEC_LIST.
Choices: DEDUCED, notes/assumptions/37.md.
-/
namespace Sys2Proof.Machine

/-! ### Validation (R155) -/

/-- What is wrong with a descriptor: the offset of the field, the failure, and the first refused byte of a range. -/
structure TdBad where
  byte : Nat
  fail : Fail
  addr : Option Nat

/-- The descriptor kinds of R152. -/
def tdKinds : List Nat := [0x01, 0x02, 0x03, 0x10, 0x11, 0x20, 0x21, 0x30, 0x40, 0x50, 0x60]

/-- A count of rows, steps or iterations. -/
def tdCount (n : Nat) : Bool := decide (1 ≤ n ∧ n ≤ 16777216)

/-- An address lies in a scratchpad. -/
def inAnySpm (a : Nat) : Bool := decide (spmBase 0 ≤ a ∧ a < spmBase 0 + 2 * spmSize)

/-- The body fields of a descriptor, with whether they break R152: (offset, broken). `cols` is the width of the array, `porters` the
core whose porters the list names (13 R342). -/
def Dev.tdFields (d : Dev) (cols porters : Nat) (w : TdWord) : List (Nat × Bool) :=
  let f (o l : Nat) : Nat := tdf w o l
  match tdKind w with
  | 0x02 => [(0x18, decide (2 < f 0x18 1))]
  | 0x03 => [(0x18, decide (1 < f 0x18 1)), (0x19, decide (1 < f 0x19 1))]
  | 0x10 => [(0x18, !inAnySpm (f 0x18 8)), (0x20, decide (1 < f 0x20 1)), (0x21, decide (1 < f 0x21 1) || (f 0x21 1 == 1 && f 0x20 1 == 1)),
      (0x22, decide (15 < f 0x22 1)), (0x24, decide (191 < f 0x24 2)), (0x26, f 0x26 2 == 0 || decide (192 < f 0x24 2 + f 0x26 2)),
      (0x28, f 0x28 2 % 8 != 0 || decide (cols ≤ f 0x28 2)), (0x2A, f 0x2A 2 == 0 || decide (cols < f 0x28 2 + f 0x2A 2))]
  | 0x11 => [(0x18, !inAnySpm (f 0x18 8)), (0x20, !tdCount (f 0x20 4)), (0x28, decide (1 < f 0x28 1)), (0x2C, decide (2047 < f 0x2C 2))]
  | 0x20 => [(0x18, f 0x18 8 % 64 != 0 || !inAnySpm (f 0x18 8)), (0x20, decide (1023 < f 0x20 2)), (0x24, !tdCount (f 0x24 4)),
      (0x28, decide (2 < f 0x28 1))]
  | 0x21 => [(0x28, !tdCount (f 0x28 4)), (0x2C, f 0x2C 2 == 0 || decide (192 < f 0x2C 2)), (0x2E, f 0x2E 1 % 64 == 0), (0x2F, decide (1 < f 0x2F 1))]
  | 0x30 => [(0x18, f 0x18 8 % 64 != 0 || !inAnySpm (f 0x18 8)), (0x20, decide (3 < f 0x20 1)), (0x21, decide (1 < f 0x21 1)), (0x24, !tdCount (f 0x24 4))]
  | 0x40 => [(0x18, f 0x18 8 % 64 != 0 || !inAnySpm (f 0x18 8)), (0x20, decide (3 < f 0x20 1)), (0x22, f 0x22 2 == 0 || decide (256 < f 0x22 2))]
  | 0x60 =>
    let inMem : Bool := match d.region (f 0x18 8) with
      | .hbm | .reserved | .spm _ => true
      | _ => false
    [(0x18, f 0x18 8 % 64 != 0 || !inMem), (0x20, decide (23 < f 0x20 1) || porterCore (f 0x20 1) != porters),
      (0x22, f 0x22 2 == 0 || decide (4096 < f 0x22 2))]
  | _ => []

/-- The address fields of a descriptor's body (03 R61). -/
def tdAddrs (kind : Nat) : List Nat :=
  if kind = 0x21 then [0x18, 0x20] else if ([0x10, 0x11, 0x20, 0x30, 0x40, 0x60] : List Nat).contains kind then [0x18] else []

/-- The ranges of a porter descriptor on this device. -/
def pdRanges (x : Nat) : List (Bool × Nat × Nat) :=
  let src := rowRanges' false (pdSrc x) (pdSrcStride x) (pdRows x) (pdRowBytes x)
  let dst := rowRanges' true (pdDst x) (pdDstStride x) (pdRows x) (pdRowBytes x)
  match pdOp x with
  | 1 => src ++ dst
  | 2 => dst
  | 3 => src ++ [(true, pdDst x, 16)]
  | 4 =>
    let size := elemSize (pdElem x)
    src ++ rowRanges' true (pdDst x) (pdDstStride x) (pdRowBytes x / size) (pdRows x * size)
  | 5 => src
  | 6 => dst
  | _ => []
where
  rowRanges' (wr : Bool) (a stride rows n : Nat) : List (Bool × Nat × Nat) := (List.range rows).map fun r => (wr, a + r * stride, n)

/-- The address ranges of a descriptor's body, with the offset of their field; a porter's list is checked apart. -/
def tdRanges (w : TdWord) : List (Nat × Bool × Nat × Nat) :=
  let f (o l : Nat) : Nat := tdf w o l
  match tdKind w with
  | 0x10 => (List.range (f 0x26 2)).map fun r => (0x18, false, f 0x18 8 + r * f 0x2C 4, 2 * f 0x2A 2)
  | 0x20 => [(0x18, false, f 0x18 8, 320)]
  | 0x21 =>
    let planes := ((List.range 6).filter fun k => bitAt (f 0x2E 1) k).length
    [(0x18, false, f 0x18 8, 4 * f 0x2C 2 * f 0x28 4), (0x20, true, f 0x20 8, 4 * f 0x28 4 * planes)]
  | 0x30 | 0x40 => [(0x18, false, f 0x18 8, 64)]
  | 0x60 => [(0x18, false, f 0x18 8, 64 * f 0x22 2)]
  | _ => []

/-- The first refused range of a list, with its field. -/
def Dev.tdRefused (d : Dev) (ctx : Nat) : List (Nat × Bool × Nat × Nat) → Option TdBad
  | [] => none
  | (o, wr, a, n) :: l =>
    match d.firstRefused ctx wr a n with
    | some (b, det) => some ⟨o, ⟨0x10, det, 0⟩, some b⟩
    | none => d.tdRefused ctx l

/-- The checks of one descriptor, in order (R155). -/
def Dev.tdBad (d : Dev) (ctx cols porters : Nat) (w : TdWord) : Dev × Option TdBad :=
  let k := tdKind w
  let field (o : Nat) : Option TdBad := some ⟨o, ⟨0x02, 0x0605, 0⟩, none⟩
  let so (o : Nat) : Option TdBad := some ⟨o, ⟨0x10, 0x0309, 0⟩, none⟩
  if !tdKinds.contains k then (d, some ⟨0, ⟨0x02, 0x0604, 0⟩, none⟩)
  else if k = 0x50 then (d, some ⟨0, ⟨0x10, 0x0606, 0⟩, none⟩)
  else if tdWaitEn w && decide (2 < tdWaitCond w) then (d, field 3)
  else if tdWaitEn w && !d.soAllowed ctx (tdWaitSo w) then (d, so 4)
  else if tdSignalEn w && !d.soAllowed ctx (tdSignalSo w) then (d, so 6)
  else if k = 0x03 ∧ !d.soAllowed ctx (tdf w 0x1A 2 % 4096) then (d, so 0x1A)
  else
    match (d.tdFields cols porters w).find? fun x => x.2 && !(tdAddrs k).contains x.1 || (x.2 && decide (tdf w x.1 8 < 2 ^ 48)) with
    | some (o, _) => (d, field o)
    | none =>
      match (tdAddrs k).find? fun o => decide (2 ^ 48 ≤ tdf w o 8) with
      | some o => (d, some ⟨o, ⟨0x02, 0x0310, 0⟩, none⟩)
      | none =>
        match d.tdRefused ctx (tdRanges w) with
        | some b => (d, some b)
        | none =>
          if k ≠ 0x60 then (d, none)
          else
            match d.readRaw byCp (some ctx) (tdf w 0x18 8) (64 * tdf w 0x22 2) with
            | ⟨d, .error e⟩ => (d, some ⟨0x18, e, none⟩)
            | ⟨d, .ok bs⟩ =>
              (d, d.tdRefused ctx (((chunksOf 64 bs).flatMap fun b => pdRanges (leNat b)).map fun r => (0x18, r)))

/-- Check the descriptors of a list in order: the index of the first that fails, and why. -/
def Dev.listBad (d : Dev) (ctx cols porters : Nat) : List (Nat × TdWord) → Dev × Option (Nat × TdBad)
  | [] => (d, none)
  | (i, w) :: l =>
    match d.tdBad ctx cols porters w with
    | (d, some b) => (d, some (i, b))
    | (d, none) => d.listBad ctx cols porters l

/-- Record a failed validation (R157; 03 R82). -/
def Dev.listError (d : Dev) (ctx index : Nat) (b : TdBad) : Dev :=
  let d := match b.addr with
    | some a => d.violation ctx byCp a b.fail.detail
    | none => d
  ((d.wr (Reg.CTX_LIST_ERR.INDEX ctx) index).wr (Reg.CTX_LIST_ERR.BYTE ctx) b.byte).wr (Reg.CTX_LIST_ERR.DETAIL ctx) b.fail.detail

/-- The descriptors of a list's bytes. -/
def listWords (bs : List Byte) : List TdWord := (chunksOf 64 bs).map tdOfBytes

/-- Descriptors with their indexes from `base` on. -/
def indexed (base : Nat) (ws : List TdWord) : List (Nat × TdWord) := ((List.range ws.length).map (base + ·)).zip ws

/-- The stages of a list: the runs of descriptors between BOUNDARY flags (R159). -/
def listStages (ws : List TdWord) : Nat := if ws.isEmpty then 0 else 1 + (ws.tail.filter tdBoundary).length

/-- A descriptor of a list that SC1 runs though it names SC0's porters (13 R342). -/
def tdOnSc1 (w : TdWord) : TdWord :=
  if tdKind w = 0x60 then BitVec.ofNat 512 (setBits w.toNat (8 * 0x20) 8 (porterOnSc1 (tdf w 0x20 1))) else w

/-- The first descriptor of a list begins a stage (R159). -/
def stageStart (ws : List TdWord) : List TdWord :=
  match ws with
  | w :: l => BitVec.ofNat 512 (setBits w.toNat 10 1 1) :: l
  | [] => []

/-- Columns that a list's column fields are checked against (08 R230). -/
def Dev.listCols (d : Dev) (core : Nat) : Nat :=
  if core < 2 then d.rd (Reg.ARR_COLS.COLS core) else min (d.rd (Reg.ARR_COLS.COLS 0)) (d.rd (Reg.ARR_COLS.COLS 1))

/-! ### EXEC_LIST (R154–R157) -/

/-- The parameter checks of EXEC_LIST. -/
def Dev.execListParams (d : Dev) (c : Cmd) : List PChk :=
  let a := c.par 0 8
  let n := c.par 8 4
  let last := a + 64 * n - 1
  let inside : Bool := match d.region a, d.region last with
    | .hbm, .hbm | .hbm, .reserved | .reserved, .reserved => true
    | .spm i, .spm j => i == j
    | _, _ => false
  [paddr c 0, pchk (a % 64 != 0) 0x0601 0x00, pchk (n == 0 || decide (65536 < n)) 0x0602 0x08, pfield (decide (2 < c.par 0x0C 1)) 0x0C,
    pchk (!inside) 0x0603 0x00]

/-- The address range of EXEC_LIST. -/
def listRanges (c : Cmd) : List (Bool × Nat × Nat) := [(false, c.par 0 8, 64 * c.par 8 4)]

/-- EXEC_LIST (R155): the list is copied and checked; then its descriptors are written from the copy. At most 64 copies are held
(R156). -/
def execExecList (slot : Nat) (s : State) : Out := s.run fun d => d.onRoutine slot 0x0301 fun c d =>
  if c.total ≠ 0 ∨ 64 ≤ d.seq.snapshots.length then d
  else
    let want := c.par 0x0C 1
    match d.read byCp c.ctx (c.par 0 8) (64 * c.par 8 4) with
    | ⟨d, .error e⟩ => d.endCmd slot e.major e.detail 0
    | ⟨d, .ok bs⟩ =>
      let ws := listWords bs
      match d.listBad c.ctx (d.listCols want) (if want = 1 then 1 else 0) (indexed 0 ws) with
      | (d, some (i, b)) => (d.listError c.ctx i b).endCmd slot b.fail.major b.fail.detail 0x20
      | (d, none) =>
        let core := d.pickCore want
        let ws := if want = 2 ∧ core = 1 then ws.map tdOnSc1 else ws
        let d := (d.assign slot [core]).updCmd slot fun c => { c with total := listStages ws }
        let d := { d with seq := { d.seq with snapshots := d.seq.snapshots ++ [slot] } }
        d.addTodo slot ((stageStart ws).map fun w => (core, w))

end Sys2Proof.Machine
end

