-- ==== Sys2Proof/Machine/LedBase.lean ====
section
/-!
DEFINITION. The ledger record and its writes (17 R449–R452), step records (17 R475), outcomes (17 R456).
Choices: DEDUCED, notes/assumptions/12.md.
-/
namespace Sys2Proof.Machine

/-! ### The record (R450, R451) -/

def lsFree : Nat := 0
def lsReady : Nat := 1
def lsOpen : Nat := 2
def lsVoting : Nat := 3
def lsRestoring : Nat := 4

/-- Outcomes and votes (R451, R456). -/
def voCommit : Nat := 0
def voSkip : Nat := 1
def voAbort : Nat := 2
def voNone : Nat := 255

/-- The 64 bytes of a ledger record, with its CRC (R451). -/
def LedRec.bytes (r : LedRec) : List Byte :=
  let body := leBytes 1 r.state ++ leBytes 1 r.cur ++ leBytes 1 r.scaleE ++ leBytes 1 r.ctx ++ leBytes 4 r.step ++ leBytes 8 r.epoch
    ++ leBytes 2 r.clean ++ leBytes 1 r.last ++ leBytes 1 (b2n r.retain) ++ leBytes 4 r.gen ++ leBytes 4 r.skips
    ++ leBytes 4 r.aborts ++ leBytes 1 r.prevE ++ leBytes 1 (b2n r.revertible) ++ leBytes 2 r.prevClean ++ zeros 20
  body ++ leBytes 8 (crc64 body)

/-- The record in force: the copy with the higher GEN (R451). -/
def Dev.ledRec (d : Dev) : LedRec := if d.led.recA.gen < d.led.recB.gen then d.led.recB else d.led.recA

/-- The LEDG registers show the record in force (R452, R478). -/
def Dev.ledShow (d : Dev) : Dev :=
  let r := d.ledRec
  let d := (d.wr Reg.LEDG_STATUS.STATE r.state).wr Reg.LEDG_STATUS.CUR r.cur
  let d := (d.wr Reg.LEDG_STATUS.RETAIN (b2n r.retain)).wr Reg.LEDG_STATUS.REVERTIBLE (b2n r.revertible)
  let d := (d.wr Reg.LEDG_STATUS.CTX r.ctx).wr Reg.LEDG_STATUS.SCALE_E r.scaleE
  let d := (d.wr Reg.LEDG_EPOCH.EPOCH r.epoch).wr Reg.LEDG_STEP.STEP r.step
  let d := (d.wr Reg.LEDG_CLEAN_CFG.CLEAN r.clean).wr Reg.NONFINITE_SKIPS.COUNT r.skips
  d.wr Reg.LEDG_ABORTS.COUNT r.aborts

/-- One ledger-record write: the copy with the older GEN takes the new record (R451, R452). What the record no longer retains, or
keeps for a REVERT, the Inn frees (R460, R461; 14 R382). -/
def Dev.ledWrite (d : Dev) (f : LedRec → LedRec) : Dev :=
  let old := d.ledRec
  let new := { f old with gen := (old.gen + 1) % 2 ^ 32 }
  let d := if d.led.recA.gen < d.led.recB.gen then { d with led := { d.led with recA := new } }
    else { d with led := { d.led with recB := new } }
  let d := if old.retain && !new.retain then d.innRelease else d
  let d := if old.revertible && !new.revertible then d.innForget else d
  d.ledShow.innStatus

/-- A context may not use the ledger: it is FREE, or another context's (R449). -/
def Dev.ledRefusal (d : Dev) (ctx : Nat) : Option Fail :=
  let r := d.ledRec
  if r.state = lsFree then some ⟨0x0F, 0x1120, 0⟩ else if r.ctx ≠ ctx then some ⟨0x10, 0x1110, 0⟩ else none

/-! ### Step records (R475) -/

/-- Replace bytes of a record at an offset. -/
def recPut (b : List Byte) (off : Nat) (bs : List Byte) : List Byte := b.take off ++ bs ++ b.drop (off + bs.length)

/-- A record under its CRC. -/
def recSeal (b : List Byte) : List Byte := b.take 0xF8 ++ leBytes 8 (crc64 (b.take 0xF8))

/-- The step record of step `n`: entry n mod 64, when it is of that step. -/
def Dev.stepRec (d : Dev) (n : Nat) : Option (List Byte) :=
  match kvGet (n % 64) d.led.steps with
  | some b => if fieldAt b 0 4 = n % 2 ^ 32 then some b else none
  | none => none

def Dev.setStepRec (d : Dev) (n : Nat) (b : List Byte) : Dev :=
  { d with led := { d.led with steps := kvPut (n % 64) (recSeal b) d.led.steps } }

/-- Write fields (offset, bytes) of the record of step `n`, if it has one. -/
def Dev.recWrite (d : Dev) (n : Nat) (l : List (Nat × List Byte)) : Dev :=
  match d.stepRec n with
  | some b => d.setStepRec n (l.foldl (fun b x => recPut b x.1 x.2) b)
  | none => d

/-- A field of the record of step `n`; 0 without one. -/
def Dev.recField (d : Dev) (n off len : Nat) : Nat :=
  match d.stepRec n with
  | some b => fieldAt b off len
  | none => 0

/-- Set a bit of PHASES of step `n`. -/
def Dev.recPhase (d : Dev) (n bit : Nat) : Dev := d.recWrite n [(7, leBytes 1 (d.recField n 7 1 ||| 2 ^ bit))]

/-- A bit of PHASES of step `n`. -/
def Dev.recHas (d : Dev) (n bit : Nat) : Bool := bitAt (d.recField n 7 1) bit

/-- The 64 entries of the ring as 16,384 bytes; an entry never opened reads 0. -/
def Dev.stepRing (d : Dev) : List Byte := (List.range 64).flatMap fun i => (kvGet i d.led.steps).getD (zeros 256)

/-- The step of the ledger's present context has failed: its vote will be ABORT (R455, R477). -/
def Dev.failStep (d : Dev) : Dev := { d with led := { d.led with failed := true } }

/-! ### Outcomes (R456) -/

/-- FLIPs per scale rise (R478). -/
def Dev.cleanSteps (d : Dev) : Nat := if d.on Reg.LEDG_CLEAN_CFG.CLEAN_STEPS then d.rd Reg.LEDG_CLEAN_CFG.CLEAN_STEPS else 1000

/-- The record after an outcome (R456). -/
def Dev.ledAfter (d : Dev) (oc : Nat) (r : LedRec) : LedRec :=
  let e := toSigned 8 r.scaleE
  if oc = voCommit then
    let rise := decide (d.cleanSteps ≤ r.clean + 1)
    let up := rise && decide (e < toSigned 8 (d.rd Reg.LEDG_SCALE_CFG.MAX))
    { r with
      state := lsReady, epoch := (r.epoch + 1) % 2 ^ 64, step := (r.step + 1) % 2 ^ 32, cur := 1 - r.cur
      scaleE := if up then ofSigned 8 (e + 1) else r.scaleE
      clean := if rise then 0 else r.clean + 1
      prevE := r.scaleE, prevClean := r.clean, revertible := true, retain := false, last := voCommit }
  else if oc = voSkip then
    { r with
      state := lsReady, step := (r.step + 1) % 2 ^ 32
      scaleE := if toSigned 8 (d.rd Reg.LEDG_SCALE_CFG.MIN) < e then ofSigned 8 (e - 1) else r.scaleE
      clean := 0, skips := satAdd 32 r.skips 1, revertible := false, retain := false, last := voSkip }
  else { r with state := lsReady, aborts := satAdd 32 r.aborts 1, revertible := false, retain := true, last := voAbort }

/-- LEDGER_OUTCOME: the outcome, the rank it names, the step counter and the epoch after it (R456; 22 R584). -/
def Dev.ledEvent (d : Dev) (oc : Nat) (rank : Option Nat) : Dev :=
  let r := d.ledRec
  d.raise 0x1101 clsInfo (some r.ctx) oc (rank.getD 0xFFFFFF) r.step r.epoch

/-- Apply an outcome to the present step, in one record write: the rooms, the record, the step record, the checkpoint that the
new step counter makes due, the events (R456, R469; 14 R382). -/
def Dev.ledOutcome (d : Dev) (oc : Nat) (rank : Option Nat) : Dev :=
  let r := d.ledRec
  let d := if oc = voCommit then d.innFlip ((r.epoch + 1) % 2 ^ 64) else if oc = voSkip then d.innDiscard else d.innAbort
  let new := d.ledAfter oc r
  let d := d.ledWrite fun _ => new
  let d := d.recWrite r.step [(4, leBytes 1 oc), (0x92, leBytes 2 (rank.getD 0xFFFF)), (0x98, leBytes 8 d.timeNs)]
  let w := d.way
  let d := if oc ≠ voAbort ∧ w.sender.isSome ∧ w.cadence ≠ 0 ∧ new.step % w.cadence = 0 then
      { d with way := { w with due := some new.step } }
    else d
  let d := if oc = voSkip ∧ !decide (toSigned 8 (d.rd Reg.LEDG_SCALE_CFG.MIN) < toSigned 8 r.scaleE) then
      d.raise 0x1103 clsInfo (some r.ctx) new.scaleE 0 new.step 0
    else d
  d.ledEvent oc rank

end Sys2Proof.Machine
end

