-- ==== Sys2Proof/Machine/Way.lean ====
section
/-!
DEFINITION. The waystation (17 R465–R474): binding, fast and full checkpoints, hosted slots, restores.
-/
namespace Sys2Proof.Machine

/-! ### Shard tables (16 R443) -/

/-- An entry of a shard table. -/
def shardOf (b : List Byte) : Shard :=
  let f (o : Nat) : Nat := fieldAt b o 8
  { w0 := f 0, w1 := f 8, m0 := f 0x10, m1 := f 0x18, v0 := f 0x20, v1 := f 0x28, grad := f 0x30, count := fieldAt b 0x38 4
    index := fieldAt b 0x3C 4 }

/-- The entries behind a shard table's header. -/
def shardsOf (bs : List Byte) : List Shard := (chunksOf 64 (bs.drop 64)).map shardOf

/-- Bytes of a moment. -/
def momSize (f32 : Bool) : Nat := if f32 then 4 else 2

/-- The ranges of bank `k` of an entry: W, then M, then V when present (R466). -/
def Shard.bank (x : Shard) (k : Nat) (v f32 : Bool) : List (Nat × Nat) :=
  let m := momSize f32 * x.count
  (if k = 0 then x.w0 else x.w1, 2 * x.count) :: (if k = 0 then x.m0 else x.m1, m) :: (if v then [(if k = 0 then x.v0 else x.v1, m)] else [])

/-- The ranges of bank `k` of a bound shard table. -/
def ShardTab.bank (t : ShardTab) (k : Nat) : List (Nat × Nat) := t.shards.flatMap fun x => x.bank k (t.algo == 1) t.f32

/-- A scrub has found an uncorrectable word in a shard range, and it is still bad (R455). -/
def Dev.scrubHit (d : Dev) : Bool :=
  match d.way.sender with
  | none => false
  | some t => d.led.scrubbed.any fun w => d.ue.contains w && (t.bank 0 ++ t.bank 1).any fun r => touchesWord r.1 r.2 w

/-! ### WAYSTATION_SET (R465) -/

/-- The parameter checks of WAYSTATION_SET. -/
def Dev.waySetParams (d : Dev) (c : Cmd) : List PChk :=
  let op := c.par 0x0B 1
  let tab := op == 0 || op == 3
  let cfg (b : Bool) (off : Nat) : PChk := pchk b 0x1102 off
  [{ paddr c 0 with bad := tab && (paddr c 0).bad }, cfg (tab && (c.par 0 8 % 64 != 0 || d.region (c.par 0 8) != .hbm)) 0x00,
    cfg (decide (3 < op)) 0x0B, cfg (tab && !(decide (1 ≤ c.par 0x0C 2 ∧ c.par 0x0C 2 ≤ 1024))) 0x0C,
    cfg (op == 1 && !(decide (1 ≤ c.par 0x10 2 ∧ c.par 0x10 2 ≤ 184))) 0x10, cfg (tab && decide (1 < c.par 0x12 1)) 0x12]

/-- The address range of WAYSTATION_SET. -/
def waySetRanges (c : Cmd) : List (Bool × Nat × Nat) :=
  if c.par 0x0B 1 = 0 ∨ c.par 0x0B 1 = 3 then [(false, c.par 0 8, 64 + 64 * c.par 0x0C 2)] else []

/-- Discard every waystation tab of the device (R465). -/
def Dev.wayDropTabs (d : Dev) : Dev :=
  let ours (p : Nat × (List Byte × List Byte)) : Bool := match tabInForce p.2 with
    | some b => tabOp b == 0x0902 || tabOp b == 0x0903
    | none => false
  let ks := (d.seq.tabs.filter ours).map fun p => p.1
  let d := { d with seq := { d.seq with
      tabs := d.seq.tabs.filter fun p => !ks.contains p.1
      tabHolder := d.seq.tabHolder.filter fun p => !ks.contains p.1 } }
  { d with cp0 := { d.cp0 with cmds := d.cp0.cmds.map fun c => if c.tab.any ks.contains then { c with tab := none } else c } }

/-- A transfer whose binding ends: the command behind it fails with WAY_NO_PARTNER (DESIGN CHOICE, notes/assumptions/27.md). -/
def Dev.wayCut (d : Dev) (restore : Bool) : Dev :=
  match d.wayJob restore with
  | none => d
  | some j =>
    let d := (d.wayClose restore).setWayJob restore none
    match j.cmd with
    | some slot => d.endCmd slot 0x0F 0x1124 0
    | none => d

/-- The accepted restore ends with a status for the command that accepted it. -/
def Dev.acceptEnd (d : Dev) (f : Finish) : Dev :=
  let d := match d.way.acceptCmd with
    | some slot => d.endCmd slot f.major f.detail f.result
    | none => d
  { d with way := { d.way with acceptCmd := none } }

/-- Unbind, stop hosting and stop accepting (R465, OP 2): transfers are cut, a ledger context that waits for a restore is free again. -/
def Dev.wayClear (d : Dev) : Dev :=
  let d := ((d.wayCut false).wayCut true).acceptEnd ⟨0x0F, 0x1124, 0⟩
  let d := { d with way := { d.way with
      sender := none, host := false, cadence := 0, sent := [], due := none, accept := none, buf := [], head := none } }
  if d.ledRec.state = lsRestoring then d.ledWrite fun r => { r with state := lsFree, ctx := 0 } else d

/-- Bind the partner (R465, OP 0): another partner than the present one ends what runs and is not known to hold a checkpoint. -/
def Dev.wayBind (d : Dev) (t : ShardTab) (dev ctx cadence : Nat) : Dev :=
  let same := d.way.sender.isSome && d.way.partner == dev
  let e := if same then d else d.wayCut false
  { e with way := { e.way with
      sender := some t, partner := dev, pctx := ctx, cadence, due := none, sent := if same then d.way.sent else [] } }

/-- Accept a restore (R465, OP 3; R474): the ledger's record waits in RESTORING, and the command keeps what it was. -/
def Dev.wayAccept (d : Dev) (slot : Nat) (c : Cmd) (t : ShardTab) (dev ctx : Nat) : Dev :=
  let st := d.ledRec.state
  let d := d.updCmd slot fun c => { c with aux := [st, d.ledRec.ctx] }
  let d := { d with way := { d.way with accept := some t, partner := dev, pctx := ctx, acceptCmd := some slot, buf := [], head := none } }
  d.ledWrite fun r => { r with state := lsRestoring, ctx := if st = lsFree then c.ctx else r.ctx }

/-- WAYSTATION_SET (R465, R464). Accepting a restore lasts until the restore ends (R474). -/
def execWaystationSet (slot : Nat) (s : State) : Out := s.run fun d => d.onCmd slot 0x0901 fun c d =>
  let op := c.par 0x0B 1
  let dev := c.par 8 2 % 4096
  let ctx := c.par 0x0A 1 % 16
  if d.way.acceptCmd = some slot then d
  else
    let d := if op = 1 then d else d.wayDropTabs
    match op with
    | 1 =>
      if d.wayGib < 2 * c.par 0x10 2 then d.endCmd slot 0x04 0x1112 0
      else
        let d := d.wayCut true
        let d := { d with way := { d.way with host := true, hostDev := dev, hostCtx := ctx, slotGib := c.par 0x10 2 } }
        let d := (d.poke (d.waySlot 0) (zeros 256)).poke (d.waySlot 1) (zeros 256)
        d.wayShow.okCmd slot
    | 2 => d.wayClear.wayShow.okCmd slot
    | _ =>
      let st := d.ledRec.state
      if op = 3 ∧ st ≠ lsFree ∧ st ≠ lsReady then d.endCmd slot 0x04 0x1111 0
      else
        match d.read byCp c.ctx (c.par 0 8) (64 + 64 * c.par 0x0C 2) with
        | ⟨d, .error e⟩ => d.endCmd slot e.major e.detail 0
        | ⟨d, .ok bs⟩ =>
          let t : ShardTab := ⟨shardsOf bs, c.par 0x12 1, bitAt (c.par 0x13 1) 0⟩
          if op = 0 then (d.wayBind t dev ctx (c.par 0x0E 2)).wayShow.okCmd slot else (d.wayAccept slot c t dev ctx).wayShow

/-! ### The sender (R467–R471) -/

/-- The slot for the next checkpoint: never that of the newest VALID one (R467). -/
def Dev.waySlotNext (d : Dev) : Nat :=
  match d.newestSent with
  | some (k, _) => 1 - k
  | none => 0

/-- The rooms section of a FULL checkpoint (R466, R471; 14 R383; DESIGN CHOICE, notes/assumptions/28.md): per class its number, its rooms, its
INN_CLASS, its template; per room an index entry of 32 bytes and the published image. An image that cannot be read is left
out. -/
def Dev.roomsSection (d : Dev) : Dev × List Byte :=
  d.inn.classes.foldl (fun (acc : Dev × List Byte) kc =>
    let k := kc.1
    let z := d.roomSize k
    let room (a : Dev × List Byte × Nat) (r : Room) : Dev × List Byte × Nat :=
      if r.bad || r.state == .poisoned then a
      else
        match a.1.innRead (d.classCtx k) r.addr z with
        | (d, .ok bs) =>
          let img := bs.take 0x10 ++ zeros 4 ++ bs.drop 0x14
          (d, a.2.1 ++ leBytes 3 r.guest ++ leBytes 1 k ++ leBytes 4 r.step ++ leBytes 8 r.epoch ++ zeros 16 ++ img, a.2.2 + 1)
        | (d, _) => (d, a.2)
    let (d', rs, n) := (d.roomsOf fun r => r.cls == k).foldl room (acc.1, [], 0)
    (d', acc.2 ++ leBytes 4 k ++ leBytes 4 n ++ leBytes 8 (d.reg (Reg.INN_CLASS.EXISTS k).reg) ++ d.template k ++ rs)) (d, [])

/-- The transfer of a checkpoint of the present state (R466). -/
def Dev.wayImage (d : Dev) (t : ShardTab) (cmd : Option Nat) (full : Bool) (slot seq : Nat) : Dev × WayJob :=
  let r := d.ledRec
  let segs := t.bank r.cur
  let n := segLen segs
  let (d, rooms) := if full then d.roomsSection else (d, [])
  let tail := d.stepRing ++ rooms
  let h : WayHead :=
    { state := wsWriting, kind := b2n full, owner := d.rd Reg.FAB_ID.DEVICE_ID, seq, epoch := r.epoch, step := r.step, scaleE := r.scaleE
      cur := r.cur, entries := t.shards.length, body := n + tail.length, ledger := r.bytes, shardCrc := 0
      roomsCrc := if full then crc64 rooms else 0, shardOff := 0, recordsOff := n, roomsOff := if full then n + 16384 else 0 }
  (d, { cmd, slot, dev := d.way.partner, ctx := d.way.pctx, head := h, segs, tail, sent := 0, upto := h.body, phase := 0, crc := ones64 })

/-- The SEQ of the next checkpoint. -/
def Dev.waySeqNext (d : Dev) : Dev × Nat :=
  let s := (d.way.seq + 1) % 2 ^ 32
  ({ d with way := { d.way with seq := s } }, s)

/-- FAST_CHECKPOINT (R469): the checkpoint that is due starts, once no other runs; it goes on as its pieces are acknowledged. -/
def execFastCheckpoint (s : State) : Out := s.run fun d =>
  match d.way.due, d.way.sender, d.way.job with
  | some _, some t, none =>
    if !d.live then d
    else
      let slot := d.waySlotNext
      let (d, seq) := d.waySeqNext
      let (d, j) := d.wayImage t none false slot seq
      ({ d with way := { d.way with due := none } }).wayStart false j
  | _, _, _ => d

/-- A waystation checkpoint still reads the bank that an OPT_STEP would write (R469). -/
def Dev.wayReads (d : Dev) (bank : Nat) : Bool :=
  match d.way.job with
  | some j => j.head.cur == bank && decide (j.sent < segLen j.segs)
  | none => false

/-- A LONG transfer goes on (R350, R471, R473): the chunk that is out is complete once it is acknowledged, then the next goes
out, then the last header. -/
def Dev.wayChunk (d : Dev) (restore : Bool) (c : Cmd) (j : WayJob) : Dev :=
  if j.phase ≠ 1 ∨ d.wayOut restore ≠ 0 ∨ j.sent < j.upto then d
  else if c.aux.headD 0 ≠ 0 then
    let rs := leBytes 1 j.slot ++ leBytes 4 j.head.seq ++ zeros 3 ++ leBytes 8 j.crc
    (d.pieceDone c.slot).updCmd c.slot fun c => { c with aux := [0], rstate := rs }
  else if j.sent < j.head.body then
    let d := d.updCmd c.slot fun c => { c with aux := [1] }
    (d.setWayJob restore (some { j with upto := min j.head.body (j.sent + d.memChunk) })).wayPump restore 64
  else d.wayFinish restore

/-- A LONG transfer begins: where its tab says it stands, or at the start (R170, R471). `mk` makes the transfer from RSTATE. -/
def Dev.wayLong (d : Dev) (restore : Bool) (c : Cmd) (body epoch : Nat) (mk : Dev → List Byte → Dev × WayJob) : Dev :=
  let total := cdiv body d.memChunk
  let (d, err) := if total ≤ 1 then (d.updCmd c.slot fun c => { c with total := total }, none) else d.tabOpen c total epoch
  match err, d.cmd? c.slot with
  | some e, _ => d.endCmd c.slot e.major e.detail 0
  | none, none => d
  | none, some c =>
    let (d, j) := mk d (if c.done = 0 then [] else c.rstate)
    let at' := min j.head.body (c.done * d.memChunk)
    d.wayStart restore { j with sent := at', upto := at', crc := if c.done = 0 then ones64 else fieldAt c.rstate 8 8 }

/-- WAYSTATION_FULL (R471). -/
def execWaystationFull (slot : Nat) (s : State) : Out := s.run fun d => d.onRoutine slot 0x0902 fun c d =>
  match d.way.job with
  | some j => if j.cmd = some slot then d.wayChunk false c j else d
  | none =>
    if c.total ≠ 0 then d
    else
      match d.way.sender with
      | none => d.endCmd slot 0x0F 0x1124 0
      | some t =>
        let (_, j0) := d.wayImage t (some slot) true 0 0
        d.wayLong false c j0.head.body d.ledRec.epoch fun d rs =>
          if rs.length < 16 then
            let k := d.waySlotNext
            let (d, seq) := d.waySeqNext
            d.wayImage t (some slot) true k seq
          else d.wayImage t (some slot) true (fieldAt rs 0 1 % 2) (fieldAt rs 1 4)

/-- A WAYSTATION_FULL runs (R471). -/
def Dev.fullRuns (d : Dev) : Bool := d.cp0.cmds.any fun c => c.opcode == 0x0902 && c.phase == .running

/-! ### The host (R467, R473) -/

/-- The parameter checks of WAYSTATION_RESTORE. -/
def wayRestoreParams (c : Cmd) : List PChk := [pchk (decide (1 < c.par 0 1) && c.par 0 1 != 0xFF) 0x1102 0x00]

/-- The newest VALID hosted slot, by SEQ. -/
def Dev.newestHosted (d : Dev) : Nat :=
  let seq (k : Nat) : Option Nat := if d.hostedState k = wsValid then (d.hostedHead k).map fun h => h.seq else none
  match seq 0, seq 1 with
  | some a, some b => if a < b then 1 else 0
  | none, some _ => 1
  | _, _ => 0

/-- WAYSTATION_RESTORE (R473). -/
def execWaystationRestore (slot : Nat) (s : State) : Out := s.run fun d => d.onRoutine slot 0x0903 fun c d =>
  match d.way.rjob with
  | some j => if j.cmd = some slot then d.wayChunk true c j else d
  | none =>
    if c.total ≠ 0 then d
    else if !d.way.host then d.endCmd slot 0x0F 0x1124 0
    else
      let k := if c.par 0 1 = 0xFF then d.newestHosted else c.par 0 1
      match d.hostedHead k with
      | some h =>
        if h.state ≠ wsValid then d.endCmd slot 0x0E 0x1141 0
        else
          d.wayLong true c h.body 0 fun d _ =>
            (d, { cmd := some slot, slot := k, dev := d.way.hostDev, ctx := d.way.hostCtx, head := h
                  segs := [(d.waySlot k + wayBodyOff, h.body)], tail := [], sent := 0, upto := 0, phase := 0, crc := ones64 })
      | none => d.endCmd slot 0x0E 0x1141 0

/-- A WAYSTATION_WRITE of the partner into its hosted slot (R405, R467). A body that the slot cannot hold is turned away with its
WRITING header (R471). -/
def Dev.hostedWrite (d : Dev) (k : FabPkt) : Dev :=
  let slot := k.addr / 2 ^ 48 % 2
  let off := k.addr % 2 ^ 48
  let size := d.way.slotGib * gib
  let small := off == 0 && (match wayHeadOf k.data with
    | some h => h.state == wsWriting && decide (size < wayBodyOff + h.body)
    | none => false)
  if !d.way.host ∨ k.src ≠ d.way.hostDev ∨ size < off + k.data.length then d.ackPkt k 1
  else if small then d.ackPkt k (6 + Config.waySmallStatus.toNat)
  else
    match d.writeRaw byFabric none (d.waySlot slot + off) k.data with
    | ⟨d, none⟩ => d.wayShow.ackPkt k 0
    | ⟨d, some f⟩ => d.ackPkt k (homeStatus f)

/-! ### The restoring device (R473, R474) -/

/-- Write bytes from offset `o` of memory ranges laid one behind the other. -/
def Dev.segWrite (d : Dev) : (segs : List (Nat × Nat)) → (o : Nat) → (bs : List Byte) → Put
  | [], _, _ => ⟨d, none⟩
  | (a, len) :: l, o, bs =>
    if bs.isEmpty then ⟨d, none⟩
    else if len ≤ o then d.segWrite l (o - len) bs
    else
      match d.writeRaw byFabric none (a + o) (bs.take (len - o)) with
      | ⟨d, some e⟩ => ⟨d, some e⟩
      | ⟨d, none⟩ => d.segWrite l 0 (bs.drop (len - o))

/-- One class of a rooms section and its rooms; answers what follows, and the rooms lodged (R474; DESIGN CHOICE, notes/assumptions/28.md). -/
def Dev.restoreClass (d : Dev) (ctx : Nat) (bs : List Byte) : Dev × List Byte × Nat :=
  let k := fieldAt bs 0 4 % 16
  let n := fieldAt bs 4 4
  let reg := fieldAt bs 8 8
  let z := 2 ^ bits reg (Reg.INN_CLASS.SIZE_LOG2 k).lo (Reg.INN_CLASS.SIZE_LOG2 k).len
  let cap := bits reg (Reg.INN_CLASS.CAPACITY k).lo (Reg.INN_CLASS.CAPACITY k).len
  let tmpl := (bs.drop 16).take (z - 32)
  let rooms := bs.drop (16 + (z - 32))
  let d := d.forEach (d.roomsOf fun r => r.cls == k) fun r d => d.dropRoom r
  let d := { d with inn := { d.inn with classes := kvDel k d.inn.classes } }
  let d := d.setReg (Reg.INN_CLASS.EXISTS k).reg 0
  match d.backingFit (cap * z) with
  | none => (d, rooms.drop (n * (32 + z)), 0)
  | some a =>
    let d := (d.setReg (Reg.INN_CLASS.EXISTS k).reg reg).wr (Reg.INN_CLASS.CTX k) ctx
    let d := { d with inn := { d.inn with classes := kvPut k ⟨a, if tmpl.all (fun b => b == 0) then [] else tmpl⟩ d.inn.classes } }
    let room (d : Dev) (i : Nat) : Dev :=
      let e := rooms.drop (i * (32 + z))
      let g := fieldAt e 0 3
      let d := d.lodge k g (fieldAt e 4 4) ((e.drop 64).take (z - 32))
      match d.room? k g with
      | some r => (d.pokeNat (r.addr + 8) 8 (fieldAt e 8 8)).setRoom { r with epoch := fieldAt e 8 8 }
      | none => d
    ((List.range n).foldl room d, rooms.drop (n * (32 + z)), n)

/-- Every class of a rooms section; `fuel` bounds them. -/
def Dev.restoreRooms (d : Dev) (bs : List Byte) (n : Nat) : (fuel : Nat) → Dev × Nat
  | 0 => (d, n)
  | f + 1 =>
    if bs.length < 16 then (d, n)
    else
      let k := fieldAt bs 0 4 % 16
      let ctx := bits (fieldAt bs 8 8) (Reg.INN_CLASS.CTX k).lo (Reg.INN_CLASS.CTX k).len
      match d.restoreClass ctx bs with
      | (d, rest, m) => d.restoreRooms rest (n + m) f

/-- The restored image is whole: the ledger record in one write, then the step records, then the rooms (R474). -/
def Dev.restoreApply (d : Dev) (h : WayHead) : Dev :=
  let l := h.ledger
  let ep := fieldAt l 8 8
  let st := fieldAt l 4 4
  let d := d.ledWrite fun r => { r with
    state := lsReady, epoch := ep, step := st, scaleE := fieldAt l 2 1, clean := fieldAt l 0x10 2, cur := 1 - r.cur, last := voNone
    retain := false, revertible := false }
  let recs := (List.range 64).filterMap fun i =>
    let b := memGetList d.way.buf (h.recordsOff + 256 * i) 256
    if fieldAt b 0xF8 8 = crc64 (b.take 0xF8) then some (i, b) else none
  let d := { d with led := { d.led with steps := recs } }
  let blob := memGetList d.way.buf h.roomsOff (h.body - h.roomsOff)
  let (d, n) := if h.kind = 1 ∧ h.epoch = ep ∧ crc64 blob = h.roomsCrc then d.restoreRooms blob 0 16 else (d, 0)
  let d := ((d.wr Reg.INN_CAPACITY.SUM d.capacitySum).innStatus).raise 0x1106 clsInfo (some d.ledRec.ctx) h.kind (min n 0xFFFFFF) st ep
  let d := d.acceptEnd ⟨0, 0, 0⟩
  ({ d with way := { d.way with accept := none, head := none, buf := [] } }).wayShow

/-- A WAYSTATION_WRITE of a restore (R473, R474): the shard section goes to bank 1 − CUR, the rest is gathered; the VALID header
ends it. -/
def Dev.restoreWrite (d : Dev) (k : FabPkt) : Dev :=
  let off := k.addr % 2 ^ 48
  match d.way.accept with
  | none => d.ackPkt k 1
  | some t =>
    if k.src ≠ d.way.partner ∨ d.ledRec.state ≠ lsRestoring then d.ackPkt k 1
    else
      let segs := t.bank (1 - d.ledRec.cur)
      let n := segLen segs
      let bad (d : Dev) : Dev :=
        let d := (d.acceptEnd ⟨0x0E, 0x1141, 0⟩)
        ({ d with way := { d.way with head := none, buf := [] } }).wayShow.ackPkt k 3
      if off = 0 then
        match wayHeadOf k.data with
        | none => d.ackPkt k 3
        | some h =>
          if h.state = wsWriting then
            if h.entries ≠ t.shards.length ∨ h.recordsOff - h.shardOff ≠ n then d.ackPkt k 1
            else
              let same := d.way.head.any fun x => x.seq == h.seq
              ({ d with way := { d.way with head := some h, buf := if same then d.way.buf else [] } }).wayShow.ackPkt k 0
          else if h.state ≠ wsValid ∨ d.way.head.isNone then d.ackPkt k 3
          else
            match d.segRead segs 0 n with
            | (d, .error _) => bad d
            | (d, .ok bs) =>
              if crc64 bs ≠ h.shardCrc ∨ fieldAt h.ledger 0x38 8 ≠ crc64 (h.ledger.take 0x38) then bad d
              else (d.restoreApply h).ackPkt k 0
      else
        match d.way.head with
        | none => d.ackPkt k 1
        | some h =>
          let o := off - wayBodyOff
          let cut := h.shardOff + n - o
          let shard := if o < h.shardOff + n then k.data.take cut else []
          match d.segWrite segs (o - h.shardOff) shard with
          | ⟨d, some f⟩ => d.ackPkt k (homeStatus f)
          | ⟨d, none⟩ =>
            ({ d with way := { d.way with buf := memPutList d.way.buf (o + shard.length) (k.data.drop shard.length) } }).ackPkt k 0

/-- WAYSTATION_WRITE (15 R405): admitted only from the partner. -/
def execWaystationWrite (s : State) : Out := s.run fun d => d.onPkt ptWayWrite fun k d =>
  if d.epochDiffers k then d.ackPkt k 4
  else if bitAt k.arg 0 then d.restoreWrite k
  else d.hostedWrite k

/-- A command ends: the transfer behind it stops where it is, and an accept that was stopped is undone (06 R165). -/
def Dev.wayEndCmd (d : Dev) (slot : Nat) : Dev :=
  let cut (r : Bool) (d : Dev) : Dev :=
    match d.wayJob r with
    | some j => if j.cmd = some slot then (d.wayClose r).setWayJob r none else d
    | none => d
  let d := cut true (cut false d)
  if d.way.acceptCmd ≠ some slot then d.wayShow
  else
    let st := match d.cmd? slot with
      | some c => c.aux
      | none => []
    let d := { d with way := { d.way with acceptCmd := none, accept := none, head := none, buf := [] } }
    (d.ledWrite fun r => { r with state := st.headD lsFree, ctx := st.getD 1 0 }).wayShow

/-- A REVERT from step counter `n`: the checkpoint of the reverted state stops, and its slot's header is written EMPTY (R461). A
WAYSTATION_FULL that is stopped so fails with EPOCH_MISMATCH. -/
def Dev.wayRevert (d : Dev) (slot n : Nat) : Dev :=
  let d := if d.way.due = some n then { d with way := { d.way with due := none } } else d
  let d := match d.way.job with
    | some j =>
      if j.head.step ≠ n then d
      else
        let d := (d.wayClose false).setWayJob false none
        match j.cmd with
        | some s => d.endCmd s 0x0E 0x0F32 0
        | none => d
    | none => d
  let d := d.forEach (d.way.sent.filter fun x => x.2.step == n) fun x d =>
    let d := { d with way := { d.way with sent := kvDel x.1 d.way.sent } }
    let k := { d.newPkt ptWayWrite d.way.partner d.way.pctx d.ledRec.ctx (x.1 * 2 ^ 48) with
      data := ({ state := wsEmpty, kind := 0, owner := d.rd Reg.FAB_ID.DEVICE_ID, seq := x.2.seq, epoch := 0, step := 0, scaleE := 0, cur := 0
                 entries := 0, body := 0, ledger := zeros 64, shardCrc := 0, roomsCrc := 0, shardOff := 0, recordsOff := 0
                 roomsOff := 0 } : WayHead).bytes }
    match d.request k (.cmd slot) d.ledRec.ctx 0 256 n with
    | (d, some _) => d
    | (d, none) => d.raise 0x1105 clsContained (some d.ledRec.ctx) failNoRoute.major d.way.partner n failNoRoute.detail
  d.wayShow

end Sys2Proof.Machine
end

