-- ==== Sys2Proof/Machine/Train.lean ====
section
/-!
DEFINITION. Timetables, the timetable's entries and the gradient exchange of a training step (16 R426–R442), MASK_SEED_SET (R438).
Choices: DEDUCED, notes/assumptions/12.md.
-/
namespace Sys2Proof.Machine

/-! ### Timetables (R426–R430) -/

/-- An entry of a timetable (R427). -/
structure TtEntry where
  bwd       : Bool
  mb        : Nat
  recompute : Bool
  rooms     : Bool
  list      : Nat
  count     : Nat
  rcList    : Nat
  rcCount   : Nat
  patchAt   : Nat
  patches   : Nat
  roomList  : Nat
  roomSpm   : Nat
  roomCount : Nat
  roomClass : Nat
  deriving DecidableEq, Repr

/-- Entry `i` of a timetable. -/
def ttEntry (t : List Byte) (i : Nat) : TtEntry :=
  let b := (t.drop (64 + 64 * i)).take 64
  let f (o l : Nat) : Nat := fieldAt b o l
  let bwd := f 0 1 == 1
  { bwd, mb := f 2 2, recompute := bwd && bitAt (f 1 1) 0, rooms := !bwd && bitAt (f 1 1) 1, list := f 8 8, count := f 4 4, rcList := f 0x10 8
    rcCount := f 0x18 4, patchAt := f 0x20 8, patches := f 0x1C 2, roomList := f 0x28 8, roomSpm := f 0x30 8, roomCount := f 0x38 2
    roomClass := f 0x3A 1 }

def ttEntries (t : List Byte) : Nat := fieldAt t 0x02 2
def ttMb (t : List Byte) : Nat := fieldAt t 0x04 2
def ttStages (t : List Byte) : Nat := fieldAt t 0x06 2
def ttStage (t : List Byte) : Nat := fieldAt t 0x08 2
def ttFwdSo (t : List Byte) : Nat := fieldAt t 0x0A 2 % 4096
def ttBwdSo (t : List Byte) : Nat := fieldAt t 0x0C 2 % 4096
def ttCore (t : List Byte) : Nat := fieldAt t 0x0E 1
def ttCrc (t : List Byte) : Nat := fieldAt t 0x38 8
def ttList (t : List Byte) : List TtEntry := (List.range (ttEntries t)).map (ttEntry t)

/-- The order of R428 as (backward, micro-batch) pairs. -/
def ttOrder (stages stage m : Nat) : List (Bool × Nat) :=
  let w := min (stages - 1 - stage) m
  (List.range w).map (fun k => (false, k)) ++ (List.range (m - w)).flatMap (fun i => [(false, w + i), (true, i)])
    ++ (rangeFrom (m - w) m).map fun i => (true, i)

/-- The header passes R429's first row. -/
def ttFormat (t : List Byte) (len : Nat) : Bool :=
  len == 64 * (1 + ttEntries t) && fieldAt t 0 2 == 1 && ttCrc t == crc64 (t.take 0x38 ++ t.drop 64) && ttEntries t == 2 * ttMb t
    && decide (1 ≤ ttMb t ∧ ttMb t ≤ 2048) && decide (1 ≤ ttStages t ∧ ttStages t ≤ 256) && decide (ttStage t < ttStages t)
    && decide (ttCore t ≤ 1)

/-- An address lies in HBM or in the scratchpad of a core. -/
def Dev.inListMem (d : Dev) (core a : Nat) : Bool := d.region a == .hbm || d.region a == .spm core

/-- The fields of an entry are in range (R427). -/
def Dev.ttFields (d : Dev) (core : Nat) (e : TtEntry) : Bool :=
  let n (x : Nat) : Bool := decide (1 ≤ x ∧ x ≤ 65536)
  n e.count && e.list % 64 == 0 && d.inListMem core e.list
    && (!e.recompute || (n e.rcCount && e.rcList % 64 == 0 && d.inListMem core e.rcList)) && decide (e.patches ≤ 64)
    && (!e.rooms || (decide (1 ≤ e.roomCount ∧ e.roomCount ≤ 64 ∧ e.roomClass ≤ 15) && d.region e.roomList == .spm core
      && d.region e.roomSpm == .spm core))

/-- Bytes that a patch writes; 0 for a WHAT that is refused (R430). -/
def patchSize (what : Nat) : Nat := if what = 1 then 2 else if what < 4 then 4 else 0

/-- The patches of an entry, read and checked (R429, R430). -/
def Dev.ttPatches (d : Dev) (ctx core : Nat) (e : TtEntry) : Dev × Except Fail (List (Nat × Nat)) :=
  match d.read byCp ctx e.patchAt (16 * e.patches) with
  | ⟨d, .error f⟩ => (d, .error f)
  | ⟨d, .ok bs⟩ =>
    let ps := (chunksOf 16 bs).map fun b => (fieldAt b 0 8, fieldAt b 8 1)
    let ok (p : Nat × Nat) : Bool := let z := patchSize p.2; z != 0 && p.1 % z == 0 && d.region p.1 == .spm core
    if ps.all ok then (d, .ok ps) else (d, .error ⟨0x02, 0x1001, 0x20⟩)

/-- The ranges of an entry that its context's windows must grant (R429). -/
def Dev.ttRanges (d : Dev) (e : TtEntry) (ps : List (Nat × Nat)) : List (Bool × Nat × Nat) :=
  [(false, e.list, 64 * e.count)] ++ (if e.recompute then [(false, e.rcList, 64 * e.rcCount)] else [])
    ++ ps.map (fun p => (true, p.1, patchSize p.2))
    ++ (if e.rooms then [(false, e.roomList, 4 * e.roomCount), (true, e.roomList, 4 * e.roomCount),
        (true, e.roomSpm, e.roomCount * d.roomSize e.roomClass), (false, e.roomSpm, e.roomCount * d.roomSize e.roomClass)] else [])

/-- A room class that a timetable may not use (R429). -/
def Dev.ttClassBad (d : Dev) (ctx : Nat) (e : TtEntry) : Bool :=
  e.rooms && ((d.classRefusal ctx e.roomClass).isSome || !d.on (Reg.INN_CLASS.COMMIT_BOUND e.roomClass))

/-- Read the patches of every entry. -/
def Dev.ttAllPatches (d : Dev) (ctx core : Nat) : List (Nat × TtEntry) → KV (List (Nat × Nat)) → Dev × Except Fail (KV (List (Nat × Nat)))
  | [], m => (d, .ok m)
  | (i, e) :: l, m =>
    match d.ttPatches ctx core e with
    | (d, .error f) => (d, .error f)
    | (d, .ok ps) => d.ttAllPatches ctx core l (if ps.isEmpty then m else kvPut i ps m)

/-- Check a timetable in the order of R429: its patches, or the first failure. -/
def Dev.ttCheck (d : Dev) (ctx len : Nat) (t : List Byte) : Dev × Except Fail (KV (List (Nat × Nat))) :=
  let es := ttList t
  let core := ttCore t
  if len % 64 ≠ 0 ∨ len < 128 then (d, .error ⟨0x02, 0x1001, 0x28⟩)
  else if !ttFormat t len then (d, .error ⟨0x02, 0x1001, 0x20⟩)
  else if es.map (fun e => (e.bwd, e.mb)) ≠ ttOrder (ttStages t) (ttStage t) (ttMb t)
      ∨ !((List.range (ttEntries t)).all fun i => decide (fieldAt t (64 + 64 * i) 1 ≤ 1)) then (d, .error ⟨0x02, 0x1002, 0x20⟩)
  else if !es.all (d.ttFields core) then (d, .error ⟨0x02, 0x1001, 0x20⟩)
  else if (ttStage t ≠ 0 ∧ !d.soAllowed ctx (ttFwdSo t)) ∨ (ttStage t + 1 ≠ ttStages t ∧ !d.soAllowed ctx (ttBwdSo t)) then
    (d, .error ⟨0x10, 0x0309, 0⟩)
  else if es.any (d.ttClassBad ctx) then (d, .error ⟨0x10, 0x0E10, 0⟩)
  else
    match d.ttAllPatches ctx core ((List.range es.length).zip es) [] with
    | (d, .error f) => (d, .error f)
    | (d, .ok m) =>
      match d.denyRanges ctx (((List.range es.length).zip es).flatMap fun (i, e) => d.ttRanges e ((kvGet i m).getD [])) with
      | ⟨d, some f⟩ => (d, .error f)
      | ⟨d, none⟩ => (d, .ok m)

/-- The parameter checks of TIMETABLE_LOAD. -/
def Dev.ttParams (d : Dev) (c : Cmd) : List PChk :=
  let load := c.par 0x0D 1 == 0
  [{ paddr c 0 with bad := load && (paddr c 0).bad }, pfield (load && (c.par 0 8 % 64 != 0 || d.region (c.par 0 8) != .hbm)) 0x00,
    pfield (decide (7 < c.par 0x0C 1)) 0x0C, pfield (decide (1 < c.par 0x0D 1)) 0x0D]

/-- The address range of TIMETABLE_LOAD. -/
def ttLoadRanges (c : Cmd) : List (Bool × Nat × Nat) := if c.par 0x0D 1 = 0 then [(false, c.par 0 8, c.par 8 4)] else []

/-- A context may not use a timetable slot: another owns it (R426). -/
def Dev.ttForeign (d : Dev) (ctx t : Nat) : Bool := d.on (Reg.TRN_TT.LOADED t) && d.rd (Reg.TRN_TT.CTX t) != ctx

/-- Free a timetable slot. -/
def Dev.ttFree (d : Dev) (t : Nat) : Dev :=
  ({ d with trn := { d.trn with slots := kvDel t d.trn.slots } } : Dev).setReg (Reg.TRN_TT.LOADED t).reg 0

/-- TIMETABLE_LOAD (R426, R429). -/
def execTimetableLoad (slot : Nat) (s : State) : Out := s.run fun d => d.onCmd slot 0x0501 fun c d =>
  let k := c.par 0x0C 1
  if d.ttForeign c.ctx k then d.endCmd slot 0x10 0x1010 0
  else if d.on (Reg.TRN_TT.RUNNING k) then d.endCmd slot 0x04 0x1011 0
  else if c.par 0x0D 1 = 1 then (d.ttFree k).okCmd slot
  else
    match d.read byCp c.ctx (c.par 0 8) (c.par 8 4) with
    | ⟨d, .error e⟩ => d.endCmd slot e.major e.detail 0
    | ⟨d, .ok t⟩ =>
      match d.ttCheck c.ctx (c.par 8 4) t with
      | (d, .error e) => d.endCmd slot e.major e.detail e.result
      | (d, .ok m) =>
        let d := { d with trn := { d.trn with slots := kvPut k ⟨t, m⟩ d.trn.slots } }
        let v := 1 + c.ctx * 2 ^ 4 + ttEntries t * 2 ^ 8 + ttMb t % 4096 * 2 ^ 32 + ttStages t % 512 * 2 ^ 44 + ttStage t % 512 * 2 ^ 53
        (d.setReg (Reg.TRN_TT.LOADED k).reg v).okCmd slot

/-! ### MASK_SEED_SET (R438) -/

/-- A training command of a context runs (R431). -/
def Dev.trainBusy (d : Dev) (ctx : Nat) : Bool := d.trn.runs.any fun r => r.ctx == ctx

/-- MASK_SEED_SET (R438). -/
def execMaskSeedSet (slot : Nat) (s : State) : Out := s.run fun d => d.onCmd slot 0x0506 fun c d =>
  if d.trainBusy c.ctx then d.endCmd slot 0x04 0x1012 0 else (d.wr (Reg.TRN_SEED.SEED c.ctx) (c.par 0 8)).okCmd slot

/-! ### The training command in progress -/

def Dev.run? (d : Dev) (slot : Nat) : Option TrainRun := d.trn.runs.find? fun r => r.cmd == slot

def Dev.updRun (d : Dev) (slot : Nat) (f : TrainRun → TrainRun) : Dev :=
  { d with trn := { d.trn with runs := d.trn.runs.map fun r => if r.cmd = slot then f r else r } }

/-- Fields of the TRAIN_STEP and OPT_STEP parameter blocks it runs. -/
def TrainRun.t (r : TrainRun) (off len : Nat) : Nat := fieldAt r.train off len
def TrainRun.o (r : TrainRun) (off len : Nat) : Nat := fieldAt r.opt off len

/-- Its timetable. -/
def Dev.runTt (d : Dev) (r : TrainRun) : TimeTab := (kvGet (r.t 0 1) d.trn.slots).getD ⟨[], []⟩

/-- What a run of the training machinery starts with. -/
def trainRun0 (cmd ctx : Nat) : TrainRun :=
  { cmd, ctx, train := [], opt := [], replay := false, step := 0, epoch := 0, scaleE := 0, seed := 0, phase := 1, entry := 0, part := 0, base := 0
    started := 0, sums := [], g2 := 0, flags := 0, diverged := false, optDone := (0, 0), clip := 0, buckets := [], shards := [], snap := [] }

/-- Show the phase and the entry (R447). -/
def Dev.trainShow (d : Dev) (slot : Nat) : Dev :=
  match d.run? slot with
  | some r => (d.wr (Reg.TRN_CTX_STATUS.PHASE r.ctx) r.phase).wr (Reg.TRN_CTX_STATUS.ENTRY r.ctx) r.entry
  | none => d

/-- A training command ends: its run is dropped, its timetable is free again (R431, R447). -/
def Dev.trainEndCmd (d : Dev) (slot : Nat) : Dev :=
  match d.run? slot with
  | none => d
  | some r =>
    let d := { d with trn := { d.trn with runs := d.trn.runs.filter fun x => x.cmd != slot } }
    let d := if r.train.isEmpty then d else d.wr (Reg.TRN_TT.RUNNING (r.t 0 1)) 0
    (d.wr (Reg.TRN_CTX_STATUS.PHASE r.ctx) 0).wr (Reg.TRN_CTX_STATUS.ENTRY r.ctx) 0

/-- Run an effect for a training command in progress. -/
def Dev.onTrain (d : Dev) (slot : Nat) (f : TrainRun → Cmd → Dev → Dev) : Dev :=
  match d.run? slot, d.cmd? slot with
  | some _, some c => d.onRoutine slot c.opcode fun c d =>
    match d.run? slot with
    | some r => f r c d
    | none => d
  | _, _ => d

/-! ### Buckets (R440) -/

/-- An entry of the bucket table. -/
structure Bucket where
  grad   : Nat
  out    : Nat
  count  : Nat
  so     : Nat
  off    : Int
  value  : Nat
  deriving DecidableEq, Repr

def bucketsOf (bs : List Byte) : List Bucket := (chunksOf 32 bs).map fun b =>
  ⟨fieldAt b 0 8, fieldAt b 8 8, fieldAt b 0x10 4, fieldAt b 0x14 2 % 4096, toSigned 8 (fieldAt b 0x16 1), fieldAt b 0x18 8⟩

/-- The reduce-scatter of bucket `b` (R440). -/
def TrainRun.coll (r : TrainRun) (b : Nat) (x : Bucket) : Coll :=
  { cmd := r.cmd, part := 1 + b, ctx := r.ctx, slot := r.t 1 1, seq := r.step * 65536 + b, epoch := r.epoch, op := 0, src := x.grad, dst := x.out
    count := x.count, inFmt := 0, outFmt := 1, scale := ofSigned 8 (-(toSigned 8 r.scaleE + x.off)), stages := 1, stage := 0, busy := false, got := []
    recs := [] }

/-- Elements of a bucket that this device owns. -/
def Dev.ownedOf (d : Dev) (r : TrainRun) (b : Nat) (x : Bucket) : Nat :=
  match d.group? (r.t 1 1) with
  | some g => ((r.coll b x).extents g d.myId).2 / 4
  | none => 0

/-- The groups and the bucket table of a TRAIN_STEP pass their checks (R431, R439, R440): the table, or the first failure. -/
def Dev.trainChecks (d : Dev) (r : TrainRun) : Dev × Except Fail (List Byte) :=
  let member (k : Nat) : Bool := match d.group? k with
    | some g => (g.rings.headD []).contains d.myId
    | none => false
  if !member (r.t 1 1) then (d, .error ⟨0x02, 0x1003, 0x21⟩)
  else if !member (r.t 2 1) then (d, .error ⟨0x02, 0x1003, 0x22⟩)
  else
    match d.read byCp r.ctx (r.t 8 8) (32 * r.t 4 2) with
    | ⟨d, .error e⟩ => (d, .error e)
    | ⟨d, .ok bs⟩ =>
      let xs := bucketsOf bs
      let e := toSigned 8 r.scaleE
      let bad (x : Bucket) : Bool :=
        let n := 4 * d.ownedOf r 0 x
        x.count == 0 || decide (x.off < -8 ∨ 7 < x.off) || decide (e + x.off < -127 ∨ 128 < e + x.off) || d.region x.grad != .hbm
          || d.region x.out != .hbm || overlap x.grad (2 * x.count) x.out n
      if xs.any bad then (d, .error ⟨0x02, 0x1003, 0x28⟩)
      else if xs.any fun x => !d.soAllowed r.ctx x.so then (d, .error ⟨0x10, 0x0309, 0⟩)
      else
        match d.denyRanges r.ctx (xs.flatMap fun x => [(false, x.grad, 2 * x.count), (true, x.out, 4 * d.ownedOf r 0 x)]) with
        | ⟨d, some f⟩ => (d, .error f)
        | ⟨d, none⟩ => (d, .ok bs)

/-- The value an SO wait needs has arrived; an uncorrectable object or a stale mirror fails (07 R201; 22 R586). -/
def Dev.soArrived (d : Dev) (n v : Nat) : Except Fail Bool :=
  if d.so.ue.contains n then .error ⟨0x0E, 0x1601, 0⟩
  else if d.soKind n = 3 && d.soStale n then .error ⟨0x05, 0x0701, 0⟩
  else .ok (decide (v ≤ d.soValue n))

/-- BUCKET_REDUCE_START (R440): the next bucket is final and its reduce-scatter starts, when the collective engine has room. -/
def execBucketReduceStart (slot : Nat) (s : State) : Out := s.run fun d => d.onTrain slot fun r _ d =>
  if 2 < r.phase then d
  else
    match (bucketsOf r.buckets).drop r.started with
    | [] => d
    | x :: _ =>
      match d.soArrived x.so x.value with
      | .error e => d.failStaged slot e
      | .ok false => d
      | .ok true =>
        match (d.updRun slot fun r => { r with started := r.started + 1 }).collStart (r.coll r.started x) with
        | some d => d
        | none => d

/-! ### Running an entry (R432) -/

/-- Check one list of an entry. -/
def Dev.entryList (d : Dev) (ctx core base a n : Nat) : Dev × Except Fail (List TdWord) :=
  match d.read byCp ctx a (64 * n) with
  | ⟨d, .error e⟩ => (d, .error e)
  | ⟨d, .ok bs⟩ =>
    let ws := listWords bs
    match d.listBad ctx (d.listCols core) core (indexed base ws) with
    | (d, some (i, b)) => (d.listError ctx i b, .error b.fail)
    | (d, none) => (d, .ok ws)

/-- Copy and check the lists of the run's next entry, RC_LIST before LIST (06 R155, R156; R432 step 1). -/
def Dev.entrySnap (d : Dev) (slot : Nat) : Dev :=
  match d.run? slot with
  | none => d
  | some r =>
    let t := (d.runTt r).bytes
    if ttEntries t ≤ r.entry then d
    else
      let e := ttEntry t r.entry
      let core := ttCore t
      let rc : Dev × Except Fail (List (List TdWord)) :=
        if !e.recompute then (d, .ok [])
        else match d.entryList r.ctx core r.base e.rcList e.rcCount with
          | (d, .error f) => (d, .error f)
          | (d, .ok ws) => (d, .ok [ws])
      match rc with
      | (d, .error f) => d.failStaged slot f
      | (d, .ok l) =>
        let n := if e.recompute then e.rcCount else 0
        match d.entryList r.ctx core (r.base + n) e.list e.count with
        | (d, .error f) => d.failStaged slot f
        | (d, .ok ws) => d.updRun slot fun r => { r with snap := l ++ [ws], base := r.base + n + e.count }

/-- The bytes of a patch (R430). -/
def TrainRun.patch (r : TrainRun) (mb what : Nat) : List Byte :=
  let p (z : Int) : List Byte := leBytes 4 (to32 ((f32 one32).scale z))
  match what with
  | 0 => leBytes 4 r.step
  | 1 => leBytes 2 mb
  | 2 => p (toSigned 8 r.scaleE)
  | _ => p (-(toSigned 8 r.scaleE))

/-- Give CP1 the lists of the present entry, and copy and check those of the next one. -/
def Dev.entryLists (d : Dev) (slot : Nat) (r : TrainRun) (core : Nat) : Dev :=
  let d := d.addTodo slot ((r.snap.flatMap stageStart).map fun w => (core, w))
  (d.updRun slot fun r => { r with part := 2, snap := [] }).trainShow slot

/-- The INN_OP of an entry's rooms (06 R153). -/
def roomTd (op : Nat) (e : TtEntry) : TdWord :=
  tdMake 0x50 4 [(0x18, 8, e.roomList), (0x20, 8, e.roomSpm), (0x28, 2, e.roomCount), (0x2A, 1, op), (0x2B, 1, e.roomClass)]

/-- The first guest whose outcome ends the step (R432): the guest and the outcome. -/
def Dev.roomFailed (d : Dev) (e : TtEntry) : Option (Nat × Nat) :=
  ((List.range e.roomCount).map fun i => (d.peekNat (e.roomList + 4 * i) 3, d.peekNat (e.roomList + 4 * i + 3) 1)).find? fun x =>
    x.2 != ocDone && x.2 != ocLodged && x.2 != ocStaged

/-- A room of the entry could not be checked in or out (R432). -/
def Dev.roomFail (d : Dev) (slot : Nat) (r : TrainRun) (g oc : Nat) : Dev :=
  ((d.wr (Reg.TRN_LAST_ROOM.GUEST r.ctx) g).wr (Reg.TRN_LAST_ROOM.OUTCOME r.ctx) oc).failStaged slot ⟨0x0E, 0x1021, 0⟩

/-- The entry is complete: the next one waits for its neighbour, or the exchange goes on. -/
def Dev.entryDone (d : Dev) (slot entries : Nat) : Dev :=
  let d := d.inc Reg.TRN_ENTRIES_RUN.COUNT
  let d := d.updRun slot fun r =>
    { r with entry := r.entry + 1, part := 0, phase := if entries ≤ r.entry + 1 then 2 else 1 }
  (d.entrySnap slot).trainShow slot

/-- The neighbour's arrival that an entry waits for: the SO and the value (R432 step 2). -/
def TrainRun.arrival (r : TrainRun) (t : List Byte) (e : TtEntry) : Option (Nat × Nat) :=
  let v := (r.t 0x18 8 + e.mb + 1) % 2 ^ 64
  if e.bwd then if ttStage t + 1 = ttStages t then none else some (ttBwdSo t, v)
  else if ttStage t = 0 then none
  else some (ttFwdSo t, v)

/-- An entry begins: its patches are written, then its rooms are checked in or its lists run (R432 steps 3 to 6). -/
def Dev.entryBegin (d : Dev) (slot : Nat) (r : TrainRun) : Dev :=
  let tt := d.runTt r
  let e := ttEntry tt.bytes r.entry
  let core := ttCore tt.bytes
  let ps := (kvGet r.entry tt.patches).getD []
  match d.writeAll byCp r.ctx (ps.map fun p => (p.1, r.patch e.mb p.2)) with
  | ⟨d, some f⟩ => d.failStaged slot f
  | ⟨d, none⟩ =>
    if e.rooms then
      ((d.addTodo slot [(core, roomTd 0 e)]).updRun slot fun r => { r with part := 1 }).trainShow slot
    else d.entryLists slot r core

/-- TIMETABLE_ENTRY (R432): the present entry goes on as far as it can: its neighbour's arrival, its patches, its rooms, its lists. -/
def execTimetableEntry (slot : Nat) (s : State) : Out := s.run fun d => d.onTrain slot fun r c d =>
  let tt := d.runTt r
  let e := ttEntry tt.bytes r.entry
  let core := ttCore tt.bytes
  let idle := (d.cmdTds slot).isEmpty && c.todo.isEmpty
  if r.phase ≠ 1 ∨ !idle then d
  else
    match r.part with
    | 0 =>
      match r.arrival tt.bytes e with
      | none => d.entryBegin slot r
      | some (so, v) =>
        match d.soArrived so v with
        | .error f => d.failStaged slot f
        | .ok false => d
        | .ok true => d.entryBegin slot r
    | 1 =>
      match d.roomFailed e with
      | some (g, oc) => d.roomFail slot r g oc
      | none => d.entryLists slot r core
    | 2 =>
      if e.rooms then (d.addTodo slot [(core, roomTd 1 e)]).updRun slot fun r => { r with part := 3 }
      else d.entryDone slot (ttEntries tt.bytes)
    | _ =>
      match d.roomFailed e with
      | some (g, oc) => d.roomFail slot r g oc
      | none => d.entryDone slot (ttEntries tt.bytes)

/-- STAGE_TIMEOUT (R432): the wait for a neighbour's arrival reaches STAGE_TIMEOUT_MS. -/
def execStageTimeout (slot : Nat) (s : State) : Out := s.run fun d => d.onTrain slot fun r _ d =>
  let tt := d.runTt r
  let waits : Bool := match r.arrival tt.bytes (ttEntry tt.bytes r.entry) with
    | some (so, v) => decide (d.soValue so < v)
    | none => false
  if r.phase = 1 ∧ r.part = 0 ∧ waits then (d.inc Reg.TRN_ERR.STAGE_TIMEOUT).failStaged slot ⟨0x05, 0x1020, 0⟩ else d

/-! ### Exchange and norm (R440, R441) -/

/-- Fold a plane by rows of 192 values until one remains (R441); `fuel` bounds the folds. -/
def foldPlane (op : Nat) : (fuel : Nat) → List Nat → Nat
  | 0, l => l.headD 0
  | n + 1, l =>
    match l with
    | [] => 0
    | [x] => x
    | l => foldPlane op n ((chunksOf 192 l).map (ruValue op))

/-- The sum of squares and the flag of a bucket's owned elements (R441). -/
def bucketSums (xs : List Nat) : Nat × Nat :=
  let rows := chunksOf 192 xs
  if xs.isEmpty then (0, 0)
  else (foldPlane 0 8 (rows.map (ruValue 1)), b2n (foldPlane 2 8 (rows.map (ruValue 5)) != 0))

/-- The RU reduces bucket `b` once its owned blocks are visible (R441). -/
def Dev.bucketFold (d : Dev) (slot : Nat) (r : TrainRun) (b : Nat) (x : Bucket) : Dev :=
  let core := ttCore (d.runTt r).bytes
  match d.unitBlocked [domRu core] 0x0A12 with
  | some e => d.failStaged slot e
  | none =>
    match d.readRaw byCp (some r.ctx) x.out (4 * d.ownedOf r b x) with
    | ⟨d, .error e⟩ => d.failStaged slot e
    | ⟨d, .ok bs⟩ =>
      let d := d.incMod (Reg.RU_ROWS.COUNT core) (cdiv bs.length 768)
      (d.inc Reg.TRN_BUCKETS.COUNT).updRun slot fun r => { r with sums := kvPut b (bucketSums (elems32 1 bs)) r.sums }

/-- The next stage of every bucket's reduce-scatter whose stage is complete; one that has ended is folded. -/
def Dev.bucketsGo (d : Dev) (slot : Nat) (r : TrainRun) : Dev :=
  d.forEach ((List.range r.started).zip (bucketsOf r.buckets)) fun (b, x) d =>
    if (kvGet b r.sums).isSome then d
    else
      match d.coll? slot (1 + b) with
      | none => d
      | some k =>
        if k.busy then d
        else
          match (d.pieceDone slot).collNext slot (1 + b) with
          | (d, true) => d.bucketFold slot r b x
          | (d, false) => d

/-- Compare or keep a digest of step `n` (R475, R477): bit 3 of PHASES for GRAD_DIGEST at 0x78, bit 4 for BANK_DIGEST at 0x80. A
digest that differs in a replay raises REPLAY_DIVERGED and fails the step. -/
def Dev.digest (d : Dev) (r : TrainRun) (bank : Bool) (v : Nat) : Dev :=
  let bit := if bank then 4 else 3
  let off := if bank then 0x80 else 0x78
  if !d.recHas r.step bit then (d.recWrite r.step [(off, leBytes 8 v)]).recPhase r.step bit
  else
    let old := d.recField r.step off 8
    if !r.replay ∨ old = v then d
    else
      let d := d.raise 0x1107 clsContained (some r.ctx) (b2n bank) 0 r.step old .no (some (b2n bank, 0, r.step, v))
      d.failStep.updRun r.cmd fun r => { r with diverged := true }

/-- STOP_ON_DIVERGENCE of a replay that has diverged (R477). -/
def Dev.divergedStop (d : Dev) (slot : Nat) : Bool :=
  match d.run? slot, d.cmd? slot with
  | some r, some c => r.replay && r.diverged && bitAt (c.par 4 1) 0
  | _, _ => false

/-- CRC-64 over memory ranges, read by porters (R475). -/
def Dev.crcOver (d : Dev) (ctx : Nat) : List (Nat × Nat) → (crc : Nat) → Dev × Except Fail Nat
  | [], crc => (d, .ok (crc ^^^ ones64))
  | (a, n) :: l, crc =>
    match d.readRaw byCp (some ctx) a n with
    | ⟨d, .error e⟩ => (d, .error e)
    | ⟨d, .ok bs⟩ => d.crcOver ctx l (crc64Run crc bs)

/-- The NORM of the step starts (R441): this device's record is its sum of squares and its flag. -/
def Dev.normStart (d : Dev) (slot : Nat) (r : TrainRun) : Dev :=
  match d.group? (r.t 2 1) with
  | none => d.failStaged slot ⟨0x02, 0x1003, 0⟩
  | some g =>
    let q := r.sums.foldl (fun a x => add32 a x.2.1) 0
    let fl := r.sums.foldl (fun f x => f ||| x.2.2) 0
    let own := leBytes 4 q ++ zeros 28 ++ leBytes 4 fl
    let k : Coll :=
      { cmd := slot, part := 0x10000, ctx := r.ctx, slot := r.t 2 1, seq := r.step * 65536 + 0xFFFF, epoch := r.epoch, op := 3, src := 0, dst := 0
        count := 1, inFmt := 1, outFmt := 1, scale := 0, stages := 1, stage := 0, busy := false, got := [], recs := [(g.pos 0 d.myId, own)] }
    match ((d.updRun slot fun r => { r with phase := 3 }).trainShow slot).collStart k with
    | some d => d
    | none => d

/-- The exchange is complete: the digest, then the NORM (R441, R475, R477). -/
def Dev.exchangeDone (d : Dev) (slot : Nat) (r : TrainRun) : Dev :=
  if 4 ≤ d.fab.colls.length then d
  else if !d.on Reg.LEDG_CFG.DIGEST then d.normStart slot r
  else
    match d.crcOver r.ctx (((List.range r.started).zip (bucketsOf r.buckets)).map fun (b, x) => (x.out, 4 * d.ownedOf r b x)) ones64 with
    | (d, .error e) => d.failStaged slot e
    | (d, .ok v) =>
      let d := d.digest r false v
      if d.divergedStop slot then d.failStaged slot ⟨0x0E, 0x1142, 0⟩ else d.normStart slot r

/-- The norm record of a step is kept and written (R441). -/
def Dev.normKeep (d : Dev) (r : TrainRun) (g2 fl : Nat) : Put :=
  match d.write byCp r.ctx (r.t 0x10 8) (leBytes 8 r.step ++ leBytes 4 g2 ++ leBytes 4 fl) with
  | ⟨d, some e⟩ => ⟨d, some e⟩
  | ⟨d, none⟩ =>
    let d := { d with trn := { d.trn with norms := kvPut r.ctx r.step d.trn.norms } }
    let d := ((d.wr (Reg.TRN_NORM.G2 r.ctx) g2).wr (Reg.TRN_NORM.NONFINITE r.ctx) fl).wr (Reg.TRN_NORM.VALID r.ctx) 1
    ⟨(d.recWrite r.step [(0x18, leBytes 4 g2), (0x1C, leBytes 4 fl)]).recPhase r.step 0, none⟩

/-- The NORM has ended: TRAIN_STEP completes, or a replay goes on with `next` (R441, R477). -/
def Dev.normDone (d : Dev) (slot : Nat) (r : TrainRun) (next : Nat → Nat → Dev → Dev) : Dev :=
  match d.coll? slot 0x10000 with
  | none => d
  | some k =>
    if k.busy then d
    else
      match d.group? k.slot with
      | none => d
      | some g =>
        let (vs, fl) := k.normOut g.n
        let g2 := vs.headD 0
        let fl := fl % 2
        match (((d.pieceDone slot).collRemove slot 0x10000).normKeep r g2 fl) with
        | ⟨d, some e⟩ => d.failStaged slot e
        | ⟨d, none⟩ => next g2 fl d

/-- The exchange and the norm go on as far as they can (R440, R441). -/
def Dev.exchangeGo (d : Dev) (slot : Nat) (r : TrainRun) (next : Nat → Nat → Dev → Dev) : Dev :=
  if r.phase = 3 then
    if (d.coll? slot 0x10000).isSome then d.normDone slot r next else d.normStart slot r
  else
    let d := d.bucketsGo slot r
    match d.run? slot, d.cmd? slot with
    | some r, some c =>
      if c.fin.isNone ∧ r.phase = 2 ∧ r.sums.length = (bucketsOf r.buckets).length then d.exchangeDone slot r else d
    | _, _ => d

/-! ### TRAIN_STEP (R431) -/

/-- CRC-64 over the CRC fields of two group tables, rebuilt from the tables in force (R475; 15 R411). -/
def Dev.groupCrc (d : Dev) (a b : Nat) : Nat :=
  let one (k : Nat) : List Byte := match d.group? k with
    | some g =>
      let hdr := leBytes 4 g.id ++ leBytes 2 g.n ++ leBytes 1 g.rings.length ++ zeros 0x31
      leBytes 8 (crc64 (hdr ++ g.rings.flatMap fun l => l.flatMap (leBytes 2)))
    | none => zeros 8
  crc64 (one a ++ one b)

/-- Stages of a TRAIN_STEP: those of its lists and rooms, of its reduce-scatters, and the NORM (R432, R441; 06 R166). -/
def Dev.trainStages (d : Dev) (r : TrainRun) : Nat :=
  let t := (d.runTt r).bytes
  let list (a n : Nat) : Nat := listStages (listWords (d.peek a (64 * n)))
  let entry (e : TtEntry) : Nat := list e.list e.count + (if e.recompute then list e.rcList e.rcCount else 0) + (if e.rooms then 2 else 0)
  let coll (x : Bucket) : Nat := match d.group? (r.t 1 1) with
    | some g => collStages g 0 x.count 2
    | none => 0
  ((ttList t).map entry).sum + ((bucketsOf r.buckets).map coll).sum + 1

/-- Open the step record of the present step, or reuse that of an aborted run (R475). -/
def Dev.recOpen (d : Dev) (r : TrainRun) : Dev :=
  let old := match d.stepRec r.step with
    | some b => if fieldAt b 4 1 = voAbort ∨ fieldAt b 4 1 = voNone then b else recPut (zeros 256) 0 (leBytes 4 r.step)
    | none => recPut (zeros 256) 0 (leBytes 4 r.step)
  let d := d.setStepRec r.step old
  let phases := fieldAt old 7 1
  d.recWrite r.step [(4, [255, 255]), (6, leBytes 1 r.scaleE), (7, leBytes 1 (phases - phases % 8)), (8, leBytes 8 r.epoch), (0x10, leBytes 8 r.seed),
    (0x20, r.train), (0x70, leBytes 8 (ttCrc (d.runTt r).bytes)), (0x88, leBytes 8 (d.groupCrc (r.t 1 1) (r.t 2 1))),
    (0x90, leBytes 2 (satAdd 16 (fieldAt old 0x90 2) 1)), (0x92, [255, 255])]

/-- A step opens (R454): the record, the step record, the timetable and the run are taken; the first entry is checked. -/
def Dev.trainOpen (d : Dev) (r : TrainRun) : Dev :=
  let fresh := decide (d.ledRec.state = lsReady)
  let d := d.ledWrite fun l => { l with state := lsOpen, retain := false, revertible := false }
  let d := if fresh then { d with led := { d.led with failed := false } } else d
  let d := (d.recOpen r).wr (Reg.TRN_TT.RUNNING (r.t 0 1)) 1
  let d := (d.wr (Reg.TRN_NORM.VALID r.ctx) 0)
  let d := { d with trn := { d.trn with runs := d.trn.runs ++ [r], norms := kvDel r.ctx d.trn.norms } }
  let d := d.assign r.cmd [ttCore (d.runTt r).bytes]
  let d := d.updCmd r.cmd fun c => { c with total := d.trainStages r }
  (d.entrySnap r.cmd).trainShow r.cmd

/-- A step cannot open: another training command runs, the ledger is not the context's or busy, the slot is empty or another's
(R431, R449, R471). -/
def Dev.trainRefusal (d : Dev) (ctx tt : Nat) : Option Fail :=
  if d.trainBusy ctx then some ⟨0x04, 0x1012, 0⟩
  else
    match d.ledRefusal ctx with
    | some e => some e
    | none =>
      if d.fullRuns ∨ (d.ledRec.state ≠ lsReady ∧ d.ledRec.state ≠ lsOpen) then some ⟨0x04, 0x1111, 0⟩
      else if !d.on (Reg.TRN_TT.LOADED tt) then some ⟨0x0F, 0x1013, 0⟩
      else if d.ttForeign ctx tt then some ⟨0x10, 0x1010, 0⟩
      else none

/-- The parameter checks of TRAIN_STEP. -/
def Dev.trainParams (d : Dev) (c : Cmd) : List PChk :=
  let cfg (b : Bool) (off : Nat) : PChk := pchk b 0x1003 off
  [cfg (decide (7 < c.par 0 1)) 0x00, cfg (decide (15 < c.par 1 1)) 0x01, cfg (decide (15 < c.par 2 1)) 0x02,
    cfg (!(decide (1 ≤ c.par 4 2 ∧ c.par 4 2 ≤ 1024))) 0x04, paddr c 8, cfg (c.par 8 8 % 64 != 0 || d.region (c.par 8 8) != .hbm) 0x08,
    paddr c 0x10, cfg (c.par 0x10 8 % 16 != 0) 0x10]

/-- The address ranges of TRAIN_STEP. -/
def trainRanges (c : Cmd) : List (Bool × Nat × Nat) := [(false, c.par 8 8, 32 * c.par 4 2), (true, c.par 0x10 8, 16)]

/-- TRAIN_STEP (R431, R441): it opens the step; then it takes its exchange and its norm as far as they go. TIMETABLE_ENTRY and
BUCKET_REDUCE_START run its entries and start its buckets. -/
def execTrainStep (slot : Nat) (s : State) : Out := s.run fun d => d.onRoutine slot 0x0502 fun c d =>
  match d.run? slot with
  | some r => d.exchangeGo slot r fun g2 fl d =>
    if fl = 0 then d.okCmd slot g2 else d.endCmd slot 0x01 0x1030 (g2 + fl * 2 ^ 32)
  | none =>
    if c.total ≠ 0 then d
    else
      match d.trainRefusal c.ctx (c.par 0 1) with
      | some e => d.endCmd slot e.major e.detail 0
      | none =>
        let l := d.ledRec
        let r := { trainRun0 slot c.ctx with
          train := c.parBytes 0 32, step := l.step, epoch := l.epoch, scaleE := l.scaleE, seed := d.rd (Reg.TRN_SEED.SEED c.ctx) }
        match d.trainChecks r with
        | (d, .error e) => d.endCmd slot e.major e.detail e.result
        | (d, .ok bs) => d.trainOpen { r with buckets := bs }

end Sys2Proof.Machine
end

