-- ==== Sys2Proof/Machine/Optim.lean ====
section
/-!
DEFINITION. OPT_STEP (16 R443–R446) and REPLAY_STEP (17 R476, R477).
-/
namespace Sys2Proof.Machine

/-! ### The parameter block and the shard table (R443) -/

def TrainRun.adam (r : TrainRun) : Bool := r.o 0x0A 1 == 1
def TrainRun.f32 (r : TrainRun) : Bool := bitAt (r.o 0x0B 1) 0
def TrainRun.cores (r : TrainRun) : List Nat :=
  match bits (r.o 0x0B 1) 2 2 with
  | 0 => [0]
  | 1 => [1]
  | _ => [0, 1]

/-- Positive and finite as a binary32. -/
def positive32 (x : Nat) : Bool := finite32 x && decide (x % 2 ^ 32 < 2 ^ 31) && x % 2 ^ 31 != 0

/-- The parameter checks of OPT_STEP. -/
def Dev.optParams (d : Dev) (c : Cmd) : List PChk :=
  let cfg (b : Bool) (off : Nat) : PChk := pchk b 0x1004 off
  [paddr c 0, cfg (c.par 0 8 % 64 != 0 || d.region (c.par 0 8) != .hbm) 0x00, cfg (!(decide (1 ≤ c.par 8 2 ∧ c.par 8 2 ≤ 1024))) 0x08,
    cfg (decide (1 < c.par 0x0A 1)) 0x0A, cfg (bits (c.par 0x0B 1) 2 2 == 3) 0x0B,
    cfg (!bitAt (c.par 0x0B 1) 1 && !positive32 (c.par 0x0C 4)) 0x0C]

/-- The address range of OPT_STEP. -/
def optRanges (c : Cmd) : List (Bool × Nat × Nat) := [(false, c.par 0 8, 64 + 64 * c.par 8 2)]

/-- No range of a list overlaps a later one. -/
def disjoint : List (Nat × Nat) → Bool
  | [] => true
  | (a, n) :: l => !(l.any fun x => overlap a n x.1 x.2) && disjoint l

/-- Bytes of the work area that OPT_STEP needs (R443). -/
def optWork : Nat := 0x300000

/-- Where the work area lies in a core's scratchpad. -/
def TrainRun.workAt (r : TrainRun) (core : Nat) : Nat := spmBase core + fieldAt r.shards 0 4

/-- The shard table passes its checks, and the windows grant what the update touches (R443; 03 R82). -/
def Dev.shardChecks (d : Dev) (r : TrainRun) : Put :=
  let xs := shardsOf r.shards
  let off := fieldAt r.shards 0 4
  let size := fieldAt r.shards 4 4
  let cur := d.ledRec.cur
  let bank (k : Nat) (x : Shard) : List (Nat × Nat) := x.bank k r.adam r.f32
  let all := xs.flatMap fun x => bank 0 x ++ bank 1 x ++ [(x.grad, 4 * x.count)]
  if off % 65536 ≠ 0 ∨ size < optWork ∨ spmSize < off + size ∨ (xs.any fun x => x.count == 0 || decide (2 ^ 32 < x.index + x.count))
      ∨ !disjoint all then ⟨d, some ⟨0x02, 0x1004, 0x20⟩⟩
  else
    d.denyRanges r.ctx (xs.flatMap (fun x =>
        (bank cur x).map (fun y => (false, y.1, y.2)) ++ [(false, x.grad, 4 * x.count)] ++ (bank (1 - cur) x).map fun y => (true, y.1, y.2))
      ++ r.cores.map fun k => (true, r.workAt k, optWork))

/-! ### Arithmetic (R444, R445) -/

/-- binary32 to binary64, exactly. -/
def to64of32 (x : Nat) : Nat := to64 (f32 x)

/-- s of R444: the clip factor times GRAD_MULT. -/
def TrainRun.factor (r : TrainRun) (g2 : Nat) : Nat :=
  let n := sqrt64 (to64of32 g2)
  let clip := to64of32 (r.o 0x0C 4)
  let c := if bitAt (r.o 0x0B 1) 1 || (f64 n).le (f64 clip) then one32 else to32 (f64 (div64 clip n))
  mul32 c (r.o 0x2C 4)

/-- SR of R445: stochastic rounding to bfloat16 for a quantity kept in it; `q` is 0 for weights, 1 and 2 for the moments. -/
def TrainRun.sr (r : TrainRun) (q idx x : Nat) : Nat :=
  if q ≠ 0 ∧ r.f32 then x else srbf16 x (maskGen r.seed r.step 0xFFFF q idx)

/-- One element: the reduced gradient, the weight and the moments, to w', m' and v' (R445). `seed7` is f of SFU slot 7. -/
def TrainRun.element (r : TrainRun) (seed7 : Nat → Nat) (idx g w m v : Nat) : Nat × Nat × Nat :=
  let g := mul32 g r.clip
  let lr := r.o 0x10 4
  let b1 := r.o 0x14 4
  let b2 := r.o 0x18 4
  let wd := r.o 0x20 4
  if !r.adam then
    let m' := r.sr 1 idx (fma32 b1 m g)
    (r.sr 0 idx (fnma32 lr (fma32 wd w m') w), m', 0)
  else
    let lerp (a b t : Nat) : Nat := fma32 t (sub32 b a) a
    let m' := r.sr 1 idx (lerp m g (sub32 one32 b1))
    let v' := r.sr 2 idx (lerp v (mul32 g g) (sub32 one32 b2))
    let a := add32 (mul32 v' (r.o 0x28 4)) (r.o 0x1C 4)
    let u := mul32 (mul32 m' (r.o 0x24 4)) (nrrsq a (seed7 a))
    (r.sr 0 idx (fnma32 lr (fma32 wd w u) w), m', v')

/-! ### Chunks (R446) -/

/-- Elements of a chunk. -/
def optChunk : Nat := 64512

/-- The chunks of a core: entry, first element and length (R446). -/
def TrainRun.chunks (r : TrainRun) (core : Nat) : List (Shard × Nat × Nat) :=
  if !r.cores.contains core then []
  else
    (shardsOf r.shards).flatMap fun x =>
      let half := x.count / 2 / 192 * 192
      let (lo, n) := if r.cores.length < 2 then (0, x.count) else if core = 0 then (0, half) else (half, x.count - half)
      (List.range (cdiv n optChunk)).map fun i => (x, lo + i * optChunk, min optChunk (n - i * optChunk))

/-- Elements of a bank as binary32 patterns. -/
def momFmt (f32 : Bool) : Nat := if f32 then 1 else 0

/-- An element's bytes in its format. -/
def momBytes (f32 : Bool) (x : Nat) : List Byte := if f32 then leBytes 4 x else leBytes 2 (x / 65536)

/-- One chunk on a core: read from bank CUR, computed, written to bank 1 − CUR; its work area holds leftovers (R446). -/
def Dev.optChunkRun (d : Dev) (r : TrainRun) (core : Nat) (x : Shard) (lo n : Nat) : Put :=
  let cur := d.ledRec.cur
  let ms := momSize r.f32
  let p (k : Nat) (b0 b1 : Nat) : Nat := if k = 0 then b0 else b1
  let who := byPorter (if core = 0 then 0 else 8)
  let nv := if r.adam then n else 0
  match d.unitBlocked [domVe core] 0x0913, d.unitBlocked (if r.adam then [domSfu core] else []) 0x0913, d.unitBlocked [domPorters core] 0x0D21 with
  | none, none, none =>
    match d.readAll who r.ctx [(x.grad + 4 * lo, 4 * n), (p cur x.w0 x.w1 + 2 * lo, 2 * n), (p cur x.m0 x.m1 + ms * lo, ms * n),
        (p cur x.v0 x.v1 + ms * lo, ms * nv)] with
    | (d, .error e) => ⟨d, some e⟩
    | (d, .ok bs) =>
      let g := elems32 1 (bs.getD 0 [])
      let w := elems32 0 (bs.getD 1 [])
      let m := elems32 (momFmt r.f32) (bs.getD 2 [])
      let v := if r.adam then elems32 (momFmt r.f32) (bs.getD 3 []) else List.replicate n 0
      let seed7 := sfuEval (d.sfuTable core 7)
      let outs := ((List.range n).zip (g.zip (w.zip (m.zip v)))).map fun (i, g, w, m, v) => r.element seed7 (x.index + lo + i) g w m v
      match d.writeFree (byCore core) r.ctx (r.workAt core) optWork with
      | ⟨d, some e⟩ => ⟨d, some e⟩
      | ⟨d, none⟩ =>
        match d.writeAll who r.ctx ([(p cur x.w1 x.w0 + 2 * lo, outs.flatMap fun o => momBytes false o.1),
            (p cur x.m1 x.m0 + ms * lo, outs.flatMap fun o => momBytes r.f32 o.2.1)]
            ++ if r.adam then [(p cur x.v1 x.v0 + ms * lo, outs.flatMap fun o => momBytes r.f32 o.2.2)] else []) with
        | ⟨d, some e⟩ => ⟨d, some e⟩
        | ⟨d, none⟩ => ⟨d.inc Reg.TRN_OPT_ELEMS.COUNT n, none⟩
  | some e, _, _ => ⟨d, some e⟩
  | _, some e, _ => ⟨d, some e⟩
  | _, _, some e => ⟨d, some e⟩

/-- The optimizer has written every chunk: the digest, the step record, the end (R475, R477). -/
def Dev.optDone (d : Dev) (slot : Nat) (r : TrainRun) (fin : Dev → Dev) : Dev :=
  let finish (d : Dev) : Dev := fin ((d.recWrite r.step [(0x40, r.opt)]).recPhase r.step 1)
  if !d.on Reg.LEDG_CFG.DIGEST then finish d
  else
    match d.crcOver r.ctx ((shardsOf r.shards).flatMap fun x => x.bank (1 - d.ledRec.cur) r.adam r.f32) ones64 with
    | (d, .error e) => d.failStaged slot e
    | (d, .ok v) =>
      let d := d.digest r true v
      if d.divergedStop slot then d.failStaged slot ⟨0x0E, 0x1142, 0⟩ else finish d

/-- The next chunk of the update, on a core that may run one (R446). -/
def Dev.optGo (d : Dev) (slot : Nat) (r : TrainRun) (c : Cmd) (fin : Dev → Dev) : Dev :=
  let k0 := r.chunks 0
  let k1 := r.chunks 1
  let left (k : Nat) : Bool := if k = 0 then decide (r.optDone.1 < k0.length) else decide (r.optDone.2 < k1.length)
  let free (k : Nat) : Bool := !c.preempt.contains k && !c.suspended.contains k
  match ([0, 1] : List Nat).find? fun k => left k && free k with
  | some k =>
    match (if k = 0 then k0.drop r.optDone.1 else k1.drop r.optDone.2) with
    | [] => d
    | (x, lo, n) :: _ =>
      match d.optChunkRun r k x lo n with
      | ⟨d, some e⟩ => d.failStaged slot e
      | ⟨d, none⟩ =>
        (d.pieceDone slot).updRun slot fun r =>
          { r with optDone := if k = 0 then (r.optDone.1 + 1, r.optDone.2) else (r.optDone.1, r.optDone.2 + 1) }
  | none => if left 0 || left 1 then d else d.optDone slot r fin

/-- The kept norm record carries the ledger's step counter (R444). -/
def Dev.hasNorm (d : Dev) (ctx : Nat) : Bool :=
  d.on (Reg.TRN_NORM.VALID ctx) && kvGet ctx d.trn.norms == some d.ledRec.step

/-- The update of a step whose norm is finite begins (R443, R444). -/
def Dev.optOpen (d : Dev) (r : TrainRun) : Dev :=
  let r := { r with phase := 4, clip := r.factor (d.rd (Reg.TRN_NORM.G2 r.ctx)) }
  let d := { d with trn := { d.trn with runs := d.trn.runs.filter (fun (x : TrainRun) => x.cmd != r.cmd) ++ [r] } }
  let n := (r.chunks 0).length + (r.chunks 1).length
  ((d.assign r.cmd r.cores).updCmd r.cmd fun c => { c with total := c.total + n }).trainShow r.cmd

/-- An update that a set flag skips counts as completed (R444, R455). -/
def Dev.optSkip (d : Dev) (step : Nat) (opt : List Byte) : Dev :=
  ((d.inc Reg.TRN_ERR.SKIPPED).recWrite step [(0x40, opt)]).recPhase step 1

/-- OPT_STEP (R443–R446). -/
def execOptStep (slot : Nat) (s : State) : Out := s.run fun d => d.onRoutine slot 0x0503 fun c d =>
  match d.run? slot with
  | some r => d.optGo slot r c fun d => d.okCmd slot
  | none =>
    if c.total ≠ 0 then d
    else if d.trainBusy c.ctx then d.endCmd slot 0x04 0x1012 0
    else
      match d.ledRefusal c.ctx with
      | some e => d.endCmd slot e.major e.detail 0
      | none =>
        let d := if d.ledRec.revertible then d.ledWrite fun l => { l with revertible := false } else d
        let l := d.ledRec
        if d.wayReads (1 - l.cur) then d
        else if !d.hasNorm c.ctx then d.endCmd slot 0x0F 0x1014 0
        else if d.on (Reg.TRN_NORM.NONFINITE c.ctx) then (d.optSkip l.step (c.parBytes 0 48)).endCmd slot 0x01 0x1031 0
        else
          match d.read byCp c.ctx (c.par 0 8) (64 + 64 * c.par 8 2) with
          | ⟨d, .error e⟩ => d.endCmd slot e.major e.detail 0
          | ⟨d, .ok bs⟩ =>
            let r := { trainRun0 slot c.ctx with
              opt := c.parBytes 0 48, shards := bs, step := l.step, epoch := l.epoch, scaleE := l.scaleE, seed := d.rd (Reg.TRN_SEED.SEED c.ctx) }
            match d.shardChecks r with
            | ⟨d, some e⟩ => d.endCmd slot e.major e.detail e.result
            | ⟨d, none⟩ => d.optOpen r

/-! ### REPLAY_STEP (17 R476, R477) -/

/-- The end of a replay: DATA_ERROR when a digest differed, else as the step it ran (R477). -/
def Dev.replayEnd (d : Dev) (slot : Nat) (mj dt res : Nat) : Dev :=
  match d.run? slot, d.cmd? slot with
  | some r, some c => if r.diverged then d.endCmd slot 0x0E 0x1142 c.progress else d.endCmd slot mj dt res
  | _, _ => d

/-- A replay goes on with the update of the step, where the record holds one (R477). -/
def Dev.replayOpt (d : Dev) (slot g2 fl : Nat) : Dev :=
  match d.run? slot with
  | none => d
  | some r =>
    let res := g2 + fl * 2 ^ 32
    if r.o 8 2 = 0 then if fl = 0 then d.replayEnd slot 0 0 res else d.replayEnd slot 0x01 0x1030 res
    else if fl ≠ 0 then (d.optSkip r.step r.opt).replayEnd slot 0x01 0x1030 res
    else if d.wayReads (1 - d.ledRec.cur) then d.updRun slot fun r => { r with phase := 5 }
    else
      match d.read byCp r.ctx (r.o 0 8) (64 + 64 * r.o 8 2) with
      | ⟨d, .error e⟩ => d.failStaged slot e
      | ⟨d, .ok bs⟩ =>
        let r := { r with shards := bs, g2 := g2 }
        match d.shardChecks r with
        | ⟨d, some e⟩ => d.failStaged slot ⟨e.major, e.detail, 0⟩
        | ⟨d, none⟩ => d.optOpen r

/-- A REPLAY_STEP is refused (R476): a state or a step that does not fit, no record, a record of another outcome, epoch or table. -/
def Dev.replayRefusal (d : Dev) (ctx n : Nat) : Option Fail :=
  let l := d.ledRec
  match d.ledRefusal ctx with
  | some e => some e
  | none =>
    if d.fullRuns then some ⟨0x04, 0x1111, 0⟩
    else if d.trainBusy ctx then some ⟨0x04, 0x1012, 0⟩
    else if (l.state ≠ lsReady ∧ l.state ≠ lsOpen) ∨ n ≠ l.step then some ⟨0x0F, 0x1123, 0⟩
    else
      match d.stepRec n with
      | none => some ⟨0x02, 0x1103, 0x20⟩
      | some b =>
        let tt := fieldAt b 0x20 1
        let t := ((kvGet tt d.trn.slots).getD ⟨[], []⟩).bytes
        let oc := fieldAt b 4 1
        if (oc ≠ voAbort ∧ oc ≠ voNone) ∨ fieldAt b 8 8 ≠ l.epoch ∨ t.isEmpty ∨ fieldAt b 0x70 8 ≠ ttCrc t
            ∨ fieldAt b 0x88 8 ≠ d.groupCrc (fieldAt b 0x21 1) (fieldAt b 0x22 1) then some ⟨0x0F, 0x1123, 0⟩
        else if d.ttForeign ctx tt then some ⟨0x10, 0x1010, 0⟩
        else none

/-- REPLAY_STEP (R476, R477): it opens the step from its record, then takes the exchange, the norm and the update as far as they
go. -/
def execReplayStep (slot : Nat) (s : State) : Out := s.run fun d => d.onRoutine slot 0x0904 fun c d =>
  match d.run? slot with
  | some r =>
    match r.phase with
    | 4 => d.optGo slot r c fun d => d.replayEnd slot 0 0 r.g2
    | 5 => d.replayOpt slot (d.rd (Reg.TRN_NORM.G2 r.ctx)) 0
    | _ => d.exchangeGo slot r fun g2 fl d => d.replayOpt slot g2 fl
  | none =>
    if c.total ≠ 0 then d
    else
      match d.replayRefusal c.ctx (c.par 0 4), d.stepRec (c.par 0 4) with
      | some e, _ => d.endCmd slot e.major e.detail e.result
      | none, none => d
      | none, some b =>
        let r := { trainRun0 slot c.ctx with
          train := (b.drop 0x20).take 32, opt := (b.drop 0x40).take 48, replay := true, step := d.ledRec.step, epoch := d.ledRec.epoch
          scaleE := fieldAt b 6 1, seed := fieldAt b 0x10 8 }
        match d.trainChecks r with
        | (d, .error e) => d.endCmd slot e.major e.detail 0
        | (d, .ok bs) => d.trainOpen { r with buckets := bs }

end Sys2Proof.Machine
end

