-- ==== Sys2Proof/Machine/Ledger.lean ====
section
/-!
DEFINITION. The ledger's commands and the commit (17 R453–R463; 15 R417).
-/
namespace Sys2Proof.Machine

/-! ### Parameter checks (R453, R462, R463) -/

/-- The parameter checks of LEDGER_COMMIT. -/
def ledgerParams (c : Cmd) : List PChk :=
  [pchk (decide (4 < c.par 0 1)) 0x1101 0x00, pchk (c.par 0 1 == 0 && decide (15 < c.par 1 1)) 0x1101 0x01]

/-- The parameter checks of SCALE_SET. -/
def Dev.scaleParams (d : Dev) (c : Cmd) : List PChk :=
  let e := toSigned 8 (c.par 0 1)
  [pchk (decide (e < toSigned 8 (d.rd Reg.LEDG_SCALE_CFG.MIN) ∨ toSigned 8 (d.rd Reg.LEDG_SCALE_CFG.MAX) < e)) 0x1101 0x00]

/-- The parameter checks of LEDGER_QUERY. -/
def queryParams (c : Cmd) : List PChk := [pfield (decide (3 < c.par 0 1)) 0x00]

/-- Run an effect for LEDGER_COMMIT with an OP, from the ledger's owner (R449). -/
def Dev.onLedger (d : Dev) (slot op : Nat) (f : Cmd → Dev → Dev) : Dev :=
  d.onCmd slot 0x0504 fun c d =>
    if c.par 0 1 ≠ op then d
    else
      match d.ledRefusal c.ctx with
      | some e => d.endCmd slot e.major e.detail 0
      | none => f c d

/-! ### OPEN, CLOSE, SCALE_SET, LEDGER_QUERY -/

/-- LEDGER_OPEN (R449, R453): it frees every step record. -/
def execLedgerOpen (slot : Nat) (s : State) : Out := s.run fun d => d.onCmd slot 0x0504 fun c d =>
  if c.par 0 1 ≠ 1 then d
  else if d.ledRec.state ≠ lsFree then d.endCmd slot 0x04 0x1111 0
  else
    let e := d.rd Reg.LEDG_SCALE_CFG.INIT
    let d := { d with led := { d.led with steps := [], failed := false } }
    let d := d.ledWrite fun r => { r with
      state := lsReady, cur := 0, scaleE := e, ctx := c.ctx, step := c.par 4 4, epoch := c.par 8 8, clean := 0, last := voNone, retain := false
      skips := 0, aborts := 0, prevE := e, revertible := false, prevClean := 0 }
    d.okCmd slot

/-- LEDGER_CLOSE (R453, R464). -/
def execLedgerClose (slot : Nat) (s : State) : Out := s.run fun d => d.onLedger slot 3 fun _ d =>
  if d.ledRec.state ≠ lsReady then d.endCmd slot 0x04 0x1111 0
  else
    let d := { d with led := { d.led with steps := [] } }
    (d.ledWrite fun r => { r with state := lsFree, ctx := 0, retain := false, revertible := false }).okCmd slot

/-- SCALE_SET (R462): at once; a step already open keeps what it latched. -/
def execScaleSet (slot : Nat) (s : State) : Out := s.run fun d => d.onCmd slot 0x0507 fun c d =>
  match d.ledRefusal c.ctx with
  | some e => d.endCmd slot e.major e.detail 0
  | none =>
    (d.ledWrite fun r => { r with scaleE := c.par 0 1, clean := if bitAt (c.par 1 1) 0 then 0 else r.clean }).okCmd slot

/-- LEDGER_QUERY (R463). -/
def execLedgerQuery (slot : Nat) (s : State) : Out := s.run fun d => d.onCmd slot 0x0505 fun c d =>
  let r := d.ledRec
  let n := c.par 4 4
  match c.par 0 1 with
  | 0 =>
    d.okCmd slot (r.step + r.state * 2 ^ 32 + r.cur * 2 ^ 35 + b2n r.retain * 2 ^ 36 + (if r.last = voNone then 7 else r.last) * 2 ^ 37
      + r.scaleE * 2 ^ 40 + b2n r.revertible * 2 ^ 48)
  | 1 => d.okCmd slot r.epoch
  | k => if (d.stepRec n).isNone then d.endCmd slot 0x02 0x1103 0x24 else d.okCmd slot (d.recField n (if k = 2 then 0x78 else 0x80) 8)

/-! ### The vote (R454–R457; 15 R417) -/

/-- LEDGER_VOTE (R454): the commit waits for its vote to be cast. -/
def execLedgerVote (slot : Nat) (s : State) : Out := s.run fun d => d.onLedger slot 0 fun c d =>
  let member := match d.group? (c.par 1 1) with
    | some g => (g.rings.headD []).contains d.myId
    | none => false
  if !c.aux.isEmpty then d
  else if d.ledRec.state ≠ lsOpen then d.endCmd slot 0x0F 0x1121 0
  else if !member then d.endCmd slot 0x02 0x1101 0x21
  else d.updCmd slot fun c => { c with aux := [1] }

/-- The rank of this device in a group: its position on ring 0 (15 R412). -/
def Dev.rankIn (d : Dev) (g : Group) : Nat := g.pos 0 d.myId

/-- The 16 data bytes of a vote (15 R417). -/
def Vote.bytes (v : Vote) : List Byte := leBytes 8 v.epoch ++ leBytes 4 v.step ++ leBytes 2 v.rank ++ leBytes 1 v.vote ++ zeros 1

/-- A vote from its packet. -/
def voteOf (bs : List Byte) : Vote := ⟨fieldAt bs 0 8, fieldAt bs 8 4, fieldAt bs 0x0C 2, fieldAt bs 0x0E 1⟩

/-- Send a vote to the successor on ring 0. -/
def Dev.voteSend (d : Dev) (g : Group) (v : Vote) : Dev :=
  let ctx := d.ledRec.ctx
  (d.sendPkt { d.newPkt ptVote (g.succ 0 d.myId) ctx ctx 0 with
    tag := d.ledRec.step, epoch := v.epoch % 2 ^ 32, arg := g.id, data := v.bytes }).1

/-- The group of the ballot. -/
def Dev.ballotGroup (d : Dev) : Option (Ballot × Group) :=
  match d.led.ballot with
  | some b => (d.group? b.group).map fun g => (b, g)
  | none => none

/-- A vote of the present epoch and step (R456). -/
def Vote.fits (v : Vote) (r : LedRec) : Bool := v.epoch == r.epoch && v.step == r.step

/-- The commit ends: the outcome, the rank it names, the registers, the event of a mismatch, and the command's completion
(R456, R457). -/
def Dev.voteDecide (d : Dev) (b : Ballot) (g : Group) : Dev :=
  let r := d.ledRec
  let missing := (List.range g.n).filter fun k => (kvGet k b.votes).isNone
  let odd := b.votes.filter fun x => !x.2.fits r
  let oc := if missing.isEmpty && odd.isEmpty then (b.votes.map fun x => x.2.vote).foldl max 0 else voAbort
  let named := (List.range g.n).filter fun k => match kvGet k b.votes with
    | none => true
    | some v => v.vote != voCommit || !v.fits r
  let rank := if oc = voCommit then none else match odd with
    | x :: _ => some x.1
    | [] => named.head?
  let d := match odd with
    | (k, v) :: _ => d.raise 0x1102 clsContained (some r.ctx) 0 k v.step v.epoch
    | [] => d
  let d := (d.wr Reg.LEDG_LAST_VOTE.OUTCOME oc).wr Reg.LEDG_LAST_VOTE.OWN b.own
  let d := (d.wr Reg.LEDG_LAST_VOTE.MISSING (min missing.length 4095)).wr Reg.LEDG_LAST_VOTE.RANK (rank.getD 0xFFFF)
  let d := ({ d with led := { d.led with ballot := none } } : Dev).ledOutcome oc rank
  match b.cmd with
  | none => d
  | some slot =>
    let res := d.ledRec.step + oc * 2 ^ 32 + rank.getD 0xFFFF * 2 ^ 48
    if oc = voCommit then d.okCmd slot res
    else if oc = voSkip then d.endCmd slot 0x01 0x1140 res
    else
      let det := if !odd.isEmpty then 0x1132 else if !missing.isEmpty then 0x1131 else 0x1130
      d.endCmd slot 0x0D det res

/-- The commit ends as soon as all N votes are held (15 R417). -/
def Dev.voteCheck (d : Dev) : Dev :=
  match d.ballotGroup with
  | some (b, g) => if g.n ≤ b.votes.length then d.voteDecide b g else d
  | none => d

/-- A vote packet of the commit under way: recorded, and forwarded until it has been round the ring (15 R417). -/
def Dev.voteTake (d : Dev) (b : Ballot) (g : Group) (k : FabPkt) : Dev :=
  let v := voteOf k.data
  if g.n ≤ v.rank then d
  else
    let d := { d with led := { d.led with ballot := some { b with votes := kvPut v.rank v b.votes } } }
    if (d.rankIn g + 1) % g.n = v.rank then d else d.voteSend g v

/-- A vote packet matches the commit under way: its group, and a rank whose vote is not yet held. A vote of another epoch or step is
held as such (R456). -/
def Dev.voteMatch (d : Dev) (k : FabPkt) : Option (Ballot × Group) :=
  match d.ballotGroup with
  | some (b, g) => if g.id = k.arg ∧ (kvGet (voteOf k.data).rank b.votes).isNone then some (b, g) else none
  | none => none

/-- Take the early votes of the commit; `fuel` bounds them. -/
def Dev.voteEarly (d : Dev) : (fuel : Nat) → Dev
  | 0 => d
  | n + 1 =>
    match d.fab.early.find? fun x => x.1.typ == ptVote && (d.voteMatch x.1).isSome with
    | none => d
    | some x =>
      let d := ({ d with fab := { d.fab with early := d.fab.early.erase x } } : Dev).returnCredits x.1
      match d.voteMatch x.1 with
      | some (b, g) => (d.voteTake b g x.1).voteEarly n
      | none => d

/-- Cast the device's vote (R454, R456): the ledger enters VOTING, the vote goes out on ring 0. -/
def Dev.voteCast (d : Dev) (cmd : Option Nat) (group own : Nat) : Dev :=
  match d.group? group with
  | none => d
  | some g =>
    let r := d.ledRec
    let me := d.rankIn g
    let v : Vote := ⟨r.epoch, r.step, me, own⟩
    let d := (d.recWrite r.step [(5, leBytes 1 own)]).recPhase r.step 2
    let d := d.ledWrite fun r => { r with state := lsVoting }
    let d := { d with led := { d.led with ballot := some ⟨cmd, group, own, [(me, v)]⟩ } }
    let d := if 1 < g.n then d.voteSend g v else d
    (d.voteEarly d.fab.early.length).voteCheck

/-- The checkpoint of step `n` that the vote needs is on the partner and VALID, or none is needed (R455). -/
def Dev.gateOpen (d : Dev) (n : Nat) : Bool :=
  let w := d.way
  w.sender.isNone || w.cadence == 0 || n % w.cadence != 0 || w.sent.any fun x => x.2.valid && x.2.step == n

/-- The device's own vote for the present step (R455); none while it waits for a checkpoint. -/
def Dev.ownVote (d : Dev) (late : Bool) : Option Nat :=
  let r := d.ledRec
  if d.led.failed || d.scrubHit || !d.recHas r.step 1 then some voAbort
  else if d.hasNorm r.ctx && d.on (Reg.TRN_NORM.NONFINITE r.ctx) then some voSkip
  else if d.gateOpen r.step then some voCommit
  else if late then some voAbort
  else none

/-- VOTE_CAST (R454, R455): no training command of the context runs, and CP3 casts the vote. `late`: the commit timeout has passed
in the wait for a checkpoint. -/
def execVoteCast (slot : Nat) (late : Bool) (s : State) : Out := s.run fun d => d.onLedger slot 0 fun c d =>
  if c.aux ≠ [1] ∨ d.trainBusy c.ctx then d
  else if d.ledRec.state ≠ lsOpen then d.endCmd slot 0x0F 0x1121 0
  else
    match d.ownVote late with
    | none => d
    | some v => (d.updCmd slot fun c => { c with aux := [2] }).voteCast (some slot) (c.par 1 1) v

/-- VOTE (15 R417): the oldest vote packet is recorded and forwarded, or waits for the commit in the early buffer. -/
def execVote (s : State) : Out := s.run fun d =>
  if !d.fabClocks then d
  else
    match d.fab.inbox.find? fun k => k.typ == ptVote with
    | none => d
    | some k =>
      match d.voteMatch k with
      | some (b, g) =>
        match d.nextIn ptVote with
        | some (k, d) => (d.voteTake b g k).voteCheck
        | none => d
      | none =>
        let d := { d with fab := { d.fab with inbox := d.fab.inbox.erase k, early := d.fab.early ++ [(k, d.timeNs)] } }
        d.tracePkt (min k.port 255) k

/-- COMMIT_TIMEOUT (R456): the commit timeout has run since the vote was cast, and a vote is missing. -/
def execCommitTimeout (s : State) : Out := s.run fun d =>
  match d.ballotGroup with
  | some (b, g) => d.voteDecide b g
  | none => d

/-! ### ADOPT and REVERT (R459, R461) -/

/-- LEDGER_ADOPT (R459, R460). -/
def execLedgerAdopt (slot : Nat) (s : State) : Out := s.run fun d => d.onLedger slot 2 fun c d =>
  let r := d.ledRec
  let oc := c.par 1 1
  if r.state ≠ lsReady ∨ r.last ≠ voAbort ∨ !r.retain ∨ c.par 8 8 ≠ r.epoch ∨ c.par 4 4 ≠ r.step ∨ 1 < oc
      ∨ (oc = voCommit ∧ !d.recHas r.step 1) then d.endCmd slot 0x0F 0x1122 0
  else
    let d := d.ledOutcome oc none
    let res := d.ledRec.step + oc * 2 ^ 32 + 0xFFFF * 2 ^ 48
    if oc = voCommit then d.okCmd slot res else d.endCmd slot 0x01 0x1140 res

/-- LEDGER_REVERT (R461). -/
def execLedgerRevert (slot : Nat) (s : State) : Out := s.run fun d => d.onLedger slot 4 fun c d =>
  let r := d.ledRec
  if r.state ≠ lsReady ∨ r.last ≠ voCommit ∨ !r.revertible ∨ c.par 8 8 ≠ r.epoch ∨ c.par 4 4 ≠ r.step then d.endCmd slot 0x0F 0x1125 0
  else
    let step := (r.step + 2 ^ 32 - 1) % 2 ^ 32
    let d := d.innRevert
    let d := d.ledWrite fun r => { r with
      epoch := (r.epoch + 2 ^ 64 - 1) % 2 ^ 64, step := step, cur := 1 - r.cur, scaleE := r.prevE, clean := r.prevClean, last := voAbort
      aborts := satAdd 32 r.aborts 1, retain := false, revertible := false }
    let d := d.recWrite step [(4, leBytes 1 voAbort)]
    ((d.ledEvent voAbort none).wayRevert slot r.step).okCmd slot step

/-! ### At the end of a command (R454, R455, R457) -/

/-- A command ends: one of the ledger's context that failed fails the step; a VOTE that ends before its vote is cast makes the
device vote ABORT; one that ends after leaves the vote to finish without it. -/
def Dev.ledEndCmd (d : Dev) (c : Cmd) (major : Nat) : Dev :=
  let r := d.ledRec
  let d := if r.state = lsOpen ∧ c.ctx = r.ctx ∧ 1 < major then d.failStep else d
  if c.opcode ≠ 0x0504 ∨ c.par 0 1 ≠ 0 then d
  else
    match c.aux with
    | [1] => if d.ledRec.state = lsOpen then d.voteCast none (c.par 1 1) voAbort else d
    | [2] => { d with led := { d.led with ballot := d.led.ballot.map fun b => if b.cmd = some c.slot then { b with cmd := none } else b } }
    | _ => d

end Sys2Proof.Machine
end

