-- ==== Sys2Proof/Machine/Power.lean ====
section
/-!
DEFINITION. The rows of chapter 19: PWR_DOMAIN_SET and the domain transitions, PWR_POLICY_SET and the adaptive loops; those of
chapter 21 that feed them: regulators, sensors, the unit commands.
-/
namespace Sys2Proof.Machine

/-! ### Domains (R502-R511) -/

/-- The checks of a power request (R511 checks 2-5; 21 R556): the domain exists, is not fixed, supports the target, and R509 and
R510 permit it. -/
def Dev.domRefusal (d : Dev) (pd t : Nat) : Option (Nat × Nat) :=
  let i := (pd - 46) / 3
  if !d.domPresent pd then some (0x02, 0x1301)
  else if domClass pd = .fixed then some (0x10, 0x1310)
  else if (t = 1 ∧ !d.on (Reg.PWR_DOM.RET_OK pd)) ∨ (t = 2 ∧ !d.on (Reg.PWR_DOM.OFF_OK pd)) then some (0x02, 0x1302)
  else if t ≠ 0 ∧ domClass pd = .support ∧ pd < 58 ∧ !(d.domState (46 + 3 * i) == stOff && d.domState (47 + 3 * i) == stOff) then
    some (0x04, 0x1312)
  else if t = 1 ∧ domClass pd = .hbm ∧ (List.range 16).any (fun c => d.ctxState c == csActive) then some (0x04, 0x1311)
  else none

/-- The domains a request concerns: every fitted stack together (R509). -/
def Dev.domsOf (d : Dev) (pd : Nat) : List Nat := if domClass pd = .hbm then (List.range d.stacks).map domStack else [pd]

/-- An accepted request: a joint write of each domain's entry, then the request itself (R511; 21 R564, R568). -/
def Dev.domAccept (d : Dev) (pd t : Nat) (byMgmt : Bool) : Dev :=
  let by_ := if byMgmt then some (t != 0) else none
  (d.forEach (d.domsOf pd) fun x d => (d.unitPower x t by_).domRequest x t).domWaits

/-- The parameter checks of PWR_DOMAIN_SET. -/
def powDomainParams (c : Cmd) : List PChk := [pfield (decide (63 < c.par 0 1)) 0, pfield (decide (2 < c.par 1 1)) 1]

/-- PWR_DOMAIN_SET (R511; 21 R568). -/
def execPwrDomainSet (slot : Nat) (s : State) : Out := s.run fun d => d.onCmd slot 0x0702 fun c d =>
  let pd := c.par 0 1
  let t := c.par 1 1
  if d.pwr.waiting.any fun x => x.1 == slot then d else
  match d.domRefusal pd t with
  | some (mj, dt) => d.endCmd slot mj dt (if mj = 0x02 then (if dt = 0x1301 then 0x20 else 0x21) else 0)
  | none =>
    if (d.domsOf pd).any fun x => d.on (Reg.MGT_UNIT.PWR_BY_MGMT x) && decide (t < d.rd (Reg.MGT_UNIT.PWR_TARGET x)) then
      d.endCmd slot 0x10 0x1512 0
    else if bitAt (c.par 2 1) 0 then
      ({ d with pwr := { d.pwr with waiting := d.pwr.waiting ++ [(slot, pd, t)] } } : Dev).domAccept pd t false
    else
      let d := d.domAccept pd t false
      d.okCmd slot (d.domState pd)

/-- DOMAIN_DRAIN_DONE (R503, R504): the drain condition holds and the domain enters ISOLATED; an Inn quarter first moves images
whose locks have ended since. -/
def execDomainDrainDone (dom : Nat) (s : State) : Out := s.run fun d =>
  if d.domState dom ≠ stDraining then d
  else
    let d := if domClass dom = .inn then (d.hallVacate (dom - 42)).1 else d
    if d.drained dom then d.setDom dom stIsolated else d

/-- RETENTION or OFF is reached (R502, R506); what waits on it goes on. -/
def Dev.domDown (d : Dev) (dom : Nat) : Dev :=
  let off := d.rd (Reg.PWR_DOM.TARGET dom) == 2
  let d := { d with pwr := { d.pwr with dwell := d.pwr.dwell.filter fun x => x != dom } }
  let d := ((d.setDom dom (if off then stOff else stRetention)).lowEffect dom off).domAct dom
  let d := if domClass dom = .core then d.domAct (domSeq (domCoreOf dom)) else d
  d.domWaits

/-- DOMAIN_POWER_DOWN_DONE (R502, R506). -/
def execDomainPowerDownDone (dom : Nat) (s : State) : Out := s.run fun d =>
  if d.domState dom ≠ stIsolated then d else d.domDown dom

/-- DOMAIN_DWELL_END (R507): the minimum dwell ends; a pending ON request wakes the domain. -/
def execDomainDwellEnd (dom : Nat) (s : State) : Out := s.run fun d =>
  if (d.domState dom = stRetention ∨ d.domState dom = stOff) ∧ !d.pwr.dwell.contains dom then
    ({ d with pwr := { d.pwr with dwell := dom :: d.pwr.dwell } } : Dev).domAct dom
  else d

/-- A domain is ON again (R502, R506-R509); domains that waited for it wake. -/
def Dev.domUp (d : Dev) (dom : Nat) : Dev :=
  let off := d.pwr.fromOff.contains dom
  let d := { d with pwr := { d.pwr with fromOff := d.pwr.fromOff.filter fun x => x != dom } }
  let d := ((d.wakeEffect dom off).setDom dom stOn).domAct dom
  let d := d.forEach (List.range 64) fun x d => if wakeDep x = some dom then d.domAct x else d
  d.domWaits

/-- DOMAIN_WAKE_DONE (R502, R506-R509). -/
def execDomainWakeDone (dom : Nat) (s : State) : Out := s.run fun d =>
  if d.domState dom ≠ stWaking ∨ !d.wakeReady dom then d else d.domUp dom

/-! ### PWR_POLICY_SET (R522) -/

/-- A VALUE that the register field of an OP does not take. -/
def Dev.policyValueBad (d : Dev) (loop op v : Nat) : Bool :=
  match loop, op with
  | 0, 0 | 0, 2 | 0, 3 => decide (4095 < v)
  | 1, 0 => decide (5 < v)
  | 2, 0 => decide (1 < v)
  | 2, 3 => decide (15 < v)
  | 3, 0 | 3, 2 | 3, 3 => decide (3 < v)
  | 4, 0 | 4, 3 => !(decide (d.rd Reg.CTL_ASSEMBLY.BOARD_W ≤ 2 * v) && decide (v ≤ d.rd Reg.CTL_ASSEMBLY.BOARD_W))
  | _, _ => false

/-- An OP that a loop lacks (R512; DESIGN CHOICE, notes/assumptions/30.md). -/
def policyOpBad (loop op : Nat) : Bool :=
  match loop with
  | 0 | 3 => decide (4 < op)
  | 1 => decide (1 < op)
  | 2 => decide (4 < op) || op == 2
  | _ => !(op == 0 || op == 3)

/-- Targets of a loop: cores, stacks, ports; AVS and the power limit have one. -/
def Dev.policyTargets (d : Dev) (loop : Nat) : Nat :=
  match loop with
  | 0 => 2
  | 2 => d.stacks
  | 3 => d.ports
  | _ => 1

/-- The parameter checks of PWR_POLICY_SET. -/
def Dev.powPolicyParams (d : Dev) (c : Cmd) : List PChk :=
  let loop := c.par 0 1
  let t := c.par 1 1
  [pchk (decide (4 < loop)) 0x1303 0, pchk (loop != 1 && loop != 4 && t != 0xFF && decide (d.policyTargets loop ≤ t)) 0x1304 1,
    pchk (policyOpBad loop (c.par 2 1)) 0x1303 2, pchk (d.policyValueBad loop (c.par 2 1) (c.par 4 4)) 0x1303 4]

/-- One control of a loop's target is written. -/
def Dev.policyPut (d : Dev) (loop op v t : Nat) : Dev :=
  match loop, op with
  | 0, 0 => (d.wr (Reg.PWR_CCLK_PIN.MHZ t) (mhzOf v)).wr (Reg.PWR_CCLK_PIN.EN t) 1
  | 0, 1 => d.wr (Reg.PWR_CCLK_PIN.EN t) 0
  | 0, 2 => d.wr (Reg.PWR_CCLK_RANGE.FLOOR t) (if v = 0 then 0 else mhzOf v)
  | 0, 3 => d.wr (Reg.PWR_CCLK_RANGE.CEIL t) (if v = 0 then 0 else mhzOf v)
  | 0, _ => (d.wr (Reg.PWR_CCLK_RANGE.FLOOR t) 0).wr (Reg.PWR_CCLK_RANGE.CEIL t) 0
  | 1, 0 => d.wr Reg.PWR_AVS.MARGIN v
  | 1, _ => d.wr Reg.PWR_AVS.MARGIN 0
  | 2, 0 => d.wr (Reg.PWR_HBM_POLICY.PIN_FULL t) v
  | 2, 1 => d.wr (Reg.PWR_HBM_POLICY.PIN_FULL t) 0
  | 2, 3 => d.wr (Reg.PWR_HBM_POLICY.CEIL t) v
  | 2, _ => d.wr (Reg.PWR_HBM_POLICY.CEIL t) 0
  | 3, 0 => d.wr (Reg.PWR_LANE_POLICY.PIN t) v
  | 3, 1 => d.wr (Reg.PWR_LANE_POLICY.PIN t) 0
  | 3, 2 => d.wr (Reg.PWR_LANE_POLICY.FLOOR t) v
  | 3, 3 => d.wr (Reg.PWR_LANE_POLICY.CEIL t) v
  | 3, _ => (d.wr (Reg.PWR_LANE_POLICY.FLOOR t) 0).wr (Reg.PWR_LANE_POLICY.CEIL t) 0
  | _, _ => d.wr Reg.PWR_LIMIT.WATTS v

/-- PWR_POLICY_SET (R522): the control is written; the command completes at the loop's next evaluation of its targets. -/
def execPwrPolicySet (slot : Nat) (s : State) : Out := s.run fun d => d.onCmd slot 0x0701 fun c d =>
  let loop := c.par 0 1
  if d.pwr.policy.any fun x => x.1 == slot then d else
  let ts := if loop = 1 ∨ loop = 4 then [0] else if c.par 1 1 = 0xFF then List.range (d.policyTargets loop) else [c.par 1 1]
  let d := d.forEach ts fun t d => d.policyPut loop (c.par 2 1) (c.par 4 4) t
  { d with pwr := { d.pwr with policy := d.pwr.policy ++ ts.map fun t => (slot, loop, t) } }

/-! ### Host writes of the governor registers (R524) -/

/-- PWR_LIMIT: a value outside 50–100 % of BOARD_W is ignored and sets CFG_ERR. -/
def Dev.powLimitWrite (d : Dev) (v : Nat) : Dev :=
  let w := bits v 0 10
  if d.policyValueBad 4 0 w then d.wr Reg.PWR_STATUS.CFG_ERR 1 else d.wr Reg.PWR_LIMIT.WATTS w

/-- PWR_CCLK_PIN: MHZ is rounded down to a multiple of 25 and limited to 500–1,900. -/
def Dev.powPinWrite (d : Dev) (core v : Nat) : Dev :=
  (d.wr (Reg.PWR_CCLK_PIN.MHZ core) (mhzOf (bits v 0 12))).wr (Reg.PWR_CCLK_PIN.EN core) (bits v 31 1)

/-- PWR_CCLK_RANGE: rounded and limited alike; 0 keeps its meaning. -/
def Dev.powRangeWrite (d : Dev) (core v : Nat) : Dev :=
  let g (x : Nat) : Nat := if x = 0 then 0 else mhzOf x
  (d.wr (Reg.PWR_CCLK_RANGE.FLOOR core) (g (bits v 0 12))).wr (Reg.PWR_CCLK_RANGE.CEIL core) (g (bits v 16 12))

/-- PWR_AVS: a MARGIN above 5 is refused with CFG_ERR (DESIGN CHOICE, notes/assumptions/30.md). -/
def Dev.powAvsWrite (d : Dev) (v : Nat) : Dev :=
  if 5 < bits v 0 3 then d.wr Reg.PWR_STATUS.CFG_ERR 1 else d.wr Reg.PWR_AVS.MARGIN (bits v 0 3)

/-! ### The clock governor and AVS (R514-R516; 21 R561) -/

/-- The governor runs: no trip, not held in COLD reset. -/
def Dev.governs (d : Dev) : Bool := !d.board.tripped && !d.board.coldHeld

/-- The governor of a core evaluates (R513-R516): measured power, the core's own preference, limits, controls; the AVS loop and the power
limit are evaluated with it. -/
def Dev.governEval (d : Dev) (core w1s w1ms : Nat) (idle : Bool) : Dev :=
  let was := d.overMs
  let d := ({ d with pwr := { d.pwr with power1s := w1s, power1ms := w1ms } } : Dev).wr Reg.PWR_STATUS.BOARD_W_MEAS (min w1ms 1023)
  let quiet := idle && d.seq.tds.all fun t => t.core != core
  let room := decide (10 * w1s ≤ 9 * d.rd Reg.PWR_LIMIT.WATTS) && decide (d.junction ≤ 950)
  let old := (kvGet core d.pwr.pref).getD 500
  let pref := if quiet then 500
    else if d.on Reg.PWR_CTL.BOOST && room then min 1900 (max 1750 old + 25) else 1750
  let d := { d with pwr := { d.pwr with pref := kvPut core pref d.pwr.pref } }
  let d := if d.rd (Reg.PWR_CCLK_RANGE.CEIL core) ≠ 0 ∧ d.rd (Reg.PWR_CCLK_RANGE.CEIL core) < d.rd (Reg.PWR_CCLK_RANGE.FLOOR core) then
      d.wr Reg.PWR_STATUS.CFG_ERR 1 else d
  let low := (if !d.board.railsOut.isEmpty || d.junctionBlind then 1900 else 0) + (if 1050 ≤ d.junction then 100 else 0)
    + (if d.overMs then (if was then 2500 else 250) else 0) + (if d.overSec then 25 else 0)
  let d := if low = 0 then d else d.capLower core low
  ((d.cclkResolve core).policyDone 0 core).policyDone 1 0 |>.policyDone 4 0

/-- CLOCK_GOVERNOR_EVAL (R513-R516). `idle`: nothing has run or waited in the core's task queues for 100 µs. -/
def execClockGovernorEval (core w1s w1ms : Nat) (idle : Bool) (s : State) : Out := s.run fun d =>
  if !d.governs then d else d.governEval core w1s w1ms idle

/-- Three failed AVSBus frames, or no VDone: a regulator fault that stops CCLK raises (21 R561). -/
def Dev.avsBroken (d : Dev) : Dev :=
  if d.pwr.avsFault then d
  else (({ d with pwr := { d.pwr with avsFault := true, avsOpen := false } } : Dev).regulatorFault 6 0xFFFFFFFF)

/-- AVS_CURRENT_READ (21 R561; R515): a current at EDC, 900 A, lowers both targets by 250 MHz, and by 500 MHz for the 2 µs to each
further reading that shows it; three failed frames in a row are a regulator fault. -/
def execAvsCurrentRead (amps : Nat) (ok : Bool) (s : State) : Out := s.run fun d =>
  if !d.governs then d
  else if !ok then
    let d := ({ d with pwr := { d.pwr with avsFails := d.pwr.avsFails + 1 } } : Dev).inc Reg.MGT_ERR.PMBUS_ERR
    if 3 ≤ d.pwr.avsFails then d.avsBroken else d
  else
    let was := d.pwr.overEdc
    let d := { d with pwr := { d.pwr with avsFails := 0, overEdc := decide (900 ≤ amps) } }
    if d.pwr.overEdc then d.governBy (if was then 500 else 250) else d

/-- AVS_VOLTAGE_SETTLED (21 R561; 02 R48): VDone, or 10 µs, after a Voltage write; waiting CCLK raises go ahead. -/
def execAvsVoltageSettled (vdone : Bool) (s : State) : Out := s.run fun d =>
  let d := { d with pwr := { d.pwr with avsSettled := true, avsOpen := d.pwr.avsOpen && !vdone, avsFails := if vdone then 0 else d.pwr.avsFails } }
  (d.cclkRaise 0).cclkRaise 1

/-- AVS_VDONE_TIMEOUT (21 R561): no VDone within 20 µs of a Voltage write. -/
def execAvsVdoneTimeout (s : State) : Out := s.run fun d =>
  if d.pwr.avsOpen then (d.inc Reg.MGT_ERR.PMBUS_ERR).avsBroken else d

/-! ### HBM thermal and lane width (R517, R518; 13 R336) -/

/-- A stack's temperature is taken (13 R336; R517): refresh doubles at 85 °C and the bandwidth is capped at 95 °C, each until 3 °C
below; the cap clamps PIN_FULL. -/
def Dev.hbmTemp (d : Dev) (stack temp : Nat) : Dev :=
  let hot (f : Fld) (lim : Nat) : Bool := decide (lim ≤ temp) || (d.on f && decide (lim - 3 < temp))
  let cap := hot (Reg.MEM_STATUS.BW_CAPPED stack) 95
  let d := (d.wr (Reg.MEM_STATUS.TEMP_C stack) (min temp 255)).wr (Reg.MEM_STATUS.REFRESH_2X stack) (b2n (hot (Reg.MEM_STATUS.REFRESH_2X stack) 85))
  let d := d.wr (Reg.MEM_STATUS.BW_CAPPED stack) (b2n cap)
  let d := if cap && d.on (Reg.PWR_HBM_POLICY.PIN_FULL stack) then d.clamp 2 stack 6 16 8 else d
  d.policyDone 2 stack

/-- HBM_TEMP_READ (13 R336; R517). -/
def execHbmTempRead (stack temp : Nat) (s : State) : Out := s.run fun d =>
  if d.stacks ≤ stack || !d.governs then d else d.hbmTemp stack temp

/-- Lanes of a width code. -/
def widthLanes (code : Nat) : Nat := if code = 3 then 4 else code

/-- The width the controls of a port ask for when its own preference is `pref` (R513, R518). -/
def Dev.laneSetting (d : Dev) (p pref : Nat) : Nat :=
  let pin := d.rd (Reg.PWR_LANE_POLICY.PIN p)
  let ce := if d.rd (Reg.PWR_LANE_POLICY.CEIL p) = 0 then 4 else widthLanes (d.rd (Reg.PWR_LANE_POLICY.CEIL p))
  let fl := widthLanes (d.rd (Reg.PWR_LANE_POLICY.FLOOR p))
  if pin ≠ 0 then widthLanes pin else min ce (max (min fl ce) pref)

/-- Resolve a port's width: controls, working lanes, the junction of its die (R518); a change is made by a WIDTH flit (15 R393). -/
def Dev.laneResolve (d : Dev) (p pref : Nat) : Dev :=
  if d.portState p ≠ psUp then d
  else
    let hot := d.pwr.hotIod.contains (p / 8)
    let setting := d.laneSetting p pref
    let held := min setting (if hot then 1 else lanesUp (d.port p).badLanes)
    let pin := d.rd (Reg.PWR_LANE_POLICY.PIN p)
    let code := if pin ≠ 0 then pin
      else min (d.rd (Reg.PWR_LANE_POLICY.FLOOR p)) (if d.rd (Reg.PWR_LANE_POLICY.CEIL p) = 0 then 3 else d.rd (Reg.PWR_LANE_POLICY.CEIL p))
    let d := if held < widthLanes code then d.clamp 3 p (if hot then 2 else 8) code (widthCode held) else d
    if held = d.rd (Reg.FAB_PORT_STATUS.WIDTH p) then d else (d.sendFlit p 4 0 1 (leBytes 1 held)).portWidth p held

/-- A port's width is evaluated (R518): wider above 60 % or when a packet waited, narrower below 20 %. -/
def Dev.laneEval (d : Dev) (port util : Nat) (stalled : Bool) : Dev :=
  let w := d.rd (Reg.FAB_PORT_STATUS.WIDTH port)
  let pref := if 60 < util || stalled then min 4 (2 * w) else if util < 20 then max 1 (w / 2) else w
  let fl := d.rd (Reg.PWR_LANE_POLICY.FLOOR port)
  let ce := d.rd (Reg.PWR_LANE_POLICY.CEIL port)
  let d := if ce ≠ 0 ∧ ce < fl then d.wr Reg.PWR_STATUS.CFG_ERR 1 else d
  (d.laneResolve port pref).policyDone 3 port

/-- LANE_WIDTH_EVAL (R518): `util` is the utilisation of the last 1 ms in per cent of the present width, `stalled` whether a packet
waited for credits for more than 100 µs. -/
def execLaneWidthEval (port util : Nat) (stalled : Bool) (s : State) : Out := s.run fun d =>
  if d.ports ≤ port || !d.governs then d else d.laneEval port util stalled

/-! ### Release (R515, R520) -/

/-- POLICY_RELEASED (R515, R520): the cause of a limit has been clear for 1 ms; the clamp ends and the loop returns to its
setting, where another limit may clamp it. For a rail, the command itself says that it is back in tolerance. -/
def execPolicyReleased (loop target : Nat) (s : State) : Out := s.run fun d =>
  match loop with
  | 0 =>
    let d := if (d.coreCause == some 5) && !d.board.domHeld then { d with board := { d.board with railsOut := [] } } else d
    if d.coreCause.isSome || 1 < target then d
    else
      let d := { d with pwr := { d.pwr with caps := kvDel target d.pwr.caps } }
      let stays : Bool := match d.clamp? 0 target with
        | some c => c.reason == 7 && decide (d.cclkMax < c.pinned)
        | none => false
      (if stays then d else d.unclamp 0 target).cclkResolve target
  | 1 => if d.marginHeld d.cclkTop < d.rd Reg.PWR_AVS.MARGIN then d else (d.unclamp 1 target).avsEval
  | 2 => if d.on (Reg.MEM_STATUS.BW_CAPPED target) then d else d.unclamp 2 target
  | 3 =>
    if d.pwr.hotIod.contains (target / 8) then d
    else
      let short : Bool := match d.clamp? 3 target with
        | some c => decide (lanesUp (d.port target).badLanes < widthLanes c.pinned)
        | none => true
      if short then d else (d.unclamp 3 target).laneResolve target (d.rd (Reg.FAB_PORT_STATUS.WIDTH target))
  | _ => if d.domOn (domHall target) then d.unclamp 4 target else d

/-! ### Sensors and regulators (21 R553-R555, R562) -/

/-- Nominal voltage of a rail in mV, in the order of 02 R37; of VDD_CD, the top of its range. -/
def railNominal (r : Nat) : Nat := [750, 1800, 1800, 1100, 400, 800, 900, 750, 1200].getD r 0

/-- A numeric sensor that the assembly offers (21 R553). -/
def Dev.sensorFitted (d : Dev) (id : Nat) : Bool :=
  id == 1 || (decide (2 ≤ id) && decide (id < 2 + d.ioDies)) || (decide (0x10 ≤ id) && decide (id < 0x10 + d.stacks))
    || (decide (0x20 ≤ id) && decide (id ≤ 0x22)) || (decide (0x30 ≤ id) && decide (id ≤ 0x31)) || (decide (0x40 ≤ id) && decide (id ≤ 0x48))

/-- The plausible range of a sensor (21 R554); tenths of a degree, or mV. -/
def sensorPlausible (id : Nat) (v : Int) : Bool :=
  if id < 0x20 then decide (-400 ≤ v) && decide (v ≤ 1500)
  else if id = 0x21 then decide (0 ≤ v) && decide (v ≤ 2 * (railNominal 6 : Nat))
  else if 0x40 ≤ id then decide (0 ≤ v) && decide (v ≤ 2 * (railNominal (id - 0x40) : Nat))
  else true

/-- A latch with 3 °C of hysteresis at 105 °C. -/
def hotAfter (was : Bool) (v : Int) : Bool := decide (1050 ≤ v) || (was && decide (1020 < v))

/-- A good reading: the sensor is enabled and what follows from its value is kept (R518, R524; 21 R561). -/
def Dev.sensorGood (d : Dev) (id : Nat) (v : Int) : Dev :=
  let d := { d with mgt := { d.mgt with sensors := kvPut id ⟨v, 0, false⟩ d.mgt.sensors } }
  if id = 1 then
    let d := d.wr Reg.PWR_STATUS.TJ_MAX_C (min 255 (v / 10).toNat)
    { d with pwr := { d.pwr with hot := hotAfter d.pwr.hot v } }
  else if id < 2 + d.ioDies then
    let die := id - 2
    let others := d.pwr.hotIod.filter fun x => x != die
    { d with pwr := { d.pwr with hotIod := if hotAfter (d.pwr.hotIod.contains die) v then die :: others else others } }
  else if id = 0x20 then d.wr Reg.PWR_STATUS.BOARD_W_MEAS (min 1023 v.toNat)
  else if id = 0x21 ∧ v = d.pwr.avsWanted ∧ d.pwr.avsFault then
    let d := { d with pwr := { d.pwr with avsFault := false, avsSettled := true } }
    (d.cclkRaise 0).cclkRaise 1
  else d

/-- A discarded or missed reading; the tenth in a row makes the sensor unavailable (21 R554, R555). -/
def Dev.sensorBad (d : Dev) (id : Nat) (drop : Bool) : Dev :=
  let x := (kvGet id d.mgt.sensors).getD ⟨0, 0, false⟩
  let d := if drop then d.inc Reg.MGT_ERR.SENSOR_DROPS else d
  let gone := decide (10 ≤ x.bad + 1)
  let d := { d with mgt := { d.mgt with sensors := kvPut id { x with bad := x.bad + 1, unavailable := gone } d.mgt.sensors } }
  if gone && !x.unavailable then
    let d := (d.alert Reg.MGT_ALERT_STATUS.SENSOR).raise 0x1501 clsDropped none 0 id 0 0 .yes
    if id = 1 then d.governAll else d
  else d

/-- A reading of a sensor: `present` whether there was one. -/
def Dev.sensorRead (d : Dev) (id : Nat) (present : Bool) (v : Int) : Dev :=
  if !d.sensorFitted id then d
  else if present && sensorPlausible id v then d.sensorGood id v
  else d.sensorBad id present

/-- SENSOR_UPDATE (21 R553, R554). -/
def execSensorUpdate (sensor : Nat) (present : Bool) (value : Int) (s : State) : Out := s.run fun d => d.sensorRead sensor present value

/-- SENSOR_FENCE (21 R555): a stack's or an I/O die's sensor has been unavailable for 100 ms; the safety views of its units go
OFFLINE. -/
def execSensorFence (sensor : Nat) (s : State) : Out := s.run fun d =>
  let gone : Bool := match kvGet sensor d.mgt.sensors with
    | some x => x.unavailable
    | none => false
  let units := if sensor < 2 then []
    else if sensor < 2 + d.ioDies then
      let i := sensor - 2
      [46 + 3 * i, 47 + 3 * i] ++ rangeFrom (64 + 8 * i) (72 + 8 * i)
    else if 0x10 ≤ sensor ∧ sensor < 0x10 + d.stacks then [30 + (sensor - 0x10)]
    else []
  if gone then d.forEach units fun u d => d.unitWrite u true 1 1 else d

/-- PMBUS_POLL (21 R562) of one rail: its voltage is a sensor reading; a fault bit in STATUS_WORD is a regulator fault when it
appears; a rail that does not answer stops nothing. -/
def execPmbusPoll (rail mv status : Nat) (ok fault : Bool) (s : State) : Out := s.run fun d =>
  let id := 0x40 + rail
  if !ok then (d.inc Reg.MGT_ERR.PMBUS_ERR).sensorRead id false 0
  else
    let d := d.sensorRead id true mv
    let had := d.mgt.regFault.contains rail
    let others := d.mgt.regFault.filter fun x => x != rail
    let d := { d with mgt := { d.mgt with regFault := if fault then rail :: others else others } }
    if fault && !had then d.regulatorFault rail status else d

/-! ### UNIT_STATE_SET and UNIT_STATE_QUERY (21 R567-R569) -/

/-- RESULT of both. -/
def Dev.unitResult (d : Dev) (u : Nat) : Nat :=
  let st := if u < 64 then d.domState u else d.portState (u - 64)
  d.rd (Reg.MGT_UNIT.GEN u) + d.unitState u * 2 ^ 32 + d.rd (Reg.MGT_UNIT.WORK u) * 2 ^ 34 + d.rd (Reg.MGT_UNIT.SAFETY u) * 2 ^ 35
    + st * 2 ^ 36 + d.rd (Reg.MGT_UNIT.PWR_BY_MGMT u) * 2 ^ 39

/-- The parameter checks of both. -/
def unitParams (c : Cmd) : List PChk :=
  [pchk (decide (95 < c.par 0 1)) 0x1510 0, pfield (c.opcode == 0x0703 && decide (1 < c.par 1 1)) 1]

/-- UNIT_STATE_SET (21 R567, R569). -/
def execUnitStateSet (slot : Nat) (s : State) : Out := s.run fun d => d.onCmd slot 0x0703 fun c d =>
  let u := c.par 0 1
  if !d.unitPresent u then d.endCmd slot 0x02 0x1510 0x20
  else if unitFixed u then d.endCmd slot 0x10 0x1511 0
  else if bitAt (c.par 2 1) 0 && c.par 4 4 != d.rd (Reg.MGT_UNIT.GEN u) then d.endCmd slot 0x10 0x1513 0
  else
    let d := d.unitWrite u false (c.par 1 1) 0
    d.okCmd slot (d.unitResult u)

/-- UNIT_STATE_QUERY (21 R569). -/
def execUnitStateQuery (slot : Nat) (s : State) : Out := s.run fun d => d.onCmd slot 0x0704 fun c d =>
  let u := c.par 0 1
  if !d.unitPresent u then d.endCmd slot 0x02 0x1510 0x20 else d.okCmd slot (d.unitResult u)

end Sys2Proof.Machine
end

