-- ==== Sys2Proof/Machine/Serving.lean ====
section
/-!
DEFINITION. Serving (chapter 18): the serving registers, RESULT_RING_SET, SAMPLE_BATCH and its ingest filter, batches and their
results.
-/
namespace Sys2Proof.Machine

/-! ### Serving registers (R481) -/

/-- MAX_SAMPLES in force; 0 acts as 64, and no more than 512 are samples of a frame. -/
def Dev.maxSamples (d : Dev) (ctx : Nat) : Nat :=
  match d.rd (Reg.SRV_BATCH.MAX_SAMPLES ctx) with
  | 0 => 64
  | n => min n 512

/-- The cores that SRV_CFG.CORES names. -/
def Dev.srvCores (d : Dev) (ctx : Nat) : List Nat :=
  match d.rd (Reg.SRV_CFG.CORES ctx) with
  | 1 => [0]
  | 2 => [1]
  | _ => [0, 1]

/-- SRV_RESERVE of a context on a core. -/
def Dev.srvReserve (d : Dev) (ctx core : Nat) : Nat :=
  d.rd (if core = 0 then Reg.SRV_RESERVE.SC0_KRPS ctx else Reg.SRV_RESERVE.SC1_KRPS ctx)

/-- A write of SRV_RESERVE keeps the sum over all contexts within 1,200 on both cores. -/
def Dev.reserveFits (d : Dev) (ctx v : Nat) : Bool :=
  let others (core : Nat) : Nat := (((List.range 16).filter fun c => c != ctx).map fun c => d.srvReserve c core).sum
  decide (others 0 + bits v 0 11 ≤ 1200) && decide (others 1 + bits v 16 11 ≤ 1200)

/-- A write of a configuration register by its offset in the context's block. -/
def Dev.srvRegWrite (d : Dev) (ctx off v : Nat) : Dev :=
  if !([0x00, 0x04, 0x08, 0x10, 0x18, 0x1C] : List Nat).contains off then d
  else if d.ctxState ctx ≠ csIdle ∨ (off = 0x08 ∧ !d.reserveFits ctx v) then d.wr (Reg.SRV_CFG.CFG_REFUSED ctx) 1
  else
    match off with
    | 0x00 =>
      let keep := d.on (Reg.SRV_CFG.CFG_REFUSED ctx) && !bitAt v 5
      d.setReg (Reg.SRV_CFG.GAP_POLICY ctx).reg (setBits (v &&& 0xFFFFFF1F) 5 1 (b2n keep))
    | 0x04 => d.setReg (Reg.SRV_BATCH.BATCH_US ctx).reg (v &&& 0x03FF03FF)
    | 0x08 => d.setReg (Reg.SRV_RESERVE.SC0_KRPS ctx).reg (v &&& 0x07FF07FF)
    | 0x10 => d.wr (Reg.SRV_LIST.ADDR ctx) v
    | 0x18 => d.wr (Reg.SRV_LIST_INFO.COUNT ctx) v
    | _ => d.setReg (Reg.SRV_SPM.BASE_U ctx).reg (v &&& 0x07FF03FF)

/-- SRV_REGISTER_WRITE (R481): refused unless the context is IDLE. -/
def execSrvRegisterWrite (ctx off : Nat) (value : QWord) (s : State) : Out := s.run fun d =>
  if d.hostRegsServed then d.srvRegWrite ctx off value.toNat else d.heldAccess 0 ((Reg.SRV_CFG.GAP_POLICY ctx).reg + off)

/-- SRV_RING_HEAD_WRITE (R491): the host releases entries; batches that wait for space may close. -/
def execSrvRingHeadWrite (ctx : Nat) (value : Word) (s : State) : Out := s.run fun d =>
  if d.hostRegsServed then (d.wr (Reg.SRV_RING_HEAD.HEAD ctx) value.toNat).srvClose ctx
  else d.heldAccess 0 (Reg.SRV_RING_HEAD.HEAD ctx).reg

/-! ### RESULT_RING_SET (R490) -/

/-- The parameter checks of RESULT_RING_SET. -/
def Dev.ringParams (d : Dev) (c : Cmd) : List PChk :=
  let cfg (bad : Bool) (off : Nat) : PChk := pchk bad 0x1203 off
  let place (a : Nat) : Bool := d.region a == .hbm || d.region a == .host
  [paddr c 0, cfg (c.par 0 8 % 4096 != 0 || !place (c.par 0 8)) 0x00, paddr c 8, cfg (c.par 8 8 % 128 != 0) 0x08,
    cfg (c.par 0x10 1 < 4 || 20 < c.par 0x10 1) 0x10, pchk (c.par 0x11 1 == 0) 0x0512 0x11, cfg (decide (63 < c.par 0x11 1)) 0x11,
    cfg (decide (4096 < c.par 0x12 2) || c.par 0x12 2 % 4 != 0) 0x12]

/-- The address ranges of RESULT_RING_SET. -/
def ringRanges (c : Cmd) : List (Bool × Nat × Nat) :=
  let n := 2 ^ c.par 0x10 1
  (true, c.par 0 8, 32 * n) :: (if c.par 0x12 2 = 0 then [] else [(true, c.par 8 8, c.par 0x12 2 * n)])

/-- RESULT_RING_SET (R490). -/
def execResultRingSet (slot : Nat) (s : State) : Out := s.run fun d => d.onCmd slot 0x0104 fun c d =>
  if !(d.srvFrames c.ctx).isEmpty then d.endCmd slot 0x04 0x1210 0
  else
    let r : SrvRing := ⟨c.par 0 8, c.par 8 8, c.par 0x10 1, c.par 0x11 1, c.par 0x12 2⟩
    let d := { d with srv := { d.srv with rings := kvPut c.ctx r d.srv.rings } }
    let d := (d.wr (Reg.SRV_RING_HEAD.HEAD c.ctx) 0).wr (Reg.SRV_RING_TAIL.TAIL c.ctx) 0
    (d.wr (Reg.SRV_RING_TAIL.PHASE c.ctx) 1).okCmd slot

/-! ### The serving list (R482) -/

/-- The scratchpad area of a context on a core is inside its window. -/
def Dev.batchArea (d : Dev) (ctx core unit0 units : Nat) : Bool :=
  match d.spmWin ctx core with
  | some (lo, hi) => decide (lo ≤ spmBase core + unit0 * 0x10000 ∧ spmBase core + (unit0 + units) * 0x10000 ≤ hi)
  | none => false

/-- Snapshot and check both halves of a serving list (R482; 06 R155). -/
def Dev.srvSnap (d : Dev) (ctx a n cls out : Nat) : Dev × Except Fail SrvList :=
  let u := d.rd (Reg.SRV_SPM.BASE_U ctx)
  let k := d.rd (Reg.SRV_SPM.SIZE_U ctx)
  let cores := d.srvCores ctx
  let want := if cores.length = 2 then 2 else cores.headD 0
  let placed : Bool := match d.region a with
    | .hbm | .spm _ => true
    | _ => false
  if n = 0 ∨ 32768 < n ∨ a % 64 ≠ 0 ∨ !placed ∨ k % 2 = 1 ∨ k / 2 * 0x10000 < 0x20000 + 64 * (d.roomSize cls + out)
      ∨ cores.any (fun core => !d.batchArea ctx core u k) then (d, .error ⟨0x02, 0x1201, 0⟩)
  else
    match d.read byCp ctx a (128 * n) with
    | ⟨d, .error e⟩ => (d, .error e)
    | ⟨d, .ok bs⟩ =>
      let ws := listWords bs
      match d.listBad ctx (d.listCols want) (if want = 1 then 1 else 0) (indexed 0 ws) with
      | (d, some (i, b)) => (d.listError ctx i b, .error b.fail)
      | (d, none) => (d, .ok ⟨(ws.take n, ws.drop n), cores, u, k / 2, cls, d.maxSamples ctx, out⟩)

/-- A descriptor written for SC0 as SC1 runs it: its porters, and its scratchpad addresses, the same in each core (R482; 13 R342;
DESIGN CHOICE, notes/assumptions/29.md). -/
def tdForSc1 (w : TdWord) : TdWord :=
  (tdAddrs (tdKind w)).foldl (fun w o =>
    let a := tdf w o 8
    if spmBase 0 ≤ a ∧ a < spmBase 1 then BitVec.ofNat 512 (setBits w.toNat (8 * o) 64 (a + spmSize)) else w) (tdOnSc1 w)

/-- The descriptors of a half on a core. -/
def SrvList.run (l : SrvList) (core half : Nat) : List TdWord :=
  let ws := stageStart (if half = 0 then l.lists.1 else l.lists.2)
  if core = 1 ∧ l.cores.headD 0 = 0 then ws.map tdForSc1 else ws

/-! ### SAMPLE_BATCH (R483–R486) -/

/-- The parameter checks of SAMPLE_BATCH. -/
def Dev.sampleParams (d : Dev) (c : Cmd) : List PChk :=
  let t (bad : Bool) (off : Nat) : PChk := pchk bad 0x1202 off
  [paddr c 0, t (c.par 0 8 % 32 != 0 || !(d.region (c.par 0 8) == .hbm || d.region (c.par 0 8) == .host)) 0x00,
    t (c.par 8 4 == 0 || decide (65536 < c.par 8 4)) 0x08]

/-- The address range of SAMPLE_BATCH. -/
def sampleRanges (c : Cmd) : List (Bool × Nat × Nat) := [(false, c.par 0 8, 32 * c.par 8 4)]

/-- How far ahead of the watermark a frame lies; 1 for a guest's first frame (R484). -/
def Dev.frameAhead (d : Dev) (ctx guest seq : Nat) (g : SrvGuest) : Nat :=
  match d.srvMark ctx guest g with
  | some (last, _) => seqAhead last seq
  | none =>
    match g.base with
    | some (last, _) => if decide (0 < seqAhead last seq ∧ seqAhead last seq < 2 ^ 31) then seqAhead last seq else 1
    | none => 1

/-- FRAME_INGEST (R484): one frame of a table is dropped, held or made ready. Its samples are copied from here on. -/
def Dev.ingest (d : Dev) (slot : Nat) (c : Cmd) (e : List Byte) : Dev :=
  let ctx := c.ctx
  let guest := fieldAt e 0 3
  let seq := fieldAt e 4 4
  let ts := fieldAt e 8 8
  let n := fieldAt e 0x10 2
  let a := fieldAt e 0x18 8
  let bytes := if fieldAt e 0x12 1 = 1 then n else 2 * n
  let drop (f : Fld) : Dev := d.dropFrame f (some slot)
  let lost : Bool := match (d.defaultClass ctx).bind fun k => d.room? k guest with
    | some _ => false
    | none => (d.srvGuest ctx guest).infl.isNone && (d.srvGuest ctx guest).held.isEmpty
  let g := if lost then srvGuest0 else d.srvGuest ctx guest
  let ahead := d.frameAhead ctx guest seq g
  if n = 0 ∨ d.maxSamples ctx < n ∨ fieldAt e 0x12 1 ≠ d.rd (Reg.SRV_CFG.FMT ctx) ∨ (d.firstRefused ctx false a bytes).isSome then
    drop (Reg.SRV_DROP_A.RANGE ctx)
  else if ahead = 0 ∨ 2 ^ 31 ≤ ahead then drop (Reg.SRV_DROP_A.STALE ctx)
  else if (match d.srvMark ctx guest g with
      | some (_, t) => decide (ts < t)
      | none => false) then drop (Reg.SRV_DROP_A.TIME ctx)
  else if (g.held.any fun f => f.seq == seq) || (g.infl.map fun x => x.1) == some seq then drop (Reg.SRV_DROP_A.DUPLICATE ctx)
  else if d.poolFull then drop (Reg.SRV_DROP_B.POOL_FULL ctx)
  else
    match d.read byCp ctx a bytes with
    | ⟨d, .error f⟩ => (d.askStop slot f.major f.detail).dropFrame (Reg.SRV_DROP_B.TIMEOUT ctx) (some slot)
    | ⟨d, .ok bs⟩ =>
      let f : Frame := { guest, seq, ts, samples := n, data := bs, fill := false, passed := false, cmd := some slot, bell := some c.bellNs }
      if ahead = 1 ∧ g.infl.isNone ∧ !d.roomOut ctx guest then ((d.setSrvGuest ctx guest g).frameReady ctx f).srvNext ctx guest
      else
        let full := decide (8 < ahead) || decide (8 ≤ g.held.length)
        let d := d.setSrvGuest ctx guest { g with held := g.held ++ [f] }
        (if full then d.gapPolicy ctx guest else d).srvNext ctx guest

/-- Ingest a frame table in order; a read that fails stops the command, and the frames behind it are dropped. -/
def Dev.ingestAll (d : Dev) (slot : Nat) : List (List Byte) → Dev
  | [] => d
  | e :: es =>
    match d.cmd? slot with
    | none => d
    | some c =>
      if c.stop.isSome then (d.dropFrame (Reg.SRV_DROP_B.TIMEOUT c.ctx) (some slot)).ingestAll slot es
      else (d.ingest slot c e).ingestAll slot es

/-- A stopped SAMPLE_BATCH: its frames that are in no closed batch are dropped, its closed batches are stopped (Edges). -/
def Dev.sampleStop (d : Dev) (slot : Nat) (c : Cmd) (cause : Nat × Nat) : Dev :=
  let ctx := c.ctx
  let mine (f : Frame) : Bool := f.cmd == some slot
  let guests := (kvGet ctx d.srv.guests).getD []
  let open' := d.srv.batches.filter fun b => b.ctx == ctx && b.layout.isNone
  let out := open'.flatMap fun b => b.frames.filter mine
  let held := guests.flatMap fun x => x.2.held.filter mine
  let d := d.forEach guests fun (g, x) d =>
    let infl := if out.any fun f => f.guest == g then none else x.infl
    d.setSrvGuest ctx g { x with held := x.held.filter fun f => !mine f, infl := infl }
  let d := d.forEach open' fun b d => d.updBatch b.tag fun b => { b with frames := b.frames.filter fun f => !mine f }
  let d := { d with srv := { d.srv with batches := d.srv.batches.filter fun b => b.layout.isSome || !b.frames.isEmpty } }
  let d := d.forEach (d.srv.batches.filter fun b => b.ctx == ctx && b.layout.isSome && b.frames.any mine) fun b d =>
    if b.step = 4 then d else (d.askStop b.tag cause.1 cause.2).updBatch b.tag fun b => if b.step = 0 then { b with step := 4 } else b
  let d := d.forEach (held ++ out) fun _ d => d.dropFrame (Reg.SRV_DROP_B.TIMEOUT ctx) (some slot)
  d.forEach (out.map fun f => f.guest) fun g d => d.srvNext ctx g

/-- SAMPLE_BATCH (R483): its first run takes the snapshot of the serving list when the context has none, and ingests the table; a
later run sees to its stop. It completes when its last frame is resolved. -/
def execSampleBatch (slot : Nat) (s : State) : Out := s.run fun d => d.onCmd slot 0x0410 fun c d =>
  if c.ofBatch then d
  else
    match c.stop, c.aux.headD 0 with
    | some cause, 1 =>
      (((d.updCmd slot fun c => { c with aux := 2 :: c.aux.drop 1 }).sampleStop slot c cause).sampleDone slot)
    | _, 0 =>
      match d.defaultClass c.ctx, kvGet c.ctx d.srv.rings with
      | none, _ => d.endCmd slot 0x0F 0x1211 0
      | some _, none => d.endCmd slot 0x0F 0x1212 0
      | some k, some r =>
        let snap : Dev × Except Fail Unit :=
          if (kvGet c.ctx d.srv.lists).isSome then (d, .ok ())
          else
            match d.srvSnap c.ctx (d.rd (Reg.SRV_LIST.ADDR c.ctx)) (d.rd (Reg.SRV_LIST_INFO.COUNT c.ctx)) k r.size with
            | (d, .error e) => (d, .error e)
            | (d, .ok l) => ({ d with srv := { d.srv with lists := kvPut c.ctx l d.srv.lists } }, .ok ())
        match snap with
        | (d, .error e) => d.endCmd slot e.major e.detail 0
        | (d, .ok _) =>
          match d.read byCp c.ctx (c.par 0 8) (32 * c.par 8 4) with
          | ⟨d, .error e⟩ => d.endCmd slot e.major e.detail 0
          | ⟨d, .ok t⟩ =>
            let d := d.updCmd slot fun c => { c with aux := 0 :: c.aux.drop 1 }
            let d := d.ingestAll slot (chunksOf 32 t)
            let d := if bitAt (c.par 0x0C 1) 0 then
                ({ d with srv := { d.srv with batches := d.srv.batches.map fun b =>
                  if b.ctx = c.ctx ∧ b.layout.isNone then { b with flush := true } else b } } : Dev).srvClose c.ctx
              else d
            (d.updCmd slot fun c => { c with aux := 1 :: c.aux.drop 1 }).sampleDone slot
    | _, _ => d

/-- GAP_TIMEOUT (R485): GAP_US has passed since a guest's gap opened. -/
def execGapTimeout (ctx guest : Nat) (s : State) : Out := s.run fun d =>
  if d.live && (d.srvGap ctx guest (d.srvGuest ctx guest)).isSome then (d.gapPolicy ctx guest).srvNext ctx guest else d

/-- BATCH_WINDOW_EXPIRY (R487): BATCH_US has passed since the context's oldest open batch opened. -/
def execBatchWindowExpiry (ctx : Nat) (s : State) : Out := s.run fun d =>
  if !d.live then d
  else
    match d.srv.batches.find? fun b => b.ctx == ctx && b.layout.isNone && !b.due with
    | some b => (d.updBatch b.tag fun b => { b with due := true }).srvClose ctx
    | none => d

/-- RESERVE_PERIOD (R494): a 1 ms period begins. -/
def execReservePeriod (s : State) : Out := s.run fun d => { d with srv := { d.srv with served := [] } }

/-! ### Running a batch (R488) -/

def srvKey (ctx core : Nat) : Nat := 2 * ctx + core

/-- A context still has results of its reservation to come on a core (R494). -/
def Dev.reserved (d : Dev) (ctx core : Nat) : Bool :=
  d.ctxClass ctx == 0 && decide ((kvGet (srvKey ctx core) d.srv.served).getD 0 < d.srvReserve ctx core)

/-- Closed batches of a context that hold a half of a core. -/
def Dev.halvesUsed (d : Dev) (ctx core : Nat) : List Nat :=
  (d.srv.batches.filter fun b => b.ctx == ctx && b.step != 0 && b.core == core && !b.sts.isEmpty).map fun b => b.half

/-- The half a batch would take on a core: the one whose turn it is, else the other. -/
def Dev.freeHalf (d : Dev) (ctx core : Nat) : Option Nat :=
  let t := (kvGet (srvKey ctx core) d.srv.turn).getD 0
  [t, 1 - t].find? fun h => !(d.halvesUsed ctx core).contains h

/-- The core and half for a closed batch (R487, R494): of the cores with a free half, one without a running batch of the context, then
the one whose previous batch finished first, then SC0; a context with a reservation left goes before any other. -/
def Dev.placeBatch (d : Dev) (b : Batch) (l : SrvList) : Option (Nat × Nat) :=
  let held (core : Nat) : Bool := !d.reserved b.ctx core && d.srv.batches.any fun x =>
    x.ctx != b.ctx && x.step == 0 && d.reserved x.ctx core && (match x.layout with
      | some y => y.cores.contains core
      | none => false)
  let cands := l.cores.filterMap fun core => if held core || d.coreResets core then none else (d.freeHalf b.ctx core).map fun h => (core, h)
  let rank (x : Nat × Nat) : Nat :=
    b2n (!(d.halvesUsed b.ctx x.1).isEmpty) * (d.srv.ends + 1) + (kvGet (srvKey b.ctx x.1) d.srv.last).getD 0
  match cands with
  | [] => none
  | x :: xs => some (xs.foldl (fun y z => if rank z < rank y then z else y) x)

/-- The first byte of a batch's half. -/
def Batch.base (b : Batch) (l : SrvList) : Nat := spmBase b.core + (l.unit0 + b.half * l.units) * 0x10000

/-- The rooms and the outputs of a batch. -/
def Batch.rooms (b : Batch) (l : SrvList) : Nat := b.base l + 0x20000
def Batch.outs (b : Batch) (l : SrvList) (z : Nat) : Nat := b.rooms l + 64 * z

/-- Bytes padded with zeros to a length. -/
def padTo (n : Nat) (bs : List Byte) : List Byte := bs.take n ++ zeros (n - bs.length)

/-- What CP2 and the porters write before the check-in (R482, R488 step 1). -/
def Batch.inputs (b : Batch) (l : SrvList) : List (Nat × List Byte) :=
  let a := b.base l
  let w := 2 * l.rows
  [(a, b.frames.flatMap fun f => leBytes 4 f.guest), (a + 0x100, leBytes 4 b.frames.length),
    (a + 0x400, b.frames.flatMap fun f => leBytes 4 f.seq ++ leBytes 2 f.samples ++ leBytes 1 (b2n f.fill) ++ leBytes 1 0 ++ leBytes 8 f.ts),
    (a + 0x10000, (b.frames.flatMap fun f => padTo w f.data) ++ zeros ((64 - b.frames.length) * w))]

/-- An INN_OP on rooms [first, first + n) of a batch (06 R153). -/
def Batch.innOp (b : Batch) (l : SrvList) (z op first n : Nat) : Nat × TdWord :=
  (b.core, tdMake 0x50 4 [(0x18, 8, b.base l + 4 * first), (0x20, 8, b.rooms l + first * z), (0x28, 2, n), (0x2A, 1, op), (0x2B, 1, l.cls)])

/-- The record that CP1 runs a batch's descriptors under: STAGED, of the context's class (06 R146). -/
def batchCmd (b : Batch) (core : Nat) : Cmd :=
  { cmdNew b.tag 256 b.ctx 0 0 with pkt := BitVec.ofNat 2048 0x0410, phase := .running, cores := [core] }

def stepFailed : Nat × Nat := (0x0C, 0x1220)

/-- Step 1 and the start of step 2 of R488. -/
def Dev.batchBegin (d : Dev) (b : Batch) (l : SrvList) (core half : Nat) : Dev :=
  let b := { b with core := core, half := half, step := 1, sts := b.frames.map fun _ => none, resv := b.frames.map fun _ => 0 }
  let d := d.updBatch b.tag fun _ => b
  let d := { d with
    srv := { d.srv with turn := kvPut (srvKey b.ctx core) (1 - half) d.srv.turn }
    cp0 := { d.cp0 with cmds := d.cp0.cmds ++ [batchCmd b core] } }
  let d := d.assign b.tag [core]
  match d.writeAll byCp b.ctx (b.inputs l) with
  | ⟨d, some f⟩ => d.failStaged b.tag f
  | ⟨d, none⟩ => d.addTodo b.tag [b.innOp l (d.roomSize l.cls) 0 0 b.frames.length]

/-- The outcome that a guest list holds for its guest `i` (14 R369). -/
def Dev.listOutcome (d : Dev) (a i : Nat) : Nat := d.peekNat (a + 4 * i + 3) 1

/-- A guest's status by its check-in outcome (R489): none when it is checked in; 0xFF for one that waits for a check-out. -/
def Dev.checkInStatus (d : Dev) (cls guest oc : Nat) : Option (Nat × Nat) :=
  if oc = ocDone ∨ oc = ocLodged then none
  else if oc = ocBusy then
    match d.room? cls guest with
    | some r => if r.state = .busy then some (0x09, 0x0E21) else some (0xFF, 0)
    | none => some (0xFF, 0)
  else if oc = ocPoisoned then some (0x0A, 0x0E22)
  else if oc = ocNotLodged then some (0x02, 0x0E04)
  else if oc = ocClassFull then some (0x04, 0x0E12)
  else some stepFailed

/-- Whoever has no status yet gets one. -/
def Batch.close (b : Batch) (st : Nat × Nat) : Batch := { b with sts := b.sts.map fun x => some (x.getD st) }

/-- Step 5 of R488 is over: rooms still locked are unlocked without advance (14 R372); results follow. -/
def Dev.batchResults (d : Dev) (b : Batch) : Dev :=
  let d := ((d.dropTds b.tag).innEndCmd b.tag).innStatus
  let d := { d with cp0 := { d.cp0 with cmds := d.cp0.cmds.filter fun c => c.slot != b.tag } }
  (d.updBatch b.tag fun _ => { b with step := 4 }).srvWake

/-- The check-in has ended: statuses of those not checked in, then the list (R488 step 3). -/
def Dev.batchList (d : Dev) (b : Batch) (l : SrvList) : Dev :=
  let sts := (List.range b.frames.length).zip b.frames |>.map fun (i, f) => d.checkInStatus l.cls f.guest (d.listOutcome (b.base l) i)
  let b := { b with sts := sts, step := 2 }
  let d := d.updBatch b.tag fun _ => b
  if sts.all Option.isSome then d.batchResults b
  else d.addTodo b.tag ((l.run b.core b.half).map fun w => (b.core, w))

/-- Runs of neighbouring numbers of a rising list: first and length. -/
def runsOf : List Nat → List (Nat × Nat)
  | [] => []
  | i :: l =>
    match runsOf l with
    | (j, n) :: rs => if j = i + 1 then (i, n + 1) :: rs else (i, 1) :: (j, n) :: rs
    | [] => [(i, 1)]

/-- Whether a result of a ring has an accepted completion path, and the hold-buffer units it takes (04 R103). -/
def Dev.pathAccepted (d : Dev) (r : SrvRing) : Option Nat :=
  if d.region r.ring != .host then some 0
  else
    let n := 1 + if d.region r.out == .host then cdiv r.size 32 else 0
    if d.pci.link != .down && decide (n ≤ d.holdFree) then some n else none

/-- Steps 4 and 5 of R488: the ingest records, then the check-out of every room whose result has an accepted path. -/
def Dev.batchCheckOut (d : Dev) (b : Batch) (l : SrvList) (r : SrvRing) : Dev :=
  let z := d.roomSize l.cls
  let rows := (List.range b.frames.length).zip (b.frames.zip b.sts)
  let ins := rows.filter fun x => x.2.2.isNone
  let recs := ins.map fun (i, f, _) => (b.rooms l + i * z + 32, leBytes 4 f.seq ++ leBytes 4 1 ++ leBytes 8 f.ts)
  match d.writeAll byCp b.ctx recs with
  | ⟨d, some _⟩ => d.batchResults (b.close stepFailed)
  | ⟨d, none⟩ =>
    let take (acc : Dev × List (Option (Nat × Nat)) × List Nat) (x : Nat × Frame × Option (Nat × Nat)) :
        Dev × List (Option (Nat × Nat)) × List Nat :=
      match x.2.2 with
      | some st => (acc.1, acc.2.1 ++ [some st], acc.2.2 ++ [0])
      | none =>
        match acc.1.pathAccepted r with
        | some n => ({ acc.1 with pci := { acc.1.pci with reserved := acc.1.pci.reserved + n } }, acc.2.1 ++ [none], acc.2.2 ++ [n])
        | none => (acc.1, acc.2.1 ++ [some (0x0C, 0x1221)], acc.2.2 ++ [0])
    let (d, sts, resv) := rows.foldl take (d, [], [])
    let b := { b with sts := sts, resv := resv, step := 3 }
    let d := d.updBatch b.tag fun _ => b
    let outs := (List.range sts.length).filter fun i => (sts.getD i none).isNone
    if outs.isEmpty then d.batchResults b
    else d.addTodo b.tag ((runsOf outs).map fun (i, n) => b.innOp l z 1 i n)

/-- The check-out has ended (R489). -/
def Dev.batchPublished (d : Dev) (b : Batch) (l : SrvList) : Dev :=
  let sts := (List.range b.frames.length).map fun i => match b.sts.getD i none with
    | some st => some st
    | none => if d.listOutcome (b.base l) i = ocDone then some (0, 0) else some stepFailed
  d.batchResults { b with sts := sts }

/-! ### Results (R489–R491) -/

/-- A frame's result is written: its guest has nothing in flight; the watermark moves only with status OK (R486, R489). -/
def Dev.frameResolved (d : Dev) (ctx : Nat) (f : Frame) (ok : Bool) : Dev :=
  let g := d.srvGuest ctx f.guest
  let g := if ok then { g with infl := none, mark := none, base := none }
    else
      let base := if (d.ingestRecord ctx f.guest).isNone && g.mark.isNone then some ((f.seq + 2 ^ 32 - 1) % 2 ^ 32, 0) else g.base
      { g with infl := none, base := base }
  ((d.setSrvGuest ctx f.guest g).frameEnds f.cmd true ok).srvNext ctx f.guest

/-- A write for a result: to host memory, or to device memory; a refused write is lost. -/
def Dev.resultWrite (d : Dev) (kind : HeldKind) (ctx a : Nat) (bs : List Byte) (vector : Option Nat) : Dev :=
  if bs.isEmpty then d
  else if d.region a == .host then
    match d.windowCheck byCp ctx true a bs.length with
    | ⟨d, some _⟩ => d
    | ⟨d, none⟩ => d.hostWrite kind (d.hostAddr ctx a) bs vector
  else
    let d := (d.write byCp ctx a bs).dev
    match vector with
    | some v => d.signalEntry v
    | none => d

/-- The 32 bytes of a result entry (R491). -/
def resultBytes (guest cls step seq major : Nat) (fill phase : Bool) (detail ts latency : Nat) : List Byte :=
  leBytes 3 guest ++ leBytes 1 (cls % 16) ++ leBytes 4 step ++ leBytes 4 seq ++ leBytes 1 major
    ++ leBytes 1 (b2n fill + b2n phase * 128) ++ leBytes 2 detail ++ leBytes 8 ts ++ leBytes 4 latency ++ leBytes 4 0

/-- RESULT_WRITE (R491): the output of a published step, then the entry. A step counter that a guest without a room does not have, and
the latency of a fill step, which no doorbell exposed, are free values (DESIGN CHOICE, notes/assumptions/4.md). -/
def Dev.writeResult (d : Dev) (b : Batch) (l : SrvList) (r : SrvRing) (i : Nat) (f : Frame) (st : Nat × Nat) : Dev :=
  let d := { d with pci := { d.pci with reserved := d.pci.reserved - b.resv.getD i 0 } }
  let t := d.rd (Reg.SRV_RING_TAIL.TAIL b.ctx)
  let d := if st.1 ≠ 0 ∨ r.size = 0 then d
    else
      match d.read byCp b.ctx (b.outs l (d.roomSize l.cls) + i * r.size) r.size with
      | ⟨d, .ok bs⟩ => d.resultWrite .output b.ctx (r.out + t * r.size) bs none
      | ⟨d, .error _⟩ =>
        let bs := (List.range r.size).map fun k => freeByte d.free k
        ({ d with free := d.free + r.size / 8 + 1 } : Dev).resultWrite .output b.ctx (r.out + t * r.size) bs none
  let (d, step) : Dev × Nat := match d.room? l.cls f.guest with
    | some x => (d, x.step)
    | none => (d.freeNext, d.freeVal % 2 ^ 32)
  let (d, lat) : Dev × Nat := match f.bell with
    | some ns => (d, min ((d.timeNs - ns) / 1000) (2 ^ 32 - 1))
    | none => (d.freeNext, d.freeVal % 2 ^ 32)
  let e := resultBytes f.guest l.cls step f.seq st.1 f.fill (d.on (Reg.SRV_RING_TAIL.PHASE b.ctx)) st.2 f.ts lat
  let d := d.resultWrite (.result l.cls f.guest step f.seq) b.ctx (r.ring + 32 * t) e (some r.vec)
  let d := if t + 1 = 2 ^ r.log2 then
      (d.wr (Reg.SRV_RING_TAIL.TAIL b.ctx) 0).wr (Reg.SRV_RING_TAIL.PHASE b.ctx) (1 - d.rd (Reg.SRV_RING_TAIL.PHASE b.ctx))
    else d.wr (Reg.SRV_RING_TAIL.TAIL b.ctx) (t + 1)
  let d := if f.fill then d.inc (Reg.SRV_GAP.FILL_STEPS b.ctx) else d
  let k := srvKey b.ctx b.core
  { d with srv := { d.srv with served := kvPut k ((kvGet k d.srv.served).getD 0 + 1) d.srv.served } }

/-- A frame whose room another command had checked in waits for the check-out in the reorder window (R489; 01 R21). -/
def Dev.frameWaits (d : Dev) (ctx : Nat) (f : Frame) : Dev :=
  let g := d.srvGuest ctx f.guest
  (d.setSrvGuest ctx f.guest { g with infl := none, held := { f with passed := true } :: g.held }).srvNext ctx f.guest

/-- Write the results of a batch in order, as far as the hold buffer takes them (04 R102, R103); `fuel` is their number. -/
def Dev.writeResults (d : Dev) (tag : Nat) (l : SrvList) (r : SrvRing) : (fuel : Nat) → Dev
  | 0 => d
  | n + 1 =>
    match d.srv.batches.find? fun b => b.tag == tag with
    | none => d
    | some b =>
      match b.frames.drop b.pos with
      | [] => d
      | f :: _ =>
        let st := (b.sts.getD b.pos none).getD stepFailed
        let d' := d.updBatch tag fun b => { b with pos := b.pos + 1 }
        if st.1 = 0xFF then (d'.frameWaits b.ctx f).writeResults tag l r n
        else if d.region r.ring == .host && b.resv.getD b.pos 0 == 0 && !(d.pathUp && d.pci.hold.isEmpty) && d.holdFree == 0 then d
        else ((d'.writeResult b l r b.pos f st).frameResolved b.ctx f (st.1 == 0)).writeResults tag l r n

/-- Write a batch's results; with the last one the batch is over (R487). -/
def Dev.batchWrite (d : Dev) (b : Batch) (l : SrvList) (r : SrvRing) : Dev :=
  let d := d.writeResults b.tag l r b.frames.length
  match d.srv.batches.find? fun x => x.tag == b.tag with
  | none => d
  | some x =>
    if x.pos < x.frames.length then d
    else
      ({ d with srv := { d.srv with
        batches := d.srv.batches.filter fun x => x.tag != b.tag
        last := if x.sts.isEmpty then d.srv.last else kvPut (srvKey b.ctx b.core) (d.srv.ends + 1) d.srv.last
        ends := d.srv.ends + 1 } } : Dev).srvClose b.ctx

/-- BATCH_RUN (R488): a closed batch goes on as far as it can: it begins in a half; its check-in, its list and its check-out run as
descriptors; its results are written. A descriptor that fails, or a stop, ends it without a check-out. -/
def execBatchRun (tag : Nat) (s : State) : Out := s.run fun d =>
  match d.srv.batches.find? fun b => b.tag == tag with
  | none => d
  | some b =>
    match b.layout, kvGet b.ctx d.srv.rings with
    | some l, some r =>
      if !d.live then d
      else if b.step = 0 then
        match d.placeBatch b l with
        | some (core, half) => d.batchBegin b l core half
        | none => d
      else if b.step = 4 then d.batchWrite b l r
      else
        match d.cmd? tag with
        | none => d.batchResults (b.close stepFailed)
        | some c =>
          if c.phase == .ended then d.batchResults (b.close stepFailed)
          else if c.stop.isSome || !c.todo.isEmpty || !(d.cmdTds tag).isEmpty then d
          else
            match b.step with
            | 1 => d.batchList b l
            | 2 => d.batchCheckOut b l r
            | _ => d.batchPublished b l
    | _, _ => d

end Sys2Proof.Machine
end

