-- ==== Sys2Proof/Machine/Reshard.lean ====
section
/-!
DEFINITION. RESHARD (chapter 18, R495–R498).
-/
namespace Sys2Proof.Machine

/-- A plan item (R495). -/
structure PlanItem where
  kind   : Nat
  srcCls : Nat
  srcOff : Nat
  first  : Nat
  src    : Nat                  -- SRC, or COUNT of guests
  dst    : Nat                  -- DST, or DST_OFF
  length : Nat                  -- LENGTH, or BYTES
  deriving DecidableEq, Repr

def planItems (bs : List Byte) : List PlanItem := (chunksOf 32 bs).map fun b =>
  ⟨fieldAt b 0 1, fieldAt b 1 1, fieldAt b 2 2, fieldAt b 4 3, fieldAt b 8 8, fieldAt b 0x10 8, fieldAt b 0x18 8⟩

/-- The parameter checks of RESHARD. -/
def Dev.reshardParams (d : Dev) (c : Cmd) : List PChk :=
  let p (bad : Bool) (off : Nat) : PChk := pchk bad 0x1204 off
  let k := c.par 0x0C 1
  let placed : Bool := match d.region (c.par 0x10 8) with
    | .hbm | .spm _ => true
    | _ => false
  [paddr c 0, p (c.par 0 8 % 64 != 0 || d.region (c.par 0 8) != .hbm) 0x00, p (c.par 8 4 == 0 || decide (4096 < c.par 8 4)) 0x08,
    p (!d.classOn k || d.classCtx k != c.ctx) 0x0C, paddr c 0x10, p (c.par 0x10 8 % 64 != 0 || !placed) 0x10,
    p (c.par 0x18 4 == 0 || decide (32768 < c.par 0x18 4)) 0x18]

/-- The address ranges of RESHARD. -/
def reshardRanges (c : Cmd) : List (Bool × Nat × Nat) := [(false, c.par 0 8, 32 * c.par 8 4), (false, c.par 0x10 8, 128 * c.par 0x18 4)]

/-- What the serving list in force reads: the ranges of its descriptors, and of the porter descriptors they name. -/
def Dev.listReads (d : Dev) (ctx : Nat) : List (Nat × Nat) :=
  let ws := match kvGet ctx d.srv.lists with
    | some l => l.lists.1 ++ l.lists.2
    | none => listWords (d.peek (d.rd (Reg.SRV_LIST.ADDR ctx)) (128 * d.rd (Reg.SRV_LIST_INFO.COUNT ctx)))
  let reads (l : List (Bool × Nat × Nat)) : List (Nat × Nat) := (l.filter fun x => !x.1).map fun x => x.2
  ws.flatMap fun w =>
    reads ((tdRanges w).map fun x => x.2)
      ++ (if tdKind w = 0x60 then reads ((chunksOf 64 (d.peek (tdf w 0x18 8) (64 * tdf w 0x22 2))).flatMap fun b => pdRanges (leNat b)) else [])

/-- An item of a plan is in order by itself (R495). -/
def Dev.itemOk (d : Dev) (ctx dst : Nat) (i : PlanItem) : Bool :=
  if i.kind = 0 then decide (1 ≤ i.length ∧ i.length ≤ 2 ^ 40 ∧ i.src < 2 ^ 48 ∧ i.dst < 2 ^ 48)
  else
    i.kind == 1 && d.classOn i.srcCls && d.classCtx i.srcCls == ctx
      && decide (1 ≤ i.src ∧ i.src ≤ 16777216 ∧ i.first + i.src ≤ 16777216 ∧ i.srcOff + i.length ≤ d.roomSize i.srcCls - 32
        ∧ i.dst + i.length ≤ d.roomSize dst - 32)

/-- The whole plan is in order: no COPY destination meets a COPY source, or what the list in force reads (R495; 06 R171). -/
def Dev.planOk (d : Dev) (ctx dst : Nat) (l : List PlanItem) : Bool :=
  let copies := l.filter fun i => i.kind == 0
  let reads := copies.map (fun i => (i.src, i.length)) ++ d.listReads ctx
  l.all (d.itemOk ctx dst) && copies.all fun i => !(reads.any fun r => overlap i.dst i.length r.1 r.2)

/-- Chunks of an item (13 R350): bytes of a COPY, rooms of the destination. -/
def Dev.itemChunks (d : Dev) (dst : Nat) (i : PlanItem) : Nat :=
  if i.kind = 0 then cdiv i.length d.memChunk else cdiv i.src (max 1 (d.memChunk / d.roomSize dst))

/-- The item and the number in it of chunk `n` of a plan. -/
def Dev.planChunk (d : Dev) (dst : Nat) : List PlanItem → (n : Nat) → Option (PlanItem × Nat)
  | [], _ => none
  | i :: l, n => if n < d.itemChunks dst i then some (i, n) else d.planChunk dst l (n - d.itemChunks dst i)

def Dev.reshard? (d : Dev) (slot : Nat) : Option Reshard := d.srv.reshards.find? fun r => r.cmd == slot

def Dev.updReshard (d : Dev) (slot : Nat) (f : Reshard → Reshard) : Dev :=
  { d with srv := { d.srv with reshards := d.srv.reshards.map fun r => if r.cmd = slot then f r else r } }

/-- Every BUSY mark of a RESHARD ends (R497, R498). -/
def Dev.endMarks (d : Dev) (l : List (Nat × Nat)) : Dev :=
  d.forEach l fun (k, g) d => match d.room? k g with
    | some r => if r.state = .busy then d.setRoom { r with state := .idle } else d
    | none => d

/-- A RESHARD is over: with no switch record, its marks end (R498). -/
def Dev.reshardEndCmd (d : Dev) (slot : Nat) : Dev :=
  match d.reshard? slot with
  | some r => (({ d with srv := { d.srv with reshards := d.srv.reshards.filter fun x => x.cmd != slot } } : Dev).endMarks r.marks).srvWake
  | none => d

/-- Lodge a moved room with REPLACE: the same guest and step counter, BYTES of state from the source, the rest from the template (R496;
14 R364). -/
def Dev.moveRoom (d : Dev) (dst : Nat) (i : PlanItem) (src : Room) (img : List Byte) : Dev × Option Fail :=
  let t := d.template dst
  let st := t.take i.dst ++ (img.drop (32 + i.srcOff)).take i.length ++ t.drop (i.dst + i.length)
  match d.room? dst src.guest with
  | none => if d.classFull dst then (d, some ⟨0x04, 0x0E12, 0⟩) else (d.lodge dst src.guest src.step st, none)
  | some r =>
    match roomBusy r.state with
    | some e => (d, some e)
    | none =>
      let d := d.innWrite r.addr (roomHeader dst src.guest src.step 0 0 (d.roomSize dst) ++ st)
      (d.setRoom { r with state := .idle, bad := false, step := src.step, epoch := 0, expired := none, prev := none, staged := none }, none)

/-- Mark and move each IDLE source room of a chunk. -/
def Dev.moveRooms (d : Dev) (slot ctx dst : Nat) (i : PlanItem) : List Room → Dev × Option Fail
  | [] => (d, none)
  | r :: rs =>
    match d.innRead ctx r.addr (d.roomSize r.cls) with
    | (d, .bad) => (d.poison r).moveRooms slot ctx dst i rs
    | (d, .fail e) => (d, some e)
    | (d, .ok img) =>
      let d := (d.setRoom { r with state := .busy }).updReshard slot fun x => { x with marks := x.marks ++ [(r.cls, r.guest)] }
      match d.moveRoom dst i r img with
      | (d, some e) => (d, some e)
      | (d, none) => d.moveRooms slot ctx dst i rs

/-- A chunk of a ROOMS item: whether it is complete, or waits for a LOCKED or STAGED source room (R496). -/
def Dev.roomsChunk (d : Dev) (slot ctx dst : Nat) (i : PlanItem) (k : Nat) : Dev × Except Fail Bool :=
  let per := max 1 (d.memChunk / d.roomSize dst)
  let lo := i.first + k * per
  let hi := min (i.first + i.src) (lo + per)
  let here (r : Room) : Bool := r.cls == i.srcCls && decide (lo ≤ r.guest ∧ r.guest < hi)
  match d.moveRooms slot ctx dst i (d.roomsOf fun r => here r && r.state == .idle) with
  | (d, some e) => (d, .error e)
  | (d, none) => (d.innStatus, .ok (!(d.inn.rooms.any fun x => here x.2 && (x.2.state == .locked || x.2.state == .staged))))

/-- The 64 bytes of a switch record (R497). -/
def switchBytes (src dst ctx gen srcList dstList srcCount dstCount planCrc : Nat) : List Byte :=
  let body := leBytes 1 1 ++ leBytes 1 src ++ leBytes 1 dst ++ leBytes 1 (ctx % 16) ++ leBytes 4 gen ++ leBytes 8 srcList ++ leBytes 8 dstList
    ++ leBytes 4 srcCount ++ leBytes 4 dstCount ++ leBytes 8 planCrc ++ zeros 16
  body ++ leBytes 8 (crc64 body)

/-- The switch (R497): the destination list is checked, the record is written, and the destination is in force. -/
def Dev.reshardSwitch (d : Dev) (slot : Nat) (c : Cmd) (x : Reshard) : Dev :=
  let ctx := c.ctx
  let dst := c.par 0x0C 1
  let out := match kvGet ctx d.srv.rings with
    | some r => r.size
    | none => 0
  match d.srvSnap ctx (c.par 0x10 8) (c.par 0x18 4) dst out with
  | (d, .error e) => d.failStaged slot e
  | (d, .ok l) =>
    let gen := match kvGet ctx d.srv.switches with
      | some b => fieldAt b 4 4 + 1
      | none => 1
    let old := d.defaultClass ctx
    let (d, src) : Dev × Nat := match old with
      | some k => (d, k)
      | none => (d.freeNext, d.freeVal % 256)
    let rec' := switchBytes src dst ctx (gen % 2 ^ 32) (d.rd (Reg.SRV_LIST.ADDR ctx)) (c.par 0x10 8) (d.rd (Reg.SRV_LIST_INFO.COUNT ctx)) (c.par 0x18 4)
      (crc64 x.plan)
    let d := { d with srv := { d.srv with
      switches := kvPut ctx rec' d.srv.switches, lists := kvPut ctx l d.srv.lists, reshards := d.srv.reshards.filter fun y => y.cmd != slot } }
    let d := match old with
      | some k => d.wr (Reg.INN_CLASS.DEFAULT k) 0
      | none => d
    let d := (d.wr (Reg.INN_CLASS.DEFAULT dst) 1).wr (Reg.SRV_LIST.ADDR ctx) (c.par 0x10 8)
    let d := (d.wr (Reg.SRV_LIST_INFO.COUNT ctx) (c.par 0x18 4)).endMarks x.marks
    let d := if bitAt (c.par 0x0D 1) 0 then
        d.forEach x.marks fun (k, g) d => match d.room? k g with
          | some r => d.dropRoom r
          | none => d
      else d
    d.innStatus.srvWake.okCmd slot

/-- The first run of RESHARD: the plan is read and checked, a tab found or taken (R495; 06 R170). -/
def Dev.reshardStart (d : Dev) (slot : Nat) (c : Cmd) : Dev :=
  let dst := c.par 0x0C 1
  match d.read byCp c.ctx (c.par 0 8) (32 * c.par 8 4) with
  | ⟨d, .error e⟩ => d.endCmd slot e.major e.detail 0
  | ⟨d, .ok bs⟩ =>
    let l := planItems bs
    if !d.planOk c.ctx dst l then d.endCmd slot 0x02 0x1204 0x20
    else
      match d.denyRanges c.ctx ((l.filter fun i => i.kind == 0).flatMap fun i => [(false, i.src, i.length), (true, i.dst, i.length)]) with
      | ⟨d, some e⟩ => d.endCmd slot e.major e.detail 0
      | ⟨d, none⟩ =>
        let total := (l.map (d.itemChunks dst)).sum
        let cores := [d.pickCore 2]
        let d := d.assign slot cores
        let opened := if total ≤ 1 then (d.updCmd slot fun c => { c with total := total }, none) else d.tabOpen { c with cores := cores } total 0
        match opened with
        | (d, some e) => d.endCmd slot e.major e.detail 0
        | (d, none) => { d with srv := { d.srv with reshards := d.srv.reshards ++ [⟨slot, bs, 0, []⟩] } }

/-- RESHARD (R495–R498): one chunk of its plan, or the switch after the last. A COPY chunk that its tab records as done is passed over;
every ROOMS chunk runs. -/
def execReshard (slot : Nat) (s : State) : Out := s.run fun d => d.onRoutine slot 0x0206 fun c d =>
  let dst := c.par 0x0C 1
  let d := if (d.reshard? slot).isSome then d else d.reshardStart slot c
  match d.reshard? slot, d.cmd? slot with
  | some x, some c =>
    let next (d : Dev) : Dev :=
      let d := d.updReshard slot fun x => { x with next := x.next + 1 }
      if c.done ≤ x.next then d.updCmd slot fun c => { c with done := x.next + 1, rested := false } else d
    match d.planChunk dst (planItems x.plan) x.next with
    | none => d.reshardSwitch slot c x
    | some (i, k) =>
      if i.kind = 0 then
        if x.next < c.done then next d
        else
          let o := k * d.memChunk
          let n := min d.memChunk (i.length - o)
          match d.movePieces (byPorter (d.memPorter 0x0201 (c.cores.headD 0) x.next)) c.ctx (rowPieces 1 n (i.src + o) 0 (i.dst + o) 0) 0 with
          | ⟨d, some e, _⟩ => d.failStaged slot e
          | ⟨d, none, _⟩ => next d
      else
        match d.roomsChunk slot c.ctx dst i k with
        | (d, .error e) => d.failStaged slot e
        | (d, .ok false) => d
        | (d, .ok true) => next d
  | _, _ => d

end Sys2Proof.Machine
end

