-- ==== Sys2Proof/Machine/Solver.lean ====
section
/-!
DEFINITION. The Solver Unit (chapter 12): zero-order hold, Newton–Schulz, Cholesky, the element stream and its fixed point, the
SOLVE command.
Choices: DEDUCED, notes/assumptions/25.md.
-/
namespace Sys2Proof.Machine

/-! ### Arithmetic (R315) -/

/-- FMA(−a, b, c). -/
def fnma64 (a b c : Nat) : Nat := to64 ((f64 c).add ((f64 a).mul (f64 b)).neg)

/-- An integer as binary64. -/
def int64 (n : Nat) : Nat := to64 (.fin false n 0)

def nan64 : Nat := fmt64.nanBits

/-- x × 2^n, rounded. -/
def scale64 (x : Nat) (n : Int) : Nat := to64 ((f64 x).scale n)

/-- A binary64 pattern that is NaN or infinite. -/
def nonFinite64 (x : Nat) : Bool := bits x 52 11 == 2047

/-- A matrix: its rows. -/
abbrev Mat := List (List Nat)

/-- The matrix with `c` columns whose elements stand in row-major order. -/
def matOf (c : Nat) (l : List Nat) : Mat := chunksOf c l

def matT (cols : Nat) (x : Mat) : Mat := (List.range cols).map fun j => x.map fun r => r.getD j 0

/-- X·Y for Y with `cols` columns: FMA in ascending order from +0 (R315). -/
def matMul (cols : Nat) (x y : Mat) : Mat :=
  let yt := matT cols y
  x.map fun r => yt.map fun c => (r.zip c).foldl (fun acc p => fma64 p.1 p.2 acc) 0

def matZip (f : Nat → Nat → Nat) (x y : Mat) : Mat := List.zipWith (List.zipWith f) x y

/-- A k × k matrix by its elements. -/
def matGen (k : Nat) (f : Nat → Nat → Nat) : Mat := (List.range k).map fun i => (List.range k).map fun j => f i j

def matAt (x : Mat) (i j : Nat) : Nat := (x.getD i []).getD j 0

/-- norm2: 32 partial sums, then pairs level by level (R322). -/
def norm2 (x : Mat) : Nat :=
  let rows := chunksOf 32 x.flatten
  let parts := (List.range 32).map fun i => rows.foldl (fun acc r => match r[i]? with
    | some z => fma64 z z acc
    | none => acc) 0
  ((List.range 5).foldl (fun l _ => pairUp add64 l) parts).headD 0

/-! ### Routine 0 (R321) -/

/-- Row of the largest |N_rj| among rows ≥ j, lowest on a tie. -/
def pivotRow (m : Mat) (j : Nat) : Nat :=
  let mag (r : Nat) : Nat := bits (matAt m r j) 0 63
  (rangeFrom (j + 1) m.length).foldl (fun b r => if (f64 (mag b)).lt (f64 (mag r)) then r else b) j

def swapRows (x : Mat) (i j : Nat) : Mat := (x.set i (x.getD j [])).set j (x.getD i [])

/-- LU column `j` on the pair of matrices. -/
def luColumn (nd : Mat × Mat) (j : Nat) : Mat × Mat :=
  let r := pivotRow nd.1 j
  let m := swapRows nd.1 j r
  let dm := swapRows nd.2 j r
  let pj := m.getD j []
  let dj := dm.getD j []
  let elim (i : Nat) (row drow : List Nat) : List Nat × List Nat :=
    if i ≤ j then (row, drow)
    else
      let f := div64 (row.getD j 0) (pj.getD j 0)
      (row.take (j + 1) ++ List.zipWith (fun p x => fnma64 f p x) (pj.drop (j + 1)) (row.drop (j + 1)),
       List.zipWith (fun p x => fnma64 f p x) dj drow)
  let l := (List.range m.length).map fun i => elim i (m.getD i []) (dm.getD i [])
  (l.map fun x => x.1, l.map fun x => x.2)

/-- Back substitution: rows from the last up; `xs` are the solved rows below. -/
def backSubst (nd : Mat × Mat) : Mat :=
  let k := nd.1.length
  (List.range k).foldl (fun xs q =>
    let i := k - 1 - q
    let nr := nd.1.getD i []
    let x0 := nd.2.getD i []
    let x := (nr.drop (i + 1)).zip xs |>.foldl (fun x p => List.zipWith (fun xt x => fnma64 p.1 xt x) p.2 x) x0
    (x.map fun v => div64 v (nr.getD i 0)) :: xs) []

/-- The discretisation of one problem: X = [[Ad, Bd], …] and nY. -/
def zohSolve (n p s dt : Nat) (a b : List Nat) : Mat × Nat :=
  let k := n + p
  let ra := matOf n a
  let rb := matOf p b
  let m : Mat := List.zipWith (· ++ ·) ra rb ++ List.replicate p (List.replicate k 0)
  let y := m.map fun r => r.map fun v => scale64 (mul64 v dt) (-(s : Int))
  let ny := sqrt64 (norm2 y)
  let c (i j : Nat) : Nat := div64 (int64 i) (int64 j)
  let y2 := matMul k y y
  let y4 := matMul k y2 y2
  let y6 := matMul k y4 y2
  let w := matGen k fun i j =>
    fma64 (c 1 15840) (matAt y4 i j) (fma64 (c 1 66) (matAt y2 i j) (if i = j then c 1 2 else 0))
  let u := matMul k y w
  let v := matGen k fun i j =>
    fma64 (c 1 665280) (matAt y6 i j) (fma64 (c 1 792) (matAt y4 i j) (fma64 (c 5 44) (matAt y2 i j) (if i = j then one64 else 0)))
  let nd := (List.range k).foldl luColumn (matZip sub64 v u, matZip add64 v u)
  let x := (List.range s).foldl (fun x _ => matMul k x x) (backSubst nd)
  (x, ny)

/-! ### Routine 1 (R322) -/

/-- X and the residual; none for X when the norm is zero or not finite. -/
def newtonSolve (n root iters eps : Nat) (g : List Nat) : Option Mat × Nat :=
  let g0 := matOf n g
  let g' := matGen n fun i j => if i = j then add64 (matAt g0 i j) eps else matAt g0 i j
  let c := sqrt64 (norm2 g')
  let x0 := if root = 1 then div64 one64 c else if root = 2 then div64 one64 (sqrt64 c) else div64 one64 (sqrt64 (sqrt64 c))
  let m0 := g'.map fun r => r.map fun v => div64 v c
  let sh : Int := if root = 1 then 0 else if root = 2 then -1 else -2
  let it (xm : Mat × Mat) : Mat × Mat :=
    let t := matGen n fun i j => scale64 (sub64 (if i = j then int64 (root + 1) else 0) (matAt xm.2 i j)) sh
    let t2 := matMul n t t
    (matMul n xm.1 t,
      if root = 1 then matMul n t xm.2 else if root = 2 then matMul n t2 xm.2 else matMul n (matMul n t2 t2) xm.2)
  let xm := (List.range iters).foldl (fun xm _ => it xm) (matGen n fun i j => if i = j then x0 else 0, m0)
  let res := sqrt64 (norm2 (matGen n fun i j => sub64 (matAt xm.2 i j) (if i = j then one64 else 0)))
  (if (f64 c).isZero || nonFinite64 c then none else some xm.1, res)

/-! ### Routine 2 (R323) -/

/-- Element (i, j), i ≥ j, of the lower triangle stored column after column. -/
def lowerAt (n : Nat) (a : List Nat) (i j : Nat) : Nat := a.getD (j * n - j * (j - 1) / 2 + (i - j)) 0

/-- d is no pivot: at most 0, or NaN. -/
def badPivot (x : Nat) : Bool := (f64 x).isNan || (f64 x).le (f64 0)

/-- One more row of L, and its d: `ls` are the rows before it, each of its own length. -/
def cholRow (n eps : Nat) (a : List Nat) (ls : Mat) (i : Nat) : List Nat × Nat :=
  let row := (List.range i).foldl (fun r j =>
    let lj := ls.getD j []
    let v := ((r.zip lj).take j).foldl (fun x p => fnma64 p.1 p.2 x) (lowerAt n a i j)
    r ++ [div64 v (lj.getD j 0)]) []
  let d := row.foldl (fun x l => fnma64 l l x) (add64 (lowerAt n a i i) eps)
  (row ++ [if badPivot d then nan64 else sqrt64 d], d)

/-- L, the solution, and the d of every column. -/
def cholSolve (n m eps : Nat) (s r : List Nat) : Mat × Mat × List Nat :=
  let (ls, ds) := (List.range n).foldl (fun (acc : Mat × List Nat) i =>
    let (row, d) := cholRow n eps s acc.1 i
    (acc.1 ++ [row], acc.2 ++ [d])) ([], [])
  let rs := matOf m r
  let ys := (List.range n).foldl (fun (ys : Mat) i =>
    let l := ls.getD i []
    let y := (l.zip ys).foldl (fun y p => List.zipWith (fun yt y => fnma64 p.1 yt y) p.2 y) (rs.getD i [])
    ys ++ [y.map fun v => div64 v (l.getD i 0)]) []
  let xs := (List.range n).foldl (fun (xs : Mat) q =>
    let i := n - 1 - q
    let below := (rangeFrom (i + 1) n).zip xs
    let x := below.reverse.foldl (fun x p => List.zipWith (fun xt x => fnma64 (matAt ls p.1 i) xt x) p.2 x) (ys.getD i [])
    (x.map fun v => div64 v (matAt ls i i)) :: xs) []
  (ls.map fun l => l ++ List.replicate (n - l.length) 0, if m = 0 then [] else xs, ds)

/-! ### Routine 3 (R316, R324) -/

/-- Saturate an integer to 64 bits: the raw value and the saturations counted. -/
def qSat (z : Int) : Nat × Nat :=
  if z < -(2 ^ 63) then (2 ^ 63, 1) else if 2 ^ 63 ≤ z then (2 ^ 63 - 1, 1) else (ofSigned 64 z, 0)

/-- z / 2^k to nearest, ties to even. -/
def qShr (z : Int) (k : Nat) : Int := if z < 0 then -(shrRne z.natAbs k : Int) else (shrRne z.natAbs k : Int)

/-- Fraction bits of A, B, C and the output. -/
structure QFrac where
  a : Nat
  b : Nat
  c : Nat
  o : Nat
  deriving DecidableEq, Repr

/-- One element of routine 3: the outputs and the saturations. Fixed-point operands are raw patterns. -/
def slvElement (op : Nat) (q : QFrac) (dt s : Nat) (a b c : Nat) : List Nat × Nat :=
  let ra := toSigned 64 a
  let rb := toSigned 64 b
  let rc := toSigned 64 c
  let sat (z : Int) : List Nat × Nat := ([(qSat z).1], (qSat z).2)
  match op with
  | 0 => ([div64 a b], 0)
  | 1 => ([sqrt64 a], 0)
  | 2 => ([div64 one64 (sqrt64 a)], 0)
  | 3 => ([fma64 a b c], 0)
  | 4 =>
    let (x, _) := zohSolve 1 1 s dt [a] [one64]
    ([matAt x 0 0, mul64 (matAt x 0 1) b], 0)
  | 5 => match f64 a with
    | .nan => ([0], 1)
    | .inf n => sat (if n then -(2 ^ 64) else 2 ^ 64)
    | .fin n m e => sat (Fl.toInt 0 n m (e + q.o))
  | 6 => ([to64 (.fin (decide (ra < 0)) ra.natAbs (-(q.a : Int)))], 0)
  | 7 => sat (ra + rb)
  | 8 => sat (ra - rb)
  | 9 => sat (qShr (ra * rb) (q.a + q.b - q.o))
  | _ => sat (qShr (ra * rb + rc * 2 ^ (q.a + q.b - q.c)) (q.a + q.b - q.o))

/-- R316's requirements on the fraction bits. -/
def qOpOk (op : Nat) (q : QFrac) : Bool :=
  match op with
  | 7 | 8 => q.a == q.b && q.b == q.o
  | 9 => decide (q.o ≤ q.a + q.b)
  | 10 => decide (q.c ≤ q.a + q.b) && decide (q.o ≤ q.a + q.b)
  | _ => true

/-! ### The block (R318–R320) -/

/-- A solver run: where, whose, and its block. -/
structure Slv where
  core    : Nat
  ctx     : Nat
  routine : Nat
  n       : Nat
  blk     : List Byte
  deriving DecidableEq, Repr

def Slv.inAddr (x : Slv) : Nat := fieldAt x.blk 0x00 8
def Slv.auxAddr (x : Slv) : Nat := fieldAt x.blk 0x08 8
def Slv.outAddr (x : Slv) : Nat := fieldAt x.blk 0x10 8
def Slv.out2Addr (x : Slv) : Nat := fieldAt x.blk 0x18 8
def Slv.workAddr (x : Slv) : Nat := fieldAt x.blk 0x20 8
def Slv.scalar (x : Slv) : Nat := fieldAt x.blk 0x28 8
def Slv.count (x : Slv) : Nat := fieldAt x.blk 0x30 4
def Slv.arg (x : Slv) : Nat := fieldAt x.blk 0x34 2
def Slv.iters (x : Slv) : Nat := fieldAt x.blk 0x36 1
def Slv.flags (x : Slv) : Nat := fieldAt x.blk 0x37 1
def Slv.frac (x : Slv) : QFrac := ⟨fieldAt x.blk 0x38 1, fieldAt x.blk 0x39 1, fieldAt x.blk 0x3A 1, fieldAt x.blk 0x3B 1⟩
def Slv.stepFirst (x : Slv) : Nat := fieldAt x.blk 0x38 4
def Slv.stepCount (x : Slv) : Nat := fieldAt x.blk 0x3C 4
def Slv.inSize (x : Slv) : Nat := if bitAt x.flags 0 then 4 else 8
def Slv.outFmt (x : Slv) : Nat := bits x.flags 1 2
def Slv.outSize (x : Slv) : Nat := if x.outFmt = 0 then 8 else if x.outFmt = 1 then 4 else 2

/-- A floating result in the output format (R315). -/
def Slv.outBytes (x : Slv) (v : Nat) : List Byte :=
  if x.outFmt = 0 then leBytes 8 v else if x.outFmt = 1 then leBytes 4 (to32 (f64 v)) else leBytes 2 ((f64 v).bits fmt16)

/-- Fixed-point inputs and outputs of an operation. -/
def qIn (op : Nat) : Bool := decide (6 ≤ op)
def qOut (op : Nat) : Bool := op == 5 || decide (7 ≤ op)
def usesB (op : Nat) : Bool := ([0, 3, 4, 7, 8, 9, 10] : List Nat).contains op
def usesC (op : Nat) : Bool := op == 3 || op == 10

/-- Order of the matrices of routine 0, else N. -/
def Slv.k (x : Slv) : Nat := if x.routine = 0 then x.n + x.arg else x.n

/-- Bytes of the scratch space (R319). -/
def Slv.scratchSize (x : Slv) : Nat :=
  match x.routine with
  | 0 => 80 * x.k * x.k + 8 * x.k
  | 1 => 64 * x.n * x.n
  | _ => 8 * x.n * x.n + 8 * x.n * x.arg

def Slv.scratch (x : Slv) : Nat := cdiv (x.workAddr + 32 * x.count) 128 * 128

def Slv.qSizeIn (x : Slv) : Nat := if qIn x.arg then 8 else x.inSize
def Slv.qSizeOut (x : Slv) : Nat := if qOut x.arg then 8 else x.outSize

/-- Input extents: (address, length). -/
def Slv.ins (x : Slv) : List (Nat × Nat) :=
  if x.routine = 3 then
    [(x.inAddr, x.count * x.qSizeIn)] ++ (if usesB x.arg then [(x.auxAddr, x.count * x.qSizeIn)] else [])
      ++ (if usesC x.arg then [(x.workAddr, x.count * x.qSizeIn)] else [])
  else
    [(x.inAddr, x.count * x.n * x.n * x.inSize)]
      ++ (if x.routine = 0 || (x.routine = 2 && x.arg ≠ 0) then [(x.auxAddr, x.count * x.n * x.arg * x.inSize)] else [])

/-- Output extents. -/
def Slv.outs (x : Slv) : List (Nat × Nat) :=
  if x.routine = 3 then
    [(x.outAddr, x.count * x.qSizeOut)] ++ (if x.arg = 4 then [(x.out2Addr, x.count * x.qSizeOut)] else [])
  else
    [(x.outAddr, x.count * x.n * x.n * x.outSize)]
      ++ (if x.routine = 0 || (x.routine = 2 && x.arg ≠ 0) then [(x.out2Addr, x.count * x.n * x.arg * x.outSize)] else [])

/-- The work area with its status records. -/
def Slv.work (x : Slv) : List (Nat × Nat) :=
  if x.routine = 3 then [] else [(x.workAddr, x.scratch + x.scratchSize - x.workAddr)]

/-! ### Steps (R326, R327) -/

/-- A step: its CCLK, and its divide and square-root results. -/
structure SlvStep where
  cclk : Nat
  divs : Nat
  deriving DecidableEq, Repr

def stepElem (k : Nat) : List SlvStep := [⟨8 + cdiv (k * k) 8, 0⟩]
def stepNorm (k : Nat) : List SlvStep := [⟨68 + cdiv (k * k) 8, 1⟩]
/-- Panels of up to 64 rows by 8 columns. -/
def stepProd (k : Nat) : List SlvStep :=
  (List.range (cdiv k 64)).flatMap fun r => List.replicate (cdiv k 8) ⟨8 + min 64 (k - 64 * r) * k, 0⟩
def stepDiv (k : Nat) : List SlvStep :=
  (List.range (cdiv k 64)).map fun r => ⟨28 + min 64 (k - 64 * r) * k, min 64 (k - 64 * r) * k⟩

/-- The steps of one problem. -/
def Slv.steps (x : Slv) : List SlvStep :=
  let k := x.k
  match x.routine with
  | 0 =>
    stepElem k ++ stepNorm k ++ stepProd k ++ stepProd k ++ stepProd k ++ stepElem k ++ stepProd k ++ stepElem k ++ stepElem k
      ++ (List.range k).map (fun j => ⟨64 + cdiv ((k - j - 1) * (2 * k - j - 1)) 8, k - j - 1⟩)
      ++ (List.range k).map (fun q => ⟨36 + cdiv k 8 * q, k⟩)
      ++ (List.range x.iters).flatMap (fun _ => stepProd k) ++ stepElem k
  | 1 =>
    let r := if x.arg = 4 then 3 else x.arg
    stepElem k ++ stepNorm k ++ [⟨96, r⟩] ++ stepDiv k ++ stepElem k
      ++ (List.range x.iters).flatMap (fun _ => stepElem k ++ (List.range (1 + r)).flatMap fun _ => stepProd k)
      ++ stepElem k ++ stepNorm k ++ stepElem k
  | _ =>
    let m := x.arg
    (List.range k).map (fun j => ⟨64 + cdiv (k - j) 8 * j, k - j⟩)
      ++ (List.range k).map (fun i => ⟨36 + cdiv m 8 * i, m⟩) ++ (List.range k).map (fun q => ⟨36 + cdiv m 8 * q, m⟩)

/-- Step CCLK of routine 3 over `c` elements (R324). -/
def Slv.cost3 (x : Slv) (c : Nat) : Nat :=
  match x.arg with
  | 0 | 1 => 36 + c
  | 2 => 36 + 2 * c
  | 4 => 36 + cdiv c 8 * (32 + 2 * x.iters)
  | _ => 36 + cdiv c 8

/-- Divide and square-root results of one element of routine 3. -/
def Slv.divs3 (x : Slv) : Nat :=
  match x.arg with
  | 0 | 1 => 1
  | 2 => 2
  | 4 => 6
  | _ => 0

/-- The first failure of the block (R320). -/
def Slv.refusal (x : Slv) : Option Fail :=
  let used := (x.ins ++ x.outs).map (fun e => e.1) ++ (if x.routine = 3 then [] else [x.workAddr])
  let al := used.all (fun a => a % 8 == 0) && x.inAddr % 128 == 0
    && ((x.routine == 3 && !usesC x.arg) || x.workAddr % 128 == 0)
  let q := x.frac
  let ranges : Bool := match x.routine with
    | 0 => decide (1 ≤ x.arg ∧ x.arg + x.n ≤ 256) && decide (x.iters ≤ 60)
    | 1 => ([1, 2, 4] : List Nat).contains x.arg && decide (1 ≤ x.iters ∧ x.iters ≤ 64)
    | 2 => decide (x.arg ≤ 256)
    | _ => decide (x.arg ≤ 10) && (x.arg != 4 || decide (x.iters ≤ 60)) && qOpOk x.arg q
        && decide (q.a ≤ 63 ∧ q.b ≤ 63 ∧ q.c ≤ 63 ∧ q.o ≤ 63)
  let cnt := decide (1 ≤ x.count) && decide (x.count ≤ (if x.routine = 3 then 16777216 else 4096)) && x.outFmt != 3
  let inside (e : Nat × Nat) : Bool := decide (spmBase x.core ≤ e.1 ∧ e.1 + e.2 ≤ spmBase x.core + spmSize)
  let exts := x.ins ++ x.outs ++ x.work
  let clash (a b : Nat × Nat) : Bool := overlap a.1 a.2 b.1 b.2
  let collide := x.outs.any (fun o => (x.ins ++ x.work).any (clash o))
    || (match x.outs with
      | [a, b] => clash a b
      | _ => false)
  if !al then some ⟨0x02, 0x0C01, 0⟩
  else if !cnt || !ranges then some ⟨0x02, 0x0C01, 0⟩
  else if x.routine != 3 && decide (x.count * x.steps.length ≤ x.stepFirst) then some ⟨0x02, 0x0C01, 0⟩
  else if !exts.all inside then some ⟨0x02, 0x0C03, 0⟩
  else if collide then some ⟨0x02, 0x0C02, 0⟩
  else none

/-! ### Running steps -/

/-- Read pieces in order and join them. -/
def Dev.coreReadAll (d : Dev) (core c : Nat) : List (Nat × Nat) → Dev × Except Fail (List Byte)
  | [] => (d, .ok [])
  | (a, n) :: l =>
    match d.coreRead core c a n with
    | ⟨d, .error f⟩ => (d, .error f)
    | ⟨d, .ok bs⟩ =>
      match d.coreReadAll core c l with
      | (d, .ok r) => (d, .ok (bs ++ r))
      | e => e

/-- Write pieces in order. -/
def Dev.coreWriteAll (d : Dev) (core c : Nat) : List (Nat × List Byte) → Put
  | [] => ⟨d, none⟩
  | (a, bs) :: l =>
    match d.coreWrite core c a bs with
    | ⟨d, none⟩ => d.coreWriteAll core c l
    | p => p

/-- Elements of a stream as binary64. -/
def floatsOf (size : Nat) (bs : List Byte) : List Nat :=
  (chunksOf size bs).map fun b => if size = 4 then to64 (f32 (leNat b)) else leNat b

/-- What steps [lo, hi) of problem `b` read of its inputs: extents of the first input and of the second. -/
def Slv.reads (x : Slv) (b lo hi : Nat) : List (Nat × Nat) × List (Nat × Nat) :=
  let sz := x.inSize
  let a0 := x.inAddr + b * x.n * x.n * sz
  let b0 := x.auxAddr + b * x.n * x.arg * sz
  match x.routine with
  | 0 => if lo = 0 then ([(a0, x.n * x.n * sz)], [(b0, x.n * x.arg * sz)]) else ([], [])
  | 1 => if lo = 0 then ([(a0, x.n * x.n * sz)], []) else ([], [])
  | _ =>
    ((rangeFrom lo (min hi x.n)).flatMap (fun j => (rangeFrom j x.n).map fun i => (a0 + (i * x.n + j) * sz, sz)),
     if x.arg = 0 then []
     else (rangeFrom (max lo x.n) (min hi (2 * x.n))).map fun s => (b0 + (s - x.n) * x.arg * sz, x.arg * sz))

/-- The outcome of one problem: outputs by extent, CODE, INDEX, METRIC; METRIC none where the spec gives no value. -/
structure SlvDone where
  out   : List Nat
  out2  : List Nat
  code  : Nat
  index : Nat
  metric : Option Nat
  deriving DecidableEq, Repr

/-- A written pattern is NaN or infinite. -/
def Slv.nonFinite (x : Slv) (v : Nat) : Bool :=
  let w := leNat (x.outBytes v)
  if x.outFmt = 0 then nonFinite64 w else if x.outFmt = 1 then bits w 23 8 == 255 else bits w 7 8 == 255

/-- One problem from its inputs (R321–R323, R325). A zero or non-finite norm reads ZERO_INPUT. -/
def Slv.solve (x : Slv) (a b : List Nat) : SlvDone :=
  let bad (l : List Nat) : Bool := l.any x.nonFinite
  match x.routine with
  | 0 =>
    let (m, ny) := zohSolve x.n x.arg x.iters x.scalar a b
    let top := m.take x.n
    let ad := (top.map fun r => r.take x.n).flatten
    let bd := (top.map fun r => r.drop x.n).flatten
    let half := div64 one64 (int64 2)
    ⟨ad, bd, if (f64 half).lt (f64 ny) then 2 else if bad (ad ++ bd) then 3 else 0, 0, some ny⟩
  | 1 =>
    match newtonSolve x.n x.arg x.iters x.scalar a with
    | (none, r) => ⟨List.replicate (x.n * x.n) nan64, [], 4, 0, some r⟩
    | (some m, r) => ⟨m.flatten, [], if bad m.flatten then 3 else 0, 0, some r⟩
  | _ =>
    let (l, xs, ds) := cholSolve x.n x.arg x.scalar a b
    let least (l : List Nat) : Nat := l.tail.foldl (fun m v => if (f64 v).lt (f64 m) then v else m) (l.headD 0)
    match ds.findIdx? badPivot with
    | some j =>
      let upto := ds.take (j + 1)
      ⟨l.flatten, xs.flatten, 1, j, if (f64 (ds.getD j 0)).isNan then none else some (least upto)⟩
    | none => ⟨l.flatten, xs.flatten, if bad (l.flatten ++ xs.flatten) then 3 else 0, 0, some (least ds)⟩

/-- Write a problem's outputs and its status record. `lost`: the work area no longer holds what its earlier steps left, so what
the step writes is not given (DESIGN CHOICE, notes/assumptions/21.md). -/
def Dev.slvPublish (d : Dev) (x : Slv) (b : Nat) (lost : Bool) (r : SlvDone) : Put :=
  let o1 := x.outAddr + b * x.n * x.n * x.outSize
  let o2 := x.out2Addr + b * x.n * x.arg * x.outSize
  let rec_ := x.workAddr + 32 * b
  if lost then
    let (n1, n2) := (x.n * x.n * x.outSize, if x.outs.length = 2 then x.n * x.arg * x.outSize else 0)
    match d.writeFree (byCore x.core) x.ctx o1 n1 with
    | ⟨d, some e⟩ => ⟨d, some e⟩
    | ⟨d, none⟩ =>
      match (if n2 = 0 then (⟨d, none⟩ : Put) else d.writeFree (byCore x.core) x.ctx o2 n2) with
      | ⟨d, some e⟩ => ⟨d, some e⟩
      | ⟨d, none⟩ => d.writeFree (byCore x.core) x.ctx rec_ 16
  else
    let bytes (l : List Nat) : List Byte := l.flatMap x.outBytes
    let m := r.metric.getD d.freeVal
    let d := if r.metric.isNone then d.freeNext else d
    match d.coreWriteAll x.core x.ctx [(o1, bytes r.out), (o2, bytes r.out2),
        (rec_, leBytes 2 r.code ++ leBytes 2 r.index ++ zeros 4 ++ leBytes 8 m ++ zeros 16)] with
    | ⟨d, some e⟩ => ⟨d, some e⟩
    | ⟨d, none⟩ =>
      let d := if r.code = 0 then d else d.inc (Reg.SLV_PROBLEMS.FLAGGED x.core)
      ⟨if r.code = 1 then d.inc (Reg.SLV_PROBLEMS.NOT_PD x.core) else d, none⟩

/-- Result of a run of steps: the failure that stopped it, the problems flagged, whether it saturated. -/
structure SlvRan where
  dev     : Dev
  err     : Option Fail
  flagged : Nat
  sat     : Bool

/-- Run steps [lo, hi) of problem `b` and what follows them, up to step `hi` of the batch; `w` is what earlier steps left. -/
def Dev.slvProblems (d : Dev) (x : Slv) (per : Nat) (hi : Nat) : (fuel : Nat) → (pos flagged : Nat) → Option SlvWork → SlvRan
  | 0, _, flagged, _ => ⟨d, none, flagged, false⟩
  | fuel + 1, pos, flagged, w =>
    if hi ≤ pos then ⟨d, none, flagged, false⟩
    else
      let b := pos / per
      let lo := pos % per
      let stop := min hi ((b + 1) * per)
      let w0 : SlvWork := if lo = 0 then ⟨0, x.blk, x.routine, x.n, pos, [], []⟩ else w.getD ⟨0, [], 0, 0, 0, [], []⟩
      let lost := lo != 0 && w.isNone
      let (ra, rb) := x.reads b lo (stop - b * per)
      match d.coreReadAll x.core x.ctx ra with
      | (d, .error e) => ⟨d, some e, flagged, false⟩
      | (d, .ok ba) =>
        match d.coreReadAll x.core x.ctx rb with
        | (d, .error e) => ⟨d, some e, flagged, false⟩
        | (d, .ok bb) =>
          let w1 := { w0 with a := w0.a ++ floatsOf x.inSize ba, b := w0.b ++ floatsOf x.inSize bb, next := stop }
          let ran := (x.steps.drop lo).take (stop - pos)
          let d := (d.inc (Reg.SLV_STEPS.COUNT x.core) ran.length).inc (Reg.SLV_DIVSQRT.COUNT x.core) (ran.map fun s => s.divs).sum
          let d := d.wr (Reg.SLV_STEP.STEP x.core) (stop - 1)
          if stop = (b + 1) * per then
            let r := x.solve w1.a w1.b
            match d.slvPublish x b lost r with
            | ⟨d, some e⟩ => ⟨d, some e, flagged, false⟩
            | ⟨d, none⟩ => d.slvProblems x per hi fuel stop (flagged + b2n (!lost && r.code != 0)) none
          else if lost then ⟨{ d with slv := kvDel x.scratch d.slv }, none, flagged, false⟩
          else
            let num := ((d.undef.find? fun u => u.base == x.scratch).map fun u => u.num).getD 0
            ⟨{ d with slv := kvPut x.scratch { w1 with num := num } d.slv }, none, flagged, false⟩

/-- The block with its step fields taken as 0. -/
def blkKey (blk : List Byte) : List Byte := blk.take 0x38 ++ zeros 8

/-- What earlier steps left in the work area, if they did and nothing has overwritten it. -/
def Dev.slvWork (d : Dev) (x : Slv) (first : Nat) : Option SlvWork :=
  match kvGet x.scratch d.slv with
  | some w =>
    let whole := d.undef.any fun u => u.base == x.scratch && u.len == x.scratchSize && u.num == w.num
    if whole && blkKey w.blk == blkKey x.blk && w.routine == x.routine && w.n == x.n && w.next == first then some w else none
  | none => none

/-- Routines 0–2: steps [first, last) of the batch. The work area is read where a problem goes on, and written. -/
def Dev.slvSteps (d : Dev) (x : Slv) (first last : Nat) : SlvRan :=
  let per := max 1 x.steps.length
  let w := d.slvWork x first
  let goesOn := first % per != 0
  let chk := if goesOn then d.windowCheck (byCore x.core) x.ctx false x.scratch x.scratchSize else ⟨d, none⟩
  match chk with
  | ⟨d, some e⟩ => ⟨d, some e, 0, false⟩
  | ⟨d, none⟩ =>
    let ue := if goesOn then d.ue.find? (touchesWord x.scratch x.scratchSize) else none
    match ue with
    | some u => ⟨d.meetUe 1 u (some x.ctx), some ⟨0x0E, d.ueDetail u, 0⟩, 0, false⟩
    | none =>
      match d.writeFree (byCore x.core) x.ctx x.scratch x.scratchSize with
      | ⟨d, some e⟩ => ⟨d, some e, 0, false⟩
      | ⟨d, none⟩ =>
        let d := { d with slv := kvDel x.scratch d.slv }
        d.slvProblems x per last (x.count + 1) first 0 w

/-- Routine 3 over elements [lo, lo + n) (R324). -/
def Dev.slvStream (d : Dev) (x : Slv) (lo n : Nat) : SlvRan :=
  let si := x.qSizeIn
  let so := x.qSizeOut
  let get (d : Dev) (use : Bool) (a : Nat) : Dev × Except Fail (List Nat) :=
    if !use then (d, .ok [])
    else
      match d.coreReadAll x.core x.ctx [(a + lo * si, n * si)] with
      | (d, .error e) => (d, .error e)
      | (d, .ok bs) => (d, .ok (floatsOf si bs))
  match get d true x.inAddr with
  | (d, .error e) => ⟨d, some e, 0, false⟩
  | (d, .ok as) =>
    match get d (usesB x.arg) x.auxAddr with
    | (d, .error e) => ⟨d, some e, 0, false⟩
    | (d, .ok bs) =>
      match get d (usesC x.arg) x.workAddr with
      | (d, .error e) => ⟨d, some e, 0, false⟩
      | (d, .ok cs) =>
        let rs := (List.range n).map fun i =>
          slvElement x.arg x.frac x.scalar x.iters (as.getD i 0) (bs.getD i 0) (cs.getD i 0)
        let sats := (rs.map fun r => r.2).sum
        let enc (v : Nat) : List Byte := if qOut x.arg then leBytes 8 v else x.outBytes v
        let o1 := rs.flatMap fun r => enc (r.1.getD 0 0)
        let o2 := if x.arg = 4 then rs.flatMap fun r => enc (r.1.getD 1 0) else []
        match d.coreWriteAll x.core x.ctx [(x.outAddr + lo * so, o1), (x.out2Addr + lo * so, o2)] with
        | ⟨d, some e⟩ => ⟨d, some e, 0, false⟩
        | ⟨d, none⟩ =>
          let d := (d.inc (Reg.SLV_QSAT.COUNT x.core) sats).inc (Reg.SLV_DIVSQRT.COUNT x.core) (n * x.divs3)
          ⟨d.wr (Reg.SLV_STEP.STEP x.core) (lo + n - 1), none, 0, sats != 0⟩

/-- The SLV takes up a run: its power, its block; a failed check is counted (R314, R320). `first`, `n`: steps, or elements. -/
def Dev.slvRun (d : Dev) (x : Slv) (first n : Nat) : SlvRan :=
  let d := (d.wr (Reg.SLV_STATUS.ROUTINE x.core) x.routine).wr (Reg.SLV_STATUS.CTX x.core) x.ctx
  match x.refusal with
  | some e => ⟨d.inc (Reg.SLV_ERR.CFG x.core), some e, 0, false⟩
  | none =>
    let r := if x.routine = 3 then d.slvStream x first n else d.slvSteps x first (first + n)
    match r.err, r.sat && bitAt x.flags 3 with
    | none, true => { r with err := some ⟨0x0E, 0x0C21, 0⟩ }
    | _, _ => r

/-! ### Descriptors -/

/-- A SOLVE descriptor of a routine (and, for routine 3, an operation): it runs the steps its block names. An operation that no
row names fails its check under any. -/
def Dev.slvDesc (d : Dev) (id routine : Nat) (op : Option Nat) : Dev :=
  match d.td? id with
  | none => d
  | some t =>
    let opOf := d.peekNat (t.f 0x18 8 + 0x34) 2
    let mine := t.f 0x20 1 == routine && (match op with
      | some o => opOf == o || decide (10 < opOf)
      | none => true)
    if !mine then d
    else
      d.onTd id [0x40] fun t d =>
        match d.unitBlocked [domSlv t.core] 0x0C10 with
        | some e => d.failTd id e
        | none =>
          match d.coreRead t.core t.ctx (t.f 0x18 8) 64 with
          | ⟨d, .error e⟩ => d.failTd id e
          | ⟨d, .ok blk⟩ =>
            let x : Slv := ⟨t.core, t.ctx, routine, t.f 0x22 2, blk⟩
            let total := x.count * x.steps.length
            let n := if routine = 3 then x.count
              else if x.stepCount = 0 then total - x.stepFirst else min x.stepCount (total - x.stepFirst)
            let r := d.slvRun x (if routine = 3 then 0 else x.stepFirst) n
            match r.err with
            | some e => r.dev.failTd id e
            | none => r.dev.finishTd id

/-- ZERO_ORDER_HOLD (R321). -/
def execZeroOrderHold (id : Nat) (s : State) : Out := s.run fun d => d.slvDesc id 0 none

/-- NEWTON_SCHULZ (R322). -/
def execNewtonSchulz (id : Nat) (s : State) : Out := s.run fun d => d.slvDesc id 1 none

/-- CHOLESKY (R323). -/
def execCholesky (id : Nat) (s : State) : Out := s.run fun d => d.slvDesc id 2 none

/-- SLV_DIV (R324). -/
def execSlvDiv (id : Nat) (s : State) : Out := s.run fun d => d.slvDesc id 3 (some 0)

/-- SLV_SQRT (R324). -/
def execSlvSqrt (id : Nat) (s : State) : Out := s.run fun d => d.slvDesc id 3 (some 1)

/-- SLV_RSQRT (R324). -/
def execSlvRsqrt (id : Nat) (s : State) : Out := s.run fun d => d.slvDesc id 3 (some 2)

/-- SLV_FMA (R324). -/
def execSlvFma (id : Nat) (s : State) : Out := s.run fun d => d.slvDesc id 3 (some 3)

/-- ZOH1 (R324). -/
def execZoh1 (id : Nat) (s : State) : Out := s.run fun d => d.slvDesc id 3 (some 4)

/-- Q_FROM_F64 (R316). -/
def execQFromF64 (id : Nat) (s : State) : Out := s.run fun d => d.slvDesc id 3 (some 5)

/-- Q_TO_F64 (R316). -/
def execQToF64 (id : Nat) (s : State) : Out := s.run fun d => d.slvDesc id 3 (some 6)

/-- QADD (R316). -/
def execQadd (id : Nat) (s : State) : Out := s.run fun d => d.slvDesc id 3 (some 7)

/-- QSUB (R316). -/
def execQsub (id : Nat) (s : State) : Out := s.run fun d => d.slvDesc id 3 (some 8)

/-- QMUL (R316). -/
def execQmul (id : Nat) (s : State) : Out := s.run fun d => d.slvDesc id 3 (some 9)

/-- QFMA (R316). -/
def execQfma (id : Nat) (s : State) : Out := s.run fun d => d.slvDesc id 3 (some 10)

/-! ### SOLVE (R328) -/

/-- Step CCLK of one stage. -/
def slvStageMax : Nat := 23984

/-- Steps per stage, in order: a stage opens when the next step would pass the limit. -/
def packSteps (l : List SlvStep) : List Nat :=
  let (done, n, _) := l.foldl (fun (acc : List Nat × Nat × Nat) s =>
    let (done, n, c) := acc
    if n ≠ 0 ∧ slvStageMax < c + s.cclk then (n :: done, 1, s.cclk) else (done, n + 1, c + s.cclk)) ([], 0, 0)
  (if n = 0 then done else n :: done).reverse

/-- Elements of one stage of routine 3: the most, a multiple of 8, whose cost stays within the limit. -/
def Slv.run3 (x : Slv) : Nat :=
  match x.arg with
  | 0 | 1 => (slvStageMax - 36) / 8 * 8
  | 2 => (slvStageMax - 36) / 2 / 8 * 8
  | 4 => (slvStageMax - 36) / (32 + 2 * x.iters) * 8
  | _ => (slvStageMax - 36) * 8

/-- The stages of a SOLVE: (first, number) of steps or elements. -/
def Slv.stages (x : Slv) : List (Nat × Nat) :=
  if x.routine = 3 then
    let r := max 8 x.run3
    (List.range (cdiv x.count r)).map fun i => (i * r, min r (x.count - i * r))
  else
    let ns := packSteps ((List.range x.count).flatMap fun _ => x.steps)
    (ns.foldl (fun (acc : List (Nat × Nat) × Nat) n => ((acc.2, n) :: acc.1, acc.2 + n)) ([], 0)).1.reverse

/-- The parameter checks of SOLVE (R328). -/
def solveParams (c : Cmd) : List PChk :=
  let a := c.par 0 8
  [paddr c 0, pchk (a % 64 != 0 || !(decide (spmBase (c.par 9 1 % 2) ≤ a ∧ a + 64 ≤ spmBase (c.par 9 1 % 2) + spmSize))) 0x0C04 0x00,
    pchk (decide (3 < c.par 8 1)) 0x0C04 0x08, pchk (decide (1 < c.par 9 1)) 0x0C04 0x09,
    pchk (!(decide (1 ≤ c.par 0x0A 2 ∧ c.par 0x0A 2 ≤ 256))) 0x0C04 0x0A]

/-- The address range of SOLVE. -/
def solveRanges (c : Cmd) : List (Bool × Nat × Nat) := [(false, c.par 0 8, 64)]

/-- SOLVE (R328): one stage for each command. The block is read at the first; its step fields are ignored. -/
def execSolve (slot : Nat) (s : State) : Out := s.run fun d => d.onRoutine slot 0x0304 fun c d =>
  let core := c.par 9 1 % 2
  match d.unitBlocked [domSlv core] 0x0C10 with
  | some e => d.failStaged slot e
  | none =>
    let got : Got := if c.total = 0 then d.coreRead core c.ctx (c.par 0 8) 64 else ⟨d, .ok (leBytes 64 (c.aux.headD 0))⟩
    match got with
    | ⟨d, .error e⟩ => d.failStaged slot e
    | ⟨d, .ok blk⟩ =>
      let r := c.par 8 1
      let blk := if r = 3 then blk else blkKey blk
      let x : Slv := ⟨core, c.ctx, r, c.par 0x0A 2, blk⟩
      match x.refusal with
      | some e => (d.inc (Reg.SLV_ERR.CFG core)).failStaged slot e
      | none =>
        let st := x.stages
        let d := if c.total = 0 then
            (d.assign slot [core]).updCmd slot fun c => { c with total := st.length, aux := [leNat blk] }
          else d
        let (f, n) := st.getD c.done (0, 0)
        let ran := d.slvRun x f n
        match ran.err with
        | some e => ran.dev.failStaged slot e
        | none =>
          let d := (ran.dev.pieceDone slot).updCmd slot fun c => { c with hits := c.hits + ran.flagged }
          match d.cmd? slot with
          | some c =>
            if c.done < c.total then d
            else if c.hits = 0 then d.okCmd slot c.progress
            else d.freeNext.endCmd slot 0x01 0x0C20 (d.freeVal % 2 ^ 32 + c.hits % 2 ^ 32 * 2 ^ 32)
          | none => d

end Sys2Proof.Machine
end

