-- ==== Sys2Proof/Machine/Checks.lean ====
section
/-!
DEFINITION. Steps 4, 7, 8 and 9 of CP0's check of a packet (05 R135): the privilege rule, the parameter fields and the address
ranges of every opcode.
-/
namespace Sys2Proof.Machine

/-- Step 4: a privileged opcode, or an ABORT of another context, from an unprivileged one (05 R111, R133). -/
def Dev.privilegeBad (d : Dev) (c : Cmd) (r : OpInfo) : Bool :=
  !d.on (Reg.CTX_CFG.PRIV c.ctx) && (r.priv || (c.opcode == 0x0102 && c.par 0 1 != c.ctx))

/-- The parameter checks of ABORT (05 R133). -/
def Dev.abortParams (d : Dev) (c : Cmd) : List PChk :=
  let q := c.par 2 2
  [pfield (decide (15 < c.par 0 1)) 0, pfield (decide (2 < c.par 1 1)) 1,
    pfield (c.par 1 1 != 0 && (decide (255 < q) || d.rd (Reg.QP_CFG.CTX q) != c.par 0 1)) 2]

/-- Steps 7 and 8: the parameter fields in their order. -/
def Dev.cmdParams (d : Dev) (c : Cmd) : List PChk :=
  match c.opcode with
  | 0x0102 => d.abortParams c
  | 0x0104 => d.ringParams c
  | 0x0105 => d.ringSetParams c
  | 0x0201 | 0x0202 | 0x0203 | 0x0204 | 0x0205 => memParams c
  | 0x0206 => d.reshardParams c
  | 0x0301 => d.execListParams c
  | 0x0302 => d.arrayRunParams c
  | 0x0303 => d.scanRunParams c
  | 0x0304 => solveParams c
  | 0x0305 => veRunParams c
  | 0x0401 | 0x0402 | 0x0403 | 0x0404 | 0x0405 | 0x0406 | 0x0407 | 0x0408 => innParams c
  | 0x0410 => d.sampleParams c
  | 0x0501 => d.ttParams c
  | 0x0502 => d.trainParams c
  | 0x0503 => d.optParams c
  | 0x0504 => ledgerParams c
  | 0x0505 => queryParams c
  | 0x0507 => d.scaleParams c
  | 0x0601 => d.routeParams c
  | 0x0602 => d.collParams c
  | 0x0603 => d.remoteParams c
  | 0x0604 => d.portCtlParams c
  | 0x0605 => [pfield (decide (1 < c.par 7 1)) 7]
  | 0x0701 => d.powPolicyParams c
  | 0x0702 => powDomainParams c
  | 0x0703 | 0x0704 => unitParams c
  | 0x0801 => arrayTestParams c
  | 0x0802 => d.memTestParams c
  | 0x0803 => d.loopParams c
  | 0x0804 => d.traceParams c
  | 0x0901 => d.waySetParams c
  | 0x0903 => wayRestoreParams c
  | 0x0A01 => sfuParams c
  | 0x0A02 => veLoadParams c
  | 0x0A03 => d.fwStageParams c
  | 0x0A04 => fwActivateParams c
  | 0x0A05 => d.bootCfgParams c
  | _ => []

/-- Step 9: the address ranges, (write, address, length), in their order. -/
def Dev.cmdRanges (d : Dev) (c : Cmd) : List (Bool × Nat × Nat) :=
  match c.opcode with
  | 0x0104 => ringRanges c
  | 0x0105 => ringSetRanges c
  | 0x0201 | 0x0202 | 0x0203 | 0x0204 | 0x0205 => memRanges c
  | 0x0206 => reshardRanges c
  | 0x0301 => listRanges c
  | 0x0302 => arrayRunRanges c
  | 0x0303 => scanRunRanges c
  | 0x0304 => solveRanges c
  | 0x0305 => veRunRanges c
  | 0x0401 | 0x0402 | 0x0403 | 0x0404 | 0x0405 | 0x0406 | 0x0407 | 0x0408 => d.innRanges c
  | 0x0410 => sampleRanges c
  | 0x0501 => ttLoadRanges c
  | 0x0502 => trainRanges c
  | 0x0503 => optRanges c
  | 0x0601 => routeRanges c
  | 0x0602 => d.collRanges c
  | 0x0603 => remoteRanges c
  | 0x0804 => traceRanges c
  | 0x0901 => waySetRanges c
  | 0x0A01 => sfuRanges c
  | 0x0A02 => veLoadRanges c
  | 0x0A03 => fwStageRanges c
  | 0x0A05 => bootCfgRanges c
  | _ => []

/-- Step 10 over a CORE field: 0 and 1 name a core, 2 leaves the choice to CP1, 3 names both. -/
def onCores (v : Nat) (f : Nat → Option Fail) : Option Fail :=
  match v with
  | 0 | 1 => f v
  | 2 => match f 0, f 1 with
    | some e, some _ => some e
    | _, _ => none
  | _ => (f 0).orElse fun _ => f 1

/-- Step 10: the units the command names are ON and not out of service; the stacks and scratchpad groups of its ranges too. -/
def Dev.cmdUnits (d : Dev) (c : Cmd) : Option Fail :=
  let one (dom : Nat → Nat) (detail core : Nat) : Option Fail := d.unitBlocked [dom core] detail
  let both (v : Nat) : Nat := if v < 2 then v else 3
  let unit := match c.opcode with
    | 0x0201 | 0x0202 | 0x0203 | 0x0204 | 0x0205 => onCores 2 (one domPorters 0x0D21)
    | 0x0302 => onCores (c.par 0x37 1) d.runRefusal
    | 0x0303 => onCores (c.par 0x49 1) fun core => d.scanRefusal core c.runScan.mode
    | 0x0304 => onCores (c.par 0x09 1) (one domSlv 0x0C10)
    | 0x0305 => onCores (both (c.par 0x0E 1)) (one domVe 0x0913)
    | 0x0503 => onCores (both (bits (c.par 0x0B 1) 2 2)) fun core =>
      (d.unitBlocked [domVe core] 0x0913).orElse fun _ => d.unitBlocked [domPorters core] 0x0D21
    | 0x0603 => onCores (c.par 0x1C 1) (one domPorters 0x0D21)
    | 0x0801 => onCores (both (c.par 0x00 1)) fun core => d.unitBlocked ((List.range 4).map (domQuad core)) 0x0811
    | 0x0804 => if c.par 0 1 % 2 = 1 then d.unitBlocked [domDebug] 0x1703 else none
    | 0x0A01 => onCores (both (c.par 0x09 1)) (one domSfu 0x0913)
    | 0x0A02 => onCores (both (c.par 0x0C 1)) (one domVe 0x0913)
    | _ => none
  unit.orElse fun _ => ((d.cmdRanges c).findSome? fun r => d.rangeNotReady r.2.1 r.2.2).map fun e => ⟨e.1, e.2, 0⟩

end Sys2Proof.Machine
end

