-- ==== Sys2Proof/Machine/HostLink.lean ====
section
/-!
DEFINITION. The PCIe link, power states, the hold and MSI-X signalling (chapter 04).
-/
namespace Sys2Proof.Machine

/-- A context with an enabled queue is DEADLINE (04 R98). -/
def Dev.deadlineQueue (d : Dev) : Bool :=
  (List.range 256).any fun q => d.rd (Reg.QP_STATUS.STATE q) != 0 && d.ctxClass (d.rd (Reg.QP_CFG.CTX q)) == 0

/-- PCIe configuration state at its reset values: Bus Master Enable, MSI-X Enable, Function Mask, power state, ASPM, BAR2 size
(04 R100, R101; 03 R73). -/
def Dev.pciConfigReset (d : Dev) : Dev :=
  { d with pci := { d.pci with
      busMaster := false, msixEnable := false, funcMask := false, d3hot := false, l1Enable := false, bar2Log2 := 30 } }

/-- Deliver held writes and pending messages if the host path is up (04 R97, R102). -/
def Dev.hostPathDeliver (d : Dev) : Dev := if d.pathUp then d.deliverHolds.sendPending else d

/-- Surprise down (04 R101, R104): configuration state resets, everything else stays; writes are held; HOST_PATH_LOST on the
management path. -/
def Dev.dlDown (d : Dev) : Dev :=
  if d.pci.link == .down then d
  else
    let d := d.pciConfigReset
    let d := { d with pci := { d.pci with
      link := .down, wasDown := true, downNs := d.timeNs
      hold := d.pci.hold.map fun (h : Held) => match h.kind with
        | .message _ => { h with vector := none }
        | _ => h } }
    let d := d.setReg Reg.HOST_LINK_STATUS.SPEED.reg 0
    let d := (d.wr Reg.MGT_STATUS.VDM_UP 0).alert Reg.MGT_ALERT_STATUS.HOST_PATH
    d.raise 0x0404 clsContained none 0 0 0 0 .only

/-- A command's running work fails: through a running descriptor if it has one, else the command itself. -/
def Dev.failRunning (d : Dev) (slot : Nat) (f : Fail) : Dev :=
  match d.cmd? slot with
  | none => d
  | some c =>
    if c.phase != .running || c.ofBatch then d
    else if c.opcode == 0x0410 then d.askStop slot f.major f.detail
    else
      match (d.cmdTds slot).find? fun t => t.started && !t.finished with
      | some t => d.failTd t.id f
      | none => d.endCmd slot f.major f.detail c.stopResult

/-- Drop the oldest held write (04 R104). -/
def Dev.dropHeld (d : Dev) : Dev :=
  match d.pci.hold with
  | [] => d
  | h :: rest =>
    let d := { d with pci := { d.pci with hold := rest, dropped := d.pci.dropped + 1 } }
    let d := d.inc Reg.HOST_HOLD_DROPS.COUNT
    match h.kind with
    | .event =>
      if bitAt (fieldAt h.data 3 1) 3 then d else d.loseEvent (fieldAt h.data 4 4)
    | .result cls guest step seq =>
      if d.pci.lostResults.length < 4096 then
        { d with pci := { d.pci with lostResults := d.pci.lostResults ++ [(cls, guest, step, seq)] } }
      else d.occur clsDropped
    | _ => d.occur clsDropped

/-- LINK_UP (R90): training ends and the link becomes DL_Active; LINK_DEGRADED once per link-up below 64.0 GT/s x16. -/
def execLinkUp (speed width : Nat) (flit : Bool) (s : State) : Out := s.run fun d =>
  if d.board.hclkHeld || d.board.tripped || d.pci.link == .active then d
  else
    let first := d.pci.link == .down
    let below := decide (speed < 6) || decide (width < 16)
    let d := { d with pci := { d.pci with link := .active } }
    let d := d.setReg Reg.HOST_LINK_STATUS.SPEED.reg
      (speed + width * 2 ^ 4 + b2n flit * 2 ^ 9 + 2 ^ 10 + b2n below * 2 ^ 11)
    let d := d.wr Reg.MGT_STATUS.VDM_UP 1
    let d := if below && first then d.raise 0x0401 clsInfo none speed width 0 0 else d
    d.hostPathDeliver

/-- LINK_RECOVERY (R102): the link enters Recovery; writes go to the hold buffer. -/
def execLinkRecovery (s : State) : Out := s.run fun d =>
  if d.pci.link == .active then { d with pci := { d.pci with link := .recovery } } else d

/-- DL_DOWN (R101). -/
def execDlDown (s : State) : Out := s.run Dev.dlDown

/-- BUS_MASTER_ENABLE (R102): the host's configuration writes that end with Bus Master Enable set; MSI-X Enable, Function Mask
and ASPM L1 enable take the values it wrote. Held writes are delivered in order, pending messages may signal. -/
def execBusMasterEnable (msix fmask l1 : Bool) (s : State) : Out := s.run fun d =>
  if d.pci.link == .down || d.board.tripped then d
  else
    ({ d with pci := { d.pci with busMaster := true, msixEnable := msix, funcMask := fmask, l1Enable := l1 } } : Dev).hostPathDeliver

/-- D3HOT_ENTRY (R99): writes are held, host reads fail, CP0 stops fetching. -/
def execD3hotEntry (s : State) : Out := s.run fun d =>
  if d.pci.link == .down then d else { d with pci := { d.pci with d3hot := true } }

/-- D0_ENTRY (R99): every register and byte kept; held writes go out when Bus Master Enable is set. -/
def execD0Entry (s : State) : Out := s.run fun d =>
  if d.pci.d3hot then ({ d with pci := { d.pci with d3hot := false } } : Dev).hostPathDeliver else d

/-- ASPM_L1_REQUEST (R98): 20 µs without traffic, DMA or a held write, and no DEADLINE context with an enabled queue. -/
def execAspmL1Request (s : State) : Out := s.run fun d =>
  if d.pci.l1Enable && d.pci.link == .active && d.pci.hold.isEmpty && !d.deadlineQueue
      && d.cp0.cmds.all (fun c => c.phase != .fetching) then
    (d.wr Reg.HOST_LINK_STATUS.IN_L1 1).emit .requestL1
  else d

/-- ASPM_L1_EXIT (R98): IN_L1 clears. -/
def execAspmL1Exit (s : State) : Out := s.run fun d => d.wr Reg.HOST_LINK_STATUS.IN_L1 0

/-- HELD_WRITE_EXPIRY (R104): the oldest held write expires before the host path returns; it is dropped and counted. Both
entries of a two-entry event go together. -/
def execHeldWriteExpiry (s : State) : Out := s.run fun d =>
  if d.pci.wasDown && !d.pathUp then
    match d.pci.hold with
    | h :: _ => if h.kind == .event && bitAt (fieldAt h.data 3 1) 2 then d.dropHeld.dropHeld else d.dropHeld
    | [] => d
  else d

/-- HOST_PATH_RETURN (R104): RESULT_WRITE_LOST for each kept result in step order, then HOST_PATH_RESTORED with the number of
writes dropped. -/
def execHostPathReturn (s : State) : Out := s.run fun d =>
  if d.pathUp && d.pci.wasDown then
    let d := d.deliverHolds
    let d := d.forEach (sortBy (fun a b => decide (a.2.2.1 ≤ b.2.2.1)) d.pci.lostResults) fun (cls, guest, step, seq) d =>
      d.raise 0x0402 clsDropped none cls guest step seq
    let d := d.raise 0x0403 clsInfo none 0 0 d.pci.dropped 0 .yes
    ({ d with pci := { d.pci with wasDown := false, dropped := 0, lostResults := [] } } : Dev).sendPending
  else d

/-- MSIX_HOLDOFF_EXPIRY (R96): the holdoff of a vector with unsignalled entries ends. -/
def execMsixHoldoffExpiry (vector : Nat) (s : State) : Out := s.run fun d =>
  if (kvGet vector d.pci.unsignalled).isSome then d.messageDue vector else d

/-- MSIX_UNMASK (R97): the vector's mask bit clears; a pending bit sends one message. -/
def execMsixUnmask (vector : Nat) (s : State) : Out := s.run fun d =>
  if d.board.tripped then d else (d.wr (Reg.MSIX_CTL.MASK vector) 0).sendPending

/-- HOST_READ_TIMEOUT (R105): the issuing command fails with DATA_ERROR, HOST_READ_TIMEOUT. -/
def execHostReadTimeout (slot : Nat) (s : State) : Out := s.run fun d => d.failRunning slot ⟨0x0E, 0x0401, 0⟩

/-- HOST_READ_ERROR (R105): poisoned data, or UR or CA. -/
def execHostReadError (slot : Nat) (poisoned : Bool) (s : State) : Out := s.run fun d =>
  d.failRunning slot ⟨0x0E, if poisoned then 0x0402 else 0x0403, 0⟩

/-- POISONED_WRITE_RECEIVED (R105): discarded and reported through AER. -/
def execPoisonedWriteReceived (_bar _off : Nat) (s : State) : Out := s.run fun d => (d.occur clsDropped).emit (.aer 1)

/-- BAR2_RESIZE (03 R73): HOST_BAR2_BASE is kept; sizes are 2^30 to 2^39 bytes (R67). -/
def execBar2Resize (log2 : Nat) (s : State) : Out := s.run fun d =>
  if 30 ≤ log2 ∧ log2 ≤ 39 ∧ d.pci.link ≠ .down then { d with pci := { d.pci with bar2Log2 := log2 } } else d

end Sys2Proof.Machine
end

