-- ==== Sys2Proof/Machine/Clocks.lean ====
section
/-!
DEFINITION. Rails, thermal trip, reference clocks and clock measurement (chapter 02).
-/
namespace Sys2Proof.Machine

/-- Every fitted stack enters self-refresh (02 R41, R51). -/
def Dev.stacksSelfRefresh (d : Dev) : Dev :=
  let d := { d with board := { d.board with selfRefresh := List.range d.stacks } }
  d.forEach (List.range d.stacks) fun k d => d.wr (Reg.MEM_STATUS.SELF_REFRESH k) 1

/-- RAIL_OUT_OF_RANGE (R41): outside tolerance for 10 µs; both CCLKs drop to 0.50 GHz, ALERT_N, the event. -/
def execRailOutOfRange (rail mv : Nat) (s : State) : Out := s.run fun d =>
  let d := { d with board := { d.board with railsOut := if d.board.railsOut.contains rail then d.board.railsOut else rail :: d.board.railsOut } }
  let d := d.governAll
  (d.alert Reg.MGT_ALERT_STATUS.RAIL).raise 0x0201 clsContained none rail 0 mv 0 .yes

/-- RAIL_HOLD (R41): still outside after 1 ms; stacks in self-refresh, core, network, CP and HBM domains held; DEVICE_HELD. -/
def execRailHold (rail : Nat) (s : State) : Out := s.run fun d =>
  if d.board.railsOut.contains rail && !d.board.domHeld then
    let d := d.stacksSelfRefresh
    ({ d with board := { d.board with domHeld := true } } : Dev).deviceHeld 1
  else d

/-- THERM_TRIP (R43; 22 R588): every clock but SCLK stops, THERM_TRIP_N is asserted until COLD reset; no event. The spec gives
the fatal record of a trip no code: it is free. -/
def execThermTrip (s : State) : Out := s.run fun d =>
  if d.board.tripped then d
  else
    let d := { d with board := { d.board with tripped := true, tripLow := true } }
    let v := d.freeVal
    ((d.occur clsFatal).fatal (bits v 0 16) (bits v 16 8) (bits v 24 32)).freeNext

/-- The LOST bit, the OK bit and the loss counter of a reference: 0 core, 1 PCIe, 2 fabric (R55, R59). -/
def refLost (r : Nat) : Fld := ⟨Reg.CLK_REF_STATUS.CORE_LOST.reg, 8 + r, 1⟩
def refOk (r : Nat) : Fld := ⟨Reg.CLK_REF_STATUS.CORE_OK.reg, r, 1⟩
def refCount (r : Nat) : Fld := ⟨Reg.CLK_REF_LOSS_COUNT.CORE.reg, 8 * r, 8⟩

/-- CLK_REF_LOST (R50, R51): LOST bit, count, ALERT_N, the event on the management path and, while the PCIe link is up, in the
ring; then what each reference's loss does. -/
def execClkRefLost (ref : Nat) (s : State) : Out := s.run fun d =>
  if d.board.refMissing.contains ref then d
  else
    let linkUp := d.pci.link != .down
    let d := { d with board := { d.board with refMissing := ref :: d.board.refMissing } }
    let d := ((d.wr (refOk ref) 0).wr (refLost ref) 1).inc (refCount ref)
    let d := d.alert Reg.MGT_ALERT_STATUS.REFCLK
    let seq := d.rd Reg.ERR_EVT_SEQ.SEQ
    let cls := if ref = 0 then clsFatal else clsContained
    let d := d.raise 0x0202 cls none ref 0 (d.rd (refCount ref)) 0 (if linkUp then .yes else .only)
    if ref = 0 then ((d.wr Reg.CLK_REF_STATUS.ON_OSC 1).stacksSelfRefresh).fatal 0x0202 ref seq
    else if ref = 1 then ({ d with board := { d.board with hclkHeld := true } } : Dev).dlDown
    else ({ d with board := { d.board with fclkHeld := true } } : Dev).allPortsDown

/-- REF_CORE_DOMAINS_HELD (R51): after self-refresh entry CCLK, NCLK, XCLK and MCLK are gated and held; DEVICE_HELD. -/
def execRefCoreDomainsHeld (s : State) : Out := s.run fun d =>
  if d.board.refMissing.contains 0 && !d.board.domHeld then
    ({ d with board := { d.board with domHeld := true } } : Dev).deviceHeld 0
  else d

/-- CLK_REF_OK (R52): inside the window for 1 ms; a PCIe or fabric domain restarts, the core domains stay held. -/
def execClkRefOk (ref : Nat) (s : State) : Out := s.run fun d =>
  if d.board.refMissing.contains ref then
    let d := { d with board := { d.board with refMissing := d.board.refMissing.filter fun r => r != ref } }
    let d := d.wr (refOk ref) 1
    if ref = 0 then d.wr Reg.CLK_REF_STATUS.ON_OSC 0
    else if ref = 1 then { d with board := { d.board with hclkHeld := false } }
    else { d with board := { d.board with fclkHeld := false } }
  else d

/-- CCLK_TARGET_REACHED (R48, R57): the PLL reaches the newest target; a voltage that is no longer needed is lowered (19 R516). -/
def execCclkTargetReached (core : Nat) (s : State) : Out := s.run fun d =>
  if d.coreClocks then
    ((d.wr (Reg.CLK_CCLK.CUR_MHZ core) (d.rd (Reg.CLK_CCLK.TGT_MHZ core))).wr (Reg.CLK_CCLK.SLEWING core) 0).avsEval
  else d

/-- Write CLK_MEAS_CTL: SEL and WINDOW are stored; START written 1 while it reads 0 starts a measurement (R58). -/
def Dev.measWrite (d : Dev) (v : Nat) : Dev :=
  let sel := bits v 0 5
  let win := bits v 8 8
  let d := (d.wr Reg.CLK_MEAS_CTL.SEL sel).wr Reg.CLK_MEAS_CTL.WINDOW win
  if bitAt v 31 && !d.on Reg.CLK_MEAS_CTL.START then
    { d.wr Reg.CLK_MEAS_CTL.START 1 with board := { d.board with measSel := sel, measWindow := max win 1 } }
  else d

/-- CLK_MEAS_START (R58). -/
def execClkMeasStart (value : Word) (s : State) : Out := s.run fun d =>
  if d.board.tripped then d else d.measWrite value.toNat

/-- A measurable clock: not reserved, not of an absent die or stack (R58). -/
def Dev.measurable (d : Dev) (sel : Nat) : Bool :=
  decide (sel ≤ 6) || (decide (8 ≤ sel) && decide (sel < 8 + d.ioDies)) || (decide (16 ≤ sel) && decide (sel < 16 + d.stacks))

/-- CLK_MEAS_DONE (R58): `count` edges were seen in the window; ERR and 0 where the clock cannot be measured. -/
def execClkMeasDone (count : Nat) (s : State) : Out := s.run fun d =>
  if d.on Reg.CLK_MEAS_CTL.START then
    let err := !d.measurable d.board.measSel || d.on Reg.CLK_REF_STATUS.ON_OSC
    let d := (d.wr Reg.CLK_MEAS_CTL.ERR (b2n err)).wr Reg.CLK_MEAS_RESULT.COUNT (if err then 0 else count)
    d.wr Reg.CLK_MEAS_CTL.START 0
  else d

end Sys2Proof.Machine
end

