-- ==== Sys2Proof/Machine/Reset.lean ====
section
/-!
DEFINITION. The five resets (20 R526–R534, R546): what each starts, stops, keeps and frees, and how they end.
-/
namespace Sys2Proof.Machine

/-! ### A command is over -/

/-- What an ended command still holds is given up: waits, descriptors, porters, its tab, its binds, collectives, scans, rooms, its
transfer, its place in training, serving and the governors (05 R138; 06 R149, R170; 07 R198; 11 R307; 14 R372; 15 R418). -/
def Dev.cmdCleanup (d : Dev) (c : Cmd) (mj dt : Nat) : Dev :=
  let ok := decide (mj ≤ 1)
  let d := (d.dropWaits (d.waitOf c.slot)).dropTds c.slot
  let d := { d with porters := d.porters.filter fun p => p.2.cmd != c.slot }
  let d := d.tabRelease c ok
  let d := d.forEach (d.so.binds.filter fun b => b.cmd == c.slot) fun b d => d.endBind b true c.ctx
  let d := ((d.sfuGiveUp c).scanClose c ok).collDrop c.slot
  let d := if c.opcode = 0x0303 ∧ dt = 0x1401 then d.unbindCarry c.runScan.table else d
  let d := (((d.innEndCmd c.slot).trainEndCmd c.slot).wayEndCmd c.slot).ledEndCmd c mj
  let d := (d.reshardEndCmd c.slot).srvWake
  { d with
    seq := { d.seq with snapshots := d.seq.snapshots.filter fun s => s != c.slot }
    pwr := { d.pwr with waiting := d.pwr.waiting.filter (fun x => x.1 != c.slot), policy := d.pwr.policy.filter fun x => x.1 != c.slot } }

/-- Remove a command's record. -/
def Dev.cmdRemove (d : Dev) (slot : Nat) : Dev := { d with cp0 := { d.cp0 with cmds := d.cp0.cmds.filter fun c => c.slot != slot } }

/-- A command ends with no completion (R530): all that it holds is given up. -/
def Dev.cmdGone (d : Dev) (slot : Nat) : Dev :=
  match d.cmd? slot with
  | some c =>
    let f := c.fin.getD ⟨0x06, 0x0542, 0⟩
    let c := { c with fin := some f, phase := .ended }
    let d := d.updCmd slot fun _ => c
    let d := { d with fab := { d.fab with txns := d.fab.txns.filter fun t => t.who != TxnWho.cmd slot && t.who != TxnWho.bind slot } }
    (d.cmdCleanup c f.major f.detail).cmdRemove slot
  | none => d

/-- Forget a batch that will write no more results: the hold-buffer units it reserved are free (04 R103). -/
def Dev.dropBatch (d : Dev) (b : Batch) : Dev :=
  let d := if (d.cmd? b.tag).isSome then d.cmdGone b.tag else d
  { d with
    srv := { d.srv with batches := d.srv.batches.filter fun x => x.tag != b.tag }
    pci := { d.pci with reserved := d.pci.reserved - (b.resv.drop b.pos).sum } }

/-! ### Work that is stopped at once (R529, R531) -/

/-- The destination bytes of the present porter descriptor. -/
def Dev.porterExtents (d : Dev) (r : PorterRun) : List (Nat × Nat) :=
  let x := d.porterDesc r
  if pdOp x = 5 then [] else (pdRanges x).filterMap fun (w, a, n) => if w then some (a, n) else none

/-- The bytes that the present stage or chunk of a command writes (R529, R531; DESIGN CHOICE, notes/assumptions/32.md). -/
def Dev.pieceExtents (d : Dev) (c : Cmd) : List (Nat × Nat) :=
  let spm := c.cores.filterMap fun k => (d.spmWin c.ctx k).map fun (lo, hi) => (lo, hi - lo)
  let prt := (d.porters.filter fun p => p.2.cmd == c.slot).flatMap fun p => d.porterExtents p.2
  let own : List (Nat × Nat) := match c.opcode with
    | 0x0201 | 0x0202 | 0x0203 | 0x0204 =>
      let o := c.done * d.memChunk
      (memPieces c o (min d.memChunk (memBytes c - o))).map fun (a, _, n) => (a, n)
    | 0x0302 =>
      let x := c.runShape
      let cols := max 1 (d.rd (Reg.ARR_COLS.COLS (c.cores.headD 0)))
      let rs := runRows x.k
      let tiles := cdiv x.n cols
      let m0 := c.done / tiles * rs
      let n0 := c.done % tiles * cols
      (List.range (min rs (x.m - m0))).map fun r => (x.c + (m0 + r) * x.cStride + x.size * n0, x.size * min cols (x.n - n0))
    | 0x0303 =>
      let x := c.runScan
      match d.scan? c.slot with
      | some r => r.shares.flatMap fun s => (x.chunkSteps (s.pos - (r.own x).first)).map fun t => (x.h + t * x.hS, x.hRow)
      | none => []
    | 0x0602 => (d.collRanges c).filterMap fun (w, a, n) => if w then some (a, n) else none
    | 0x0603 =>
      let o := c.done * d.memChunk
      if c.par 0x1B 1 = 0 then [] else [(c.par 8 8 + o, min d.memChunk (c.par 0x10 8 - o))]
    | 0x0502 | 0x0503 | 0x0904 =>
      match d.run? c.slot with
      | some r =>
        let b (k b0 b1 : Nat) : Nat := if k = 0 then b1 else b0
        let ms := momSize r.f32
        let cur := d.ledRec.cur
        (((r.chunks 0).drop r.optDone.1).take 1 ++ ((r.chunks 1).drop r.optDone.2).take 1).flatMap fun (x, lo, n) =>
          [(b cur x.w0 x.w1 + 2 * lo, 2 * n), (b cur x.m0 x.m1 + ms * lo, ms * n)]
            ++ if r.adam then [(b cur x.v0 x.v1 + ms * lo, ms * n)] else []
      | none => []
    | _ => []
  spm ++ prt ++ own

/-- A running command is stopped at once: those bytes are unspecified. -/
def Dev.loseBytes (d : Dev) (c : Cmd) : Dev :=
  if c.phase != .running || c.parked then d
  else d.forEach (d.pieceExtents c) fun (a, n) d => match d.region a with
    | .hbm | .spm _ => d.scribble a n
    | _ => d

/-- Held writes are discarded: events among them are lost (R529; 04 R100; 22 R582). -/
def Dev.holdDiscard (d : Dev) : Dev :=
  let l := d.pci.hold
  let d := { d with pci := { d.pci with hold := [], lostResults := [], dropped := 0 } }
  d.forEach l fun h d => if h.kind == .event && !bitAt (fieldAt h.data 3 1) 3 then d.loseEvent (fieldAt h.data 4 4) else d

/-! ### COLD (R526, R528) -/

/-- Domains of stacks and I/O dies that the assembly lacks are ABSENT (19 R500); the fused values stand in their registers. -/
def Dev.loadFuses (d : Dev) : Dev :=
  let d := d.setReg Reg.CTL_ASSEMBLY.CODE.reg d.board.assembly
  let d := (d.wr Reg.RST_FW.SVN_FUSE d.board.svnFuse).wr Reg.DBG_STATUS.DISABLED (b2n d.board.debugDisable)
  let d := d.wr Reg.MGT_STATUS.SMB_ADDR (0x64 + d.board.strap % 4)
  let d := d.forEach (rangeFrom d.ports 32) fun p d => d.wr (Reg.MGT_UNIT.STATE (64 + p)) 3
  d.forEach (List.range 64) fun p d =>
    let absent := (decide (30 ≤ p ∧ p < 42) && decide (d.stacks ≤ p - 30)) || (decide (46 ≤ p ∧ p < 58) && decide (d.ioDies ≤ (p - 46) / 3))
    let d := if absent then d.wr (Reg.MGT_UNIT.STATE p) 3 else d
    d.wr (Reg.PWR_DOM.STATE p) (if absent then stAbsent else stOn)

/-- The reference status after a reset: what is missing is not OK (02 R40, R59). -/
def Dev.loadRefs (d : Dev) : Dev :=
  let d := d.forEach d.board.refMissing fun r d => (d.wr (refOk r) 0).wr (refLost r) 1
  let miss (r : Nat) : Bool := d.board.refMissing.contains r
  let d := d.wr Reg.CLK_REF_STATUS.ON_OSC (b2n (miss 0))
  { d with board := { d.board with hclkHeld := miss 1, fclkHeld := miss 2 } }

/-- Begin a COLD reset: everything is at its reset value but the board, the fuses and the SPI NOR; the host keeps its memory. -/
def Dev.coldReset (d : Dev) (cause : Nat) : Dev :=
  let board := { board0 with
    assembly := d.board.assembly, serial := d.board.serial, strap := d.board.strap, svnFuse := d.board.svnFuse
    keysRevoked := d.board.keysRevoked, debugDisable := d.board.debugDisable, pwrgd := true, refMissing := d.board.refMissing
    coldHeld := false }
  let boot := { boot0 with
    running := some .cold, cause := cause, selA := d.boot.selA, selB := d.boot.selB, cfgA := d.boot.cfgA, cfgB := d.boot.cfgB
    slotA := d.boot.slotA, slotB := d.boot.slotB, fellBack := d.boot.fellBack }
  let n : Dev := { devReset with hostMem := d.hostMem, out := d.out, free := d.free, board := board, boot := boot }
  let n := { n with dbg := { n.dbg with tapInstr := d.dbg.tapInstr, pinsTaken := d.dbg.pinsTaken } }
  let n := n.loadFuses.loadRefs
  let n := (n.wr Reg.PWR_LIMIT.WATTS (n.rd Reg.CTL_ASSEMBLY.BOARD_W)).wr Reg.MEM_RESV_BASE.BASE (36 * n.stacks)
  (n.wr Reg.RST_CAUSE.CAUSE cause).sensorEvent 0x0200 1

/-! ### WARM (R528, R529) -/

/-- Registers that keep their contents at WARM: of the stacks, the counters and the poison log; of the Inn, all but the counters; the
layout, the assembly, the power policy, what PD00 and the PCIe core keep (R528; 02 R59; 14 R386; 21 R570; 22 R590). -/
def warmKeeps (off : Nat) : Bool :=
  let mem := off % 0x10000
  off == 0x10 || off == 0x100030 || off == 0x201000 || off == 0x201004 || decide (0x201010 ≤ off ∧ off < 0x201100)
    || off == 0x30000C || off == 0x300014 || off == 0x5F0020
    || (decide (0x1000000 ≤ off ∧ off < 0x10C0000) && (([0x08, 0x10, 0x18, 0x20, 0x30, 0x38] : List Nat).contains mem || decide (0x100 ≤ mem)))
    || off == 0x10C0000 || off == 0x10C0008
    || (decide (0x1800000 ≤ off ∧ off < 0x1800300) && !decide (0x1800020 ≤ off ∧ off ≤ 0x1800048) && off != 0x1800050 && off != 0x1800054)
    || off == 0x2000000 || (decide (0x2B00100 ≤ off ∧ off < 0x2B00300) && off % 32 == 0x10)
    || off == 0x2C00000 || off == 0x2C00010 || off == 0x3000018 || off == 0x300001C || off == 0x3000048
    || off == 0x3400000 || off == 0x3400004

/-- The record of a step that has no outcome reads READY again; staged images of it are discarded (R528; 17 R464). -/
def Dev.ledTidy (d : Dev) : Dev :=
  let st := d.ledRec.state
  let d := { d.innDiscard with led := { d.led with failed := false, ballot := none } }
  if st = lsOpen ∨ st = lsVoting then d.ledWrite fun r => { r with state := lsReady } else d.ledShow

/-- Begin a WARM reset. -/
def Dev.warmReset (d : Dev) (cause : Nat) : Dev :=
  let d := (d.forEach d.cp0.cmds fun c d => d.loseBytes c).holdDiscard
  let d := d.forEach d.srv.reshards fun r d => d.endMarks r.marks
  let trans := (List.range 64).map fun p => (p, d.rd (Reg.PWR_DOM.TRANSITIONS p))
  let last := d.rd Reg.DBG_TRACE_WR.INDEX

  let ports := d.fab.ports.map fun (p, x) => (p, { port0 with maxGen := x.maxGen, c2m := x.c2m, eqSaved := x.eqSaved })
  let d := d.innUnlockAll
  let n : Dev := { devReset with
    regs := d.regs.filter fun x => warmKeeps x.1
    mem := d.mem, hostMem := d.hostMem, ue := d.ue, ce := d.ce, undef := d.undef, out := d.out, free := d.free, timeNs := d.timeNs
    board := { d.board with coldHeld := false, domHeld := false, bootFailed := false, measSel := 0, measWindow := 1 }
    boot := { d.boot with running := some .warm, cause := cause, startNs := d.timeNs, flr := false, actPending := false }
    pci := { d.pci with unsignalled := [], stage := [], latch := [], reserved := 0 }
    evt := { d.evt with ringHost := false, ringAddr := 0, ceCount := [] }
    cp0 := { cp00 with nextSlot := d.cp0.nextSlot }
    seq := { seq0 with nextId := d.seq.nextId, tabs := d.seq.tabs }
    inn := d.inn
    led := d.led
    way := { d.way with due := none, job := none, rjob := none, acceptCmd := none, buf := [], head := none }
    srv := { srv0 with switches := d.srv.switches }
    fab := { fab0 with ports := ports, routes := d.fab.routes, groups := d.fab.groups, nextTag := d.fab.nextTag }
    pwr := { pwr0 with power1s := d.pwr.power1s, power1ms := d.pwr.power1ms, hot := d.pwr.hot, hotIod := d.pwr.hotIod }
    mgt := { d.mgt with measured := [], upd := if d.mgt.upd.state = 6 then update0 else d.mgt.upd }
    dbg := { d.dbg with trBurst := [], trLost := [] } }
  let n := (n.loadFuses.loadRefs).forEach trans fun (p, t) d => d.wr (Reg.PWR_DOM.TRANSITIONS p) t
  let n := (n.zeroRange (spmBase 0) spmSize).zeroRange (spmBase 1) spmSize
  let n := (n.wr Reg.PWR_AVS.VDD_MV 0).stacksSelfRefresh
  let n := (n.wr Reg.MGT_STATUS.UPDATE (b2n n.mgt.upd.active)).wr Reg.DBG_STATUS.TRACING 0
  let n := n.wr Reg.DBG_STATUS.OWNER 0
  let n := n.wr Reg.DBG_TRACE_LAST.INDEX last
  let n := (n.wr Reg.RST_STATUS.LAST_KIND 1).wr Reg.RST_CAUSE.CAUSE cause
  ((n.inc Reg.RST_COUNT.WARM).ledTidy.wayShow.innStatus).sensorEvent 0x0200 1

/-! ### FLR (R530; 04 R100) -/

/-- Begin an FLR: READY falls, held writes are discarded, configuration space resets, every window of remote accesses closes; what has
not started is dropped, what runs stops at its next permitted point. -/
def Dev.flrStart (d : Dev) : Dev :=
  let d := (d.wr Reg.RST_STATUS.READY 0).wr Reg.RST_STATUS.LAST_KIND 2
  let d := ({ d with boot := { d.boot with flr := true } } : Dev).inc Reg.RST_COUNT.FLR
  let d := ((d.inc Reg.HOST_HOLD_DROPS.COUNT d.pci.hold.length).holdDiscard).pciConfigReset
  let d := d.forEach (List.range 16) fun c d => d.setReg (Reg.CTX_FAB.ACCEPT c).reg 0
  let d := d.forEach d.cp0.cmds fun c d =>
    if c.phase == .running then d.stopCmd c.slot 0x06 0x0542 else d.cmdGone c.slot
  d.forEach (d.srv.batches.filter fun b => (d.cmd? b.tag).isNone) fun b d => d.dropBatch b

/-- Registers that an FLR resets: queue pairs, contexts, arbitration ages, MSI-X, HOST_BAR2_BASE, windows, sync objects, the VE and SFU
stores, carry and timetable slots, serving, the Unit State Table (R528; 04 R100; 05 R141; 21 R564). -/
def flrResets (off : Nat) : Bool :=
  decide (0x400000 ≤ off ∧ off < 0x420008) || decide (0x5E0000 ≤ off ∧ off < 0x5F0008) || decide (0x600000 ≤ off ∧ off < 0x700000)
    || decide (0x1C00000 ≤ off ∧ off < 0x1D00000) || decide (0x1801000 ≤ off ∧ off < 0x1802000)
    || decide (0x2B00000 ≤ off ∧ off < 0x2B00100) || decide (0x2C01000 ≤ off ∧ off < 0x2C02000)
    || decide (0x850100 ≤ off ∧ off < 0x850180)
    || ([0, 1] : List Nat).any fun k =>
        let o := off - 0x400000 * k
        o == 0x820008 || o == 0x820010 || decide (0x830000 ≤ o ∧ o < 0x830044)

/-- RESET_DONE (R540). -/
def Dev.resetDone (d : Dev) (kind target cause : Nat) : Dev := d.raise 0x1401 clsInfo none kind target cause 0 .yes

/-- What an FLR resets is reset, and the device is READY again (R528, R530, R540). -/
def Dev.flrClose (d : Dev) : Dev :=
  let d := d.forEach d.cp0.cmds fun c d => d.cmdGone c.slot
  let d := d.innUnlockAll
  let units := (List.range 96).map fun u => (u, d.rd (Reg.MGT_UNIT.PWR_TARGET u), d.rd (Reg.MGT_UNIT.STATE u))
  let d := { d with
    regs := d.regs.filter fun x => !flrResets x.1
    so := so0, veStore := [], sfu := [], carry := [], scans := []
    trn := { d.trn with slots := [], runs := [] }
    srv := { srv0 with switches := d.srv.switches }
    cp0 := { cp00 with nextSlot := d.cp0.nextSlot }
    pci := { d.pci with unsignalled := [], stage := [], latch := [], reserved := 0 }
    boot := { d.boot with flr := false } }
  let d := d.forEach units fun (u, t, st) d => (d.wr (Reg.MGT_UNIT.PWR_TARGET u) t).wr (Reg.MGT_UNIT.STATE u) (if st = 3 then 3 else 0)
  let d := (d.wr Reg.DBG_STATUS.TRACING 0).wr Reg.DBG_STATUS.OWNER 0
  let d := d.wr Reg.DBG_TRACE_LAST.INDEX (d.rd Reg.DBG_TRACE_WR.INDEX)
  (d.ledTidy.innStatus.wr Reg.RST_STATUS.READY 1).resetDone 2 0 0

/-- An FLR ends once no routine runs. -/
def Dev.flrEnd (d : Dev) : Dev :=
  if !d.boot.flr || d.cp0.cmds.any (fun c => c.phase != .ended) then d else d.flrClose

/-! ### CORE (R531) -/

/-- A CORE or CONTEXT reset stops capture and ends the trace unit's ownership, as every reset does (23 R602). -/
def Dev.traceCut (d : Dev) : Dev := (d.traceStop).wr Reg.DBG_TRACE_LAST.INDEX (d.rd Reg.DBG_TRACE_WR.INDEX)

/-- Commands that run on a core. -/
def Dev.onCore (d : Dev) (core : Nat) : List Cmd := d.cp0.cmds.filter fun c => c.phase == .running && c.cores.contains core

/-- Begin a CORE reset: unstarted descriptors leave the core's queues, its routines are asked to stop. -/
def Dev.coreStart (d : Dev) (core : Nat) : Dev :=
  let d := d.wr Reg.RST_BUSY.CORE (setBits (d.rd Reg.RST_BUSY.CORE) core 1 1)
  let d := (d.inc Reg.RST_COUNT.CORE).traceCut
  let gone := (d.seq.tds.filter fun t => t.core == core && !t.started).map fun t => t.id
  let d := d.dropWaits fun w => match w with
    | .td id => gone.contains id
    | _ => false
  let d := { d with seq := { d.seq with tds := d.seq.tds.filter fun t => !gone.contains t.id } }
  d.forEach (d.onCore core) fun c d => d.stopCmd c.slot 0x06 0x1401

/-- A routine that still runs is stopped at once; the bytes of its present stage or chunk are unspecified. -/
def Dev.forceStop (d : Dev) (c : Cmd) : Dev :=
  let d := d.loseBytes c
  let d := (d.dropWaits (d.waitOf c.slot)).dropTds c.slot
  let d := { d with
    porters := d.porters.filter fun p => p.2.cmd != c.slot
    fab := { d.fab with txns := d.fab.txns.filter fun t => t.who != TxnWho.cmd c.slot } }
  d.endCmd c.slot 0x06 0x1401 c.stopResult

/-- The column test of a core found `fails`: up to 8 columns are bypassed; with more the core is out of service (08 R229). -/
def Dev.columnTest (d : Dev) (core : Nat) (fails : List Nat) : Dev :=
  let bad := (List.range 192).filter fails.contains
  let ok := decide (bad.length ≤ 8)
  let d := d.forEach (List.range 6) fun i d =>
    d.wr (Reg.ARR_BYPASS_MAP.COLS core i) (if ok then (((bad.filter fun k => k / 32 == i).map fun k => 2 ^ (k % 32)).sum) else 0)
  let d := d.wr (Reg.ARR_COLS.COLS core) (if ok then 192 - bad.length else 0)
  (d.wr (Reg.ARR_COLS.BYPASSED core) (if ok then bad.length else 0)).wr (Reg.ARR_STATUS.IN_SERVICE core) (b2n ok)

/-- Core c's unit registers; the carry-table registers, which SC0's block holds, are the device's. -/
def coreRegs (core off : Nat) : Bool :=
  decide (0x800000 + 0x400000 * core ≤ off ∧ off < 0xC00000 + 0x400000 * core) && !decide (0x850100 ≤ off ∧ off < 0x8501A0)
    || (decide (0x1400000 ≤ off ∧ off < 0x1400600) && porterCore ((off - 0x1400000) / 0x40) == core)

/-- A core's domains are ON, its registers, stores and array reset, page 15 and slots 0–7 loaded, its columns tested (R531). -/
def Dev.coreClose (d : Dev) (core : Nat) (fails : List Nat) : Dev :=
  let doms := rangeFrom (2 + 14 * core) (16 + 14 * core) ++ [domPorters core]
  let d := d.forEach doms fun p d =>
    let d := if d.domOn p then d else d.wakeEffect p (d.domState p == stOff || d.pwr.fromOff.contains p)
    { ((d.setDom p stOn).setPend p none) with pwr := { d.pwr with dwell := d.pwr.dwell.filter (fun x => x != p), fromOff := d.pwr.fromOff.filter fun x => x != p } }
  let d := { d with regs := d.regs.filter fun x => !coreRegs core x.1, arr := kvDel core d.arr, ve := kvDel core d.ve }
  let d := (((d.veClear core).sfuClear core).columnTest core fails)
  let d := d.wr Reg.RST_BUSY.CORE (setBits (d.rd Reg.RST_BUSY.CORE) core 1 0)
  d.resetDone 3 core 0

/-- A CORE reset ends: domains ON, registers, stores and array reset, page 15 and slots 0–7 loaded, the columns tested. -/
def Dev.coreEnd (d : Dev) (core : Nat) (fails : List Nat) : Dev :=
  if !d.coreResets core || !d.coreClocks || !(d.onCore core).isEmpty || d.seq.tds.any (fun t => t.core == core) then d
  else d.coreClose core fails

/-! ### CONTEXT (R532) -/

/-- Begin a CONTEXT reset: RESETTING; its commands end or are asked to stop, its queue pairs are disabled. -/
def Dev.contextStart (d : Dev) (ctx : Nat) : Dev :=
  let d := d.wr Reg.RST_BUSY.CONTEXT (setBits (d.rd Reg.RST_BUSY.CONTEXT) ctx 1 1)
  let d := ((d.inc Reg.RST_COUNT.CONTEXT).traceCut).wr (Reg.CTX_STATE.STATE ctx) csResetting
  let d := d.forEach (d.cp0.cmds.filter fun c => c.ctx == ctx) fun c d => d.stopCmd c.slot 0x06 0x0542
  let d := d.forEach (d.srv.batches.filter fun b => b.ctx == ctx && (d.cmd? b.tag).isNone) fun b d => d.dropBatch b
  d.forEach ((List.range 256).filter fun q => d.qpCtx q == ctx) fun q d => d.qpDisable q

/-- The sync objects of a context reset: a mirror is unbound and its home told, a home's push entries go (R528; 07 R202). -/
def Dev.soReset (d : Dev) (n : Nat) : Dev :=
  let d := match kvGet n d.so.mirrors with
    | some m => d.sendUnbind (d.rd (Reg.SO_CFG.HOME_DEV n)) m.homeCtx m.ctx (d.rd (Reg.SO_CFG.ARG n)) n
    | none => d
  let d := { d with so := { d.so with
      mirrors := kvDel n d.so.mirrors, pushes := d.so.pushes.filter fun e => e.home != n
      pushSeq := kvDel n d.so.pushSeq, ue := d.so.ue.filter fun x => x != n } }
  (d.setReg (Reg.SO_CFG.KIND n).reg 0).setReg (Reg.SO_VALUE.VALUE n).reg 0

/-- Free what R528 lists for a context. -/
def Dev.contextFree (d : Dev) (ctx : Nat) : Dev :=
  let d := d.forEach [0, 1] fun core d =>
    let pages := (List.range 15).filter fun p =>
      bitAt (d.rd (Reg.VE_PAGES.USED core)) p && bits (d.rd (Reg.VE_PAGE_OWNER.CTX core)) (4 * p) 4 == ctx
    let d := d.forEach pages fun p d =>
      let d := { d with veStore := d.veStore.filter fun x => x.1 / 1024 != core || x.1 % 1024 / 64 != p }
      (d.wr (Reg.VE_PAGES.USED core) (setBits (d.rd (Reg.VE_PAGES.USED core)) p 1 0)).wr (Reg.VE_PAGE_OWNER.CTX core)
        (setBits (d.rd (Reg.VE_PAGE_OWNER.CTX core)) (4 * p) 4 0)
    d.forEach ((rangeFrom 8 16).filter fun s => d.sfuOwner core s == some ctx) fun s d => d.sfuPut core s ctx none
  let f := d.rd (Reg.CTX_SO.FIRST ctx)
  let d := d.forEach ((rangeFrom f (f + d.rd (Reg.CTX_SO.COUNT ctx))).filter fun n => d.soAllowed ctx n) fun n d => d.soReset n
  let d := { d with seq := { d.seq with
      tabs := d.seq.tabs.filter (fun x => x.1 / 16 != ctx), tabHolder := d.seq.tabHolder.filter fun x => x.1 / 16 != ctx } }
  let d := d.forEach (d.carry.filter fun x => x.2.ctx == ctx) fun x d => d.unbindCarry x.1
  let d := d.forEach ((List.range 8).filter fun t => d.on (Reg.TRN_TT.LOADED t) && d.rd (Reg.TRN_TT.CTX t) == ctx) fun t d => d.ttFree t
  let d := d.setReg (Reg.TRN_SEED.SEED ctx).reg 0
  { d with srv := { d.srv with guests := kvDel ctx d.srv.guests, lists := kvDel ctx d.srv.lists } }

/-- What a context holds is freed, and it is IDLE (R528, R532). -/
def Dev.contextClose (d : Dev) (ctx : Nat) : Dev :=
  let d := d.forEach (d.srv.batches.filter fun b => b.ctx == ctx) fun b d => d.dropBatch b
  let d := (d.contextFree ctx).wr (Reg.CTX_STATE.STATE ctx) csIdle
  let d := d.wr Reg.RST_BUSY.CONTEXT (setBits (d.rd Reg.RST_BUSY.CONTEXT) ctx 1 0)
  d.resetDone 4 ctx 0

/-- A CONTEXT reset ends once the last completion is written: the context is IDLE. -/
def Dev.contextEnd (d : Dev) (ctx : Nat) : Dev :=
  if !bitAt (d.rd Reg.RST_BUSY.CONTEXT) ctx || !d.coreClocks || d.cp0.cmds.any (fun c => c.ctx == ctx && !(c.ofBatch && c.phase == .ended)) then d
  else d.contextClose ctx

/-! ### Requests (R527) -/

/-- A COLD reset runs, or the device is held in it (02 R40, R42). -/
def Dev.coldRuns (d : Dev) : Bool := d.board.coldHeld || d.boot.running == some .cold

/-- A running reset covers a request. An FLR during an FLR is covered too (DESIGN CHOICE, notes/assumptions/32.md). -/
def Dev.resetCovered (d : Dev) (kind : ResetKind) (target : Nat) : Bool :=
  d.coldRuns
    || (d.boot.running == some .warm && kind != .cold)
    || (d.boot.flr && (kind == .flr || kind == .context))
    || (kind == .core && bitAt (d.rd Reg.RST_BUSY.CORE) target)
    || (kind == .context && bitAt (d.rd Reg.RST_BUSY.CONTEXT) target)

/-- Request a reset (R526, R527); after a thermal trip only COLD is left (02 R43), and a device stopped before READY takes COLD and
WARM (R541). -/
def Dev.resetRequest (d : Dev) (kind : ResetKind) (target cause : Nat) : Dev :=
  if (d.board.tripped && kind != .cold) || (d.board.bootFailed && kind != .cold && kind != .warm) then d
  else if d.resetCovered kind target then d.inc Reg.RST_ERR.ABSORBED
  else match kind with
    | .cold => d.coldReset cause
    | .warm => d.warmReset cause
    | .flr => d.flrStart
    | .core => d.coreStart target
    | .context => d.contextStart target

/-- The WARM reset of a PLDM activation, once no command is in flight (R543; 21 R557). -/
def Dev.activateNow (d : Dev) : Dev :=
  if d.mgt.upd.state = 6 && d.cp0.cmds.all (fun c => c.ofBatch) then d.resetRequest .warm 0 5 else d

/-- A write of RST_CTL (R546). -/
def Dev.rstCtlWrite (d : Dev) (v : Nat) : Dev :=
  let kind := bits v 0 3
  let target := bits v 4 4
  if bits v 16 16 ≠ 0x52A7 then d.inc Reg.RST_ERR.KEY_REFUSED
  else match kind with
    | 1 => d.resetRequest .warm 0 2
    | 2 => d.resetRequest .cold 0 2
    | 3 => if 1 < target then d.inc Reg.RST_ERR.KEY_REFUSED else d.resetRequest .core target 2
    | 4 => d.resetRequest .context target 2
    | _ => d

/-! ### Commands -/

/-- FLR (04 R100): the host writes the Function Level Reset bit. -/
def execFlr (s : State) : Out := s.run fun d => if d.pci.link == .down then d else d.resetRequest .flr 0 0

/-- The host writes RST_CTL; a stopped device answers no host (R541). -/
def Dev.rstHostWrite (d : Dev) (v : Nat) : Dev := if d.hostAnswers then d.rstCtlWrite v else d

/-- RST_WARM: RST_CTL KIND 1. -/
def execRstWarm (s : State) : Out := s.run fun d => d.rstHostWrite 0x52A70001

/-- RST_COLD: RST_CTL KIND 2. -/
def execRstCold (s : State) : Out := s.run fun d => d.rstHostWrite 0x52A70002

/-- RST_CORE: RST_CTL KIND 3. -/
def execRstCore (target : Nat) (s : State) : Out := s.run fun d => d.rstHostWrite (0x52A70003 + 16 * target)

/-- RST_CONTEXT: RST_CTL KIND 4. -/
def execRstContext (target : Nat) (s : State) : Out := s.run fun d => d.rstHostWrite (0x52A70004 + 16 * target)

/-- CORE_RESET_FORCE_STOP (R531): 1 ms has passed; what still runs on the core stops at once. -/
def execCoreResetForceStop (core : Nat) (s : State) : Out := s.run fun d =>
  if d.coreResets core && d.coreClocks then d.forEach (d.onCore core) fun c d => d.forceStop c else d

/-- RESET_COMPLETE (R540): `kind` 0 the FLR, 1 the CORE reset of `target`, whose column test found `fails`, 2 the CONTEXT reset of
`target`. -/
def execResetComplete (kind target : Nat) (fails : List Nat) (s : State) : Out := s.run fun d =>
  match kind with
  | 0 => d.flrEnd.activateNow
  | 1 => d.coreEnd target fails
  | _ => d.contextEnd target

/-- PERST (R526): PERST_N or a Hot Reset resets the PCIe core, whose link goes down, and performs FLR or WARM by PERST_KIND. -/
def execPerst (s : State) : Out := s.run fun d =>
  if d.board.tripped || d.coldRuns || d.dbg.pinsTaken then d
  else
    let d := d.dlDown
    if fieldAt d.cfgLatched 0x18 1 = 1 then d.resetRequest .warm 0 7 else d.resetRequest .flr 0 0

/-- CP_WATCHDOG (R526; 22 R588): CODE 0 is recorded, SUB and SEQ are free; the WARM reset follows. -/
def execCpWatchdog (s : State) : Out := s.run fun d =>
  if d.board.tripped || d.board.bootFailed || d.coldRuns then d
  else
    let v := d.freeVal
    let d := ((d.occur clsFatal).fatal 0 (bits v 16 8) (bits v 24 32)).freeNext
    d.resetRequest .warm 0 4

end Sys2Proof.Machine
end

