-- ==== Sys2Proof/Machine/Boot.lean ====
section
/-!
DEFINITION. SYS_PWRGD (02 R40, R42), the boot sequence (20 R537–R541) and the trial of an image (R544).
-/
namespace Sys2Proof.Machine

/-- The device stops before READY (R541). -/
def Dev.bootFail (d : Dev) (code : Nat) : Dev :=
  let d := d.wr Reg.RST_STATUS.FAIL code
  let d : Dev := { d with board := { d.board with bootFailed := true }, boot := { d.boot with running := none } }
  (d.alert Reg.MGT_ALERT_STATUS.BOOT_FAIL).sensorEvent 0x0200 3

/-- A missing rail is reported on the management path (02 R40; DESIGN CHOICE, notes/assumptions/32.md). -/
def Dev.reportRail (d : Dev) (rail : Nat) : Dev := d.raise 0x0201 clsContained none rail 0 0 0 .only

/-- The rails and the junction decide whether a COLD reset that has started goes on (02 R40, R42): with rails `missing` the device stops in it,
with a junction below −5 °C (`cold`) it waits there. -/
def Dev.powerGood (d : Dev) (missing : List Nat) (cold : Bool) : Dev :=
  let rails := (List.range 9).filter missing.contains
  if rails.isEmpty then { d with board := { d.board with coldHeld := cold } }
  else
    let d := { d with board := { d.board with coldHeld := true, railsOut := rails } }
    ((d.forEach rails fun r d => d.reportRail r).alert Reg.MGT_ALERT_STATUS.RAIL).bootFail 1

/-- SYS_PWRGD_RISE (02 R40, R42): COLD reset starts. -/
def execSysPwrgdRise (missing : List Nat) (cold : Bool) (s : State) : Out := s.run fun d => (d.coldReset 1).powerGood missing cold

/-- JUNCTION_WARM_RELEASE (02 R42). -/
def execJunctionWarmRelease (s : State) : Out := s.run fun d =>
  if d.board.coldHeld && d.board.pwrgd && d.board.railsOut.isEmpty then { d with board := { d.board with coldHeld := false } } else d

/-- The trial has failed (R544): the slot FAILED, ACTIVE = PREV, TRIAL = none, and a WARM reset. -/
def Dev.trialFail (d : Dev) (t : Nat) : Dev :=
  let d := d.selWrite [(2 + t, 1, fwFailed), (0, 1, d.fwPrev), (1, 1, 0xFF)]
  ({ d with boot := { d.boot with fellBack := true } } : Dev).warmReset 6

/-- TRIAL_TIMEOUT (R544): 10 s after stage FLASH the trial image has not reached READY. -/
def execTrialTimeout (s : State) : Out := s.run fun d =>
  if (d.boot.running.isSome || d.board.bootFailed) && !d.ready && decide (2 ≤ d.rd Reg.RST_STATUS.STAGE) && decide (d.fwTrial < 2) then
    d.trialFail d.fwTrial
  else d

/-- How the boot ROM's choice of an image ends (R537, R544). -/
inductive FwChoice where
  | boot (slot : Nat) | trialFailed (slot : Nat) | none
  deriving DecidableEq, Repr

/-- Try slots in order; a VALID slot whose image is not acceptable becomes FAILED (R537). -/
def Dev.fwChoose (d : Dev) : List Nat → Dev × FwChoice
  | [] => (d, .none)
  | s :: l =>
    if d.fwState s ≠ fwValid then d.fwChoose l
    else match d.fwFault (d.fwSlot s) with
      | .none => (d, .boot s)
      | .some _ => if d.fwTrial = s then (d, .trialFailed s) else (d.fwMark s fwFailed).fwChoose l

/-- Stage SIGNATURE: an image is chosen and its slot reported; FW_FALLBACK when it is not the selector's choice (R537, R544). -/
def Dev.bootSelect (d : Dev) : Dev :=
  let active := d.fwActive
  match d.fwChoose [active, 1 - active] with
  | (d, .none) => d.fwShow.bootFail 4
  | (d, .trialFailed s) => d.trialFail s
  | (d, .boot s) =>
    let back := s != active || d.boot.fellBack
    let d : Dev := { d with boot := { d.boot with fellBack := false } }
    let d := ((d.wr Reg.RST_STATUS.FW_SLOT s).wr Reg.RST_STATUS.FALLBACK (b2n back)).wr Reg.RST_STATUS.TRIAL (b2n (d.fwTrial == s))
    let d := (d.wr Reg.RST_FW.VERSION (d.fwVersion s)).fwShow
    let d := if back then d.raise 0x1403 clsContained none s 0 (d.fwVersion s) 0 .yes else d
    d.wr Reg.RST_STATUS.STAGE 4

/-- Stage BOOT_CFG: after COLD the record is latched and lays out memory (R538); at WARM what COLD latched is reused. -/
def Dev.bootConfig (d : Dev) : Dev :=
  if !d.boot.coldCfg.isEmpty then d
  else
    let d := if d.cfgStored.isNone then d.raise 0x1402 clsInfo none 0 0 0 0 .yes else d
    let b := d.cfgStored.getD d.cfgDefault
    let d : Dev := { d with boot := { d.boot with coldCfg := b } }
    let inn := fieldAt b 5 1
    let base := 36 * d.stacks - (inn + fieldAt b 6 2 + 2)
    let d := (d.wr Reg.MEM_GLOBAL_CFG.INTERLEAVE (fieldAt b 4 1)).wr Reg.MEM_RESV_BASE.BASE base
    let d := (d.wr Reg.INN_BACKING.BASE base).wr Reg.INN_BACKING.SIZE inn
    d.wr Reg.FAB_ID.DEVICE_ID (fieldAt b 2 2 % 4096)

/-- Stage HBM: every fitted stack is trained but those of `bad`, and leaves self-refresh. -/
def Dev.bootHbm (d : Dev) (bad : List Nat) : Dev :=
  let d := d.forEach (List.range d.stacks) fun k d =>
    (d.wr (Reg.MEM_STATUS.TRAINED k) (b2n (!bad.contains k))).wr (Reg.MEM_STATUS.SELF_REFRESH k) 0
  { d with board := { d.board with selfRefresh := [] } }

/-- Stage UNITS: page 15 and SFU slots 0–7 are loaded; hosted slots that read WRITING are reported (17 R467). -/
def Dev.bootUnits (d : Dev) : Dev :=
  let d := d.forEach [0, 1] fun core d => (d.veClear core).sfuClear core
  let slots := if d.way.host then (List.range 2).filter fun k => d.hostedState k == wsWriting else []
  d.forEach slots fun k d => d.raise 0x1104 clsContained none k d.way.hostDev (match d.hostedHead k with
    | some h => h.seq
    | none => 0) 0

/-- Stage FABRIC: the ports of PORT_ENABLE are enabled. -/
def Dev.bootFabric (d : Dev) : Dev :=
  let b := d.cfgLatched
  d.forEach ((List.range d.ports).filter fun p => bitAt (fieldAt b 0x0C 4) p) fun p d =>
    let x := { d.port p with maxGen := if bitAt (fieldAt b 0x14 4) p then 1 else 2, c2m := bitAt (fieldAt b 0x10 4) p }
    (d.setPort p x).portTo p psDown

/-- The running image as SPDM measures it from READY on: blocks 2, 3 and 4 of 21 R560. -/
def Dev.measureImage (d : Dev) : List Byte :=
  let img := d.fwSlot (d.rd Reg.RST_STATUS.FW_SLOT)
  (img.drop 0x20).take 48 ++ (img.drop 8).take 8 ++ leBytes 4 d.board.svnFuse ++ Config.sha384 d.cfgLatched

/-- READY (R539, R540); the trial, if any, has succeeded (R544). -/
def Dev.bootReady (d : Dev) (kind : ResetKind) : Dev :=
  let s := d.rd Reg.RST_STATUS.FW_SLOT
  let d := if d.fwTrial = s then
      let svn := fieldAt (d.fwSlot s) 0x0C 4
      let d := if d.fwCommitSvn then { d with board := { d.board with svnFuse := max d.board.svnFuse svn } } else d
      (d.wr Reg.RST_FW.SVN_FUSE d.board.svnFuse).selWrite [(1, 1, 0xFF)]
    else d
  let d := d.wr Reg.PWR_DOM_ON.ON (((List.range 64).filter d.domOn).map (2 ^ ·)).sum
  let us := (d.timeNs - d.boot.startNs) / 1000
  let d : Dev := { d with boot := { d.boot with running := none }, mgt := { d.mgt with measured := d.measureImage } }
  let d := ((d.wr Reg.RST_STATUS.TRIAL 0).wr Reg.RST_STATUS.STAGE 10).wr Reg.RST_STATUS.READY 1
  ((d.wr Reg.RST_BOOT_US.TIME us).resetDone (if kind = .warm then 1 else 0) 0 d.boot.cause).sensorEvent 0x0200 2

/-- The fused values of 02 R33. -/
def assemblies : List Nat := [0x037004C1, 0x02F802C2, 0x02D00483, 0x02800464]

/-- BOOT_STAGE_DONE (R539, R541): the stage in progress ends. `bad0`: what failed in it (a flash feature, a control processor, stacks, the
columns of SC0); `bad1`: the columns of SC1. -/
def execBootStageDone (bad0 bad1 : List Nat) (s : State) : Out := s.run fun d =>
  match d.boot.running with
  | none => d
  | some kind =>
    let st := d.rd Reg.RST_STATUS.STAGE
    if d.board.coldHeld || d.board.refMissing.contains 0 || d.board.domHeld || d.board.tripped then d
    else match st with
      | 0 => d.wr Reg.RST_STATUS.STAGE 1
      | 1 => if assemblies.contains d.board.assembly then d.wr Reg.RST_STATUS.STAGE 2 else d.bootFail 2
      | 2 => if bad0.isEmpty then d.wr Reg.RST_STATUS.STAGE 3 else d.bootFail 3
      | 3 => d.bootSelect
      | 4 => d.bootConfig.wr Reg.RST_STATUS.STAGE 5
      | 5 => if bad0.isEmpty then d.wr Reg.RST_STATUS.STAGE 6 else d.bootFail 6
      | 6 =>
        let d' := d.bootHbm bad0
        if (List.range d.stacks).all fun k => !bad0.contains k then d'.wr Reg.RST_STATUS.STAGE 7 else d'.bootFail 5
      | 7 => ((d.columnTest 0 bad0).columnTest 1 bad1).wr Reg.RST_STATUS.STAGE 8
      | 8 => d.bootUnits.wr Reg.RST_STATUS.STAGE 9
      | _ => d.bootFabric.bootReady kind

end Sys2Proof.Machine
end

