-- ==== Sys2Proof/Machine/Bar0.lean ====
section
/-!
DEFINITION. The BARs (03 R67–R73): register reads and writes through BAR0 by every issuer, the context windows, BAR2.
-/
namespace Sys2Proof.Machine

/-! ### Which registers are served (R69) -/

/-- The CTL, CLK, RST and ERR blocks, which 02 R52 keeps readable. -/
def alwaysServed (off : Nat) : Bool :=
  decide (off < 0x200000) || decide (0x300000 ≤ off ∧ off < 0x400000) || decide (0x3000000 ≤ off ∧ off < 0x3400000)

/-- The power domain that holds a register (00 R9; 19 R500; DESIGN CHOICE, notes/assumptions/34.md). -/
def regDomain (off : Nat) : Option Nat :=
  if 0x800000 ≤ off ∧ off < 0x1000000 then
    let core := (off - 0x800000) / 0x400000
    match off % 0x400000 / 0x10000 with
    | 0 => some (domSeq core)
    | 1 => some (domQuad core 0)
    | 2 => some (domVe core)
    | 3 => some (domSfu core)
    | 4 => some (domRu core)
    | 5 => some (domSu core)
    | 6 => some (domSlv core)
    | 7 => some (domSpm core 0)
    | _ => none
  else if 0x1000000 ≤ off ∧ off < 0x10C0000 then some (domStack ((off - 0x1000000) / 0x10000))
  else if 0x1400000 ≤ off ∧ off < 0x1400600 then some (domPorters (porterCore ((off - 0x1400000) / 0x40)))
  else if 0x2010000 ≤ off ∧ off < 0x2012000 then some (domPort ((off - 0x2010000) / 0x100))
  else none

/-- A register of a controller, a port or a policy of a stack or port that the assembly lacks (R69; 19 R524). -/
def Dev.regAbsent (d : Dev) (off : Nat) : Bool :=
  (decide (0x1000000 ≤ off ∧ off < 0x10C0000) && decide (d.stacks ≤ (off - 0x1000000) / 0x10000))
    || (decide (0x2010000 ≤ off ∧ off < 0x2012000) && decide (d.ports ≤ (off - 0x2010000) / 0x100))
    || (decide (0x201040 ≤ off ∧ off < 0x201070) && decide (d.stacks ≤ (off - 0x201040) / 4))
    || (decide (0x201080 ≤ off ∧ off < 0x201100) && decide (d.ports ≤ (off - 0x201080) / 4))

/-- The register's clock runs, its domain is ON, and it is served now (R69); before READY the host is served no other (20 R540). -/
def Dev.regServed (d : Dev) (issuer off : Nat) : Bool :=
  alwaysServed off || (!d.board.domHeld && !d.board.tripped && (d.ready || d.boot.flr || issuer != 0)
    && (match regDomain off with
      | some p => d.domOn p
      | none => true)
    && !(decide (0x2010000 ≤ off ∧ off < 0x2012000) && d.board.fclkHeld))

/-! ### Register writes -/

/-- A field takes a written value as its access code says (00 R6). -/
def Dev.fieldWrite (d : Dev) (base v : Nat) (f : FieldDesc) : Dev :=
  let x : Fld := ⟨base, f.lo, f.len⟩
  let old := d.rd x
  let w := bits v f.lo f.len
  match f.acc with
  | .rw => d.wr x w
  | .w1c => d.wr x (old - (old &&& w))
  | .w1s => d.wr x (old ||| w)
  | _ => d

/-- A write of a whole register that has no rule of its own. -/
def Dev.plainWrite (d : Dev) (r : RegDesc) (base v : Nat) : Dev := d.forEach r.flds fun f d => d.fieldWrite base v f

/-- The condition behind an alert bit lasts (21 R563, R570). -/
def Dev.alertLasts (d : Dev) (i : Nat) : Bool :=
  match i with
  | 0 => !d.board.railsOut.isEmpty
  | 1 => !d.board.refMissing.isEmpty
  | 2 => d.board.bootFailed
  | 3 => d.pwr.avsFault || !d.mgt.regFault.isEmpty
  | 4 => (List.range 96).any fun u => d.unitPresent u && d.unitState u == 2
  | 5 => d.pci.link == .down
  | _ => d.mgt.sensors.any fun x => x.2.unavailable

/-- MGT_ALERT_STATUS: a bit clears only after its condition has ended (21 R563). -/
def Dev.alertWrite (d : Dev) (v : Nat) : Dev :=
  d.forEach (List.range 7) fun i d =>
    if bitAt v i && !d.alertLasts i then d.wr ⟨Reg.MGT_ALERT_STATUS.RAIL.reg, i, 1⟩ 0 else d

/-- A context's window registers, by offset in its page: locked unless the context is IDLE (R81); CFG_ERR follows (R79). -/
def Dev.windowWrite (d : Dev) (c off v : Nat) : Dev :=
  match regAt (0x600000 + 0x1000 * c + off) with
  | none => d
  | some (r, base) =>
    if off = 0x120 then d.plainWrite r base v
    else if d.ctxState c ≠ csIdle then d.wr (Reg.CTX_WIN_STATUS.LOCKED_WRITE c) 1
    else
      let d := d.plainWrite r base v
      d.wr (Reg.CTX_WIN_STATUS.CFG_ERR c) (b2n (d.winCfgErr c))

/-- A write of the sync object registers (07 R189, R195, R196; 22 R586). -/
def Dev.soRegWrite (d : Dev) (base v : Nat) : Dev :=
  let n := (base - 0x1C00000) / 16
  match base % 16 with
  | 0 => ({ d with so := { d.so with ue := d.so.ue.filter fun x => x != n } } : Dev).soHost n true v
  | 8 => d.soCfgWrite n v
  | _ => if d.so.ue.contains n then d else d.soHost n false v

/-- A write of a whole register. -/
def Dev.regWrite (d : Dev) (r : RegDesc) (base v : Nat) : Dev :=
  if base = Reg.CLK_MEAS_CTL.SEL.reg then d.measWrite v
  else if base = Reg.RST_CTL.KIND.reg then d.rstCtlWrite v
  else if base = Reg.PWR_LIMIT.WATTS.reg then d.powLimitWrite v
  else if base = 0x201010 ∨ base = 0x201018 then d.powPinWrite ((base - 0x201010) / 8) v
  else if base = 0x201014 ∨ base = 0x20101C then d.powRangeWrite ((base - 0x201014) / 8) v
  else if base = Reg.PWR_AVS.MARGIN.reg then d.powAvsWrite v
  else if 0x400000 ≤ base ∧ base < 0x404000 ∧ base % 0x40 = 0 then
    d.qpBaseWrite ((base - 0x400000) / 0x40) (Reg.QP_SQ_BASE.BASE ((base - 0x400000) / 0x40)) v
  else if 0x400000 ≤ base ∧ base < 0x404000 ∧ base % 0x40 = 8 then
    d.qpBaseWrite ((base - 0x400000) / 0x40) (Reg.QP_CQ_BASE.BASE ((base - 0x400000) / 0x40)) v
  else if 0x400000 ≤ base ∧ base < 0x404000 ∧ base % 0x40 = 0x10 then d.qpCfgWrite ((base - 0x400000) / 0x40) v
  else if 0x410000 ≤ base ∧ base < 0x410400 ∧ base % 0x40 = 0 then d.ctxCfgWrite ((base - 0x410000) / 0x40) v
  else if 0x600000 ≤ base ∧ base < 0x610000 then d.windowWrite ((base - 0x600000) / 0x1000) (base % 0x1000) v
  else if 0x5E0000 ≤ base ∧ base < 0x5E1000 then (d.plainWrite r base v).sendPending
  else if 0x1800100 ≤ base ∧ base < 0x1800140 then d.pinQuotaWrite ((base - 0x1800100) / 4) v
  else if 0x1801000 ≤ base ∧ base < 0x1801400 then
    let c := (base - 0x1801000) / 0x40
    if base % 0x40 = 0x0C then (d.wr (Reg.SRV_RING_HEAD.HEAD c) v).srvClose c else d.srvRegWrite c (base % 0x40) v
  else if 0x1C00000 ≤ base ∧ base < 0x1C10000 then d.soRegWrite base v
  else if base = Reg.ERR_EVT_HEAD.HEAD.reg then d.eventHeadWrite v
  else if base = Reg.MGT_ALERT_STATUS.RAIL.reg then d.alertWrite v
  else d.plainWrite r base v

/-- The place of an issuer's write stage or read latch of a register (R70). -/
def stageKey (issuer base : Nat) : Nat := issuer * 0x4000000 + base

/-- A write of one dword (R68–R70): a narrow register changes at once, a wide one with its high dword. A host access that is not served is
counted. -/
def Dev.dwordWrite (d : Dev) (issuer off v : Nat) : Dev :=
  match regAt off with
  | none => d
  | some (r, base) =>
    if d.regAbsent base then d
    else if !(d.regServed issuer base || (decide (0x400000 ≤ base ∧ base < 0x404000) && base % 0x40 == 0x10 && bitAt v 31 && !d.board.domHeld)) then
      if issuer = 0 then d.barError Reg.HOST_BAR_ERR.HELD 0 off else d
    else if !r.wide then d.regWrite r base v
    else
      let key := stageKey issuer base
      if off = base then { d with pci := { d.pci with stage := kvPut key v d.pci.stage } }
      else
        let lo := (kvGet key d.pci.stage).getD (d.reg base % 2 ^ 32)
        ({ d with pci := { d.pci with stage := kvDel key d.pci.stage } } : Dev).regWrite r base (lo + v * 2 ^ 32)

/-! ### Register reads -/

/-- What a read returns: write-only fields read 0 (00 R6). -/
def Dev.regShown (d : Dev) (r : RegDesc) (base : Nat) : Nat :=
  r.flds.foldl (fun v f => if f.acc = .wo then v else v + bits (d.reg base) f.lo f.len * 2 ^ f.lo) 0

/-- Clear the RC fields that a read samples: all, or those wholly in the high half (R70). -/
def Dev.rcClear (d : Dev) (r : RegDesc) (base : Nat) (high : Bool) : Dev :=
  d.forEach (r.flds.filter fun f => f.acc == .rc && (!high || decide (32 ≤ f.lo))) fun f d => d.wr ⟨base, f.lo, f.len⟩ 0

/-- What one register read answers: its value, and whether the completion is poisoned. -/
structure RegGot where
  dev      : Dev
  val      : Nat
  poisoned : Bool

/-- Reading VALUE or CFG of an uncorrectable object (22 R586). -/
def Dev.soUnreadable (d : Dev) (base : Nat) : Bool :=
  decide (0x1C00000 ≤ base ∧ base < 0x1C10000) && d.so.ue.contains ((base - 0x1C00000) / 16)

/-- A read of one dword, or with `wide` of a whole 64-bit register (R69, R70; 00 R6). -/
def Dev.regRead (d : Dev) (issuer off : Nat) (wide : Bool) : RegGot :=
  match regAt off with
  | none => ⟨d, 0, false⟩
  | some (r, base) =>
    if d.regAbsent base then ⟨d, 0, false⟩
    else if !d.regServed issuer base then ⟨if issuer = 0 then d.barError Reg.HOST_BAR_ERR.HELD 0 off else d, 0, false⟩
    else if d.soUnreadable base then ⟨d.freeNext, d.freeVal % 2 ^ (if wide then 64 else 32), true⟩
    else
      let v := d.regShown r base
      let key := stageKey issuer base
      if !r.wide then ⟨d.rcClear r base false, v, false⟩
      else if wide then ⟨d.rcClear r base false, v, false⟩
      else if off = base then
        let d := { d with pci := { d.pci with latch := kvPut key (v / 2 ^ 32) d.pci.latch } }
        ⟨d.rcClear r base false, v % 2 ^ 32, false⟩
      else match kvGet key d.pci.latch with
        | some h => ⟨{ d with pci := { d.pci with latch := kvDel key d.pci.latch } }, h, false⟩
        | none => ⟨d.rcClear r base true, v / 2 ^ 32, false⟩

/-- A read answered to its issuer: the host's leaves as a completion. -/
def Dev.readOut (d : Dev) (issuer off : Nat) (wide : Bool) : Dev :=
  let g := d.regRead issuer off wide
  if issuer = 0 then g.dev.emit (.barRead (leBytes (if wide then 8 else 4) g.val) g.poisoned) else g.dev

/-! ### Rows of BAR0 -/

/-- A BAR0 request that R68 refuses whole. -/
def formBad (off n : Nat) : Bool := decide (16 < n) || decide (64 < off % 64 + 4 * n)

/-- BAR0_WRITE (R68): dwords with their byte enables (all set or not), in ascending order. -/
def execBar0Write (off : Nat) (dwords : List (Word × Bool)) (s : State) : Out := s.run fun d =>
  if !d.hostAnswers then d
  else if formBad off dwords.length then (d.barError Reg.HOST_BAR_ERR.FORM 0 off).emit (.aer 0)
  else d.forEach dwords.zipIdx fun ((v, full), i) d =>
    if full then d.dwordWrite 0 (off + 4 * i) v.toNat else d.barError Reg.HOST_BAR_ERR.PARTIAL 0 (off + 4 * i)

/-- A register of 64 bits, and which of its dwords an offset names. -/
def wideAt (off : Nat) : Option Bool :=
  match regAt off with
  | some (r, base) => if r.wide then some (off != base) else none
  | none => none

/-- REG64_LOW_WRITE (R70). -/
def execReg64LowWrite (issuer off : Nat) (value : Word) (s : State) : Out := s.run fun d =>
  if d.hostAnswers && wideAt off == some false then d.dwordWrite issuer off value.toNat else d

/-- REG64_HIGH_WRITE (R70). -/
def execReg64HighWrite (issuer off : Nat) (value : Word) (s : State) : Out := s.run fun d =>
  if d.hostAnswers && wideAt off == some true then d.dwordWrite issuer off value.toNat else d

/-- REG64_LOW_READ (R70). -/
def execReg64LowRead (issuer off : Nat) (s : State) : Out := s.run fun d =>
  if d.hostAnswers && wideAt off == some false then d.readOut issuer off false else d

/-- RC_READ (00 R6, R7): a read of a dword, or of a 64-bit register whole. -/
def execRcRead (issuer off : Nat) (wide : Bool) (s : State) : Out := s.run fun d =>
  if !d.hostAnswers then d
  else if issuer = 0 ∧ formBad off (if wide then 2 else 1) then (d.barError Reg.HOST_BAR_ERR.FORM 0 off).emit .completerAbort
  else d.readOut issuer off wide

/-- CTX_WINDOW_WRITE (R81): a whole register of the context's page, by its offset. -/
def execCtxWindowWrite (ctx off : Nat) (value : QWord) (s : State) : Out := s.run fun d =>
  if d.hostRegsServed then d.windowWrite ctx off value.toNat else d.heldAccess 0 (0x600000 + 0x1000 * ctx + off)

/-! ### BAR2 (R71, R73) -/

/-- What an HBM byte is to BAR2: 0 open, 1 beyond HBM or reserved, 2 held. -/
def Dev.bar2Kind (d : Dev) (a : Nat) : Nat :=
  if d.hbmTop ≤ a ∨ d.resvBase ≤ a then 1 else if d.stackReady (d.stackOf a) then 0 else 2

/-- Runs of equal keys of the offsets 0 … n − 1: first offset, length, key. -/
def runsBy (key : Nat → Nat) (n : Nat) : List (Nat × Nat × Nat) :=
  (List.range n).foldr (fun i l => match l with
    | (o, k, x) :: rest => if key i = x then (i, k + 1, x) :: rest else (i, 1, key i) :: (o, k, x) :: rest
    | [] => [(i, 1, key i)]) []

/-- The host as an issuer (13 R355). -/
def byHost : Issuer := ⟨0, 0, 5⟩

/-- The blocked bytes of a TLP are counted once per kind, with the offset of the first. -/
def Dev.bar2Count (d : Dev) (off : Nat) (runs : List (Nat × Nat × Nat)) : Dev :=
  let bad := runs.filter fun r => r.2.2 == 1 || r.2.2 == 2
  let has (k : Nat) : Bool := bad.any fun r => r.2.2 == k
  let d := if has 1 then d.inc Reg.HOST_BAR_ERR.BAR2_BLOCKED else d
  let d := if has 2 then d.inc Reg.HOST_BAR_ERR.HELD else d
  match bad with
  | r :: _ => (d.wr Reg.HOST_BAR_ERR_ADDR.OFFSET (off + r.1)).wr Reg.HOST_BAR_ERR_ADDR.BAR 2
  | [] => d

/-- The device address of a BAR2 offset, and how many of `n` bytes the BAR decodes. -/
def Dev.bar2Addr (d : Dev) (off : Nat) : Nat := d.rd Reg.HOST_BAR2_BASE.BASE * gib + off
def Dev.bar2Len (d : Dev) (off n : Nat) : Nat := min n (2 ^ d.pci.bar2Log2 - off)

/-- Read `n` bytes through BAR2 (R71): completions in order; the one that carries an uncorrectable word is poisoned, its data free. -/
def Dev.bar2Read (d : Dev) (off n : Nat) : Dev :=
  let a := d.bar2Addr off
  let key (i : Nat) : Nat :=
    let k := d.bar2Kind (a + i)
    if k = 0 ∧ d.ue.contains ((a + i) / 8 * 8) then 8 + (a + i) / 8 else k
  let runs := runsBy key n
  d.forEach runs (fun (o, l, k) d =>
    match k with
    | 0 =>
      let d := (d.correctRange (a + o) l).countHbm false (a + o) l
      d.emit (.barRead (d.peek (a + o) l) false)
    | 1 | 2 => d.emit (.barRead (zeros l) false)
    | _ => ((d.meetUe byHost.src ((a + o) / 8 * 8) none).emit (.barRead (leBytes l d.freeVal) true)).freeNext) |>.bar2Count off runs

/-- BAR2_READ (R71). -/
def execBar2Read (off len : Nat) (s : State) : Out := s.run fun d =>
  if !d.hostAnswers ∨ d.bar2Len off len = 0 then d else d.bar2Read off (d.bar2Len off len)

/-- Write `n` bytes through BAR2 (R71): blocked bytes are discarded; a part of an uncorrectable word is not written and is logged. -/
def Dev.bar2Write (d : Dev) (off n : Nat) (data : List Byte) : Dev :=
  let a := d.bar2Addr off
  let key (i : Nat) : Nat :=
    let k := d.bar2Kind (a + i)
    let w := (a + i) / 8 * 8
    if k = 0 ∧ d.ue.contains w ∧ !wholeWord a n w then 8 + w / 8 else k
  let runs := runsBy key n
  d.forEach runs (fun (o, l, k) d =>
    match k with
    | 0 => ((d.correctRange (a + o) l).poke (a + o) ((data.drop o).take l)).countHbm true (a + o) l
    | 1 | 2 => d
    | _ => d.meetUe byHost.src ((a + o) / 8 * 8) none) |>.bar2Count off runs

/-- BAR2_WRITE (R71). -/
def execBar2Write (off : Nat) (data : List Byte) (s : State) : Out := s.run fun d =>
  if !d.hostAnswers ∨ d.bar2Len off data.length = 0 then d else d.bar2Write off (d.bar2Len off data.length) data

end Sys2Proof.Machine
end

