-- ==== Sys2Proof/Machine/Fetch.lean ====
section
/-!
DEFINITION. The two ends of a command at CP0 (chapter 05): the check of a fetched entry (R118, R119, R135) and the completion
(R128, R139, R140).
Choices: DEDUCED, notes/assumptions/9.md.
-/
namespace Sys2Proof.Machine

/-! ### SQ_FETCH_DATA -/

/-- A command gives back its place: INFLIGHT and CTX_INFLIGHT fall; a queue pair that drains and a context that empties move on
(R116, R117). -/
def Dev.cmdRelease (d : Dev) (c : Cmd) : Dev :=
  let d := (d.cmdRemove c.slot).wr (Reg.QP_STATUS.INFLIGHT c.qp) (d.rd (Reg.QP_STATUS.INFLIGHT c.qp) - 1)
  let d := d.wr (Reg.CTX_INFLIGHT.COUNT c.ctx) (d.rd (Reg.CTX_INFLIGHT.COUNT c.ctx) - 1)
  (d.qpDrained c.qp).ctxSettle c.ctx

/-- The submission read failed: this entry and every later one of its queue pair is not accepted (R119). -/
def Dev.fetchFailed (d : Dev) (c : Cmd) : Dev :=
  let l := (d.cp0.cmds.filter fun x => x.qp == c.qp).dropWhile fun x => x.slot != c.slot
  let l := l.filter fun x => x.phase == .fetching || x.phase == .ready
  (d.queueFault c.qp 4 c.sqIdx).forEach l fun x d => d.cmdRelease x

/-- A check of R135 that fails: major, detail, RESULT, and whether the header signal may still be made. -/
structure PktFault where
  major  : Nat
  detail : Nat
  result : Nat
  signal : Bool
  deriving DecidableEq, Repr

/-- Steps 1 to 8 and 10 of R135, and step 9 without its bookkeeping; `legacy` names a v1 queue pair, `fmt` the entry's FMT byte. -/
def Dev.pktFault (d : Dev) (c : Cmd) (legacy : Bool) (fmt : Nat) : Option PktFault :=
  let at_ (o : Nat) : Nat := (if legacy then 0x08 else 0x20) + o
  if fmt ≠ (if legacy then 1 else 2) then some ⟨0x03, 0x0502, 0, false⟩
  else match opInfo c.opcode with
    | none => some ⟨0x03, 0x0501, 0, false⟩
    | some r =>
      if legacy && !r.v1 then some ⟨0x03, 0x0503, 0, false⟩
      else if d.privilegeBad c r then some ⟨0x10, 0x0520, 0, false⟩
      else if c.paramQw * 8 ≠ r.param then some ⟨0x02, 0x0510, 0x08, false⟩
      else if (c.waits && !d.soAllowed c.ctx c.waitSo) || (c.signalEn && !d.soAllowed c.ctx c.signalSo) then some ⟨0x10, 0x0309, 0, false⟩
      else match firstBad (d.cmdParams c) with
        | some x => some ⟨x.major, x.detail, at_ x.off, true⟩
        | none => match d.rangesRefused c.ctx (d.cmdRanges c) with
          | some (_, det) => some ⟨0x10, det, 0, true⟩
          | none => (d.cmdUnits c).map fun e => ⟨e.major, e.detail, 0, true⟩

/-- The bookkeeping of a refused range (03 R82, R84). -/
def Dev.pktViolation (d : Dev) (c : Cmd) : Dev :=
  match d.rangesRefused c.ctx (d.cmdRanges c) with
  | some (a, det) => d.violation c.ctx byCp a det
  | none => d

/-- The bytes of the entry a command was fetched from. -/
def Dev.entryAt (d : Dev) (c : Cmd) : List Byte :=
  memGetList d.hostMem (d.hostAddr c.ctx (d.sqBase c.qp + c.sqIdx * d.entryBytes c.qp)) (d.entryBytes c.qp)

/-- The packet that an entry runs as: a v2 packet as it stands, a v1 packet by R130; one of the wrong format is kept for its OPCODE and
CMD_ID. -/
def packetOf (legacy : Bool) (bs : List Byte) : Packet :=
  if legacy && fieldAt bs 2 1 == 1 then fromV1 (leNat bs) else BitVec.ofNat 2048 (leNat bs)

/-- An entry whose data have arrived: one that drains or has been stopped ends unstarted, one that fails a check is refused, any other
is ready to start. -/
def Dev.accept (d : Dev) (c : Cmd) : Dev :=
  let bs := d.entryAt c
  let legacy := d.legacy c.qp
  let c := { c with pkt := packetOf legacy bs }
  let d := d.updCmd c.slot fun _ => c
  if c.stop.isSome then d.endCmd c.slot 0x06 0x0541 0
  else if d.qpState c.qp = qsDraining then d.endCmd c.slot 0x06 0x0541 0
  else match d.pktFault c legacy (fieldAt bs 2 1) with
    | some f =>
      let d := if f.major = 0x10 ∧ f.signal then d.pktViolation c else d
      (d.updCmd c.slot fun c => { c with maySignal := f.signal }).endCmd c.slot f.major f.detail f.result
    | none => d.updCmd c.slot fun c => { c with maySignal := true, phase := .ready }

/-- SQ_FETCH_DATA (R118, R119, R135): the read of one entry ends as `outcome` says. -/
def execSqFetchData (slot : Nat) (outcome : HostRead) (s : State) : Out := s.run fun d =>
  match d.cmd? slot with
  | some c =>
    if c.phase != .fetching || !d.coreClocks then d
    else if outcome == .ok && d.hostReadable then d.accept c
    else d.fetchFailed c
  | none => d

/-! ### CMD_END -/

/-- The header signal is due (R128). -/
def Cmd.signalDue (c : Cmd) (major : Nat) : Bool := c.signalEn && c.maySignal && (decide (major ≤ 1) || c.signalOnError)

/-- Make the header signal once. One sent to a mirror's home is answered later; one that fails replaces the status (R128). -/
def Dev.headerSignal (d : Dev) (c : Cmd) : Dev :=
  let d := d.updCmd c.slot fun c => { c with maySignal := false }
  match d.soOp (.cmd c.slot) c.ctx c.signalSo false c.signalAdd with
  | ⟨d, .fail mj dt⟩ => d.updCmd c.slot fun c => { c with fin := some ⟨mj, dt, c.stopResult⟩ }
  | ⟨d, _⟩ => d

/-- The 32 bytes of a completion entry (R140). -/
def Dev.completion (d : Dev) (c : Cmd) (f : Finish) : List Byte :=
  let us := (d.timeNs - c.bellNs) / 1000
  leBytes 4 c.cmdId ++ leBytes 2 c.opcode ++ leBytes 1 f.major ++ leBytes 1 (d.rd (Reg.QP_CQ_PTRS.PHASE c.qp))
    ++ leBytes 2 (if f.major = 0 then 0 else f.detail) ++ leBytes 2 (d.rd (Reg.QP_SQ_PTRS.HEAD c.qp)) ++ leBytes 2 c.qp ++ zeros 2
    ++ leBytes 8 f.result ++ leBytes 4 (min us 0xFFFFFFFF) ++ zeros 4

/-- Write the entry at the ring's tail; one that leaves the host window is lost and faults the queue (R117, R123, R140). -/
def Dev.cqWrite (d : Dev) (c : Cmd) (f : Finish) : Dev :=
  let q := c.qp
  let t := d.rd (Reg.QP_CQ_PTRS.TAIL q)
  let a := d.cqBase q + 32 * t
  if !d.ringInWindow c.ctx a 32 then d.queueFault q 5 t
  else
    let d := d.hostWrite .completion (d.hostAddr c.ctx a) (d.completion c f) (some (d.rd (Reg.QP_CFG.VECTOR q)))
    let d := d.incMod (Reg.QP_DONE.COUNT q)
    if t + 1 = d.cqSize q then (d.wr (Reg.QP_CQ_PTRS.TAIL q) 0).wr (Reg.QP_CQ_PTRS.PHASE q) (1 - d.rd (Reg.QP_CQ_PTRS.PHASE q))
    else d.wr (Reg.QP_CQ_PTRS.TAIL q) (t + 1)

/-- Context counters of a completion (R114). -/
def Dev.countEnd (d : Dev) (c : Cmd) (major : Nat) : Dev :=
  let d := d.inc (if major ≤ 1 then Reg.CTX_CMD_OK.COUNT c.ctx else Reg.CTX_CMD_FAIL.COUNT c.ctx)
  if major = 5 then d.inc (Reg.CTX_TIMEOUTS.COUNT c.ctx) else d

/-- The ABORT that ended a command counts it (R134). -/
def Dev.abortHit (d : Dev) (c : Cmd) (f : Finish) : Dev :=
  if f.major ≠ 0x06 ∨ f.detail ≠ 0x0540 then d
  else match d.cp0.cmds.find? fun a => a.opcode == 0x0102 && a.phase == .running && a.targets.contains c.slot with
    | some a => d.updCmd a.slot fun a => { a with hits := a.hits + 1 }
    | none => d

/-- FW_ACTIVATE with MODE 1 has succeeded (20 R543). -/
def Cmd.activates (c : Cmd) : Bool := c.opcode == 0x0A04 && c.par 1 1 == 1 && c.fin == some ⟨0, 0, 0⟩

/-- The completion of a command: what it held is given up, the entry is written, its place is free (R139, R140). -/
def Dev.complete (d : Dev) (c : Cmd) (f : Finish) : Dev :=
  let d := (d.cmdCleanup c f.major f.detail).cqWrite c f
  let d := d.trace 0 255 (some c.ctx) (some 1) (some c.cmdId) (some c.opcode) (some (f.major + f.detail * 2 ^ 16))
  let d := (((d.countEnd c f.major).abortHit c f).cmdRelease c)
  if c.activates then d.resetRequest .warm 0 5 else d.activateNow

/-- CMD_END (R128, R139, R140): a command that has ended is signalled and completed. It waits for the answer to a signal that it sent,
and FW_ACTIVATE with MODE 1 for every other command. -/
def execCmdEnd (slot : Nat) (s : State) : Out := s.run fun d =>
  match d.cmd? slot with
  | some c =>
    if c.phase != .ended || c.ofBatch || !d.coreClocks || d.cmdTxns slot != 0 then d
    else if d.boot.flr then d.cmdGone slot
    else
      let d := if c.signalDue (c.fin.getD ⟨0, 0, 0⟩).major then d.headerSignal c else d
      match d.cmd? slot with
      | some c =>
        if d.cmdTxns slot != 0 || (c.activates && d.cp0.cmds.any fun x => x.slot != slot && !x.ofBatch) then d
        else d.complete c (c.fin.getD ⟨0, 0, 0⟩)
      | none => d
  | none => d

end Sys2Proof.Machine
end

