-- ==== Sys2Proof/Machine/Mgmt.lean ====
section
/-!
DEFINITION. The management endpoint (21 R548–R560): MCTP, PLDM types 0, 2 and 5, SPDM. The codes of DSP0236, DSP0240, DSP0248,
DSP0267 and DSP0274 are those standards' own (PRESUMED, notes/assumptions/35.md).
-/
namespace Sys2Proof.Machine

/-! ### Requests (R548–R550) -/

/-- Message types: MCTP control, PLDM, SPDM (R548). -/
def mtControl : Nat := 0
def mtPldm : Nat := 1
def mtSpdm : Nat := 5

/-- The busy response of a protocol: ERROR_NOT_READY, or BUSY of SPDM (R548). -/
def busyCode (typ : Nat) : Nat := if typ = mtSpdm then 3 else 4

/-- Answer a request: the completion code, then the fields of a good answer. -/
def Dev.reply (d : Dev) (typ cmd code : Nat) (fields : List Byte := []) : Dev := d.emit (.mgmt typ cmd code fields)

/-- The endpoint is reached over a binding: VDM while the link is DL_Active, SMBus while its pins are not taken (R548; 23 R604); after a
thermal trip nothing is answered (02 R43). -/
def Dev.reached (d : Dev) (vdm : Bool) : Bool :=
  !d.board.tripped && (if vdm then d.pci.link != .down else !d.dbg.pinsTaken)

/-- The device has booted: R550 no longer limits what is answered. -/
def Dev.booted (d : Dev) : Bool := d.ready || d.boot.flr

/-- The oldest waiting request of a type is served: another of that type may come. -/
def Dev.requestTaken (d : Dev) (typ : Nat) : Dev :=
  { d with mgt := { d.mgt with
      requests := (d.mgt.requests.takeWhile fun r => r.1 != typ) ++ (d.mgt.requests.dropWhile fun r => r.1 != typ).drop 1
      busy := d.mgt.busy.filter fun t => t != typ } }

/-- Serve a request. Before READY the SMBus binding serves the `early` ones and answers busy to the rest (R550). -/
def Dev.serve (d : Dev) (vdm : Bool) (typ cmd : Nat) (early : Bool) (f : Dev → Dev) : Dev :=
  if !d.reached vdm then d
  else if d.booted then f (d.requestTaken typ)
  else if vdm then d
  else if early then f (d.requestTaken typ)
  else (d.requestTaken typ).reply typ cmd (busyCode typ)

/-! ### MCTP (R548, R549) -/

/-- The code of the command in a message, which follows its type byte. -/
def messageCode (typ : Nat) (m : List Byte) : Nat := if typ = mtPldm then fieldAt m 2 1 else fieldAt m 1 1

/-- The commands of PLDM types 0, 2 and 5 that the device answers (R551, R557). -/
def pldmCommands : Nat → List Nat
  | 0 => [2, 3, 4, 5]
  | 2 => [0x04, 0x0A, 0x0B, 0x11, 0x21, 0x39, 0x3A, 0x50, 0x51]
  | 5 => [0x01, 0x02, 0x10, 0x13, 0x14, 0x15, 0x16, 0x17, 0x18, 0x1A, 0x1B, 0x1C, 0x1D]
  | _ => []

/-- The code by which a request outside what the device offers is refused: unsupported (R548, R551, R559). -/
def refusedCode (typ : Nat) (m : List Byte) : Option Nat :=
  let c := messageCode typ m
  if typ = mtControl then (if ([1, 2, 3, 4, 5] : List Nat).contains c then none else some 5)
  else if typ = mtPldm then
    let t := fieldAt m 1 1 % 64
    if !([0, 2, 5] : List Nat).contains t then some 0x20 else if (pldmCommands t).contains c then none else some 5
  else if ([0x81, 0x82, 0x83, 0x84, 0xE0, 0xE1, 0xE3] : List Nat).contains c then none
  else some 7

/-- A whole message has arrived (R548): one of a type with a request in progress is answered busy, an unsupported one refused, any
other waits to be served in its order. -/
def Dev.messageIn (d : Dev) (vdm : Bool) (typ : Nat) (m : List Byte) : Dev :=
  let c := messageCode typ m
  if d.mgt.busy.contains typ then d.reply typ c (busyCode typ)
  else match refusedCode typ m with
    | some e => d.serve vdm typ c true fun d => d.reply typ c e
    | none => { d with mgt := { d.mgt with requests := d.mgt.requests ++ [(typ, m)], busy := typ :: d.mgt.busy } }

/-- MCTP_PACKET (R548, R549): dropped and counted when its PEC or header is bad or it is for another; else reassembled up to 4,096 bytes.
`som`, `eom`: first and last packet of a message of type `typ`; `data` its bytes after the type byte. -/
def execMctpPacket (vdm good : Bool) (dest typ : Nat) (som eom : Bool) (data : List Byte) (s : State) : Out := s.run fun d =>
  if !d.reached vdm then d
  else if !good || dest != d.rd Reg.MGT_STATUS.EID || decide (64 < data.length) then
    d.inc (if vdm then Reg.MGT_ERR.VDM_DROPS else Reg.MGT_ERR.SMB_DROPS)
  else if !([0, 1, 5] : List Nat).contains typ then d
  else
    let key := 2 * typ + b2n vdm
    let old : Option (List Byte) := if som then some [] else kvGet key d.mgt.asm
    match old with
    | none => d
    | some old =>
      let m := old ++ data
      let d := { d with mgt := { d.mgt with asm := kvDel key d.mgt.asm } }
      if 4096 ≤ m.length then d
      else if eom then d.messageIn vdm typ m
      else { d with mgt := { d.mgt with asm := kvPut key m d.mgt.asm } }

/-- SET_ENDPOINT_ID (R548). -/
def execSetEndpointId (vdm : Bool) (eid : Nat) (s : State) : Out := s.run fun d => d.serve vdm mtControl 1 true fun d =>
  if eid = 0 ∨ eid = 0xFF then d.reply mtControl 1 2
  else (d.wr Reg.MGT_STATUS.EID eid).reply mtControl 1 0 (leBytes 1 0 ++ leBytes 1 eid ++ leBytes 1 0)

/-- GET_ENDPOINT_ID (R548). -/
def execGetEndpointId (vdm : Bool) (s : State) : Out := s.run fun d => d.serve vdm mtControl 2 true fun d =>
  d.reply mtControl 2 0 (leBytes 1 (d.rd Reg.MGT_STATUS.EID) ++ leBytes 2 0)

/-- GET_ENDPOINT_UUID (R548). -/
def execGetEndpointUuid (vdm : Bool) (s : State) : Out := s.run fun d => d.serve vdm mtControl 3 true fun d =>
  d.reply mtControl 3 0 (Config.standardBytes 1)

/-- GET_MCTP_VERSION_SUPPORT (R548): MCTP Base Specification 1.3. -/
def execGetMctpVersionSupport (vdm : Bool) (s : State) : Out := s.run fun d => d.serve vdm mtControl 4 true fun d =>
  d.reply mtControl 4 0 (leBytes 1 1 ++ leBytes 4 0xF1F3FF00)

/-- GET_MESSAGE_TYPE_SUPPORT (R548). -/
def execGetMessageTypeSupport (vdm : Bool) (s : State) : Out := s.run fun d => d.serve vdm mtControl 5 true fun d =>
  d.reply mtControl 5 0 ([3, 0, 1, 5] : List Byte)

/-! ### PLDM type 0 (R551) -/

/-- GET_TID. -/
def execGetTid (vdm : Bool) (s : State) : Out := s.run fun d => d.serve vdm mtPldm 2 true fun d =>
  d.reply mtPldm 2 0 (Config.standardBytes 2)

/-- GET_PLDM_VERSION of a type. -/
def execGetPldmVersion (vdm : Bool) (typ : Nat) (s : State) : Out := s.run fun d => d.serve vdm mtPldm 3 true fun d =>
  match typ with
  | 0 => d.reply mtPldm 3 0 (Config.standardBytes 3)
  | 2 => d.reply mtPldm 3 0 (leBytes 4 0xF1F2F000)
  | 5 => d.reply mtPldm 3 0 (leBytes 4 0xF1F1F000)
  | _ => d.reply mtPldm 3 0x83

/-- GET_PLDM_TYPES: bits 0, 2 and 5. -/
def execGetPldmTypes (vdm : Bool) (s : State) : Out := s.run fun d => d.serve vdm mtPldm 4 true fun d =>
  d.reply mtPldm 4 0 (leBytes 8 0x25)

/-- GET_PLDM_COMMANDS of a type: a bit for each command. -/
def execGetPldmCommands (vdm : Bool) (typ : Nat) (s : State) : Out := s.run fun d => d.serve vdm mtPldm 5 true fun d =>
  if (pldmCommands typ).isEmpty then d.reply mtPldm 5 0x83
  else d.reply mtPldm 5 0 (leBytes 32 ((pldmCommands typ).map fun c => 2 ^ c).sum)

/-! ### PLDM type 2: PDRs and sensors (R551, R553) -/

/-- Records of the PDR repository: numeric sensors, state sensors, effecters, and an association for each die and stack. -/
def Dev.pdrCount (d : Dev) : Nat :=
  let units := ((List.range 96).filter d.unitPresent).length
  let doms := ((List.range 64).filter d.domPresent).length
  (1 + d.ioDies + d.stacks + 3 + 2 + 9) + (units + 1) + (units + doms + 1) + (1 + d.ioDies + d.stacks)

/-- GET_PDR_REPOSITORY_INFO. -/
def execGetPdrRepositoryInfo (vdm : Bool) (s : State) : Out := s.run fun d => d.serve vdm mtPldm 0x50 false fun d =>
  d.reply mtPldm 0x50 0 (leBytes 4 d.pdrCount ++ Config.standardBytes 4)

/-- GET_PDR of a record. -/
def execGetPdr (vdm : Bool) (record : Nat) (s : State) : Out := s.run fun d => d.serve vdm mtPldm 0x51 false fun d =>
  if record < d.pdrCount then d.reply mtPldm 0x51 0 (Config.standardBytes (0x10000 + record)) else d.reply mtPldm 0x51 0x82

/-- A numeric sensor that does not depend on boot stages still to come (R550): a stack's waits for HBM, a clock's for CP_START. -/
def Dev.sensorEarly (d : Dev) (id : Nat) : Bool :=
  if 0x10 ≤ id ∧ id < 0x20 then decide (6 < d.rd Reg.RST_STATUS.STAGE)
  else if 0x30 ≤ id ∧ id < 0x40 then decide (5 < d.rd Reg.RST_STATUS.STAGE) else true

/-- A signed reading in two bytes. -/
def sint16 (v : Int) : List Byte := leBytes 2 (v % 65536).toNat

/-- GET_SENSOR_READING: operational state 0 enabled, 2 unavailable, and the last good reading; none yet leaves it open. -/
def execGetSensorReading (vdm : Bool) (sensor : Nat) (s : State) : Out := s.run fun d =>
  d.serve vdm mtPldm 0x11 (d.sensorEarly sensor) fun d =>
    if !d.sensorFitted sensor then d.reply mtPldm 0x11 0x80
    else if 0x30 ≤ sensor ∧ sensor < 0x40 then
      d.reply mtPldm 0x11 0 (leBytes 1 0 ++ leBytes 2 (d.rd (Reg.CLK_CCLK.CUR_MHZ (sensor - 0x30))))
    else match kvGet sensor d.mgt.sensors with
      | some x => d.reply mtPldm 0x11 0 (leBytes 1 (if x.unavailable then 2 else 0) ++ sint16 x.value)
      | none => (d.reply mtPldm 0x11 0 (leBytes 1 0 ++ leBytes 2 d.freeVal)).freeNext

/-- The device's state sensor: BOOTING, READY, FAILED. -/
def Dev.deviceState (d : Dev) : Nat := if d.board.bootFailed then 3 else if d.ready then 2 else 1

/-- GET_STATE_SENSOR_READINGS. -/
def execGetStateSensorReadings (vdm : Bool) (sensor : Nat) (s : State) : Out := s.run fun d =>
  d.serve vdm mtPldm 0x21 (sensor == 0x200 || decide (5 < d.rd Reg.RST_STATUS.STAGE)) fun d =>
    let u := sensor - 0x100
    if sensor = 0x200 then d.reply mtPldm 0x21 0 (leBytes 1 d.deviceState)
    else if 0x100 ≤ sensor ∧ u < 96 ∧ d.unitPresent u then d.reply mtPldm 0x21 0 (leBytes 1 (d.unitState u + 1))
    else d.reply mtPldm 0x21 0x80

/-! ### Effecters (R553, R556) -/

/-- A management write of a unit's safety view: refused for a value outside the class and for a fixed unit (R556, R569). The answer is
a completion code. -/
def Dev.mgmtUnit (d : Dev) (u v : Nat) : Dev × Nat :=
  if !d.unitPresent u then (d, 0x80)
  else if unitFixed u || !(v == 1 || v == 2) then (d, 2)
  else if !d.coreClocks then (d, 4)
  else (d.unitWrite u true (v - 1) 1, 0)

/-- A management power request (R556, R568). -/
def Dev.mgmtDomain (d : Dev) (pd v : Nat) : Dev × Nat :=
  if !d.domPresent pd || decide (64 ≤ pd) then (d, 0x80)
  else if v = 0 ∨ 3 < v then (d, 2)
  else if !d.coreClocks then (d, 4)
  else match d.domRefusal pd (v - 1) with
    | some (mj, _) => (d, if mj = 0x04 then 4 else 2)
    | none => (d.domAccept pd (v - 1) true, 0)

/-- What a value of the reset effecter asks for. -/
def resetOf (v : Nat) : Option (ResetKind × Nat) :=
  match v with
  | 1 => some (.cold, 0)
  | 2 => some (.warm, 0)
  | 3 => some (.core, 0)
  | 4 => some (.core, 1)
  | v => if 0x10 ≤ v ∧ v < 0x20 then some (.context, v - 0x10) else none

/-- A management reset request (R526, R527, R556). -/
def Dev.mgmtReset (d : Dev) (v : Nat) : Dev × Nat :=
  match resetOf v with
  | some (k, t) => (d.resetRequest k t 3, 0)
  | none => (d, 2)

/-- Write an effecter. -/
def Dev.mgmtEffect (d : Dev) (id v : Nat) : Dev × Nat :=
  if 0x100 ≤ id ∧ id < 0x160 then d.mgmtUnit (id - 0x100) v
  else if 0x300 ≤ id ∧ id < 0x340 then d.mgmtDomain (id - 0x300) v
  else if id = 0x400 then d.mgmtReset v
  else (d, 0x80)

/-- SET_STATE_EFFECTER_STATES (R556): the completion code reports acceptance. -/
def execSetStateEffecterStates (vdm : Bool) (effecter value : Nat) (s : State) : Out := s.run fun d =>
  d.serve vdm mtPldm 0x39 false fun d =>
    let r := d.mgmtEffect effecter value
    r.1.reply mtPldm 0x39 r.2

/-- GET_STATE_EFFECTER_STATES (R551, R553): the present setting; of the reset effecter, which has none, 0. -/
def execGetStateEffecterStates (vdm : Bool) (effecter : Nat) (s : State) : Out := s.run fun d =>
  d.serve vdm mtPldm 0x3A false fun d =>
    let u := effecter - 0x100
    let p := effecter - 0x300
    if 0x100 ≤ effecter ∧ u < 96 ∧ d.unitPresent u then d.reply mtPldm 0x3A 0 (leBytes 1 (d.rd (Reg.MGT_UNIT.SAFETY u) + 1))
    else if 0x300 ≤ effecter ∧ p < 64 ∧ d.domPresent p then d.reply mtPldm 0x3A 0 (leBytes 1 (d.rd (Reg.MGT_UNIT.PWR_TARGET p) + 1))
    else if effecter = 0x400 then d.reply mtPldm 0x3A 0 (leBytes 1 0)
    else d.reply mtPldm 0x3A 0x80

/-! ### Events (R552, R583) -/

/-- SET_EVENT_RECEIVER (R552): mode 0 Disable, 1 Enable Async, 2 Enable Polling, 3 Enable Async Keep Alive; `recvVdm`: the receiver's
binding is PCIe VDM. -/
def execSetEventReceiver (vdm recvVdm : Bool) (mode : Nat) (s : State) : Out := s.run fun d => d.serve vdm mtPldm 4 false fun d =>
  if 3 ≤ mode ∨ (mode = 1 ∧ !recvVdm) then d.reply mtPldm 4 2
  else
    let d := { d with mgt := { d.mgt with mode := mode, binding := b2n recvVdm, polled := false } }
    let d := (d.wr Reg.MGT_STATUS.RECEIVER (b2n (mode != 0))).wr Reg.MGT_STATUS.POLLING (b2n (mode == 2))
    d.reply mtPldm 4 0

/-- PLATFORM_EVENT_MESSAGE (R552): the oldest pending event goes to the asynchronous receiver while the link is DL_Active. -/
def execPlatformEventMessage (s : State) : Out := s.run fun d =>
  match d.evt.mgmt with
  | e :: rest =>
    if d.mgt.mode == 1 && d.reached true then ({ d with evt := { d.evt with mgmt := rest } } : Dev).emit (.mgmtEvent e) else d
  | [] => d

/-- POLL_FOR_PLATFORM_EVENT_MESSAGE (R552): `ack` acknowledges the event returned last, which is removed; `get` asks for the oldest.
Without polling enabled it is refused. -/
def execPollForPlatformEventMessage (vdm ack get : Bool) (s : State) : Out := s.run fun d => d.serve vdm mtPldm 0x0B false fun d =>
  if d.mgt.mode ≠ 2 then d.reply mtPldm 0x0B 2
  else
    let d := if ack && d.mgt.polled then
        { d with mgt := { d.mgt with polled := false }, evt := { d.evt with mgmt := d.evt.mgmt.drop 1 } }
      else d
    match d.evt.mgmt, get with
    | e :: _, true => ({ d with mgt := { d.mgt with polled := true } } : Dev).emit (.mgmtEvent e)
    | _, _ => d.reply mtPldm 0x0B 0

/-! ### Firmware update (R557, R558) -/

/-- The update's new state; MGT_STATUS.UPDATE follows. -/
def Dev.setUpd (d : Dev) (u : Update) : Dev := ({ d with mgt := { d.mgt with upd := u } } : Dev).wr Reg.MGT_STATUS.UPDATE (b2n u.active)

/-- The boot ROM serves the update alone: stopped with NO_VALID_IMAGE (R558). -/
def Dev.romUpdate (d : Dev) : Bool := d.board.bootFailed && d.rd Reg.RST_STATUS.FAIL == 4

/-- The slot an update writes. -/
def Dev.updSlot (d : Dev) : Nat := if d.romUpdate then 0 else 1 - d.fwActive

/-- A request of an update in a state it does not fit: NOT_IN_UPDATE_MODE or INVALID_STATE_FOR_COMMAND. -/
def Dev.updBad (d : Dev) (states : List Nat) : Option Nat :=
  if !d.mgt.upd.active then some 0x80 else if states.contains d.mgt.upd.state then none else some 0x84

/-- A request of PLDM type 5, served before READY too, in the given states of the update. -/
def Dev.serveUpd (d : Dev) (vdm : Bool) (cmd : Nat) (states : List Nat) (f : Dev → Dev) : Dev :=
  d.serve vdm mtPldm cmd true fun d => match d.updBad states with
    | some e => d.reply mtPldm cmd e
    | none => f d

/-- A FW_STAGE runs, an activation is pending, or a trial runs (R557). -/
def Dev.updRefused (d : Dev) : Bool :=
  d.boot.actPending || d.on Reg.RST_STATUS.TRIAL || d.fwActivating || d.cp0.cmds.any fun c => c.opcode == 0x0A03 && c.phase == .running

/-- REQUEST_UPDATE: pieces of min(MaximumTransferSize, 1,024) bytes. -/
def execRequestUpdate (vdm : Bool) (maxXfer : Nat) (s : State) : Out := s.run fun d => d.serve vdm mtPldm 0x10 true fun d =>
  if d.mgt.upd.active then d.reply mtPldm 0x10 0x81
  else if d.updRefused then d.reply mtPldm 0x10 0x8A
  else if maxXfer < 32 then d.reply mtPldm 0x10 2
  else (d.setUpd { update0 with active := true, state := 1, piece := min maxXfer 1024 }).reply mtPldm 0x10 0

/-- The one component: classification 0x000A, identifier 0x0880. -/
def ourComponent (cls ident : Nat) : Bool := cls == 0x000A && ident == 0x0880

/-- PASS_COMPONENT_TABLE: the answer's first field is 0 when the component may be updated. -/
def execPassComponentTable (vdm : Bool) (cls ident : Nat) (s : State) : Out := s.run fun d => d.serveUpd vdm 0x13 [1] fun d =>
  (d.setUpd { d.mgt.upd with state := 2 }).reply mtPldm 0x13 0 (leBytes 1 (b2n !(ourComponent cls ident)))

/-- The device asks for its next piece. -/
def Dev.askPiece (d : Dev) : Dev :=
  let u := d.mgt.upd
  d.reply mtPldm 0x15 0 (leBytes 4 u.offset ++ leBytes 4 (min u.piece (u.total - u.offset)))

/-- UPDATE_COMPONENT: the transfer begins, unless the component is another or its image cannot fit a slot. -/
def execUpdateComponent (vdm : Bool) (cls ident total : Nat) (s : State) : Out := s.run fun d => d.serveUpd vdm 0x14 [2] fun d =>
  if !ourComponent cls ident || total == 0 || decide (slotBytes < total) then d.reply mtPldm 0x14 0 (leBytes 1 1)
  else
    let d := d.setUpd { d.mgt.upd with state := 3, offset := 0, total := total, image := [], verified := false }
    (d.reply mtPldm 0x14 0 (leBytes 1 0)).askPiece

/-- REQUEST_FIRMWARE_DATA: the piece asked for arrives and is gathered, by the boot ROM in slot A; another length is asked for again. -/
def execRequestFirmwareData (data : List Byte) (s : State) : Out := s.run fun d =>
  let u := d.mgt.upd
  let n := min u.piece (u.total - u.offset)
  if u.state ≠ 3 ∨ n = 0 ∨ d.board.tripped then d
  else if data.length ≠ n then d.askPiece
  else
    let d := if d.romUpdate then d.setSlot 0 (flashPut (if u.offset = 0 then [] else d.boot.slotA) u.offset data)
      else { d with mgt := { d.mgt with upd := { u with image := u.image ++ data } } }
    let d := { d with mgt := { d.mgt with upd := { d.mgt.upd with offset := u.offset + n } } }
    if u.offset + n = u.total then d else d.askPiece

/-- TRANSFER_COMPLETE: the last byte has come. -/
def execTransferComplete (s : State) : Out := s.run fun d =>
  let u := d.mgt.upd
  if u.state ≠ 3 ∨ u.offset ≠ u.total ∨ d.board.tripped then d
  else (d.setUpd { u with state := 4 }).reply mtPldm 0x16 0 (leBytes 1 0)

/-- The image that has been transferred. -/
def Dev.updImage (d : Dev) : List Byte := if d.romUpdate then d.boot.slotA else d.mgt.upd.image

/-- VERIFY_COMPLETE (20 R536, R542 step 1): a failed check ends the update. -/
def execVerifyComplete (s : State) : Out := s.run fun d =>
  let u := d.mgt.upd
  if u.state ≠ 4 ∨ d.board.tripped then d
  else if (d.fwFault d.updImage).isNone && fieldAt d.updImage 0x10 4 + 0x1000 == u.total then
    (d.setUpd { u with state := 5 }).reply mtPldm 0x17 0 (leBytes 1 0)
  else (d.setUpd update0).reply mtPldm 0x17 0 (leBytes 1 1)

/-- APPLY_COMPLETE (20 R542 steps 2-4): the slot is WRITING, programmed, and VALID once read back; `ok`: the read-back matches. The boot
ROM has written slot A already. -/
def execApplyComplete (ok : Bool) (s : State) : Out := s.run fun d =>
  let u := d.mgt.upd
  if u.state ≠ 5 ∨ d.board.tripped then d
  else
    let t := d.updSlot
    let d := if d.romUpdate then d else (d.fwMark t fwWriting).setSlot t u.image
    if ok then ((d.fwMark t fwValid).setUpd { u with state := 2, image := [], verified := true }).reply mtPldm 0x18 0 (leBytes 1 0)
    else (d.setUpd update0).reply mtPldm 0x18 0 (leBytes 1 1)

/-- ACTIVATE_FIRMWARE (R557, R558; 20 R543): with `self` now, by WARM reset once nothing is in flight; else at the next reset. The boot
ROM selects slot A and performs a COLD reset. -/
def execActivateFirmware (vdm self : Bool) (s : State) : Out := s.run fun d => d.serveUpd vdm 0x1A [2] fun d =>
  let t := d.updSlot
  if !d.mgt.upd.verified then d.reply mtPldm 0x1A 0x84
  else match d.fwActivateFault t with
    | some _ => d.reply mtPldm 0x1A 0x84
    | none =>
      if d.romUpdate then (((d.selWrite [(0, 1, 0)]).setUpd update0).reply mtPldm 0x1A 0).resetRequest .cold 0 3
      else
        let d := (d.fwSelect t false self).reply mtPldm 0x1A 0
        if self then ((d.setUpd { update0 with active := true, state := 6 }).fwStopAll none).activateNow
        else (d.setUpd update0).fwShow

/-- GET_STATUS: the state of the update. -/
def execGetStatus (vdm : Bool) (s : State) : Out := s.run fun d => d.serve vdm mtPldm 0x1B true fun d =>
  d.reply mtPldm 0x1B 0 (leBytes 1 d.mgt.upd.state)

/-- CANCEL_UPDATE_COMPONENT: the component's transfer ends; another may begin. -/
def execCancelUpdateComponent (vdm : Bool) (s : State) : Out := s.run fun d => d.serveUpd vdm 0x1C [3, 4, 5] fun d =>
  (d.setUpd { update0 with active := true, state := 2, piece := d.mgt.upd.piece }).reply mtPldm 0x1C 0

/-- CANCEL_UPDATE: the update ends. -/
def execCancelUpdate (vdm : Bool) (s : State) : Out := s.run fun d => d.serveUpd vdm 0x1D [1, 2, 3, 4, 5] fun d =>
  (d.setUpd update0).reply mtPldm 0x1D 0

/-- QUERY_DEVICE_IDENTIFIERS. -/
def execQueryDeviceIdentifiers (vdm : Bool) (s : State) : Out := s.run fun d => d.serve vdm mtPldm 1 true fun d =>
  d.reply mtPldm 1 0 (Config.standardBytes 5)

/-- A number in decimal ASCII. -/
def decimal (n : Nat) : List Byte := (Nat.toDigits 10 n).map fun c => BitVec.ofNat 8 c.toNat

/-- The version string "A.B.C" of a VERSION (R557). -/
def versionText (v : Nat) : List Byte := decimal (bits v 24 8) ++ [0x2E] ++ decimal (bits v 16 8) ++ [0x2E] ++ decimal (bits v 0 16)

/-- GET_FIRMWARE_PARAMETERS: the component, and VERSION of the running image. -/
def execGetFirmwareParameters (vdm : Bool) (s : State) : Out := s.run fun d => d.serve vdm mtPldm 2 true fun d =>
  d.reply mtPldm 2 0 (leBytes 2 0x000A ++ leBytes 2 0x0880 ++ versionText (d.rd Reg.RST_FW.VERSION))

/-- UPDATE_INACTIVITY_TIMEOUT: the update agent has sent nothing for 60 s. -/
def execUpdateInactivityTimeout (s : State) : Out := s.run fun d =>
  if d.mgt.upd.active && d.mgt.upd.state != 6 && !d.board.tripped then d.setUpd update0 else d

/-! ### SPDM (R559, R560) -/

/-- Serve an SPDM request that the connection has come far enough for: 1 after GET_VERSION, 2 capabilities, 3 algorithms. -/
def Dev.serveSpdm (d : Dev) (vdm : Bool) (cmd stage : Nat) (early : Bool) (f : Dev → Dev) : Dev :=
  d.serve vdm mtSpdm cmd early fun d => if d.mgt.spdm < stage then d.reply mtSpdm cmd 4 else f d

/-- Bytes the standard gives a signed answer that the spec does not: its nonce and its ECDSA P-384 signature are free values. -/
def Dev.freeBytes (d : Dev) (n : Nat) : List Byte := (List.range n).map fun i => freeByte d.free i

/-- A signed answer: the fields, a 32-byte nonce, a 96-byte signature. -/
def Dev.replySigned (d : Dev) (cmd : Nat) (fields : List Byte) : Dev :=
  { d.reply mtSpdm cmd 0 (fields ++ d.freeBytes 128) with free := d.free + 16 }

/-- GET_VERSION: 1.2 alone. -/
def execGetVersion (vdm : Bool) (s : State) : Out := s.run fun d => d.serveSpdm vdm 0x84 0 true fun d =>
  ({ d with mgt := { d.mgt with spdm := 1 } } : Dev).reply mtSpdm 0x84 0 (leBytes 1 1 ++ leBytes 2 0x1200)

/-- GET_CAPABILITIES: CERT, CHAL and signed MEAS; CTExponent 16; messages of 4,096 bytes. -/
def execGetCapabilities (vdm : Bool) (s : State) : Out := s.run fun d => d.serveSpdm vdm 0xE1 1 true fun d =>
  ({ d with mgt := { d.mgt with spdm := 2 } } : Dev).reply mtSpdm 0xE1 0 (leBytes 1 16 ++ leBytes 4 0x16 ++ leBytes 4 4096 ++ leBytes 4 4096)

/-- NEGOTIATE_ALGORITHMS: ECDSA P-384, SHA-384 and DMTF measurements, which the requester must offer. -/
def execNegotiateAlgorithms (vdm : Bool) (asym hash meas : Nat) (s : State) : Out := s.run fun d => d.serveSpdm vdm 0xE3 2 true fun d =>
  if bitAt asym 7 && bitAt hash 1 && bitAt meas 0 then
    ({ d with mgt := { d.mgt with spdm := 3 } } : Dev).reply mtSpdm 0xE3 0 (leBytes 1 1 ++ leBytes 4 4 ++ leBytes 4 0x80 ++ leBytes 4 2)
  else d.reply mtSpdm 0xE3 1

/-- The device identity chain of slot 0. -/
def identityChain : List Byte := Config.standardBytes 6

/-- GET_DIGESTS: slot 0 alone. -/
def execGetDigests (vdm : Bool) (s : State) : Out := s.run fun d => d.serveSpdm vdm 0x81 3 false fun d =>
  d.reply mtSpdm 0x81 0 (leBytes 1 1 ++ Config.sha384 identityChain)

/-- GET_CERTIFICATE: a portion of the chain of slot 0. -/
def execGetCertificate (vdm : Bool) (certSlot offset len : Nat) (s : State) : Out := s.run fun d => d.serveSpdm vdm 0x82 3 false fun d =>
  if certSlot ≠ 0 ∨ identityChain.length ≤ offset then d.reply mtSpdm 0x82 1
  else
    let p := (identityChain.drop offset).take (min len 4000)
    d.reply mtSpdm 0x82 0 (leBytes 2 p.length ++ leBytes 2 (identityChain.length - offset - p.length) ++ p)

/-- CHALLENGE with the key of slot 0. -/
def execChallenge (vdm : Bool) (certSlot : Nat) (s : State) : Out := s.run fun d => d.serveSpdm vdm 0x83 3 false fun d =>
  if certSlot ≠ 0 then d.reply mtSpdm 0x83 1 else d.replySigned 0x83 (Config.sha384 identityChain)

/-- A measurement block (R560); blocks 2 to 4 exist from READY on. -/
def Dev.measurement (d : Dev) (index : Nat) : Option (List Byte) :=
  let m := d.mgt.measured
  match index with
  | 1 => some (Config.sha384 (Config.standardBytes 7))
  | 2 => if m.isEmpty then none else some (m.take 48)
  | 3 => if m.isEmpty then none else some ((m.drop 48).take 12)
  | 4 => if m.isEmpty then none else some ((m.drop 60).take 48)
  | 5 => some (leBytes 4 (d.reg Reg.CTL_ASSEMBLY.CODE.reg) ++ leBytes 1 revisionId ++ leBytes 3 d.board.keysRevoked)
  | _ => none

/-- The blocks that exist, each behind its index. -/
def Dev.measurements (d : Dev) (l : List Nat) : List Byte :=
  l.flatMap fun i => match d.measurement i with
    | some b => leBytes 1 i ++ b
    | none => []

/-- GET_MEASUREMENTS: index 0 their number, 0xFF all of them, else one block; signed when asked for. Before READY too (R560). -/
def execGetMeasurements (vdm : Bool) (index : Nat) (signed : Bool) (s : State) : Out := s.run fun d => d.serveSpdm vdm 0xE0 3 true fun d =>
  let all := ([1, 2, 3, 4, 5] : List Nat).filter fun i => (d.measurement i).isSome
  if index ≠ 0 ∧ index ≠ 0xFF ∧ !all.contains index then d.reply mtSpdm 0xE0 1
  else
    let b := leBytes 1 all.length ++ (if index = 0 then [] else d.measurements (if index = 0xFF then all else [index]))
    if signed then d.replySigned 0xE0 b else d.reply mtSpdm 0xE0 0 b

end Sys2Proof.Machine
end

