-- ==== Sys2Proof/Machine/Hehus.lean ====
section
/-!
DEFINITION. The Hehus monitor, debug access and the TAP (chapter 23).
-/
namespace Sys2Proof.Machine

/-! ### Replies (R593) -/

/-- Names of the ERR codes. -/
def hehusErr (n : Nat) : String :=
  ["", "ERR 1 SYNTAX", "ERR 2 LOCKED", "ERR 3 DENIED", "ERR 4 HELD", "ERR 5 BUSY", "ERR 6 UNMAPPED", "ERR 7 TIMEOUT", "ERR 8 AUTH"].getD n ""

/-- A status line ends a command: it is counted and the prompt follows. -/
def Dev.hStatus (d : Dev) (line : String) : Dev := ((d.emit (.hehus line)).emit (.hehus "hehus> ")).inc Reg.DBG_HEHUS.CMDS

def Dev.hOk (d : Dev) : Dev := d.hStatus "OK"
def Dev.hErr (d : Dev) (n : Nat) : Dev := d.hStatus (hehusErr n)

/-- The status line of an outcome, 0 for none of the errors. -/
def Dev.hEnd (d : Dev) (n : Nat) : Dev := if n = 0 then d.hOk else d.hErr n

/-- Print a labelled value. -/
def Dev.hPut (d : Dev) (label : String) (v : Nat) : Dev := d.emit (.hehusData label v)

/-- Hehus takes commands: its serial pins are not taken, no dump runs (R593, R604). -/
def Dev.hIdle (d : Dev) : Bool := !d.dbg.pinsTaken && d.dbg.dump.isNone

/-- A command: its arguments are in range, and the unlock level allows it (R593, R596). -/
def Dev.hCmd (d : Dev) (args : Bool) (level : Nat) (f : Dev → Dev) : Dev :=
  if !args then d.hErr 1 else if d.rd Reg.DBG_STATUS.LEVEL < level then d.hErr 2 else f d

/-! ### Access through the debug block (R598, R599) -/

/-- The debug block as an issuer (DESIGN CHOICE, notes/assumptions/36.md). -/
def byDebug : Issuer := ⟨0, 0, 6⟩

/-- The domain of an address is not ON, or its clock is held. -/
def Dev.dbgHeld (d : Dev) (a : Nat) : Bool :=
  let off := d.board.domHeld || d.board.tripped
  match d.region a with
  | .hbm | .reserved => !d.stackReady (d.stackOf a)
  | .spm _ => let g := (a - spmBase 0) / 0x1000000; off || !d.domOn (domSpm (g / 4) (g % 4))
  | .hall => off || !d.domOn (domHall (hallQuarter a))
  | .so => off
  | .ctl => match regAt (a - ctlBase) with
    | some (_, base) => !d.regServed 1 base
    | none => false
  | _ => false

/-- Why an address is not accessed: UNMAPPED, DENIED for the host window, HELD; 0 when it is. -/
def Dev.dbgBlocked (d : Dev) (a : Nat) : Nat :=
  match d.region a with
  | .unmapped => 6
  | .host => 3
  | _ => if d.dbgHeld a then 4 else 0

/-- The BAR0 offset behind a control or sync-object address (03 R60; 07 R204). -/
def dbgOff (a : Nat) : Nat := if ctlBase ≤ a then a - ctlBase else 0x1C00000 + (a - soBase)

/-- What a debug read answers: the error number, or the dword, none when it is uncorrectable. -/
structure DbgGot where
  dev : Dev
  err : Nat
  val : Option Nat

/-- Read an aligned dword. -/
def Dev.dbgRead (d : Dev) (a : Nat) : DbgGot :=
  match d.dbgBlocked a with
  | 0 =>
    match d.region a with
    | .ctl | .so =>
      let g := d.regRead 1 (dbgOff a) false
      ⟨g.dev, 0, if g.poisoned then none else some g.val⟩
    | r =>
      let w := a / 8 * 8
      if d.ue.contains w then ⟨d.meetUe byDebug.src w none, 0, none⟩
      else
        let d := if r == .hall then d else d.correctRange a 4
        let d := if r == .hbm || r == .reserved then d.countHbm false a 4 else d
        ⟨d, 0, some (d.peekNat a 4)⟩
  | e => ⟨d, e, none⟩

/-- Print a dword read, or `UE` for one that is uncorrectable. -/
def Dev.hDword (d : Dev) (a : Nat) (v : Option Nat) : Dev :=
  match v with
  | some v => d.hPut "DWORD" v
  | none => d.hPut "UE" a

/-- Read and print `n` dwords up to the first that is not accessed; the error number. -/
def Dev.hReads (d : Dev) (a : Nat) : (n : Nat) → Dev × Nat
  | 0 => (d, 0)
  | n + 1 =>
    let g := d.dbgRead a
    if g.err ≠ 0 then (g.dev, g.err) else (g.dev.hDword a g.val).hReads (a + 4) n

/-- A register that no write through Hehus reaches: the sync objects' (R598). -/
def dbgWriteDenied (off : Nat) : Bool := decide (0x1C00000 ≤ off ∧ off < 0x1C10000)

/-- Write 4 or 8 aligned bytes; the error number. A part of an uncorrectable word is not written (13 R334). -/
def Dev.dbgWrite (d : Dev) (a : Nat) (bs : List Byte) : Dev × Nat :=
  match d.region a with
  | .unmapped => (d, 6)
  | .reserved | .hall | .so | .host => (d, 3)
  | .ctl =>
    if dbgWriteDenied (dbgOff a) then (d, 3)
    else if d.dbgHeld a then (d, 4)
    else
      let d := d.dwordWrite 1 (dbgOff a) (fieldAt bs 0 4)
      (if bs.length = 8 then d.dwordWrite 1 (dbgOff a + 4) (fieldAt bs 4 4) else d, 0)
  | r =>
    let w := a / 8 * 8
    if d.dbgHeld a then (d, 4)
    else if bs.length < 8 ∧ d.ue.contains w then (d.meetUe byDebug.src w none, 0)
    else
      let d := (d.correctRange a bs.length).poke a bs
      (if r == .hbm then d.countHbm true a bs.length else d, 0)

/-- Write `n` 8-byte words up to the first that is not accessed. -/
def Dev.hFills (d : Dev) (a v : Nat) : (n : Nat) → Dev × Nat
  | 0 => (d, 0)
  | n + 1 =>
    match d.dbgWrite a (leBytes 8 v) with
    | (d, 0) => d.hFills (a + 8) v n
    | r => r

/-! ### Locking (R594, R595) -/

/-- A new nonce of 256 bits, which replaces an older one. -/
def Dev.newNonce (d : Dev) (level : Nat) : Dev × Nat :=
  let n := (List.range 4).foldl (fun x i => x * 2 ^ 64 + (Config.freeQWord (d.free + i)).toNat) 0
  ({ d with free := d.free + 4, dbg := { d.dbg with nonce := some (level, n) } }, n)

/-- An unlock asked for at a level: DENIED with DEBUG_DISABLE, AUTH during the refusal, else a nonce. -/
def Dev.askNonce (d : Dev) (level : Nat) : Dev × Except Nat Nat :=
  if d.board.debugDisable then (d, .error 3)
  else if d.on Reg.DBG_UNLOCK.BACKOFF then (d, .error 8)
  else let r := d.newNonce level; (r.1, .ok r.2)

/-- The 48-byte message that is signed: nonce, level, serial number, zeros. -/
def unlockMessage (nonce level serial : Nat) : List Byte := (leBytes 32 nonce).reverse ++ leBytes 1 level ++ leBytes 8 serial ++ zeros 7

/-- A response: it uses up the nonce; the third failure in a row starts the refusal. Whether it is good. -/
def Dev.respond (d : Dev) (sig : List Byte) : Dev × Bool :=
  let good : Option Nat := match d.dbg.nonce with
    | some (l, n) =>
      if !d.board.debugDisable && !bitAt d.board.keysRevoked 4 && Config.signatureOk 4 (unlockMessage n l d.board.serial) sig then some l else none
    | none => none
  let d := { d with dbg := { d.dbg with nonce := none } }
  match good with
  | some l => (({ d with dbg := { d.dbg with failRun := 0 } } : Dev).wr Reg.DBG_STATUS.LEVEL l, true)
  | none =>
    let d := ({ d with dbg := { d.dbg with failRun := d.dbg.failRun + 1 } } : Dev).inc Reg.DBG_UNLOCK.FAILS
    (if 3 ≤ d.dbg.failRun then d.wr Reg.DBG_UNLOCK.BACKOFF 1 else d, false)

/-! ### The commands (R596) -/

/-- The commands, one line each. -/
def helpLines : List String :=
  ["help", "info", "unlock", "resp", "lock", "baud", "rd", "wr", "dump", "fill", "so", "inn", "pwr", "unit", "events", "trace", "reset"]

def Dev.hHelp (d : Dev) : Dev := d.hCmd true 0 fun d => (d.forEach helpLines fun l d => d.emit (.hehus l)).hOk

/-- Baud rates in the order of R592. -/
def bauds : List Nat := [115200, 230400, 460800, 921600, 1000000, 2000000, 3000000]

def Dev.hInfo (d : Dev) : Dev := d.hCmd true 0 fun d =>
  let d := ((d.hPut "CTL_ASSEMBLY" (d.reg Reg.CTL_ASSEMBLY.CODE.reg)).hPut "REVISION" revisionId).hPut "SERIAL" d.board.serial
  let d := (d.hPut "RST_STATUS" (d.reg Reg.RST_STATUS.READY.reg)).hPut "VERSION" (d.rd Reg.RST_FW.VERSION)
  ((d.hPut "LEVEL" (d.rd Reg.DBG_STATUS.LEVEL)).hPut "BAUD" (bauds.getD (d.rd Reg.DBG_STATUS.BAUD) 0)).hOk

def Dev.hUnlock (d : Dev) (level : Nat) : Dev := d.hCmd (level == 1 || level == 2) 0 fun d =>
  match d.askNonce level with
  | (d, .ok n) => (d.hPut "CHAL" n).hOk
  | (d, .error e) => d.hErr e

def Dev.hResp (d : Dev) (sig : List Byte) : Dev := d.hCmd (sig.length == 96) 0 fun d =>
  let r := d.respond sig
  if r.2 then r.1.hOk else r.1.hErr 8

def Dev.hLock (d : Dev) : Dev := d.hCmd true 0 fun d => (d.wr Reg.DBG_STATUS.LEVEL 0).hOk

/-- The new rate takes over 10 ms after the reply (R592). -/
def Dev.hBaud (d : Dev) (rate : Nat) : Dev := d.hCmd (bauds.contains rate) 0 fun d =>
  ({ d with dbg := { d.dbg with baudNext := some (bauds.idxOf rate) } } : Dev).hOk

def Dev.hRd (d : Dev) (a n : Nat) : Dev := d.hCmd (a % 4 == 0 && decide (1 ≤ n) && decide (n ≤ 256)) 1 fun d =>
  let r := d.hReads a n
  r.1.hEnd r.2

def Dev.hWr (d : Dev) (a v : Nat) : Dev := d.hCmd (a % 4 == 0 && decide (v < 2 ^ 32)) 2 fun d =>
  let r := d.dbgWrite a (leBytes 4 v)
  r.1.hEnd r.2

def Dev.hFill (d : Dev) (a len v : Nat) : Dev :=
  d.hCmd (a % 8 == 0 && len % 8 == 0 && decide (8 ≤ len) && decide (len ≤ 0x100000) && decide (v < 2 ^ 64)) 2 fun d =>
    let r := d.hFills a v (len / 8)
    r.1.hEnd r.2

/-- VALUE and CFG of a sync object and its registered waits: SO, condition, comparison value. -/
def Dev.hSo (d : Dev) (n : Nat) (ue : Bool) : Dev := d.hCmd (decide (n < 4096)) 1 fun d =>
  if d.dbgHeld soBase then d.hErr 4
  else
    let d := if ue then d.soMeetUe n else d
    if d.so.ue.contains n then (d.hPut "UE" n).hOk
    else
      let d := (d.hPut "VALUE" (d.soValue n)).hPut "CFG" (d.reg (Reg.SO_CFG.KIND n).reg)
      (d.forEach (d.so.waiters.filter fun w => w.so == n) fun w d => (d.hPut "WAIT" w.cond).hPut "CMP" w.cmp).hOk

/-- One SET or ADD (07 R195). -/
def Dev.hSoOp (d : Dev) (n v : Nat) (set : Bool) : Dev := d.hCmd (decide (n < 4096) && decide (v < 2 ^ (if set then 64 else 32))) 2 fun d =>
  if d.dbgHeld soBase then d.hErr 4
  else if set then (({ d with so := { d.so with ue := d.so.ue.filter fun x => x != n } } : Dev).soHost n true v).hOk
  else (if d.so.ue.contains n then d else d.soHost n false v).hOk

/-- Arguments of `inn`: a class in use. -/
def Dev.innArgs (d : Dev) (cls guest : Nat) : Bool := decide (cls < 16) && decide (guest < 2 ^ 24) && (kvGet cls d.inn.classes).isSome

/-- As INN_QUERY OP 0 (14 R367). -/
def Dev.hInn (d : Dev) (cls guest : Nat) : Dev := d.hCmd (d.innArgs cls guest) 1 fun d =>
  if !d.coreClocks then d.hErr 4
  else match d.room? cls guest with
    | none => (d.hPut "INN" 0).hOk
    | some r =>
      let st := if r.bad then 5 else roomCode r.state
      (d.hPut "INN" (r.step + st * 2 ^ 32 + b2n r.pinned * 2 ^ 35 + b2n (inHall r.addr) * 2 ^ 36)).hOk

/-- The published image (14 R366). A room that is BUSY, or none, answers an error; a poisoned one `UE`. -/
def Dev.hInnImage (d : Dev) (cls guest : Nat) : Dev := d.hCmd (d.innArgs cls guest) 1 fun d =>
  if !d.coreClocks then d.hErr 4
  else match d.room? cls guest with
    | none => d.hErr 3
    | some r =>
      if r.state = .busy then d.hErr 5
      else if r.state = .poisoned ∨ r.bad then (d.hPut "UE" r.addr).hOk
      else match d.innRead (d.classCtx cls) r.addr (d.roomSize cls) with
        | (d, .ok bs) => (d.hPut "IMAGE" (leNat bs)).hOk
        | (d, .bad) => ((d.poison r).hPut "UE" r.addr).hOk
        | (d, .fail _) => d.hErr 4

def Dev.hPwr (d : Dev) : Dev := d.hCmd true 1 fun d =>
  (d.forEach (List.range 64) fun p d => d.hPut "PWR_DOM" (d.reg (Reg.PWR_DOM.STATE p).reg)).hOk

/-- The ERR of a management request that answers a PLDM completion code (R597). -/
def mgmtErr (code : Nat) : Nat :=
  match code with
  | 0 => 0
  | 4 => 5
  | 0x80 => 1
  | _ => 3

/-- A domain-effecter write: 1 ON, 2 RETENTION, 3 OFF. -/
def Dev.hPwrSet (d : Dev) (dom v : Nat) : Dev := d.hCmd (decide (dom < 64)) 2 fun d =>
  if !d.live then d.hErr 4
  else let r := d.mgmtDomain dom v; r.1.hEnd (mgmtErr r.2)

def Dev.hUnit (d : Dev) (u : Nat) : Dev := d.hCmd (decide (u < 96)) 1 fun d => (d.hPut "MGT_UNIT" (d.reg (Reg.MGT_UNIT.WORK u).reg)).hOk

/-- A safety-view write: 1 ONLINE, 2 OFFLINE. -/
def Dev.hUnitSet (d : Dev) (u v : Nat) : Dev := d.hCmd (decide (u < 96)) 2 fun d =>
  if !d.live then d.hErr 4
  else let r := d.mgmtUnit u v; r.1.hEnd (mgmtErr r.2)

def Dev.hEvents (d : Dev) : Dev := d.hCmd true 1 fun d =>
  (((d.hPut "ERR_EVT_PENDING" (d.reg Reg.ERR_EVT_PENDING.COUNT.reg)).hPut "ERR_EVT_SEQ" (d.reg Reg.ERR_EVT_SEQ.SEQ.reg)).hPut
    "ERR_LAST_FATAL" (d.reg Reg.ERR_LAST_FATAL.CODE.reg)).hOk

/-- A trace command while the host owns the unit, or its domain is not ON (R601). -/
def Dev.hTrace (d : Dev) (args power : Bool) (f : Dev → Dev) : Dev := d.hCmd args 2 fun d =>
  if power && !d.domOn domDebug then d.hErr 4 else if d.rd Reg.DBG_STATUS.OWNER = 1 then d.hErr 5 else (f d).hOk

def Dev.hTraceStart (d : Dev) (mask : Nat) (wrap : Bool) : Dev := d.hTrace (decide (mask < 256)) true fun d => d.traceStart 2 mask 0xFF wrap
def Dev.hTraceStop (d : Dev) : Dev := d.hTrace true false fun d => d.traceStop
def Dev.hTraceClear (d : Dev) : Dev := d.hTrace true false fun d => d.traceClear

/-- A reset-effecter write, with its value there. The reply leaves before the reset begins. -/
def Dev.hReset (d : Dev) (v : Nat) : Dev := d.hCmd (resetOf v).isSome 2 fun d =>
  if (d.board.tripped && v != 1) || (d.board.bootFailed && decide (2 < v)) then d.hErr 4 else (d.hOk.mgmtReset v).1

/-! ### Dumps (R593, R596) -/

/-- The bytes of a dump line: its dwords are read; the error number, or the bytes, none when a word is uncorrectable. -/
def Dev.dumpRead (d : Dev) (a : Nat) : (dwords : Nat) → Dev × Nat × Option (List Byte)
  | 0 => (d, 0, some [])
  | n + 1 =>
    let g := d.dbgRead a
    if g.err ≠ 0 then (g.dev, g.err, none)
    else
      let r := g.dev.dumpRead (a + 4) n
      (r.1, r.2.1, match g.val, r.2.2 with
        | some v, some l => some (leBytes 4 v ++ l)
        | _, _ => none)

/-- Print the next line of the running dump. It ends after the last, or at an address that is not accessed. -/
def Dev.dumpLine (d : Dev) : Dev :=
  let stop (d : Dev) : Dev := { d with dbg := { d.dbg with dump := none } }
  match d.dbg.dump with
  | none => d
  | some x =>
    if x.trace then
      match x.recs with
      | [] => (stop d).hOk
      | r :: rest =>
        let d := d.hPut "TRACE" (leNat r)
        if rest.isEmpty then (stop d).hOk else { d with dbg := { d.dbg with dump := some { x with recs := rest } } }
    else
      let n := min 16 x.left
      let lo := x.next / 4 * 4
      match d.dumpRead lo (cdiv (x.next + n - lo) 4) with
      | (d, 0, bs) =>
        let d := match bs with
          | some l => d.hPut "DUMP" (leNat ((l.drop (x.next - lo)).take n))
          | none => d.hPut "UE" x.next
        if x.left = n then (stop d).hOk else { d with dbg := { d.dbg with dump := some { x with next := x.next + n, left := x.left - n } } }
      | (d, e, _) => (stop d).hErr e

def Dev.hDump (d : Dev) (a len : Nat) : Dev := d.hCmd (decide (1 ≤ len) && decide (len ≤ 0x100000)) 1 fun d =>
  ({ d with dbg := { d.dbg with dump := some ⟨false, a, len, []⟩ } } : Dev).dumpLine

/-- The newest `n` records, or every one (0). -/
def Dev.hTraceDump (d : Dev) (n : Nat) : Dev := d.hCmd (decide (n ≤ traceSize)) 1 fun d =>
  if !d.domOn domDebug then d.hErr 4
  else
    let recs := if n = 0 then d.dbg.trace else d.traceNewest n
    ({ d with dbg := { d.dbg with dump := some ⟨true, 0, 0, recs⟩ } } : Dev).dumpLine

/-! ### Lines (R593) -/

/-- ASCII. -/
def ascii (s : String) : List Byte := s.toList.map fun c => BitVec.ofNat 8 c.toNat

/-- Words of a line. -/
def words (l : List Byte) : List (List Byte) :=
  (l.foldr (fun b (w : List (List Byte)) => match w with
    | x :: rest => if b = 0x20 then [] :: x :: rest else (b :: x) :: rest
    | [] => []) [[]]).filter fun x => !x.isEmpty

/-- The value of a digit. -/
def digit (b : Byte) : Option Nat :=
  let n := b.toNat
  if 0x30 ≤ n ∧ n ≤ 0x39 then some (n - 0x30)
  else if 0x41 ≤ n ∧ n ≤ 0x46 then some (n - 0x41 + 10)
  else if 0x61 ≤ n ∧ n ≤ 0x66 then some (n - 0x61 + 10) else none

/-- Digits in a base. -/
def digits (base : Nat) (l : List Byte) : Option Nat :=
  l.foldl (fun acc b => match acc, digit b with
    | some n, some v => if v < base then some (n * base + v) else none
    | _, _ => none) (if l.isEmpty then none else some 0)

/-- A number: hexadecimal behind 0x, else decimal; underscores are ignored. -/
def number (w : List Byte) : Option Nat :=
  match w.filter fun b => b != 0x5F with
  | 0x30 :: 0x78 :: l => digits 16 l
  | l => digits 10 l

/-- The bytes of `resp`: groups of eight hex digits. -/
def hexGroups (l : List (List Byte)) : Option (List Byte) :=
  l.foldr (fun w acc => match acc, digits 16 w with
    | some bs, some v => if w.length = 8 then some ((leBytes 4 v).reverse ++ bs) else none
    | _, _ => none) (some [])

/-- Run an effect of one number. -/
def with1 (a : List Byte) (f : Nat → Dev → Dev) : Option (Dev → Dev) := (number a).map f

/-- Run an effect of two numbers. -/
def with2 (a b : List Byte) (f : Nat → Nat → Dev → Dev) : Option (Dev → Dev) := (number a).bind fun x => (number b).map (f x)

/-- Commands with no argument. -/
def plainCommand (c : List Byte) : Option (Dev → Dev) :=
  if c = ascii "help" then some Dev.hHelp
  else if c = ascii "info" then some Dev.hInfo
  else if c = ascii "lock" then some Dev.hLock
  else if c = ascii "pwr" then some Dev.hPwr
  else if c = ascii "events" then some Dev.hEvents
  else none

/-- Commands with one argument. -/
def command1 (c a : List Byte) : Option (Dev → Dev) :=
  if c = ascii "unlock" then with1 a fun x d => d.hUnlock x
  else if c = ascii "baud" then with1 a fun x d => d.hBaud x
  else if c = ascii "rd" then with1 a fun x d => d.hRd x 1
  else if c = ascii "so" then with1 a fun x d => d.hSo x false
  else if c = ascii "unit" then with1 a fun x d => d.hUnit x
  else if c = ascii "trace" then
    if a = ascii "stop" then some Dev.hTraceStop
    else if a = ascii "clear" then some Dev.hTraceClear
    else if a = ascii "dump" then some fun d => d.hTraceDump 0
    else none
  else if c = ascii "reset" then
    if a = ascii "cold" then some fun d => d.hReset 1
    else if a = ascii "warm" then some fun d => d.hReset 2
    else none
  else none

/-- Commands with two arguments. -/
def command2 (c a b : List Byte) : Option (Dev → Dev) :=
  if c = ascii "rd" then with2 a b fun x n d => d.hRd x n
  else if c = ascii "wr" then with2 a b fun x v d => d.hWr x v
  else if c = ascii "dump" then with2 a b fun x n d => d.hDump x n
  else if c = ascii "inn" then with2 a b fun x g d => d.hInn x g
  else if c = ascii "pwr" then
    if b = ascii "on" then with1 a fun x d => d.hPwrSet x 1
    else if b = ascii "ret" then with1 a fun x d => d.hPwrSet x 2
    else if b = ascii "off" then with1 a fun x d => d.hPwrSet x 3
    else none
  else if c = ascii "unit" then
    if b = ascii "online" then with1 a fun x d => d.hUnitSet x 1
    else if b = ascii "offline" then with1 a fun x d => d.hUnitSet x 2
    else none
  else if c = ascii "trace" then
    if a = ascii "start" then with1 b fun m d => d.hTraceStart m false
    else if a = ascii "dump" then with1 b fun n d => if n = 0 then d.hErr 1 else d.hTraceDump n
    else none
  else if c = ascii "reset" then
    if a = ascii "core" then with1 b fun x d => if 1 < x then d.hErr 1 else d.hReset (3 + x)
    else if a = ascii "ctx" then with1 b fun x d => if 15 < x then d.hErr 1 else d.hReset (0x10 + x)
    else none
  else none

/-- Commands with three arguments. -/
def command3 (c a b e : List Byte) : Option (Dev → Dev) :=
  if c = ascii "fill" then (number e).bind fun v => with2 a b fun x n d => d.hFill x n v
  else if c = ascii "so" ∧ b = ascii "set" then with2 a e fun n v d => d.hSoOp n v true
  else if c = ascii "so" ∧ b = ascii "add" then with2 a e fun n v d => d.hSoOp n v false
  else if c = ascii "inn" ∧ e = ascii "image" then with2 a b fun x g d => d.hInnImage x g
  else if c = ascii "trace" ∧ a = ascii "start" ∧ e = ascii "wrap" then with1 b fun m d => d.hTraceStart m true
  else none

/-- The command that a line spells (R596). -/
def lineCommand (ws : List (List Byte)) : Option (Dev → Dev) :=
  match ws with
  | [c] => plainCommand c
  | [c, a] => command1 c a
  | [c, a, b] => command2 c a b
  | [c, a, b, e] => command3 c a b e
  | c :: l => if c = ascii "resp" then (hexGroups l).map fun sig d => d.hResp sig else none
  | [] => none

/-- Run a line: echoed; SYNTAX when it is longer than 256 characters or spells no command. -/
def Dev.runLine (d : Dev) (l : List Byte) : Dev :=
  let d := d.emit (.hehusData "ECHO" (leNat l))
  if 256 < l.length then d.hErr 1
  else if (words l).isEmpty then d.emit (.hehus "hehus> ")
  else match lineCommand (words l) with
    | some f => f d
    | none => d.hErr 1

/-- Lines that have been buffered run once no dump does. -/
def Dev.runBuffer (d : Dev) : (fuel : Nat) → Dev
  | 0 => d
  | n + 1 =>
    if d.dbg.dump.isSome || !d.dbg.buf.contains 0x0D then d
    else
      let l := d.dbg.buf.takeWhile fun b => b != 0x0D
      (({ d with dbg := { d.dbg with buf := (d.dbg.buf.drop (l.length + 1)) } } : Dev).runLine l).runBuffer n

/-- HEHUS_LINE (R593): a line arrives, without its end. While a dump runs it is buffered, up to 256 bytes. -/
def execHehusLine (line : List Byte) (s : State) : Out := s.run fun d =>
  if d.dbg.pinsTaken then d
  else if d.dbg.dump.isSome then { d with dbg := { d.dbg with buf := (d.dbg.buf ++ line ++ [0x0D]).take 256 } }
  else
    let head := d.dbg.buf
    ({ d with dbg := { d.dbg with buf := [] } } : Dev).runLine (head ++ line)

/-- The running command ends; what was buffered runs. -/
def Dev.dumpOver (d : Dev) (status : Nat) : Dev := (({ d with dbg := { d.dbg with dump := none } } : Dev).hEnd status).runBuffer 257

/-- HEHUS_INTERRUPT (R593): the byte 0x03. -/
def execHehusInterrupt (s : State) : Out := s.run fun d => if d.dbg.pinsTaken || d.dbg.dump.isNone then d else d.dumpOver 0

/-- HEHUS_ACCESS_TIMEOUT (R599): an access has not completed within 1 ms; its command ends. -/
def execHehusAccessTimeout (s : State) : Out := s.run fun d => if d.dbg.pinsTaken then d else d.dumpOver 7

/-! ### Rows of the commands: each runs when Hehus takes commands -/

/-- Run a command of Hehus. -/
def State.runHehus (s : State) (f : Dev → Dev) : Out := s.run fun d => if d.hIdle then f d else d

/-- HEHUS_HELP (R596). -/
def execHehusHelp (s : State) : Out := s.runHehus fun d => d.hHelp

/-- HEHUS_INFO (R596). -/
def execHehusInfo (s : State) : Out := s.runHehus fun d => d.hInfo

/-- HEHUS_UNLOCK (R595). -/
def execHehusUnlock (level : Nat) (s : State) : Out := s.runHehus fun d => d.hUnlock level

/-- HEHUS_RESP (R595). -/
def execHehusResp (sig : List Byte) (s : State) : Out := s.runHehus fun d => d.hResp sig

/-- HEHUS_LOCK (R594). -/
def execHehusLock (s : State) : Out := s.runHehus fun d => d.hLock

/-- HEHUS_BAUD (R592). -/
def execHehusBaud (rate : Nat) (s : State) : Out := s.runHehus fun d => d.hBaud rate

/-- BAUD_SWITCH (R592). -/
def execBaudSwitch (s : State) : Out := s.run fun d =>
  match d.dbg.baudNext with
  | some i => ({ d with dbg := { d.dbg with baudNext := none } } : Dev).wr Reg.DBG_STATUS.BAUD i
  | none => d

/-- NONCE_EXPIRY (R595). -/
def execNonceExpiry (s : State) : Out := s.run fun d => { d with dbg := { d.dbg with nonce := none } }

/-- UNLOCK_BACKOFF_END (R595). -/
def execUnlockBackoffEnd (s : State) : Out := s.run fun d =>
  if d.on Reg.DBG_UNLOCK.BACKOFF then ({ d with dbg := { d.dbg with failRun := 0 } } : Dev).wr Reg.DBG_UNLOCK.BACKOFF 0 else d

/-- HEHUS_RD (R598). -/
def execHehusRd (addr count : Nat) (s : State) : Out := s.runHehus fun d => d.hRd addr count

/-- HEHUS_WR (R598). -/
def execHehusWr (addr value : Nat) (s : State) : Out := s.runHehus fun d => d.hWr addr value

/-- HEHUS_DUMP (R596, R598): the first line of a dump, or the next line of one that runs. -/
def execHehusDump (addr len : Nat) (s : State) : Out := s.run fun d =>
  if d.dbg.pinsTaken then d else (if d.dbg.dump.isSome then d.dumpLine else d.hDump addr len).runBuffer 257

/-- HEHUS_FILL (R598). -/
def execHehusFill (addr len value : Nat) (s : State) : Out := s.runHehus fun d => d.hFill addr len value

/-- HEHUS_SO (R596; 22 R586); `ue`: the object turns out uncorrectable. -/
def execHehusSo (n : Nat) (ue : Bool) (s : State) : Out := s.runHehus fun d => d.hSo n ue

/-- HEHUS_SO_SET (07 R195). -/
def execHehusSoSet (n value : Nat) (s : State) : Out := s.runHehus fun d => d.hSoOp n value true

/-- HEHUS_SO_ADD (07 R195). -/
def execHehusSoAdd (n value : Nat) (s : State) : Out := s.runHehus fun d => d.hSoOp n value false

/-- HEHUS_INN (14 R367). -/
def execHehusInn (cls guest : Nat) (s : State) : Out := s.runHehus fun d => d.hInn cls guest

/-- HEHUS_INN_IMAGE (14 R366); `bad`: words of the image that turn out bad. -/
def execHehusInnImage (cls guest : Nat) (bad : List (Nat × Bool)) (s : State) : Out := s.runHehus fun d =>
  let d := match d.room? cls guest with
    | some r => d.sprout (bad.filter fun x => touchesWord r.addr (d.roomSize cls) (x.1 / 8 * 8))
    | none => d
  d.hInnImage cls guest

/-- HEHUS_PWR (R596). -/
def execHehusPwr (s : State) : Out := s.runHehus fun d => d.hPwr

/-- HEHUS_PWR_SET (R597): target 1 ON, 2 RETENTION, 3 OFF. -/
def execHehusPwrSet (dom target : Nat) (s : State) : Out := s.runHehus fun d => d.hPwrSet dom target

/-- HEHUS_UNIT (R596). -/
def execHehusUnit (u : Nat) (s : State) : Out := s.runHehus fun d => d.hUnit u

/-- HEHUS_UNIT_SET (R597; 21 R567). -/
def execHehusUnitSet (u : Nat) (offline : Bool) (s : State) : Out := s.runHehus fun d => d.hUnitSet u (1 + b2n offline)

/-- HEHUS_EVENTS (R596). -/
def execHehusEvents (s : State) : Out := s.runHehus fun d => d.hEvents

/-- HEHUS_TRACE_START (R601). -/
def execHehusTraceStart (mask : Nat) (wrap : Bool) (s : State) : Out := s.runHehus fun d => d.hTraceStart mask wrap

/-- HEHUS_TRACE_STOP (R601). -/
def execHehusTraceStop (s : State) : Out := s.runHehus fun d => d.hTraceStop

/-- HEHUS_TRACE_CLEAR (R601). -/
def execHehusTraceClear (s : State) : Out := s.runHehus fun d => d.hTraceClear

/-- HEHUS_TRACE_DUMP (R601): the first record of a dump of the newest `count`, 0 for all, or the next of one that runs. -/
def execHehusTraceDump (count : Nat) (s : State) : Out := s.run fun d =>
  if d.dbg.pinsTaken then d else (if d.dbg.dump.isSome then d.dumpLine else d.hTraceDump count).runBuffer 257

/-- HEHUS_RESET (R597), by the value of the reset effecter: 1 COLD, 2 WARM, 3 and 4 CORE, 0x10 + c CONTEXT. -/
def execHehusReset (value : Nat) (s : State) : Out := s.runHehus fun d => d.hReset value

/-! ### The TAP (R603, R604) -/

/-- The instructions that take the pins. -/
def tapTakes (instr : Nat) : Bool := decide (3 ≤ instr) && decide (instr ≤ 7)

/-- An instruction is selected: it takes the pins at once or not; when the TAP leaves one that took them, the device takes a COLD reset
with cause MGMT. -/
def Dev.tapSelect (d : Dev) (instr : Nat) : Dev :=
  let left := d.dbg.pinsTaken && d.dbg.tapInstr != instr
  let d := { d with dbg := { d.dbg with tapInstr := instr, pinsTaken := tapTakes instr } }
  if left then d.resetRequest .cold 0 3 else d

/-- What a data register shifts out when the spec does not give it: the pins as sampled. -/
def Dev.tdoPins (d : Dev) : Dev := (d.emit (.tdo d.freeVal)).freeNext

/-- IDCODE at A1. -/
def tapIdcode : Nat := revisionId * 2 ^ 28 + 0x0880 * 2 ^ 12 + 0x2B3 * 2 + 1

/-- BYPASS: its register captures 0. -/
def execBypass (s : State) : Out := s.run fun d => (d.tapSelect 1).emit (.tdo 0)

/-- IDCODE. -/
def execIdcode (s : State) : Out := s.run fun d => (d.tapSelect 0).emit (.tdo tapIdcode)

/-- SAMPLE/PRELOAD. -/
def execSamplePreload (s : State) : Out := s.run fun d => (d.tapSelect 2).tdoPins

/-- EXTEST. -/
def execExtest (s : State) : Out := s.run fun d => (d.tapSelect 3).tdoPins

/-- CLAMP: the bypass register stands in the path. -/
def execTapClamp (s : State) : Out := s.run fun d => (d.tapSelect 4).emit (.tdo 0)

/-- HIGHZ: as CLAMP. -/
def execHighz (s : State) : Out := s.run fun d => (d.tapSelect 5).emit (.tdo 0)

/-- EXTEST_PULSE. -/
def execExtestPulse (s : State) : Out := s.run fun d => (d.tapSelect 6).tdoPins

/-- EXTEST_TRAIN. -/
def execExtestTrain (s : State) : Out := s.run fun d => (d.tapSelect 7).tdoPins

/-- TAP_RELEASE: the TAP leaves a pin-taking instruction through Test-Logic-Reset, which selects IDCODE. -/
def execTapRelease (s : State) : Out := s.run fun d => d.tapSelect 0

/-- DBG_AUTH (R595, R603): step 0 reads the level, 1 asks for a nonce, 2 answers it. What is shifted out: the level in bits [1:0], the
error of the step behind it, the nonce above. -/
def execDbgAuth (op level : Nat) (sig : List Byte) (s : State) : Out := s.run fun d =>
  let d := d.tapSelect 8
  let out (d : Dev) (err nonce : Nat) : Dev := d.emit (.tdo (d.rd Reg.DBG_STATUS.LEVEL + err * 4 + nonce * 64))
  match op with
  | 1 =>
    if !(level == 1 || level == 2) then out d 1 0
    else match d.askNonce level with
      | (d, .ok n) => out d 0 n
      | (d, .error e) => out d e 0
  | 2 =>
    if d.board.debugDisable then out d 3 0
    else if sig.length ≠ 96 then out d 1 0
    else let r := d.respond sig; out r.1 (if r.2 then 0 else 8) 0
  | _ => out d (if d.board.debugDisable then 3 else 0) 0

/-- DBG_MEM (R598, R603): one access to an aligned dword. What is shifted out: the error in bits [3:0], the data above; UE reads as
error 15. -/
def execDbgMem (write : Bool) (addr value : Nat) (s : State) : Out := s.run fun d =>
  let d := d.tapSelect 9
  if addr % 4 ≠ 0 ∨ 2 ^ 32 ≤ value then d.emit (.tdo 1)
  else if d.rd Reg.DBG_STATUS.LEVEL < 1 + b2n write then d.emit (.tdo 2)
  else if write then
    let r := d.dbgWrite addr (leBytes 4 value)
    r.1.emit (.tdo r.2)
  else
    let g := d.dbgRead addr
    g.dev.emit (.tdo (match g.val with
      | some v => v * 16
      | none => if g.err = 0 then 15 else g.err))

end Sys2Proof.Machine
end

