-- ==== Sys2Proof/Machine/Dispatch.lean ====
section
/-!
DEFINITION. The one dispatch: each command to its meaning.
-/
namespace Sys2Proof.Machine

/-- The effect of a command on everything but the queue. -/
def exec (i : Instr) (s : State) : Host.Outcome State Fault Refusal :=
  match i with
  | .sysPwrgdRise missing cold => Sys2Proof.Machine.execSysPwrgdRise missing cold s
  | .railOutOfRange rail mv => Sys2Proof.Machine.execRailOutOfRange rail mv s
  | .railHold rail => Sys2Proof.Machine.execRailHold rail s
  | .thermTrip => Sys2Proof.Machine.execThermTrip s
  | .hbmTempRead stack temp => Sys2Proof.Machine.execHbmTempRead stack temp s
  | .clkRefLost ref => Sys2Proof.Machine.execClkRefLost ref s
  | .refCoreDomainsHeld => Sys2Proof.Machine.execRefCoreDomainsHeld s
  | .clkRefOk ref => Sys2Proof.Machine.execClkRefOk ref s
  | .cclkTargetReached core => Sys2Proof.Machine.execCclkTargetReached core s
  | .clkMeasStart value => Sys2Proof.Machine.execClkMeasStart value s
  | .clkMeasDone count => Sys2Proof.Machine.execClkMeasDone count s
  | .clockGovernorEval core w1s w1ms idle => Sys2Proof.Machine.execClockGovernorEval core w1s w1ms idle s
  | .policyReleased loop target => Sys2Proof.Machine.execPolicyReleased loop target s
  | .avsCurrentRead amps ok => Sys2Proof.Machine.execAvsCurrentRead amps ok s
  | .avsVoltageSettled vdone => Sys2Proof.Machine.execAvsVoltageSettled vdone s
  | .avsVdoneTimeout => Sys2Proof.Machine.execAvsVdoneTimeout s
  | .laneWidthEval port util stalled => Sys2Proof.Machine.execLaneWidthEval port util stalled s
  | .pmbusPoll rail mv status ok fault => Sys2Proof.Machine.execPmbusPoll rail mv status ok fault s
  | .sensorUpdate sensor present value => Sys2Proof.Machine.execSensorUpdate sensor present value s
  | .sensorFence sensor => Sys2Proof.Machine.execSensorFence sensor s
  | .bar0Write off dwords => Sys2Proof.Machine.execBar0Write off dwords s
  | .reg64LowWrite issuer off value => Sys2Proof.Machine.execReg64LowWrite issuer off value s
  | .reg64HighWrite issuer off value => Sys2Proof.Machine.execReg64HighWrite issuer off value s
  | .reg64LowRead issuer off => Sys2Proof.Machine.execReg64LowRead issuer off s
  | .rcRead issuer off wide => Sys2Proof.Machine.execRcRead issuer off wide s
  | .bar2Read off len => Sys2Proof.Machine.execBar2Read off len s
  | .bar2Write off data => Sys2Proof.Machine.execBar2Write off data s
  | .bar2Resize log2 => Sys2Proof.Machine.execBar2Resize log2 s
  | .ctxWindowWrite ctx off value => Sys2Proof.Machine.execCtxWindowWrite ctx off value s
  | .ctxCfgWrite ctx value => Sys2Proof.Machine.execCtxCfgWrite ctx value s
  | .qpConfigWrite qp off value => Sys2Proof.Machine.execQpConfigWrite qp off value s
  | .qpEnable qp value => Sys2Proof.Machine.execQpEnable qp value s
  | .qpDisable qp => Sys2Proof.Machine.execQpDisable qp s
  | .sqTailDoorbell qp value => Sys2Proof.Machine.execSqTailDoorbell qp value s
  | .cqHeadDoorbell qp value => Sys2Proof.Machine.execCqHeadDoorbell qp value s
  | .sqFetch qp count => Sys2Proof.Machine.execSqFetch qp count s
  | .sqFetchData slot outcome => Sys2Proof.Machine.execSqFetchData slot outcome s
  | .cmdDispatch => Sys2Proof.Machine.execCmdDispatch s
  | .headerWaitSatisfied slot => Sys2Proof.Machine.execHeaderWaitSatisfied slot s
  | .cmdTimeout slot => Sys2Proof.Machine.execCmdTimeout slot s
  | .cmdEnd slot => Sys2Proof.Machine.execCmdEnd slot s
  | .msixHoldoffExpiry vector => Sys2Proof.Machine.execMsixHoldoffExpiry vector s
  | .msixUnmask vector => Sys2Proof.Machine.execMsixUnmask vector s
  | .busMasterEnable msix fmask l1 => Sys2Proof.Machine.execBusMasterEnable msix fmask l1 s
  | .d3hotEntry => Sys2Proof.Machine.execD3hotEntry s
  | .d0Entry => Sys2Proof.Machine.execD0Entry s
  | .aspmL1Request => Sys2Proof.Machine.execAspmL1Request s
  | .flr => Sys2Proof.Machine.execFlr s
  | .linkUp speed width flit => Sys2Proof.Machine.execLinkUp speed width flit s
  | .linkRecovery => Sys2Proof.Machine.execLinkRecovery s
  | .dlDown => Sys2Proof.Machine.execDlDown s
  | .heldWriteExpiry => Sys2Proof.Machine.execHeldWriteExpiry s
  | .hostPathReturn => Sys2Proof.Machine.execHostPathReturn s
  | .hostReadTimeout slot => Sys2Proof.Machine.execHostReadTimeout slot s
  | .hostReadError slot poisoned => Sys2Proof.Machine.execHostReadError slot poisoned s
  | .poisonedWriteReceived bar off => Sys2Proof.Machine.execPoisonedWriteReceived bar off s
  | .nop slot => Sys2Proof.Machine.execNop slot s
  | .abort slot => Sys2Proof.Machine.execAbort slot s
  | .timestamp slot => Sys2Proof.Machine.execTimestamp slot s
  | .resultRingSet slot => Sys2Proof.Machine.execResultRingSet slot s
  | .eventRingSet slot => Sys2Proof.Machine.execEventRingSet slot s
  | .memCopy slot => Sys2Proof.Machine.execMemCopy slot s
  | .memFill slot => Sys2Proof.Machine.execMemFill slot s
  | .memCopy2d slot => Sys2Proof.Machine.execMemCopy2d slot s
  | .memTranspose slot => Sys2Proof.Machine.execMemTranspose slot s
  | .memCheck slot => Sys2Proof.Machine.execMemCheck slot s
  | .reshard slot => Sys2Proof.Machine.execReshard slot s
  | .execList slot => Sys2Proof.Machine.execExecList slot s
  | .arrayRun slot => Sys2Proof.Machine.execArrayRun slot s
  | .scanRun slot => Sys2Proof.Machine.execScanRun slot s
  | .solve slot => Sys2Proof.Machine.execSolve slot s
  | .veRun slot => Sys2Proof.Machine.execVeRun slot s
  | .innClassSet slot => Sys2Proof.Machine.execInnClassSet slot s
  | .innTemplateLoad slot => Sys2Proof.Machine.execInnTemplateLoad slot s
  | .innLodge slot => Sys2Proof.Machine.execInnLodge slot s
  | .innRelease slot => Sys2Proof.Machine.execInnRelease slot s
  | .innPin slot => Sys2Proof.Machine.execInnPin slot s
  | .innUnpin slot => Sys2Proof.Machine.execInnUnpin slot s
  | .innReadRoom slot bad => Sys2Proof.Machine.execInnReadRoom slot bad s
  | .innQuery slot => Sys2Proof.Machine.execInnQuery slot s
  | .sampleBatch slot => Sys2Proof.Machine.execSampleBatch slot s
  | .timetableLoad slot => Sys2Proof.Machine.execTimetableLoad slot s
  | .trainStep slot => Sys2Proof.Machine.execTrainStep slot s
  | .optStep slot => Sys2Proof.Machine.execOptStep slot s
  | .ledgerVote slot => Sys2Proof.Machine.execLedgerVote slot s
  | .ledgerOpen slot => Sys2Proof.Machine.execLedgerOpen slot s
  | .ledgerAdopt slot => Sys2Proof.Machine.execLedgerAdopt slot s
  | .ledgerClose slot => Sys2Proof.Machine.execLedgerClose slot s
  | .ledgerRevert slot => Sys2Proof.Machine.execLedgerRevert slot s
  | .ledgerQuery slot => Sys2Proof.Machine.execLedgerQuery slot s
  | .maskSeedSet slot => Sys2Proof.Machine.execMaskSeedSet slot s
  | .scaleSet slot => Sys2Proof.Machine.execScaleSet slot s
  | .fabRouteLoad slot => Sys2Proof.Machine.execFabRouteLoad slot s
  | .collRun slot => Sys2Proof.Machine.execCollRun slot s
  | .remoteCopy slot => Sys2Proof.Machine.execRemoteCopy slot s
  | .fabPortCtl slot => Sys2Proof.Machine.execFabPortCtl slot s
  | .soMirrorBind slot => Sys2Proof.Machine.execSoMirrorBind slot s
  | .soMirrorUnbind slot => Sys2Proof.Machine.execSoMirrorUnbind slot s
  | .pwrPolicySet slot => Sys2Proof.Machine.execPwrPolicySet slot s
  | .pwrDomainSet slot => Sys2Proof.Machine.execPwrDomainSet slot s
  | .unitStateSet slot => Sys2Proof.Machine.execUnitStateSet slot s
  | .unitStateQuery slot => Sys2Proof.Machine.execUnitStateQuery slot s
  | .diagArrayTest slot fails => Sys2Proof.Machine.execDiagArrayTest slot fails s
  | .diagMemTest slot bad => Sys2Proof.Machine.execDiagMemTest slot bad s
  | .diagLoopback slot bad => Sys2Proof.Machine.execDiagLoopback slot bad s
  | .traceCtl slot => Sys2Proof.Machine.execTraceCtl slot s
  | .waystationSet slot => Sys2Proof.Machine.execWaystationSet slot s
  | .waystationFull slot => Sys2Proof.Machine.execWaystationFull slot s
  | .waystationRestore slot => Sys2Proof.Machine.execWaystationRestore slot s
  | .replayStep slot => Sys2Proof.Machine.execReplayStep slot s
  | .sfuTableLoad slot => Sys2Proof.Machine.execSfuTableLoad slot s
  | .veProgramLoad slot => Sys2Proof.Machine.execVeProgramLoad slot s
  | .fwStage slot ok => Sys2Proof.Machine.execFwStage slot ok s
  | .fwActivate slot => Sys2Proof.Machine.execFwActivate slot s
  | .bootCfgWrite slot => Sys2Proof.Machine.execBootCfgWrite slot s
  | .tdWrite slot => Sys2Proof.Machine.execTdWrite slot s
  | .tdNop id => Sys2Proof.Machine.execTdNop id s
  | .fence id => Sys2Proof.Machine.execFence id s
  | .soOp id ue => Sys2Proof.Machine.execSoOp id ue s
  | .soWaitRegister who id => Sys2Proof.Machine.execSoWaitRegister who id s
  | .soValueWrite n value ue => Sys2Proof.Machine.execSoValueWrite n value ue s
  | .soAddWrite n value ue => Sys2Proof.Machine.execSoAddWrite n value ue s
  | .soCfgWrite n value ue => Sys2Proof.Machine.execSoCfgWrite n value ue s
  | .soHeartbeat n dev mirror => Sys2Proof.Machine.execSoHeartbeat n dev mirror s
  | .mirrorStale n => Sys2Proof.Machine.execMirrorStale n s
  | .mirrorBindTimeout slot => Sys2Proof.Machine.execMirrorBindTimeout slot s
  | .arrayLoad id => Sys2Proof.Machine.execArrayLoad id s
  | .arrayPass id => Sys2Proof.Machine.execArrayPass id s
  | .broadcastFlip core => Sys2Proof.Machine.execBroadcastFlip core s
  | .relayFrontEnter core => Sys2Proof.Machine.execRelayFrontEnter core s
  | .arrayColumnFault core col => Sys2Proof.Machine.execArrayColumnFault core col s
  | .veRunDesc id => Sys2Proof.Machine.execVeRunDesc id s
  | .veNop core => Sys2Proof.Machine.execVeNop core s
  | .setvl core => Sys2Proof.Machine.execSetvl core s
  | .veLoop core => Sys2Proof.Machine.execVeLoop core s
  | .veCopy core => Sys2Proof.Machine.execVeCopy core s
  | .vePut core => Sys2Proof.Machine.execVePut core s
  | .veAdd core => Sys2Proof.Machine.execVeAdd core s
  | .veSub core => Sys2Proof.Machine.execVeSub core s
  | .veMul core => Sys2Proof.Machine.execVeMul core s
  | .veFma core => Sys2Proof.Machine.execVeFma core s
  | .veFms core => Sys2Proof.Machine.execVeFms core s
  | .veFnma core => Sys2Proof.Machine.execVeFnma core s
  | .veMin core => Sys2Proof.Machine.execVeMin core s
  | .veMax core => Sys2Proof.Machine.execVeMax core s
  | .veMinnum core => Sys2Proof.Machine.execVeMinnum core s
  | .veMaxnum core => Sys2Proof.Machine.execVeMaxnum core s
  | .veAbs core => Sys2Proof.Machine.execVeAbs core s
  | .veNeg core => Sys2Proof.Machine.execVeNeg core s
  | .copysign core => Sys2Proof.Machine.execCopysign core s
  | .veClamp core => Sys2Proof.Machine.execVeClamp core s
  | .lerp core => Sys2Proof.Machine.execLerp core s
  | .mulp2 core => Sys2Proof.Machine.execMulp2 core s
  | .nrrcp core => Sys2Proof.Machine.execNrrcp core s
  | .nrrsq core => Sys2Proof.Machine.execNrrsq core s
  | .rint core => Sys2Proof.Machine.execRint core s
  | .veCmp core => Sys2Proof.Machine.execVeCmp core s
  | .veSel core => Sys2Proof.Machine.execVeSel core s
  | .fclass core => Sys2Proof.Machine.execFclass core s
  | .veAnd core => Sys2Proof.Machine.execVeAnd core s
  | .veOr core => Sys2Proof.Machine.execVeOr core s
  | .veXor core => Sys2Proof.Machine.execVeXor core s
  | .veAndn core => Sys2Proof.Machine.execVeAndn core s
  | .veShl core => Sys2Proof.Machine.execVeShl core s
  | .veShr core => Sys2Proof.Machine.execVeShr core s
  | .veShra core => Sys2Proof.Machine.execVeShra core s
  | .iadd core => Sys2Proof.Machine.execIadd core s
  | .isub core => Sys2Proof.Machine.execIsub core s
  | .imul core => Sys2Proof.Machine.execImul core s
  | .icmp core => Sys2Proof.Machine.execIcmp core s
  | .cvtif core => Sys2Proof.Machine.execCvtif core s
  | .cvtfi core => Sys2Proof.Machine.execCvtfi core s
  | .rbf16 core => Sys2Proof.Machine.execRbf16 core s
  | .srbf16 core => Sys2Proof.Machine.execSrbf16 core s
  | .veSfu core => Sys2Proof.Machine.execVeSfu core s
  | .sfubas core => Sys2Proof.Machine.execSfubas core s
  | .sfugate core => Sys2Proof.Machine.execSfugate core s
  | .dropm core => Sys2Proof.Machine.execDropm core s
  | .ruRun id => Sys2Proof.Machine.execRuRun id s
  | .scan id => Sys2Proof.Machine.execScan id s
  | .chunkSummary id => Sys2Proof.Machine.execChunkSummary id s
  | .carryCombine id => Sys2Proof.Machine.execCarryCombine id s
  | .reverseScan id => Sys2Proof.Machine.execReverseScan id s
  | .zeroOrderHold id => Sys2Proof.Machine.execZeroOrderHold id s
  | .newtonSchulz id => Sys2Proof.Machine.execNewtonSchulz id s
  | .cholesky id => Sys2Proof.Machine.execCholesky id s
  | .slvDiv id => Sys2Proof.Machine.execSlvDiv id s
  | .slvSqrt id => Sys2Proof.Machine.execSlvSqrt id s
  | .slvRsqrt id => Sys2Proof.Machine.execSlvRsqrt id s
  | .slvFma id => Sys2Proof.Machine.execSlvFma id s
  | .zoh1 id => Sys2Proof.Machine.execZoh1 id s
  | .qFromF64 id => Sys2Proof.Machine.execQFromF64 id s
  | .qToF64 id => Sys2Proof.Machine.execQToF64 id s
  | .qadd id => Sys2Proof.Machine.execQadd id s
  | .qsub id => Sys2Proof.Machine.execQsub id s
  | .qmul id => Sys2Proof.Machine.execQmul id s
  | .qfma id => Sys2Proof.Machine.execQfma id s
  | .checkIn id bad => Sys2Proof.Machine.execCheckIn id bad s
  | .checkOut id bad => Sys2Proof.Machine.execCheckOut id bad s
  | .unlock id => Sys2Proof.Machine.execUnlock id s
  | .porterList id => Sys2Proof.Machine.execPorterList id s
  | .porterNop porter => Sys2Proof.Machine.execPorterNop porter s
  | .prtCopy porter => Sys2Proof.Machine.execPrtCopy porter s
  | .prtFill porter => Sys2Proof.Machine.execPrtFill porter s
  | .prtCheck porter => Sys2Proof.Machine.execPrtCheck porter s
  | .prtTranspose porter => Sys2Proof.Machine.execPrtTranspose porter s
  | .remoteWrite porter => Sys2Proof.Machine.execRemoteWrite porter s
  | .remoteRead porter => Sys2Proof.Machine.execRemoteRead porter s
  | .tdComplete id parity => Sys2Proof.Machine.execTdComplete id parity s
  | .preemptPark slot stageNs => Sys2Proof.Machine.execPreemptPark slot stageNs s
  | .routineResume slot => Sys2Proof.Machine.execRoutineResume slot s
  | .tabWrite slot torn => Sys2Proof.Machine.execTabWrite slot torn s
  | .scrubRead stack addr outcome => Sys2Proof.Machine.execScrubRead stack addr outcome s
  | .lockExpiry cls guest => Sys2Proof.Machine.execLockExpiry cls guest s
  | .innEviction cls guest bad => Sys2Proof.Machine.execInnEviction cls guest bad s
  | .pinMoveToHall cls guest => Sys2Proof.Machine.execPinMoveToHall cls guest s
  | .lookbackStep slot share => Sys2Proof.Machine.execLookbackStep slot share s
  | .carryTimeout slot share => Sys2Proof.Machine.execCarryTimeout slot share s
  | .portSignalDetect port => Sys2Proof.Machine.execPortSignalDetect port s
  | .equalizeDone port gen => Sys2Proof.Machine.execEqualizeDone port gen s
  | .equalizeTimeout port => Sys2Proof.Machine.execEqualizeTimeout port s
  | .alignDone port bad => Sys2Proof.Machine.execAlignDone port bad s
  | .initFlit port dev peerPort bufs => Sys2Proof.Machine.execInitFlit port dev peerPort bufs s
  | .downRetry port => Sys2Proof.Machine.execDownRetry port s
  | .retrainTimeout port => Sys2Proof.Machine.execRetrainTimeout port s
  | .laneSignalLoss port lanes => Sys2Proof.Machine.execLaneSignalLoss port lanes s
  | .fecErrorBurst port => Sys2Proof.Machine.execFecErrorBurst port s
  | .flitReceive port flit => Sys2Proof.Machine.execFlitReceive port flit s
  | .nakReceive port ack => Sys2Proof.Machine.execNakReceive port ack s
  | .replayTimer port => Sys2Proof.Machine.execReplayTimer port s
  | .widthFlit port width => Sys2Proof.Machine.execWidthFlit port width s
  | .packetRoute => Sys2Proof.Machine.execPacketRoute s
  | .memWrite => Sys2Proof.Machine.execMemWrite s
  | .memRead => Sys2Proof.Machine.execMemRead s
  | .soOpPkt ue => Sys2Proof.Machine.execSoOpPkt ue s
  | .mirrorBind => Sys2Proof.Machine.execMirrorBind s
  | .mirrorUnbind => Sys2Proof.Machine.execMirrorUnbind s
  | .carryRead => Sys2Proof.Machine.execCarryRead s
  | .waystationWrite => Sys2Proof.Machine.execWaystationWrite s
  | .ack => Sys2Proof.Machine.execAck s
  | .readData => Sys2Proof.Machine.execReadData s
  | .soPush => Sys2Proof.Machine.execSoPush s
  | .carryData => Sys2Proof.Machine.execCarryData s
  | .collData => Sys2Proof.Machine.execCollData s
  | .vote => Sys2Proof.Machine.execVote s
  | .loopback => Sys2Proof.Machine.execLoopback s
  | .fabTransactionTimeout tag => Sys2Proof.Machine.execFabTransactionTimeout tag s
  | .fabCreditStall port vc => Sys2Proof.Machine.execFabCreditStall port vc s
  | .earlyBufferExpiry => Sys2Proof.Machine.execEarlyBufferExpiry s
  | .collTimeout slot part => Sys2Proof.Machine.execCollTimeout slot part s
  | .voteCast slot late => Sys2Proof.Machine.execVoteCast slot late s
  | .commitTimeout => Sys2Proof.Machine.execCommitTimeout s
  | .timetableEntry slot => Sys2Proof.Machine.execTimetableEntry slot s
  | .stageTimeout slot => Sys2Proof.Machine.execStageTimeout slot s
  | .bucketReduceStart slot => Sys2Proof.Machine.execBucketReduceStart slot s
  | .fastCheckpoint => Sys2Proof.Machine.execFastCheckpoint s
  | .gapTimeout ctx guest => Sys2Proof.Machine.execGapTimeout ctx guest s
  | .batchWindowExpiry ctx => Sys2Proof.Machine.execBatchWindowExpiry ctx s
  | .batchRun tag => Sys2Proof.Machine.execBatchRun tag s
  | .srvRegisterWrite ctx off value => Sys2Proof.Machine.execSrvRegisterWrite ctx off value s
  | .srvRingHeadWrite ctx value => Sys2Proof.Machine.execSrvRingHeadWrite ctx value s
  | .reservePeriod => Sys2Proof.Machine.execReservePeriod s
  | .domainDrainDone dom => Sys2Proof.Machine.execDomainDrainDone dom s
  | .domainPowerDownDone dom => Sys2Proof.Machine.execDomainPowerDownDone dom s
  | .domainDwellEnd dom => Sys2Proof.Machine.execDomainDwellEnd dom s
  | .domainWakeDone dom => Sys2Proof.Machine.execDomainWakeDone dom s
  | .rstWarm => Sys2Proof.Machine.execRstWarm s
  | .rstCold => Sys2Proof.Machine.execRstCold s
  | .rstCore target => Sys2Proof.Machine.execRstCore target s
  | .rstContext target => Sys2Proof.Machine.execRstContext target s
  | .coreResetForceStop core => Sys2Proof.Machine.execCoreResetForceStop core s
  | .perst => Sys2Proof.Machine.execPerst s
  | .cpWatchdog => Sys2Proof.Machine.execCpWatchdog s
  | .bootStageDone bad0 bad1 => Sys2Proof.Machine.execBootStageDone bad0 bad1 s
  | .trialTimeout => Sys2Proof.Machine.execTrialTimeout s
  | .mctpPacket vdm good dest typ som eom data => Sys2Proof.Machine.execMctpPacket vdm good dest typ som eom data s
  | .setEndpointId vdm eid => Sys2Proof.Machine.execSetEndpointId vdm eid s
  | .getEndpointId vdm => Sys2Proof.Machine.execGetEndpointId vdm s
  | .getEndpointUuid vdm => Sys2Proof.Machine.execGetEndpointUuid vdm s
  | .getMctpVersionSupport vdm => Sys2Proof.Machine.execGetMctpVersionSupport vdm s
  | .getMessageTypeSupport vdm => Sys2Proof.Machine.execGetMessageTypeSupport vdm s
  | .getTid vdm => Sys2Proof.Machine.execGetTid vdm s
  | .getPldmVersion vdm typ => Sys2Proof.Machine.execGetPldmVersion vdm typ s
  | .getPldmTypes vdm => Sys2Proof.Machine.execGetPldmTypes vdm s
  | .getPldmCommands vdm typ => Sys2Proof.Machine.execGetPldmCommands vdm typ s
  | .getPdrRepositoryInfo vdm => Sys2Proof.Machine.execGetPdrRepositoryInfo vdm s
  | .getPdr vdm record => Sys2Proof.Machine.execGetPdr vdm record s
  | .getSensorReading vdm sensor => Sys2Proof.Machine.execGetSensorReading vdm sensor s
  | .getStateSensorReadings vdm sensor => Sys2Proof.Machine.execGetStateSensorReadings vdm sensor s
  | .setStateEffecterStates vdm effecter value => Sys2Proof.Machine.execSetStateEffecterStates vdm effecter value s
  | .getStateEffecterStates vdm effecter => Sys2Proof.Machine.execGetStateEffecterStates vdm effecter s
  | .setEventReceiver vdm recvVdm mode => Sys2Proof.Machine.execSetEventReceiver vdm recvVdm mode s
  | .platformEventMessage => Sys2Proof.Machine.execPlatformEventMessage s
  | .pollForPlatformEventMessage vdm ack get => Sys2Proof.Machine.execPollForPlatformEventMessage vdm ack get s
  | .requestUpdate vdm maxXfer => Sys2Proof.Machine.execRequestUpdate vdm maxXfer s
  | .passComponentTable vdm cls ident => Sys2Proof.Machine.execPassComponentTable vdm cls ident s
  | .updateComponent vdm cls ident total => Sys2Proof.Machine.execUpdateComponent vdm cls ident total s
  | .requestFirmwareData data => Sys2Proof.Machine.execRequestFirmwareData data s
  | .transferComplete => Sys2Proof.Machine.execTransferComplete s
  | .verifyComplete => Sys2Proof.Machine.execVerifyComplete s
  | .applyComplete ok => Sys2Proof.Machine.execApplyComplete ok s
  | .activateFirmware vdm self => Sys2Proof.Machine.execActivateFirmware vdm self s
  | .getStatus vdm => Sys2Proof.Machine.execGetStatus vdm s
  | .cancelUpdateComponent vdm => Sys2Proof.Machine.execCancelUpdateComponent vdm s
  | .cancelUpdate vdm => Sys2Proof.Machine.execCancelUpdate vdm s
  | .queryDeviceIdentifiers vdm => Sys2Proof.Machine.execQueryDeviceIdentifiers vdm s
  | .getFirmwareParameters vdm => Sys2Proof.Machine.execGetFirmwareParameters vdm s
  | .updateInactivityTimeout => Sys2Proof.Machine.execUpdateInactivityTimeout s
  | .getVersion vdm => Sys2Proof.Machine.execGetVersion vdm s
  | .getCapabilities vdm => Sys2Proof.Machine.execGetCapabilities vdm s
  | .negotiateAlgorithms vdm asym hash meas => Sys2Proof.Machine.execNegotiateAlgorithms vdm asym hash meas s
  | .getDigests vdm => Sys2Proof.Machine.execGetDigests vdm s
  | .getCertificate vdm certSlot offset len => Sys2Proof.Machine.execGetCertificate vdm certSlot offset len s
  | .challenge vdm certSlot => Sys2Proof.Machine.execChallenge vdm certSlot s
  | .getMeasurements vdm index signed => Sys2Proof.Machine.execGetMeasurements vdm index signed s
  | .errEvtHeadWrite value => Sys2Proof.Machine.execErrEvtHeadWrite value s
  | .hehusLine line => Sys2Proof.Machine.execHehusLine line s
  | .hehusInterrupt => Sys2Proof.Machine.execHehusInterrupt s
  | .hehusHelp => Sys2Proof.Machine.execHehusHelp s
  | .hehusInfo => Sys2Proof.Machine.execHehusInfo s
  | .hehusUnlock level => Sys2Proof.Machine.execHehusUnlock level s
  | .hehusResp sig => Sys2Proof.Machine.execHehusResp sig s
  | .hehusLock => Sys2Proof.Machine.execHehusLock s
  | .hehusBaud rate => Sys2Proof.Machine.execHehusBaud rate s
  | .baudSwitch => Sys2Proof.Machine.execBaudSwitch s
  | .nonceExpiry => Sys2Proof.Machine.execNonceExpiry s
  | .unlockBackoffEnd => Sys2Proof.Machine.execUnlockBackoffEnd s
  | .hehusRd addr count => Sys2Proof.Machine.execHehusRd addr count s
  | .hehusWr addr value => Sys2Proof.Machine.execHehusWr addr value s
  | .hehusDump addr len => Sys2Proof.Machine.execHehusDump addr len s
  | .hehusFill addr len value => Sys2Proof.Machine.execHehusFill addr len value s
  | .hehusSo n ue => Sys2Proof.Machine.execHehusSo n ue s
  | .hehusSoSet n value => Sys2Proof.Machine.execHehusSoSet n value s
  | .hehusSoAdd n value => Sys2Proof.Machine.execHehusSoAdd n value s
  | .hehusInn cls guest => Sys2Proof.Machine.execHehusInn cls guest s
  | .hehusInnImage cls guest bad => Sys2Proof.Machine.execHehusInnImage cls guest bad s
  | .hehusPwr => Sys2Proof.Machine.execHehusPwr s
  | .hehusPwrSet dom target => Sys2Proof.Machine.execHehusPwrSet dom target s
  | .hehusUnit u => Sys2Proof.Machine.execHehusUnit u s
  | .hehusUnitSet u offline => Sys2Proof.Machine.execHehusUnitSet u offline s
  | .hehusEvents => Sys2Proof.Machine.execHehusEvents s
  | .hehusTraceStart mask wrap => Sys2Proof.Machine.execHehusTraceStart mask wrap s
  | .hehusTraceStop => Sys2Proof.Machine.execHehusTraceStop s
  | .hehusTraceClear => Sys2Proof.Machine.execHehusTraceClear s
  | .hehusTraceDump count => Sys2Proof.Machine.execHehusTraceDump count s
  | .hehusReset value => Sys2Proof.Machine.execHehusReset value s
  | .hehusAccessTimeout => Sys2Proof.Machine.execHehusAccessTimeout s
  | .bypass => Sys2Proof.Machine.execBypass s
  | .idcode => Sys2Proof.Machine.execIdcode s
  | .samplePreload => Sys2Proof.Machine.execSamplePreload s
  | .extest => Sys2Proof.Machine.execExtest s
  | .highz => Sys2Proof.Machine.execHighz s
  | .extestPulse => Sys2Proof.Machine.execExtestPulse s
  | .extestTrain => Sys2Proof.Machine.execExtestTrain s
  | .dbgAuth op level sig => Sys2Proof.Machine.execDbgAuth op level sig s
  | .dbgMem write addr value => Sys2Proof.Machine.execDbgMem write addr value s
  | .tapRelease => Sys2Proof.Machine.execTapRelease s
  | .tapClamp => Sys2Proof.Machine.execTapClamp s
  | .aspmL1Exit => Sys2Proof.Machine.execAspmL1Exit s
  | .resetComplete kind target fails => Sys2Proof.Machine.execResetComplete kind target fails s
  | .portFlushTimeout port => Sys2Proof.Machine.execPortFlushTimeout port s
  | .junctionWarmRelease => Sys2Proof.Machine.execJunctionWarmRelease s

end Sys2Proof.Machine
end

