-- ==== Sys2Proof/Safety.lean ====
section
/-!
DEFINITION. What counts as a consistent state of the block, in the terms the statements use: the status that the hardware derives from
other state agrees with it.
-/
namespace Sys2Proof.Machine

/-- ALERT_N is low exactly while an unmasked alert bit is set, a rail is out, a reference is missing or the boot has failed (21 R563,
R570). -/
def Dev.AlertAgrees (d : Dev) : Prop := d.board.alertLow = d.alertWanted

/-- ERR_EVT_PENDING.COUNT counts the pending events (22 R590). -/
def Dev.PendingAgrees (d : Dev) : Prop := d.rd Reg.ERR_EVT_PENDING.COUNT = d.evt.pending.length % 2 ^ Reg.ERR_EVT_PENDING.COUNT.len

/-- HOST_LINK_STATUS.HOLDING is set exactly while writes are held; HOST_HOLD_STATUS counts their units and tells when none is free
(04 R109). -/
def Dev.HoldAgrees (d : Dev) : Prop :=
  d.on Reg.HOST_LINK_STATUS.HOLDING = !d.pci.hold.isEmpty
    ∧ d.rd Reg.HOST_HOLD_STATUS.USED = holdUsed d.pci.hold % 2 ^ Reg.HOST_HOLD_STATUS.USED.len
    ∧ d.on Reg.HOST_HOLD_STATUS.FULL = (d.holdFree == 0)

/-- SO_STATUS.WAITERS counts the registered waits (07 R204). -/
def Dev.WaitersAgree (d : Dev) : Prop := d.rd Reg.SO_STATUS.WAITERS = d.so.waiters.length % 2 ^ Reg.SO_STATUS.WAITERS.len

/-- SEQ_TQ_STATUS.DEPTH counts the descriptors in each task queue (06 R172). -/
def Dev.QueuesAgree (d : Dev) : Prop :=
  ∀ core < 2, ∀ q < 4,
    d.rd (Reg.SEQ_TQ_STATUS.DEPTH core q) = (d.queueTds core q).length % 2 ^ (Reg.SEQ_TQ_STATUS.DEPTH core q).len

/-- The derived status agrees with the state it is derived from. -/
structure State.Consistent (s : State) : Prop where
  alert   : s.dev.AlertAgrees
  pending : s.dev.PendingAgrees
  hold    : s.dev.HoldAgrees
  waiters : s.dev.WaitersAgree
  queues  : s.dev.QueuesAgree

/-! ### When a command has its effect, and the state it leaves -/

/-- The state a command leaves when it turns the device into `d`: dependent status is up to date, the queue is as it was. -/
def State.after (s : State) (d : Dev) : State := { s with dev := d.settle }

/-- A command of a queue pair with this opcode executes: it has started, nothing stops it, its cores are not held (05 R139; 06 R158). -/
structure Dev.CmdRuns (d : Dev) (slot op : Nat) (c : Cmd) : Prop where
  found  : d.cmd? slot = some c
  live   : d.live = true
  phase  : c.phase = .running
  opcode : c.opcode = op
  fin    : c.fin = none
  stop   : c.stop = none
  parked : c.parked = false
  held   : d.coreHeld c = false

/-- The same of a STAGED or LONG routine between two of its pieces, with no preemption asked for and its tab up to date (06 R158,
R162, R168). -/
structure Dev.RoutineRuns (d : Dev) (slot op : Nat) (c : Cmd) : Prop extends d.CmdRuns slot op c where
  saved  : c.tab = none ∨ c.done ≤ c.saved
  calm   : c.preempt = [] ∧ c.suspended = []

/-- A descriptor of a kind may start on its unit now (06 R146-R152). -/
structure Dev.TdStarts (d : Dev) (id kind : Nat) (t : Td) : Prop where
  found : d.td? id = some t
  kind  : tdKind t.td = kind
  may   : d.tdMayStart t = true

/-- The fabric serves packets and the oldest of a type is `k`; `d'` has taken it from the receive buffer (15 R399). -/
structure Dev.PktTaken (d : Dev) (typ : Nat) (k : FabPkt) (d' : Dev) : Prop where
  clocks : d.fabClocks = true
  next   : d.nextIn typ = some (k, d')

/-- A porter takes up the descriptor `x` of operation `op` that its list has come to: fetched and checked, nothing its FENCE waits for
is open, its wait is satisfied; `d'` has taken up the wake (13 R344, R346, R347). -/
structure Dev.PorterTakes (d : Dev) (p op : Nat) (r : PorterRun) (x : Nat) (d' : Dev) : Prop where
  run   : kvGet p d.porters = some r
  live  : d.live = true
  left  : r.index < r.count
  fresh : r.pos = 0
  op    : pdOp x = op
  taken : ∃ (d₁ d₂ : Dev) (bs : List Byte), d.read (byPorter p) r.ctx (r.list + 64 * r.index) 64 = ⟨d₁, .ok bs⟩ ∧ leNat bs = x
    ∧ d₁.prtCheck p r.ctx x = (d₂, none)
    ∧ (pdFence x = true → r.index ≠ 0 → d₂.porterOpen r (r.index - 1) = false) ∧ (pdWaitEn x = true → d₂.isWoken (.porter p) = true)
    ∧ (let d₃ := ((d₂.takeWake (.porter p)).wr (Reg.PRT_STATUS.WAITING p) 0).trace 4 p (some r.ctx) none (some r.cmd) none none
      d' = { d₃ with porters := kvPut p { r with waitOk := true } d₃.porters })

/-- The VE of a core runs `r` and has come to a body instruction with opcode `op` (09 R241, R257). -/
structure Dev.VeAt (d : Dev) (core op : Nat) (r : VeRun) : Prop where
  run    : kvGet core d.ve = some r
  live   : d.live = true
  begun  : r.pos ≠ 0
  inside : r.pos ≤ r.len
  opcode : veOp r.word = op

/-- A SCAN descriptor of operation `op` starts with the parameter block `p`, which passes its check; `d'` has started it (11 R292, R293,
R296). -/
structure Dev.ScanStarts (d : Dev) (id op : Nat) (t : Td) (p : ScanParam) (d' : Dev) : Prop where
  starts : d.TdStarts id 0x30 t
  oper   : t.f 0x20 1 = op
  power  : (d.tdStart t).unitBlocked [domSu t.core] 0x0B10 = none
  block  : ∃ (d₁ : Dev) (bs : List Byte), (d.tdStart t).coreRead t.core t.ctx (t.f 0x18 8) 64 = ⟨d₁, .ok bs⟩ ∧ p = scanParam t bs
    ∧ scanFault t.core p = none
    ∧ d' = (((d₁.wr (Reg.SU_STATUS.OP t.core) op).wr (Reg.SU_STATUS.COMPLEX t.core) (b2n p.cplx)).wr (Reg.SU_STATUS.SPLIT t.core)
        (b2n (p.split && op != 1 && op != 2))).wr (Reg.SU_STATUS.CTX t.core) t.ctx

/-- The look-back of a share of a running SCAN_RUN is under way (11 R305). -/
structure Dev.WalkOf (d : Dev) (slot share : Nat) (c : Cmd) (r : ScanRun) (sh : ScanShare) (w : Walk) : Prop where
  cmd   : d.cmd? slot = some c
  run   : d.scan? slot = some r
  share : r.shares[share]? = some sh
  walk  : sh.walk = some w
  live  : d.live = true
  phase : c.phase = .running
  fin   : c.fin = none
  stop  : c.stop = none

/-- A command on the class `k` that its context owns executes (14 R360). -/
structure Dev.ClassRuns (d : Dev) (slot op : Nat) (c : Cmd) (k : Nat) : Prop extends d.CmdRuns slot op c where
  owned : d.classRefusal c.ctx k = none

/-- A command on a lodged room of a class its context owns executes (14 R366). -/
structure Dev.RoomRuns (d : Dev) (slot op : Nat) (c : Cmd) (r : Room) : Prop extends d.ClassRuns slot op c (c.par 3 1 % 16) where
  room : d.room? (c.par 3 1 % 16) (c.par 0 3) = some r

/-- An INN_OP of kind `op` starts: its checks pass, its windows admit it; `d'` has read the list of the guests `gs` (14 R368, R369). -/
structure Dev.InnOpStarts (d : Dev) (id op : Nat) (t : Td) (gs : List Nat) (d' : Dev) : Prop where
  starts : d.TdStarts id 0x50 t
  kind   : t.innOp.op = op
  checks : (d.tdStart t).innRefusal t.innOp = none
  list   : ∃ (d₁ : Dev) (bs : List Byte), (d.tdStart t).innWindows t.innOp = ⟨d₁, none⟩
    ∧ d₁.readRaw byInn (some t.innOp.ctx) t.innOp.list (4 * t.innOp.count) = ⟨d', .ok bs⟩ ∧ gs = (chunksOf 4 bs).map fun b => fieldAt b 0 3

/-- A LEDGER_COMMIT of operation `op` executes, of the context that owns the ledger (17 R449, R453). -/
structure Dev.LedgerRuns (d : Dev) (slot op : Nat) (c : Cmd) : Prop extends d.CmdRuns slot 0x0504 c where
  oper  : c.par 0 1 = op
  owner : d.ledRefusal c.ctx = none

/-- A TRAIN_STEP or REPLAY_STEP runs and has opened its step: `r` is its run (16 R431). -/
structure Dev.StepRuns (d : Dev) (slot : Nat) (c : Cmd) (r : TrainRun) : Prop extends d.RoutineRuns slot c.opcode c where
  run : d.run? slot = some r

/-- The endpoint serves a request of a message type over a binding: it is reached, and the device has booted or serves this request over
SMBus before (21 R548, R550); `d'` has taken the oldest waiting request of the type. -/
structure Dev.Serves (d : Dev) (vdm : Bool) (typ : Nat) (early : Bool) (d' : Dev) : Prop where
  reached : d.reached vdm = true
  booted  : d.booted = true ∨ (vdm = false ∧ early = true)
  taken   : d' = d.requestTaken typ

/-- Hehus takes a command whose arguments are in range at an unlock level that allows it (23 R593, R594). -/
structure Dev.HehusTakes (d : Dev) (args : Bool) (level : Nat) : Prop where
  idle  : d.hIdle = true
  args  : args = true
  level : level ≤ d.rd Reg.DBG_STATUS.LEVEL

end Sys2Proof.Machine
end

