-- ==== Sys2Proof/Certificates/Slice0/Obligations.lean ====
section
/-!
DEFINITION. The statements for the provers: what the machine does whatever the command, then, family by family, that every
command completes and with which effect.
-/
open Sys2Proof Sys2Proof.Machine

/-- One step takes the command at the front of the queue and runs it on the rest; on an empty queue the block idles for one SCLK cycle, which
is the model's own choice (notes/assumptions/1.md). -/
def Obligations.StepTakesTheFront : Prop :=
  (∀ (s : State) (c : Instr) (rest : List Instr), s.pending = c :: rest → step s = exec c { s with pending := rest })
  ∧ (∀ s : State, s.pending = [] → step s = .next { s with dev := { s.dev with timeNs := s.dev.timeNs + 10 } })

/-- Right after reset (20 R528, R539; 21 R548; 23 R594) no command waits, the device is not READY and in no boot stage, Hehus is locked, the
endpoint has no EID, no event and no wait is pending, every byte of memory reads zero; the state is consistent and its memories are in
canonical form. That memory nothing has written reads zero is the model's choice (notes/assumptions/7.md). -/
def Obligations.ResetState : Prop :=
  let d := State.reset.dev
  State.reset.pending = [] ∧ d.ready = false ∧ d.rd Reg.RST_STATUS.STAGE = 0 ∧ d.rd Reg.DBG_STATUS.LEVEL = 0
  ∧ d.rd Reg.MGT_STATUS.EID = 0 ∧ d.rd Reg.ERR_EVT_PENDING.COUNT = 0 ∧ d.rd Reg.SO_STATUS.WAITERS = 0
  ∧ d.rd Reg.HOST_HOLD_STATUS.USED = 0 ∧ d.cp0.cmds = [] ∧ (∀ a n, d.peek a n = zeros n)
  ∧ State.reset.Consistent ∧ Memory.wf d.mem ∧ Memory.wf d.hostMem

/-- The windows of every context sit in a page of 4 KiB each, at the offsets, widths, fields, access codes and reset values of R78's
table (03 R78); all reset to 0, which leaves every window closed. -/
def Obligations.ContextWindowRegisters : Prop :=
  ∀ c < 16,
    let page := 0x600000 + c * 0x1000
    let reads0 (off : Nat) (wide : Bool) (fields : List FieldDesc) : Prop :=
      ((regAt (page + off)).map fun x => (x.1.wide, x.1.flds)) = some (wide, fields) ∧ State.reset.dev.reg (page + off) = 0
    (∀ w < 16, reads0 (16 * w) true [⟨0, 1, .rw, 0⟩, ⟨1, 1, .rw, 0⟩, ⟨2, 1, .rw, 0⟩, ⟨16, 32, .rw, 0⟩]
      ∧ reads0 (8 + 16 * w) true [⟨16, 32, .rw, 0⟩] ∧ State.reset.dev.hbmWin c w = none)
    ∧ (∀ core < 2, reads0 (0x100 + 4 * core) false [⟨0, 10, .rw, 0⟩, ⟨16, 11, .rw, 0⟩] ∧ State.reset.dev.spmWin c core = none)
    ∧ reads0 0x108 false [⟨0, 12, .rw, 0⟩, ⟨16, 13, .rw, 0⟩] ∧ (∀ n, State.reset.dev.soAllowed c n = false)
    ∧ reads0 0x10C false [⟨0, 1, .rw, 0⟩]
    ∧ reads0 0x110 true [⟨12, 52, .rw, 0⟩] ∧ reads0 0x118 true [⟨12, 34, .rw, 0⟩] ∧ State.reset.dev.hostWinSize c = 0
    ∧ reads0 0x120 false [⟨0, 16, .rc, 0⟩, ⟨16, 1, .hw, 0⟩, ⟨17, 1, .w1c, 0⟩]
    ∧ reads0 0x128 true [⟨0, 48, .hw, 0⟩, ⟨48, 16, .hw, 0⟩]

/-- Whatever command runs, and when the block idles, a consistent state steps to a consistent one: ALERT_N, the counts of pending events,
of registered waits, of the hold buffer and of the task queues agree with what they report (04 R109; 06 R172; 07 R204; 21 R563; 22 R590). -/
def Obligations.StepKeepsConsistent : Prop :=
  ∀ s t : State, s.Consistent → step s = .next t → t.Consistent

/-- Every command answers a next state: an effect on the device, after which the derived status is up to date; the queue stays. -/
def Obligations.EveryCommandAnswersNext : Prop :=
  ∀ (c : Instr) (s : State), ∃ d : Dev, exec c s = .next (s.after d)

/-- HBM is spread over the stacks in granules of G bytes (03 R63): granule g lies on stack g mod S, at (g div S) × G and its offset there;
so a stack and an address inside it name one byte, and the bytes of 36 GiB × S fall inside 36 GiB of their stacks. -/
def Obligations.InterleavePlacesEachByteOnce : Prop :=
  ∀ d : Dev, d.stacks ≠ 0 → d.rd Reg.MEM_GLOBAL_CFG.INTERLEAVE ≤ 2 →
    (d.granule = 2048 ∨ d.granule = 4096 ∨ d.granule = 8192)
    ∧ (∀ a, d.stackOf a = a / d.granule % d.stacks
      ∧ d.withinStack a = a / d.granule / d.stacks * d.granule + a % d.granule)
    ∧ (∀ a b, d.stackOf a = d.stackOf b → d.withinStack a = d.withinStack b → a = b)
    ∧ (∀ a, a < 36 * 2 ^ 30 * d.stacks → d.withinStack a < 36 * 2 ^ 30)

/-- The operations of sync objects (07 R190, R191): a COUNTER adds modulo 2^64 and sets WRAPPED on carry out, a BARRIER closes generations
of TARGET arrivals, an EVENT ors, SET stores; an object of the bank holds the result and its WRAPPED bit afterwards. -/
def Obligations.SyncObjectOperations : Prop :=
  (∀ kind target old v w, soResult kind target true old v w = (v % 2 ^ 64, w))
  ∧ (∀ target old v w, old < 2 ^ 64 → v < 2 ^ 64 →
    (soResult 0 target false old v w).1 = (old + v) % 2 ^ 64
    ∧ (soResult 0 target false old v w).2 = (w || decide (2 ^ 64 ≤ old + v))
    ∧ (soResult 2 target false old v w) = (old ||| v, w))
  ∧ (∀ target old v w, target < 4096 → old < 2 ^ 64 →
    let t := max target 1
    let r := (soResult 1 target false old v w).1
    r < 2 ^ 64 ∧ r % 2 ^ 32 < t
    ∧ r % 2 ^ 32 = (old % 2 ^ 32 + v) % t
    ∧ r / 2 ^ 32 = (old / 2 ^ 32 + (old % 2 ^ 32 + v) / t) % 2 ^ 32)
  ∧ (∀ (d : Dev) (n v : Nat) (set : Bool), n < 4096 → (∀ e ∈ d.so.pushes, e.home ≠ n) → d.on Reg.DBG_STATUS.TRACING = false →
    let r := soResult (d.soKind n) (d.rd (Reg.SO_CFG.ARG n)) set (d.soValue n) v (d.on (Reg.SO_CFG.WRAPPED n))
    (d.soPerform n set v).soValue n = r.1 % 2 ^ 64 ∧ (d.soPerform n set v).on (Reg.SO_CFG.WRAPPED n) = r.2)

/-- Two copies of a record (06 R169; 20 R537): the copy not in force is written, with the next GEN; a torn write leaves the copy in force
as it was, a complete one puts the new copy in force. -/
def Obligations.TwoCopiesSurviveTearing : Prop :=
  ∀ (n g : Nat) (a b o new : List Byte), copyInForce n g a b = some o → copyValid n new = true → fieldAt o g 4 < fieldAt new g 4 →
    let put (x : List Byte) : List Byte × List Byte := if writesA n g a b then (x, b) else (a, x)
    copyInForce n g (put new).1 (put new).2 = some new
    ∧ (∀ torn, copyValid n torn = false → copyInForce n g (put torn).1 (put torn).2 = some o)

/-- What is stored reads back and nothing else changes: bytes of device memory, whose canonical form stays, and fields of registers. -/
def Obligations.StoresReadBack : Prop :=
  (∀ (d : Dev) (a : Nat) (bs : List Byte), d.undef = [] →
    (d.poke a bs).peek a bs.length = bs
    ∧ (∀ x n, x + n ≤ a ∨ a + bs.length ≤ x → (d.poke a bs).peek x n = d.peek x n)
    ∧ (Memory.wf d.mem → Memory.wf (d.poke a bs).mem))
  ∧ (∀ (d : Dev) (f : Fld) (v : Nat), f.lo + f.len ≤ 64 →
    (d.wr f v).rd f = v % 2 ^ f.len
    ∧ (∀ g : Fld, g.lo + g.len ≤ 64 → (g.reg ≠ f.reg ∨ g.lo + g.len ≤ f.lo ∨ f.lo + f.len ≤ g.lo) → (d.wr f v).rd g = d.rd g))

/-- A device access of a context to the host window reaches CTX_HOST_BASE + x when x lies below CTX_HOST_SIZE (03 R80): a read of granted
bytes answers host memory there, a write stores there. -/
def Obligations.HostWindowReachesTheHost : Prop :=
  ∀ (d : Dev) (who : Issuer) (c x n h : Nat), 0 < n → x + n ≤ d.hostWinSize c → hostBase + x + n ≤ hostEnd → d.hostReadable = true →
    h = d.rd (Reg.CTX_HOST_BASE.BASE c) * 0x1000 + x →
    d.read who c (hostBase + x) n = ⟨d, .ok (memGetList d.hostMem h n)⟩
    ∧ (∀ bs : List Byte, bs.length = n → d.write who c (hostBase + x) bs = ⟨d.hostWrite .output h bs none, none⟩)

/-- What brings derived status up to date after a command touches no data where no event is held back, no VE run is open and no command
is being stopped: memories, stores, commands, rooms, ledger, waystation, serving, fabric, power and management state stay. -/
def Obligations.SettlingTouchesNoData : Prop :=
  ∀ d e : Dev, d.evt.pending = [] → d.evt.lost = 0 → d.ve = [] → (∀ c ∈ d.cp0.cmds, c.fin = none) →
    (∀ p ∈ d.porters, p.1 < 64) → e = d.settle →
    (e.mem = d.mem ∧ e.hostMem = d.hostMem ∧ e.ue = d.ue ∧ e.ce = d.ce ∧ e.undef = d.undef ∧ e.out = d.out ∧ e.free = d.free
      ∧ e.timeNs = d.timeNs ∧ e.boot = d.boot ∧ e.pci = d.pci ∧ e.evt = d.evt ∧ e.cp0 = d.cp0 ∧ e.seq = d.seq ∧ e.veStore = d.veStore
      ∧ e.sfu = d.sfu ∧ e.carry = d.carry ∧ e.scans = d.scans ∧ e.slv = d.slv ∧ e.inn = d.inn ∧ e.trn = d.trn ∧ e.led = d.led
      ∧ e.way = d.way ∧ e.srv = d.srv ∧ e.fab = d.fab ∧ e.pwr = d.pwr ∧ e.mgt = d.mgt ∧ e.dbg = d.dbg)
    ∧ (∀ n < 4096, e.soValue n = d.soValue n)

/-- A write of MGT_ALERT_STATUS clears exactly the bits it writes 1 to whose condition has ended (21 R563). -/
def Obligations.AlertWriteClearsEnded : Prop :=
  ∀ (d : Dev) (v i : Nat), i < 7 →
    (d.alertWrite v).on ⟨Reg.MGT_ALERT_STATUS.RAIL.reg, i, 1⟩
      = (d.on ⟨Reg.MGT_ALERT_STATUS.RAIL.reg, i, 1⟩ && !(bitAt v i && !d.alertLasts i))

/-- A unit's state follows from its two views, and decides what new work gets (21 R565). -/
def Obligations.UnitStateFollowsItsViews : Prop :=
  ∀ (d : Dev) (u : Nat),
    (d.on (Reg.MGT_UNIT.WORK u) = false → d.on (Reg.MGT_UNIT.SAFETY u) = false → d.unitState u = 0 ∧ d.unitRefusal u = none)
    ∧ (d.on (Reg.MGT_UNIT.WORK u) = true → d.on (Reg.MGT_UNIT.SAFETY u) = true → d.unitState u = 1 ∧ d.unitRefusal u = some (0x0F, 0x1502))
    ∧ (d.on (Reg.MGT_UNIT.WORK u) ≠ d.on (Reg.MGT_UNIT.SAFETY u) → d.unitState u = 2 ∧ d.unitRefusal u = some (0x08, 0x1501))

/-- The PCIe link and power-state commands complete with their own effect (04 R98–R102, R104): LINK_UP, LINK_RECOVERY, DL_DOWN,
BUS_MASTER_ENABLE, D3HOT_ENTRY, D0_ENTRY, ASPM_L1_REQUEST, ASPM_L1_EXIT, HELD_WRITE_EXPIRY, HOST_PATH_RETURN. -/
def Obligations.HostLinkCommandsComplete : Prop :=
  (∀ (s : State) (speed width : Nat) (flit : Bool),
    s.dev.board.hclkHeld = false → s.dev.board.tripped = false → s.dev.pci.link ≠ .active →
    let below := decide (speed < 6) || decide (width < 16)
    let d := ({ s.dev with pci := { s.dev.pci with link := .active } } : Dev).setReg Reg.HOST_LINK_STATUS.SPEED.reg
      (speed + width * 2 ^ 4 + b2n flit * 2 ^ 9 + 2 ^ 10 + b2n below * 2 ^ 11)
    let d := d.wr Reg.MGT_STATUS.VDM_UP 1
    let d := if below && s.dev.pci.link == .down then d.raise 0x0401 clsInfo none speed width 0 0 else d
    exec (.linkUp speed width flit) s = .next (s.after d.hostPathDeliver))
  ∧ (∀ s : State, s.dev.pci.link = .active →
    exec .linkRecovery s = .next (s.after { s.dev with pci := { s.dev.pci with link := .recovery } }))
  ∧ (∀ s : State, s.dev.pci.link ≠ .down →
    let p := s.dev.pci
    let d : Dev := { s.dev with pci := { p with
      busMaster := false, msixEnable := false, funcMask := false, d3hot := false, l1Enable := false, bar2Log2 := 30
      link := .down, wasDown := true, downNs := s.dev.timeNs
      hold := p.hold.map fun (h : Held) => match h.kind with
        | .message _ => { h with vector := none }
        | _ => h } }
    let d := (d.setReg Reg.HOST_LINK_STATUS.SPEED.reg 0).wr Reg.MGT_STATUS.VDM_UP 0
    exec .dlDown s = .next (s.after ((d.alert Reg.MGT_ALERT_STATUS.HOST_PATH).raise 0x0404 clsContained none 0 0 0 0 .only)))
  ∧ (∀ (s : State) (msix fmask l1 : Bool), s.dev.pci.link ≠ .down → s.dev.board.tripped = false →
    let d : Dev := { s.dev with pci := { s.dev.pci with
      busMaster := true, msixEnable := msix, funcMask := fmask, l1Enable := l1 } }
    exec (.busMasterEnable msix fmask l1) s = .next (s.after (if d.pathUp then d.deliverHolds.sendPending else d)))
  ∧ (∀ s : State, s.dev.pci.link ≠ .down →
    exec .d3hotEntry s = .next (s.after { s.dev with pci := { s.dev.pci with d3hot := true } }))
  ∧ (∀ s : State, s.dev.pci.d3hot = true →
    let d : Dev := { s.dev with pci := { s.dev.pci with d3hot := false } }
    exec .d0Entry s = .next (s.after (if d.pathUp then d.deliverHolds.sendPending else d)))
  ∧ (∀ s : State, s.dev.pci.l1Enable = true → s.dev.pci.link = .active → s.dev.pci.hold = [] → s.dev.deadlineQueue = false →
    (∀ c ∈ s.dev.cp0.cmds, c.phase ≠ .fetching) →
    exec .aspmL1Request s = .next (s.after ((s.dev.wr Reg.HOST_LINK_STATUS.IN_L1 1).emit .requestL1)))
  ∧ (∀ s : State, exec .aspmL1Exit s = .next (s.after (s.dev.wr Reg.HOST_LINK_STATUS.IN_L1 0)))
  ∧ (∀ (s : State) (h : Held) (rest : List Held),
    s.dev.pci.wasDown = true → s.dev.pathUp = false → s.dev.pci.hold = h :: rest →
    exec .heldWriteExpiry s = .next (s.after
      (if h.kind == .event && bitAt (fieldAt h.data 3 1) 2 then s.dev.dropHeld.dropHeld else s.dev.dropHeld)))
  ∧ (∀ s : State, s.dev.pathUp = true → s.dev.pci.wasDown = true →
    let d := s.dev.deliverHolds
    let d := d.forEach (sortBy (fun a b => decide (a.2.2.1 ≤ b.2.2.1)) d.pci.lostResults) fun x d =>
      d.raise 0x0402 clsDropped none x.1 x.2.1 x.2.2.1 x.2.2.2
    let d := d.raise 0x0403 clsInfo none 0 0 d.pci.dropped 0 .yes
    exec .hostPathReturn s = .next (s.after
      ({ d with pci := { d.pci with wasDown := false, dropped := 0, lostResults := [] } } : Dev).sendPending))

/-- MSI-X signalling, host read failures, poisoned writes and BAR2's size (03 R67, R73; 04 R96, R97, R105): MSIX_HOLDOFF_EXPIRY,
MSIX_UNMASK, HOST_READ_TIMEOUT, HOST_READ_ERROR, POISONED_WRITE_RECEIVED, BAR2_RESIZE complete with their own effect. -/
def Obligations.HostSignalCommandsComplete : Prop :=
  (∀ (s : State) (v n : Nat), kvGet v s.dev.pci.unsignalled = some n →
    exec (.msixHoldoffExpiry v) s = .next (s.after (s.dev.messageDue v)))
  ∧ (∀ (s : State) (v : Nat), s.dev.board.tripped = false →
    exec (.msixUnmask v) s = .next (s.after (s.dev.wr (Reg.MSIX_CTL.MASK v) 0).sendPending))
  ∧ (∀ (s : State) (slot : Nat) (c : Cmd), s.dev.cmd? slot = some c → c.phase = .running → c.ofBatch = false → c.opcode ≠ 0x0410 →
    ((s.dev.cmdTds slot).find? fun t => t.started && !t.finished) = none →
    exec (.hostReadTimeout slot) s = .next (s.after (s.dev.endCmd slot 0x0E 0x0401 c.stopResult))
      ∧ exec (.hostReadError slot true) s = .next (s.after (s.dev.endCmd slot 0x0E 0x0402 c.stopResult))
      ∧ exec (.hostReadError slot false) s = .next (s.after (s.dev.endCmd slot 0x0E 0x0403 c.stopResult)))
  ∧ (∀ (s : State) (slot : Nat) (c : Cmd) (t : Td), s.dev.cmd? slot = some c → c.phase = .running → c.ofBatch = false →
    c.opcode ≠ 0x0410 → ((s.dev.cmdTds slot).find? fun t => t.started && !t.finished) = some t →
    exec (.hostReadTimeout slot) s = .next (s.after (s.dev.failTd t.id ⟨0x0E, 0x0401, 0⟩))
      ∧ exec (.hostReadError slot true) s = .next (s.after (s.dev.failTd t.id ⟨0x0E, 0x0402, 0⟩))
      ∧ exec (.hostReadError slot false) s = .next (s.after (s.dev.failTd t.id ⟨0x0E, 0x0403, 0⟩)))
  ∧ (∀ (s : State) (bar off : Nat),
    exec (.poisonedWriteReceived bar off) s = .next (s.after ((s.dev.occur clsDropped).emit (.aer 1))))
  ∧ (∀ (s : State) (log2 : Nat), 30 ≤ log2 → log2 ≤ 39 → s.dev.pci.link ≠ .down →
    exec (.bar2Resize log2) s = .next (s.after { s.dev with pci := { s.dev.pci with bar2Log2 := log2 } }))

/-- Rails, the thermal trip, the references and the clock measurement (02 R41, R43, R48–R52, R57–R59; 22 R588): RAIL_OUT_OF_RANGE,
RAIL_HOLD, THERM_TRIP, CLK_REF_LOST, REF_CORE_DOMAINS_HELD, CLK_REF_OK, CCLK_TARGET_REACHED, CLK_MEAS_START, CLK_MEAS_DONE complete
with their own effect. The fatal record of a trip is the free value `freeVal`, for every value of it. -/
def Obligations.ClockAndRailCommandsComplete : Prop :=
  (∀ (s : State) (rail mv : Nat),
    let out := s.dev.board.railsOut
    let d : Dev := { s.dev with board := { s.dev.board with railsOut := if out.contains rail then out else rail :: out } }
    exec (.railOutOfRange rail mv) s = .next (s.after
      ((d.governAll.alert Reg.MGT_ALERT_STATUS.RAIL).raise 0x0201 clsContained none rail 0 mv 0 .yes)))
  ∧ (∀ (s : State) (rail : Nat), s.dev.board.railsOut.contains rail = true → s.dev.board.domHeld = false →
    let d := s.dev.stacksSelfRefresh
    exec (.railHold rail) s = .next (s.after (({ d with board := { d.board with domHeld := true } } : Dev).deviceHeld 1)))
  ∧ (∀ s : State, s.dev.board.tripped = false →
    let v := s.dev.freeVal
    let d : Dev := { s.dev with board := { s.dev.board with tripped := true, tripLow := true } }
    exec .thermTrip s = .next (s.after ((d.occur clsFatal).fatal (bits v 0 16) (bits v 16 8) (bits v 24 32)).freeNext))
  ∧ (∀ (s : State) (ref : Nat), s.dev.board.refMissing.contains ref = false →
    let d : Dev := { s.dev with board := { s.dev.board with refMissing := ref :: s.dev.board.refMissing } }
    let d := (((d.wr (refOk ref) 0).wr (refLost ref) 1).inc (refCount ref)).alert Reg.MGT_ALERT_STATUS.REFCLK
    let seq := d.rd Reg.ERR_EVT_SEQ.SEQ
    let d := d.raise 0x0202 (if ref = 0 then clsFatal else clsContained) none ref 0 (d.rd (refCount ref)) 0
      (if s.dev.pci.link != .down then .yes else .only)
    exec (.clkRefLost ref) s = .next (s.after
      (if ref = 0 then ((d.wr Reg.CLK_REF_STATUS.ON_OSC 1).stacksSelfRefresh).fatal 0x0202 ref seq
      else if ref = 1 then ({ d with board := { d.board with hclkHeld := true } } : Dev).dlDown
      else ({ d with board := { d.board with fclkHeld := true } } : Dev).allPortsDown)))
  ∧ (∀ s : State, s.dev.board.refMissing.contains 0 = true → s.dev.board.domHeld = false →
    exec .refCoreDomainsHeld s = .next (s.after
      (({ s.dev with board := { s.dev.board with domHeld := true } } : Dev).deviceHeld 0)))
  ∧ (∀ (s : State) (ref : Nat), s.dev.board.refMissing.contains ref = true →
    let d : Dev := { s.dev with board := { s.dev.board with refMissing := s.dev.board.refMissing.filter fun r => r != ref } }
    let d := d.wr (refOk ref) 1
    exec (.clkRefOk ref) s = .next (s.after
      (if ref = 0 then d.wr Reg.CLK_REF_STATUS.ON_OSC 0
      else if ref = 1 then { d with board := { d.board with hclkHeld := false } }
      else { d with board := { d.board with fclkHeld := false } })))
  ∧ (∀ (s : State) (core : Nat), s.dev.coreClocks = true →
    exec (.cclkTargetReached core) s = .next (s.after
      ((s.dev.wr (Reg.CLK_CCLK.CUR_MHZ core) (s.dev.rd (Reg.CLK_CCLK.TGT_MHZ core))).wr (Reg.CLK_CCLK.SLEWING core) 0).avsEval))
  ∧ (∀ (s : State) (value : Word), s.dev.board.tripped = false → bitAt value.toNat 31 = true →
    s.dev.on Reg.CLK_MEAS_CTL.START = false →
    let d := (s.dev.wr Reg.CLK_MEAS_CTL.SEL (bits value.toNat 0 5)).wr Reg.CLK_MEAS_CTL.WINDOW (bits value.toNat 8 8)
    exec (.clkMeasStart value) s = .next (s.after
      { d.wr Reg.CLK_MEAS_CTL.START 1 with board := { d.board with
          measSel := bits value.toNat 0 5, measWindow := max (bits value.toNat 8 8) 1 } }))
  ∧ (∀ (s : State) (count : Nat), s.dev.on Reg.CLK_MEAS_CTL.START = true →
    let err := !s.dev.measurable s.dev.board.measSel || s.dev.on Reg.CLK_REF_STATUS.ON_OSC
    exec (.clkMeasDone count) s = .next (s.after
      (((s.dev.wr Reg.CLK_MEAS_CTL.ERR (b2n err)).wr Reg.CLK_MEAS_RESULT.COUNT (if err then 0 else count)).wr
        Reg.CLK_MEAS_CTL.START 0)))

/-- The training of a fabric port and what ends it (15 R391–R393, R395, R421): PORT_SIGNAL_DETECT, EQUALIZE_DONE, EQUALIZE_TIMEOUT,
ALIGN_DONE, INIT_FLIT, DOWN_RETRY, RETRAIN_TIMEOUT, LANE_SIGNAL_LOSS, FEC_ERROR_BURST, WIDTH_FLIT, PORT_FLUSH_TIMEOUT complete with
their own effect. -/
def Obligations.PortTrainingCommandsComplete : Prop :=
  (∀ (s : State) (p : Nat), s.dev.portState p = psDown → s.dev.portPowered p = true →
    exec (.portSignalDetect p) s = .next (s.after (s.dev.wr (Reg.FAB_PORT_STATUS.STATE p) psEqualize)))
  ∧ (∀ (s : State) (p gen : Nat), s.dev.portState p = psEqualize →
    (gen = 1 ∧ ((s.dev.port p).gen1Tried = true ∨ (s.dev.port p).maxGen = 1)
      ∨ gen = 2 ∧ (s.dev.port p).maxGen = 2 ∧ (s.dev.port p).gen1Tried = false) →
    exec (.equalizeDone p gen) s = .next (s.after ((s.dev.wr (Reg.FAB_PORT_STATUS.STATE p) psAlign).setPort p
      { s.dev.port p with gen := gen, gen1Tried := false, eqSaved := true })))
  ∧ (∀ (s : State) (p : Nat), s.dev.portState p = psEqualize → (s.dev.port p).maxGen = 2 → (s.dev.port p).gen1Tried = false →
    exec (.equalizeTimeout p) s = .next (s.after (s.dev.setPort p { s.dev.port p with gen1Tried := true })))
  ∧ (∀ (s : State) (p : Nat), s.dev.portState p = psEqualize → (s.dev.port p).maxGen ≠ 2 ∨ (s.dev.port p).gen1Tried = true →
    exec (.equalizeTimeout p) s = .next (s.after ((s.dev.inc (Reg.FAB_PORT_TRAIN.FAIL p)).portTo p psDown)))
  ∧ (∀ (s : State) (p bad : Nat), s.dev.portState p = psAlign → lanesUp ((s.dev.port p).badLanes ||| (bad % 16)) ≠ 0 →
    let b := (s.dev.port p).badLanes ||| (bad % 16)
    exec (.alignDone p bad) s = .next (s.after
      (((s.dev.setPort p { s.dev.port p with badLanes := b, width := lanesUp b }).wr
        (Reg.FAB_PORT_STATUS.STATE p) psInit).sendInit p)))
  ∧ (∀ (s : State) (p bad : Nat), s.dev.portState p = psRetrain → lanesUp ((s.dev.port p).badLanes ||| (bad % 16)) ≠ 0 →
    let b := (s.dev.port p).badLanes ||| (bad % 16)
    exec (.alignDone p bad) s = .next (s.after (s.dev.setPort p { s.dev.port p with badLanes := b, width := lanesUp b })))
  ∧ (∀ (s : State) (p bad : Nat), s.dev.portState p = psAlign ∨ s.dev.portState p = psRetrain →
    lanesUp ((s.dev.port p).badLanes ||| (bad % 16)) = 0 →
    exec (.alignDone p bad) s = .next (s.after ((s.dev.inc (Reg.FAB_PORT_TRAIN.FAIL p)).portTo p psDown)))
  ∧ (∀ (s : State) (p dev peer : Nat) (bufs : List Nat), s.dev.portState p = psInit → (s.dev.port p).width ≠ 0 →
    let x := s.dev.port p
    let d := (s.dev.wr (Reg.FAB_PORT_PEER.DEV p) dev).wr (Reg.FAB_PORT_PEER.PORT p) peer
    let d := d.setPort p { x with credits := (bufs ++ [0, 0, 0, 0]).take 4, rxSeq := 1, retry := [], nakSent := false }
    let d := d.setReg (Reg.FAB_PORT_STATUS.STATE p).reg
      (psUp + x.gen * 2 ^ 3 + x.width * 2 ^ 5 + b2n (x.badLanes != 0) * 2 ^ 8)
    exec (.initFlit p dev peer bufs) s = .next (s.after
      ((d.raise 0x0F01 clsInfo none (x.gen * 16 + x.width) p (dev % 4096 * 2 ^ 16 + peer % 32) 0).pumpPort p)))
  ∧ (∀ (s : State) (p dev peer : Nat) (bufs : List Nat), s.dev.portState p = psRetrain → (s.dev.port p).width ≠ 0 →
    let x := s.dev.port p
    let d := (s.dev.wr (Reg.FAB_PORT_PEER.DEV p) dev).wr (Reg.FAB_PORT_PEER.PORT p) peer
    let d := d.setPort p { x with tries := 0, nakSent := false }
    let d := d.setReg (Reg.FAB_PORT_STATUS.STATE p).reg
      (psUp + x.gen * 2 ^ 3 + x.width * 2 ^ 5 + b2n (x.badLanes != 0) * 2 ^ 8)
    exec (.initFlit p dev peer bufs) s = .next (s.after
      (((d.raise 0x0F01 clsInfo none (x.gen * 16 + x.width) p (dev % 4096 * 2 ^ 16 + peer % 32) 0).portReplay p).pumpPort p)))
  ∧ (∀ (s : State) (p : Nat), s.dev.portState p = psDown → s.dev.portPowered p = true →
    exec (.downRetry p) s = .next (s.after ((s.dev.wr (Reg.FAB_PORT_STATUS.STATE p) psEqualize).setPort p
      { s.dev.port p with gen1Tried := false })))
  ∧ (∀ (s : State) (p : Nat), s.dev.portState p = psRetrain →
    exec (.retrainTimeout p) s = .next (s.after ((s.dev.inc (Reg.FAB_PORT_TRAIN.FAIL p)).portTo p psDown)))
  ∧ (∀ (s : State) (p lanes : Nat), s.dev.portState p ≠ psDisabled → lanes % 16 = 15 →
    exec (.laneSignalLoss p lanes) s = .next (s.after (s.dev.portTo p psDown)))
  ∧ (∀ (s : State) (p lanes : Nat), s.dev.portState p ≠ psDisabled → lanes % 16 ≠ 15 → lanes % 16 ≠ 0 →
    exec (.laneSignalLoss p lanes) s = .next (s.after
      ((s.dev.setPort p { s.dev.port p with badLanes := (s.dev.port p).badLanes ||| (lanes % 16) }).portRetrain p)))
  ∧ (∀ (s : State) (p : Nat), s.dev.portState p = psUp →
    exec (.fecErrorBurst p) s = .next (s.after ((s.dev.inc (Reg.FAB_PORT_FEC.UNCORRECTED p) 1024).portRetrain p)))
  ∧ (∀ (s : State) (p w : Nat), s.dev.portState p = psUp → w = 1 ∨ w = 2 ∨ w = 4 →
    exec (.widthFlit p w) s = .next (s.after ((s.dev.wr (Reg.FAB_PORT_STATUS.WIDTH p) w).setPort p { s.dev.port p with width := w })))
  ∧ (∀ (s : State) (p : Nat), (s.dev.port p).flushing = true →
    exec (.portFlushTimeout p) s = .next (s.after (s.dev.portTo p psDisabled)))
  ∧ (∀ (s : State) (p : Nat), (s.dev.port p).flushing = false → (s.dev.port p).drain = true →
    exec (.portFlushTimeout p) s = .next (s.after (s.dev.portTo p psDown)))

/-- Flits, retry and routing at the switch (15 R394–R398, R403, R404): FLIT_RECEIVE for a bad flit, a NAK, a flit out of order and
flits accepted, NAK_RECEIVE, REPLAY_TIMER, PACKET_ROUTE, FAB_CREDIT_STALL complete with their own effect. -/
def Obligations.FlitCommandsComplete : Prop :=
  (∀ (s : State) (p : Nat) (f : Flit), s.dev.portState p = psUp → s.dev.fabClocks = true → s.dev.dbg.pinsTaken = false →
    (f.crcOk = false → exec (.flitReceive p f) s = .next (s.after
      (((s.dev.inc (Reg.FAB_PORT_LINK.CRC_ERR p)).corrected 4 p 1).sendNak p)))
    ∧ (f.crcOk = true → f.kind = 2 → exec (.flitReceive p f) s = .next (s.after ((s.dev.takeAck p f.ack).portReplay p)))
    ∧ (f.crcOk = true → f.kind = 1 → f.seq ≠ (s.dev.port p).rxSeq → exec (.flitReceive p f) s = .next (s.after (s.dev.sendNak p)))
    ∧ (f.crcOk = true → f.kind ≠ 2 → (f.kind = 1 → f.seq = (s.dev.port p).rxSeq) →
      let d := s.dev.takeAck p f.ack
      let vc := f.vcFlags / 16 % 4
      let x := d.port p
      let d := d.setPort p { x with credits := x.credits.set vc (x.creditsOf vc + f.credits) }
      let d := if f.kind = 1 then d.acceptFlit p f else if f.kind = 4 then d.portWidth p (fieldAt f.body 0 1) else d
      exec (.flitReceive p f) s = .next (s.after (d.pumpPort p))))
  ∧ (∀ (s : State) (p ack : Nat), s.dev.portState p = psUp →
    exec (.nakReceive p ack) s = .next (s.after ((s.dev.takeAck p ack).portReplay p)))
  ∧ (∀ (s : State) (p : Nat), s.dev.portState p = psUp →
    exec (.replayTimer p) s = .next (s.after (s.dev.portReplay p)))
  ∧ (∀ (s : State) (k : FabPkt) (rest : List FabPkt) (d : Dev) (sent : Bool),
    s.dev.fab.arrived = k :: rest → s.dev.fabClocks = true →
    ({ s.dev with fab := { s.dev.fab with arrived := rest } } : Dev).sendPkt k = (d, sent) →
    exec .packetRoute s = .next (s.after
      (if sent then (if k.dst = d.rd Reg.FAB_ID.DEVICE_ID then d else d.returnCredits k)
      else
        let d := ((d.returnCredits k).inc Reg.FAB_UNROUTABLE.COUNT).occur clsDropped
        if vcOf k.typ = 0 then d.ackPkt k 2 else d)))
  ∧ (∀ (s : State) (p vc : Nat), ((s.dev.port p).queue.any fun k => vcOf k.typ == vc) = true →
    exec (.fabCreditStall p vc) s = .next (s.after (s.dev.raise 0x0F03 clsInfo none vc p 0 0)))

/-- Queue pairs and contexts as the host writes them (05 R115, R117, R121, R122): CTX_CFG_WRITE, QP_CONFIG_WRITE, QP_ENABLE,
QP_DISABLE, SQ_TAIL_DOORBELL, CQ_HEAD_DOORBELL complete with their own effect. -/
def Obligations.QueuePairCommandsComplete : Prop :=
  (∀ (s : State) (ctx : Nat) (v : Word), s.dev.hostRegsServed = true → s.dev.ctxState ctx = csIdle → bits v.toNat 0 2 ≠ 3 →
    exec (.ctxCfgWrite ctx v) s = .next (s.after (s.dev.setReg (Reg.CTX_CFG.CLASS ctx).reg (v.toNat &&& 0xFFFFFF07))))
  ∧ (∀ (s : State) (ctx : Nat) (v : Word), s.dev.hostRegsServed = true → s.dev.ctxState ctx ≠ csIdle ∨ bits v.toNat 0 2 = 3 →
    exec (.ctxCfgWrite ctx v) s = .next (s.after (s.dev.wr (Reg.CTX_STATE.CFG_REFUSED ctx) 1)))
  ∧ (∀ (s : State) (q : Nat) (v : QWord), s.dev.hostRegsServed = true → s.dev.qpState q = qsDisabled →
    exec (.qpConfigWrite q 0x00 v) s = .next (s.after (s.dev.wr (Reg.QP_SQ_BASE.BASE q) (bits v.toNat 12 36)))
    ∧ exec (.qpConfigWrite q 0x08 v) s = .next (s.after (s.dev.wr (Reg.QP_CQ_BASE.BASE q) (bits v.toNat 12 36)))
    ∧ (bitAt (v.toNat % 2 ^ 32 &&& qpCfgMask) 31 = false →
      exec (.qpConfigWrite q 0x10 v) s = .next (s.after (s.dev.setReg (Reg.QP_CFG.CTX q).reg (v.toNat % 2 ^ 32 &&& qpCfgMask)))))
  ∧ (∀ (s : State) (q : Nat) (v : Word), s.dev.hostAnswers = true → s.dev.board.domHeld = false → s.dev.qpState q = qsDisabled →
    let d := s.dev.setReg (Reg.QP_CFG.CTX q).reg (setBits v.toNat 31 1 1 &&& qpCfgMask)
    let e := (d.wr (Reg.QP_STATUS.STATE q) qsActive).wr (Reg.QP_STATUS.FAULT q) 0
    let e := (e.setReg (Reg.QP_SQ_PTRS.HEAD q).reg 0).setReg (Reg.QP_CQ_PTRS.TAIL q).reg 0x2000
    let e := e.setReg (Reg.QP_DONE.COUNT q).reg 0
    let e : Dev := { e with cp0 := { e.cp0 with bells := kvDel q e.cp0.bells } }
    let c := e.qpCtx q
    d.enableFault q = 0 → exec (.qpEnable q v) s = .next (s.after
      ((e.wr (Reg.CTX_STATE.QUEUES c) (e.rd (Reg.CTX_STATE.QUEUES c) + 1)).wr (Reg.CTX_STATE.STATE c) csActive)))
  ∧ (∀ (s : State) (q : Nat), s.dev.hostRegsServed = true → s.dev.qpState q = qsActive ∨ s.dev.qpState q = qsFaulted →
    s.dev.reg (Reg.QP_CFG.CTX q).reg &&& qpCfgMask = s.dev.reg (Reg.QP_CFG.CTX q).reg →
    exec (.qpDisable q) s = .next (s.after (s.dev.qpDisable q)))
  ∧ (∀ (s : State) (q : Nat) (v : Word), s.dev.coreClocks = true → s.dev.qpState q = qsActive → v.toNat < s.dev.sqSize q →
    let d := s.dev.wr (Reg.QP_SQ_PTRS.TAIL q) v.toNat
    let old := (kvGet q d.cp0.bells).getD []
    let bells := (ringArc (d.rd (Reg.QP_SQ_PTRS.HEAD q)) v.toNat (s.dev.sqSize q)).map fun i => match old.find? fun b => b.1 == i with
      | some b => b
      | none => (i, d.timeNs)
    exec (.sqTailDoorbell q v) s = .next (s.after { d with cp0 := { d.cp0 with bells := kvPut q bells d.cp0.bells } }))
  ∧ (∀ (s : State) (q : Nat) (v : Word), s.dev.coreClocks = true → s.dev.qpState q = qsActive →
    v.toNat < s.dev.cqSize q →
    (v.toNat + s.dev.cqSize q - s.dev.rd (Reg.QP_CQ_PTRS.HEAD q)) % s.dev.cqSize q
      ≤ (s.dev.rd (Reg.QP_CQ_PTRS.TAIL q) + s.dev.cqSize q - s.dev.rd (Reg.QP_CQ_PTRS.HEAD q)) % s.dev.cqSize q →
    exec (.cqHeadDoorbell q v) s = .next (s.after (s.dev.wr (Reg.QP_CQ_PTRS.HEAD q) v.toNat)))

/-- The life of a command at CP0 (05 R118, R119, R124–R129, R132–R141; 06 R158): SQ_FETCH, SQ_FETCH_DATA, CMD_DISPATCH,
HEADER_WAIT_SATISFIED, CMD_TIMEOUT, CMD_END, NOP, TIMESTAMP, ABORT complete with their own effect. -/
def Obligations.CommandLifeComplete : Prop :=
  (∀ (s : State) (q count : Nat),
    exec (.sqFetch q count) s = .next (s.after
      (s.dev.forEach (List.range (min count (4096 / s.dev.entryBytes q))) fun _ d => d.fetchOne q)))
  ∧ (∀ (s : State) (slot : Nat) (c : Cmd), s.dev.cmd? slot = some c → c.phase = .fetching → s.dev.coreClocks = true →
    (s.dev.hostReadable = true → exec (.sqFetchData slot .ok) s = .next (s.after (s.dev.accept c)))
    ∧ (∀ o : HostRead, o ≠ .ok → exec (.sqFetchData slot o) s = .next (s.after (s.dev.fetchFailed c))))
  ∧ (∀ (s : State) (k c q : Nat) (aged : Bool) (d : Dev) (cmd : Cmd), s.dev.live = true → s.dev.chooseClass = some (k, aged) →
    s.dev.chooseCtx k = some (c, d) →
    nextAfter ((kvGet c d.cp0.lastQp).getD 256) ((d.candQps k).filter fun q => d.qpCtx q == c) = some q → d.nextOf q = some cmd →
    let tg := if cmd.opcode == 0x0102 then d.abortTargets cmd else []
    let d : Dev := { d with cp0 := { d.cp0 with lastQp := kvPut c q d.cp0.lastQp } }
    let d := d.updCmd cmd.slot fun x => { x with phase := if x.waits then .waiting else .running, targets := tg }
    exec .cmdDispatch s = .next (s.after
      ((d.trace 0 255 (some cmd.ctx) (some 0) (some cmd.cmdId) (some cmd.opcode) none).afterDispatch k aged)))
  ∧ (∀ (s : State) (slot : Nat) (c : Cmd), s.dev.cmd? slot = some c → c.phase = .waiting → s.dev.isWoken (.cmd slot) = true →
    s.dev.live = true → exec (.headerWaitSatisfied slot) s = .next (s.after
      ((s.dev.takeWake (.cmd slot)).updCmd slot fun c => { c with phase := .running })))
  ∧ (∀ (s : State) (slot : Nat) (c : Cmd), s.dev.cmd? slot = some c → c.opcode ≠ 0x0102 → c.ofBatch = false →
    (c.phase = .waiting → exec (.cmdTimeout slot) s = .next (s.after ((s.dev.dropWaits (s.dev.waitOf slot)).endCmd slot 0x05 0x0531 0)))
    ∧ (c.phase = .running → c.parked = false →
      exec (.cmdTimeout slot) s = .next (s.after (s.dev.askStop slot 0x05 0x0530))))
  ∧ (∀ (s : State) (slot : Nat) (c : Cmd) (f : Finish), s.dev.cmd? slot = some c → c.phase = .ended → c.fin = some f →
    c.ofBatch = false → c.activates = false → s.dev.coreClocks = true → s.dev.cmdTxns slot = 0 → s.dev.boot.flr = false →
    c.signalDue f.major = false → exec (.cmdEnd slot) s = .next (s.after (s.dev.complete c f)))
  ∧ (∀ (s : State) (slot : Nat) (c : Cmd), s.dev.CmdRuns slot 0x0101 c → exec (.nop slot) s = .next (s.after (s.dev.endCmd slot 0 0 0)))
  ∧ (∀ (s : State) (slot : Nat) (c : Cmd), s.dev.CmdRuns slot 0x0103 c →
    exec (.timestamp slot) s = .next (s.after (s.dev.endCmd slot 0 0 s.dev.timeNs)))
  ∧ (∀ (s : State) (slot : Nat) (c : Cmd), s.dev.CmdRuns slot 0x0102 c → c.aux = [] →
    let d := (s.dev.forEach c.targets fun t d => d.stopCmd t 0x06 0x0540).updCmd slot fun c => { c with aux := [1] }
    exec (.abort slot) s = .next (s.after (if c.targets.all fun t => (d.cmd? t).isNone then d.endCmd slot 0 0 c.hits else d)))
  ∧ (∀ (s : State) (slot : Nat) (c : Cmd), s.dev.CmdRuns slot 0x0102 c → c.aux ≠ [] → (∀ t ∈ c.targets, s.dev.cmd? t = none) →
    exec (.abort slot) s = .next (s.after (s.dev.endCmd slot 0 0 c.hits)))

/-- Descriptors and preemption (06 R144–R152, R158–R164, R169, R183): TD_WRITE, TD_NOP, FENCE, TD_COMPLETE, TAB_WRITE, PREEMPT_PARK,
ROUTINE_RESUME complete with their own effect. -/
def Obligations.SequencerCommandsComplete : Prop :=
  (∀ (s : State) (slot core : Nat) (c : Cmd) (w : BitVec 512) (rest : List (Nat × BitVec 512)), s.dev.cmd? slot = some c →
    c.todo = (core, w) :: rest → s.dev.live = true → c.phase = .running → c.fin = none → c.stop = none →
    c.suspended.contains core = false → c.preempt.contains core = false → (s.dev.queueTds core (s.dev.tqOf c)).length < 128 →
    let t : Td := { id := s.dev.seq.nextId, cmd := slot, core, tq := s.dev.tqOf c
                    td := tdStamp w c.ctx slot (!(rest.any fun x => x.1 == core)), started := false
                    finished := false, fail := none, signalled := false }
    let d := s.dev.updCmd slot fun c => { c with todo := rest }
    exec (.tdWrite slot) s = .next (s.after { d with seq := { d.seq with tds := d.seq.tds ++ [t], nextId := d.seq.nextId + 1 } }))
  ∧ (∀ (s : State) (id : Nat) (t : Td), s.dev.TdStarts id 0x01 t →
    exec (.tdNop id) s = .next (s.after ((s.dev.tdStart t).finishTd t.id)))
  ∧ (∀ (s : State) (id : Nat) (t : Td), s.dev.TdStarts id 0x02 t → s.dev.fenceHolds t = true →
    t.f 0x18 1 ≠ 1 ∨ (s.dev.tdStart t).hostReadable = true →
    exec (.fence id) s = .next (s.after ((s.dev.tdStart t).finishTd t.id)))
  ∧ (∀ (s : State) (id : Nat) (t : Td), s.dev.td? id = some t → s.dev.coreClocks = true → t.started = true → t.finished = true →
    s.dev.openTxns id = false → tdSignalEn t.td = false → exec (.tdComplete id false) s = .next (s.after (s.dev.retire t)))
  ∧ (∀ (s : State) (id : Nat) (t : Td) (c : Cmd) (o : SoOut), s.dev.td? id = some t → s.dev.coreClocks = true → t.started = true →
    t.finished = true → s.dev.openTxns id = false → tdSignalEn t.td = true → t.signalled = false →
    s.dev.cmd? t.cmd = some c → c.fin = none →
    s.dev.soOp (.td id) t.ctx (tdSignalSo t.td) false (tdSignalAdd t.td) = o → o.res = .done →
    exec (.tdComplete id false) s = .next (s.after (o.dev.retire t)))
  ∧ (∀ (s : State) (slot k : Nat) (c : Cmd) (torn : Bool), s.dev.cmd? slot = some c → c.tab = some k → s.dev.live = true →
    c.phase = .running → c.saved < c.done →
    let b := ((kvGet k s.dev.seq.tabs).bind tabInForce).getD []
    exec (.tabWrite slot torn) s = .next (s.after
      ((s.dev.tabWrite k c (tabCrc b) (tabEpoch b) 1 torn).updCmd slot fun c => { c with saved := c.done })))
  ∧ (∀ (s : State) (slot ns mj dt : Nat) (c : Cmd), s.dev.cmd? slot = some c → s.dev.coreClocks = true → c.phase = .running →
    c.fin = none → c.stop = some (mj, dt) → s.dev.atPoint c none = true →
    let d := s.dev.forEach c.cores fun k d => (d.countPreempt k (d.timeNs - c.preemptNs)).overrun c k ns
    exec (.preemptPark slot ns) s = .next (s.after
      (((d.dropWaits (d.waitOf slot)).dropTds slot).endCmd slot mj dt c.stopResult)))
  ∧ (∀ (s : State) (slot ns k : Nat) (c : Cmd), s.dev.cmd? slot = some c → s.dev.coreClocks = true → c.phase = .running →
    c.fin = none → c.stop = none → (c.preempt.find? fun k => s.dev.atPoint c (some k)) = some k →
    let d := ((s.dev.countPreempt k (s.dev.timeNs - c.preemptNs)).overrun c k ns).takeBack slot k
    let d := match c.tab with
      | some t => d.tabSetState t 2
      | none => d
    exec (.preemptPark slot ns) s = .next (s.after (d.updCmd slot fun c =>
      { c with preempt := c.preempt.filter (fun x => x != k), suspended := k :: c.suspended, suspNs := d.timeNs })))
  ∧ (∀ (s : State) (slot : Nat) (c : Cmd), s.dev.cmd? slot = some c → s.dev.live = true → c.suspended ≠ [] → c.fin = none →
    let d := s.dev.updCmd slot fun c => { c with suspended := [], rested := true }
    exec (.routineResume slot) s = .next (s.after (match c.tab with
      | some t => d.tabSetState t 1
      | none => d)))

/-- Operations, waits and host writes of sync objects (07 R190–R196, R200; 22 R586): SO_OP, SO_WAIT_REGISTER, SO_VALUE_WRITE,
SO_ADD_WRITE, SO_CFG_WRITE complete with their own effect on an object that is correctable. -/
def Obligations.SyncObjectCommandsComplete : Prop :=
  (∀ (s : State) (id : Nat) (t : Td), s.dev.TdStarts id 0x03 t → t.f 0x19 1 ≠ 1 ∨ s.dev.earlierOfCmd t = [] →
    let d := s.dev.tdStart t
    let n := t.f 0x1A 2 % 4096
    d.so.ue.contains n = false → d.soKind n ≠ 3 →
    exec (.soOp id false) s = .next (s.after ((d.soPerform n (t.f 0x18 1 == 1) (t.f 0x20 8)).finishTd id)))
  ∧ (∀ (s : State) (id : Nat) (t : Td) (d' : Dev) (tag : Nat), s.dev.TdStarts id 0x03 t →
    t.f 0x19 1 ≠ 1 ∨ s.dev.earlierOfCmd t = [] →
    (s.dev.tdStart t).soOp (.td id) t.ctx (t.f 0x1A 2 % 4096) (t.f 0x18 1 == 1) (t.f 0x20 8) = ⟨d', .sent tag⟩ →
    exec (.soOp id false) s = .next (s.after (d'.finishTd id)))
  ∧ (∀ (s : State) (slot : Nat) (c : Cmd), s.dev.live = true → s.dev.cmd? slot = some c → c.phase = .waiting →
    s.dev.isWaiting (.cmd slot) = false → s.dev.isWoken (.cmd slot) = false →
    exec (.soWaitRegister 0 slot) s = .next (s.after (s.dev.soWait (.cmd slot) c.waitSo 0 c.waitValue)))
  ∧ (∀ (s : State) (id : Nat) (t : Td), s.dev.live = true → s.dev.td? id = some t → tdWaitEn t.td = true → t.started = false →
    s.dev.isWaiting (.td id) = false → s.dev.isWoken (.td id) = false → (beforeTd id (s.dev.queueTds t.core t.tq)).length < 16 →
    exec (.soWaitRegister 1 id) s = .next (s.after (s.dev.soWait (.td id) (tdWaitSo t.td) (tdWaitCond t.td) (tdWaitValue t.td))))
  ∧ (∀ (s : State) (p : Nat) (r : PorterRun), s.dev.live = true → kvGet p s.dev.porters = some r →
    pdWaitEn (s.dev.porterDesc r) = true → r.waitOk = false → r.index < r.count →
    s.dev.isWaiting (.porter p) = false → s.dev.isWoken (.porter p) = false → s.dev.soAllowed r.ctx (pdWaitSo (s.dev.porterDesc r)) = true →
    let x := s.dev.porterDesc r
    exec (.soWaitRegister 2 p) s = .next (s.after
      ((s.dev.soWait (.porter p) (pdWaitSo x) (pdWaitCond x) (pdWaitValue x)).wr (Reg.PRT_STATUS.WAITING p) 1)))
  ∧ (∀ (s : State) (n : Nat) (v : QWord), s.dev.hostRegsServed = true →
    let d : Dev := { s.dev with so := { s.dev.so with ue := s.dev.so.ue.filter fun x => x != n } }
    d.soKind n ≠ 3 → exec (.soValueWrite n v false) s = .next (s.after (d.soPerform n true v.toNat)))
  ∧ (∀ (s : State) (n : Nat) (v : Word), s.dev.hostRegsServed = true → s.dev.so.ue.contains n = false → s.dev.soKind n ≠ 3 →
    exec (.soAddWrite n v false) s = .next (s.after (s.dev.soPerform n false v.toNat)))
  ∧ (∀ (s : State) (n : Nat) (v : Word), s.dev.hostRegsServed = true →
    bits v.toNat 0 2 = s.dev.soKind n → bits v.toNat 4 12 = s.dev.rd (Reg.SO_CFG.ARG n) → bitAt v.toNat 2 = true →
    exec (.soCfgWrite n v false) s = .next (s.after (s.dev.wr (Reg.SO_CFG.WRAPPED n) 0)))
  ∧ (∀ (s : State) (n : Nat) (v : Word), s.dev.hostRegsServed = true →
    ¬(bits v.toNat 0 2 = s.dev.soKind n ∧ bits v.toNat 4 12 = s.dev.rd (Reg.SO_CFG.ARG n) ∧ bitAt v.toNat 2 = true) →
    (s.dev.so.waiters.any fun w => w.so == n) = false → s.dev.soKind n ≠ 3 → bits v.toNat 0 2 ≠ 3 →
    let d : Dev := { s.dev with so := { s.dev.so with ue := s.dev.so.ue.filter fun x => x != n } }
    let arg := if bits v.toNat 0 2 = 1 then bits v.toNat 4 12 else 0
    let d := (d.setReg (Reg.SO_CFG.KIND n).reg (bits v.toNat 0 2 + arg * 16)).wr (Reg.SO_VALUE.VALUE n) 0
    exec (.soCfgWrite n v false) s = .next (s.after
      (((d.incMod Reg.SO_OPS.COUNT).trace 2 255 none none (some n) (some 0) none).soPushAll n)))

/-- Mirrors, on both sides (07 R197–R202): SO_MIRROR_BIND, SO_MIRROR_UNBIND, MIRROR_BIND_TIMEOUT, MIRROR_STALE, SO_PUSH, MIRROR_BIND,
MIRROR_UNBIND, SO_HEARTBEAT complete with their own effect. -/
def Obligations.MirrorCommandsComplete : Prop :=
  (∀ (s : State) (slot tag : Nat) (c : Cmd) (d : Dev), s.dev.CmdRuns slot 0x0605 c → c.par 7 1 = 0 →
    (s.dev.so.binds.any fun b => b.cmd == slot) = false → s.dev.soAllowed c.ctx (c.par 0 2 % 4096) = true →
    s.dev.soWaited (c.par 0 2 % 4096) = false → s.dev.soKind (c.par 0 2 % 4096) ≠ 3 →
    (s.dev.so.binds.any fun b => b.so == c.par 0 2 % 4096) = false →
    s.dev.request { s.dev.newPkt ptMirrorBind (c.par 2 2 % 4096) (c.par 6 1 % 16) c.ctx (c.par 4 2 % 4096) with
      arg := c.par 0 2 % 4096 } (.bind slot) c.ctx 0 0 0 = (d, some tag) →
    exec (.soMirrorBind slot) s = .next (s.after { d with so := { d.so with
      binds := d.so.binds ++ [⟨slot, c.par 0 2 % 4096, c.par 2 2 % 4096, c.par 4 2 % 4096, c.par 6 1 % 16,
        if c.par 8 2 = 0 then 2 else c.par 8 2⟩] } }))
  ∧ (∀ (s : State) (slot : Nat) (c : Cmd) (m : Mirror), s.dev.CmdRuns slot 0x0605 c → c.par 7 1 = 1 →
    let n := c.par 0 2 % 4096
    s.dev.soAllowed c.ctx n = true → s.dev.soWaited n = false → (s.dev.so.binds.any fun b => b.so == n) = false →
    s.dev.soKind n = 3 → kvGet n s.dev.so.mirrors = some m →
    let d := s.dev.setReg (Reg.SO_CFG.KIND n).reg (b2n (s.dev.on (Reg.SO_CFG.WRAPPED n)) * 4)
    let d : Dev := { d with so := { d.so with mirrors := kvDel n d.so.mirrors } }
    let d := d.wr Reg.SO_STATUS.MIRRORS d.so.mirrors.length
    exec (.soMirrorUnbind slot) s = .next (s.after ((d.sendUnbind (s.dev.rd (Reg.SO_CFG.HOME_DEV n)) m.homeCtx c.ctx
      (s.dev.rd (Reg.SO_CFG.ARG n)) n).endCmd slot 0 0 0)))
  ∧ (∀ (s : State) (slot : Nat) (b : Bind) (c : Cmd), (s.dev.so.binds.find? fun b => b.cmd == slot) = some b →
    s.dev.cmd? slot = some c →
    exec (.mirrorBindTimeout slot) s = .next (s.after ((s.dev.endBind b true c.ctx).endCmd slot 0x05 0x0702 0)))
  ∧ (∀ (s : State) (n : Nat), s.dev.soKind n = 3 → s.dev.soStale n = false → s.dev.coreClocks = true →
    let d := (s.dev.wr (Reg.SO_CFG.STALE n) 1).inc Reg.SO_ERR.STALE
    exec (.mirrorStale n) s = .next (s.after ((d.raise 0x0701 clsContained none 0 n
      (d.rd (Reg.SO_CFG.HOME_DEV n) * 65536 + d.rd (Reg.SO_CFG.ARG n)) 0).soFailWaits n 0x05 0x0701)))
  ∧ (∀ (s : State) (k : FabPkt) (d : Dev), s.dev.PktTaken ptSoPush k d →
    let ms := (d.so.mirrors.map fun m => m.1).filter fun n =>
      d.rd (Reg.SO_CFG.HOME_DEV n) == k.src && d.rd (Reg.SO_CFG.ARG n) == k.addr % 4096
    let live := ms.filter fun n => !d.soStale n
    let b? := d.so.binds.find? fun b => b.dev == k.src && b.home == k.addr % 4096
    (∀ b, b? = some b → exec .soPush s = .next (s.after ((d.forEach live (Dev.mirrorPush k)).bindPush b k)))
    ∧ (b? = none → live ≠ [] → exec .soPush s = .next (s.after (d.forEach live (Dev.mirrorPush k)))))
  ∧ (∀ (s : State) (k : FabPkt) (d : Dev), s.dev.PktTaken ptMirrorBind k d → d.soRemoteDetail k = 0 → d.epochDiffers k = false →
    d.so.ue.contains (k.addr % 4096) = false →
    let others := d.so.pushes.filter fun e => !(e.home == k.addr % 4096 && e.dev == k.src && e.mirror == k.arg % 4096)
    others.length < 4096 → (others.filter fun e => e.home == k.addr % 4096).length < 64 →
    let e : PushEntry := ⟨k.addr % 4096, k.src, k.arg % 4096, k.sctx, d.timeNs⟩
    let d : Dev := { d with so := { d.so with pushes := others ++ [e] } }
    exec .mirrorBind s = .next (s.after (Dev.soPushTo e (d.wr Reg.SO_PUSH_STATUS.ENTRIES d.so.pushes.length))))
  ∧ (∀ (s : State) (k : FabPkt) (d : Dev), s.dev.PktTaken ptMirrorUnbind k d →
    let d : Dev := { d with so := { d.so with
      pushes := d.so.pushes.filter fun e => !(e.home == k.addr % 4096 && e.dev == k.src && e.mirror == k.arg % 4096) } }
    exec .mirrorUnbind s = .next (s.after (d.wr Reg.SO_PUSH_STATUS.ENTRIES d.so.pushes.length)))
  ∧ (∀ (s : State) (n dev mirror : Nat) (e : PushEntry), s.dev.coreClocks = true →
    (s.dev.so.pushes.find? fun e => e.home == n && e.dev == dev && e.mirror == mirror) = some e →
    exec (.soHeartbeat n dev mirror) s = .next (s.after (Dev.soPushTo e s.dev)))

/-- Porter lists and their operations (13 R342–R347): PORTER_LIST, NOP, COPY, FILL, CHECK, TRANSPOSE, REMOTE_WRITE, REMOTE_READ
complete with their own effect on a descriptor that passes its checks and whose accesses succeed. -/
def Obligations.PorterCommandsComplete : Prop :=
  (∀ (s : State) (id : Nat) (t : Td), s.dev.TdStarts id 0x60 t → kvGet (t.f 0x20 1) s.dev.porters = none →
    (s.dev.tdStart t).unitBlocked [domPorters t.core] 0x0D21 = none →
    let p := t.f 0x20 1
    let r : PorterRun := { td := id, cmd := t.cmd, ctx := t.ctx, list := t.f 0x18 8, count := t.f 0x22 2, index := 0
                           waitOk := false, pos := 0, crc := 0, signals := [] }
    let d := s.dev.tdStart t
    let d : Dev := { d with porters := kvPut p r d.porters }
    exec (.porterList id) s = .next (s.after
      (((d.wr (Reg.PRT_STATUS.BUSY p) 1).wr (Reg.PRT_STATUS.CTX p) t.ctx).wr (Reg.PRT_STATUS.INDEX p) 0)))
  ∧ (∀ (s : State) (p x : Nat) (r : PorterRun) (d : Dev), s.dev.PorterTakes p 0 r x d →
    exec (.porterNop p) s = .next (s.after (d.porterNext p { r with waitOk := true } x 0)))
  ∧ (∀ (s : State) (p x : Nat) (r : PorterRun) (d : Dev), s.dev.PorterTakes p 1 r x d →
    let m := d.movePieces (byPorter p) r.ctx (rowPieces (pdRows x) (pdRowBytes x) (pdSrc x) (pdSrcStride x) (pdDst x) (pdDstStride x)) 0
    m.err = none → exec (.prtCopy p) s = .next (s.after (m.dev.porterNext p { r with waitOk := true } x m.done)))
  ∧ (∀ (s : State) (p x : Nat) (r : PorterRun) (d : Dev), s.dev.PorterTakes p 2 r x d →
    let ps := (List.range (pdRows x)).flatMap fun i =>
      (burstsOf (pdDst x + i * pdDstStride x) (pdRowBytes x)).map fun b => (pdDst x + i * pdDstStride x + b.1, b.2)
    let m := d.fillPieces (byPorter p) r.ctx (pdAux x) ps 0
    m.err = none → exec (.prtFill p) s = .next (s.after (m.dev.porterNext p { r with waitOk := true } x m.done)))
  ∧ (∀ (s : State) (p x v : Nat) (r : PorterRun) (d d₁ d₂ : Dev), s.dev.PorterTakes p 3 r x d →
    d.crcPieces (byPorter p) r.ctx ((List.range (pdRows x)).flatMap fun i =>
      (burstsOf (pdSrc x + i * pdSrcStride x) (pdRowBytes x)).map fun b => (pdSrc x + i * pdSrcStride x + b.1, b.2)) (pdAux x) = (d₁, .ok v) →
    d₁.write (byPorter p) r.ctx (pdDst x) (leBytes 8 v ++ leBytes 8 (v ^^^ ones64)) = ⟨d₂, none⟩ →
    exec (.prtCheck p) s = .next (s.after (d₂.porterNext p { r with waitOk := true } x 16)))
  ∧ (∀ (s : State) (p x : Nat) (r : PorterRun) (d : Dev), s.dev.PorterTakes p 4 r x d →
    let sz := elemSize (pdElem x)
    let m := d.movePieces (byPorter p) r.ctx
      (transposePieces (pdRows x) (pdRowBytes x / sz) sz (pdSrc x) (pdSrcStride x) (pdDst x) (pdDstStride x)) 0
    m.err = none → exec (.prtTranspose p) s = .next (s.after (m.dev.porterNext p { r with waitOk := true } x m.done)))
  ∧ (∀ (s : State) (p x : Nat) (r : PorterRun) (d : Dev), s.dev.PorterTakes p 5 r x d →
    exec (.remoteWrite p) s = .next (s.after (d.issueWrites p { r with waitOk := true } x 0 (pdPieces x) 0)))
  ∧ (∀ (s : State) (p x : Nat) (r : PorterRun) (d : Dev), s.dev.PorterTakes p 6 r x d →
    exec (.remoteRead p) s = .next (s.after (d.issueReads p { r with waitOk := true } x (pdPieces x))))

/-- The memory commands (13 R350, R351; 06 R158, R170): one chunk of MEM_COPY, MEM_FILL, MEM_COPY_2D, MEM_TRANSPOSE and MEM_CHECK, both
of a command that begins and of one that has begun, completes with its own effect; the last one completes the command. -/
def Obligations.MemoryCommandsComplete : Prop :=
  ∀ x ∈ ([(.memCopy, 0x0201), (.memFill, 0x0202), (.memCopy2d, 0x0203), (.memTranspose, 0x0204), (.memCheck, 0x0205)] :
      List ((Nat → Instr) × Nat)),
    ∀ (s : State) (slot : Nat) (c₀ c c' : Cmd) (d d' : Dev), s.dev.RoutineRuns slot x.2 c₀ →
      let total := cdiv (memBytes c₀) s.dev.memChunk
      (c₀.total ≠ 0 ∧ d = s.dev
        ∨ c₀.total = 0 ∧ total ≤ 1 ∧ d = (s.dev.assign slot [s.dev.pickCore 2]).updCmd slot fun c => { c with total := total }) →
      d.cmd? slot = some c → c.done < c.total → d.memChunkRun c = (d', .ok c') →
      let e := d'.updCmd slot fun y =>
        { y with done := c.done + 1, rested := false, cursor := c'.cursor, rstate := c'.rstate, hits := c'.hits, aux := c'.aux }
      exec (x.1 slot) s = .next (s.after
        (if c.done + 1 = c.total then e.endCmd slot 0 0 (memResult { c' with done := c.done + 1, rested := false }) else e))

/-- The matrix array (08 R210, R211, R215–R219, R224, R225, R231, R237, R238): ARRAY_LOAD, BROADCAST_FLIP, RELAY_FRONT_ENTER, ARRAY_PASS,
ARRAY_COLUMN_FAULT, ARRAY_RUN, DIAG_ARRAY_TEST complete with their own effect on an array that is in service and powered. -/
def Obligations.ArrayCommandsComplete : Prop :=
  (∀ (s : State) (id : Nat) (t : Td) (d : Dev) (rows : List (Nat × List Nat)), s.dev.TdStarts id 0x10 t →
    s.dev.arrOpenTo t.core t.cmd = true → (s.dev.tdStart t).arrRefusal t.core = none →
    let e := (s.dev.tdStart t).setArr t.core { (s.dev.tdStart t).arrOf t.core with owner := some t.cmd }
    let g : Geo := ⟨t.f 0x24 2, t.f 0x26 2, t.f 0x28 2, t.f 0x2A 2⟩
    t.f 0x18 8 % 128 = 0 → t.f 0x2C 4 % 128 = 0 → g.col + g.cols ≤ e.rd (Reg.ARR_COLS.COLS t.core) →
    e.loadRows t.core t.ctx g.cols ((List.range g.rows).map fun i => (g.row + i, t.f 0x18 8 + i * t.f 0x2C 4)) = (d, .ok rows) →
    let a := d.arrOf t.core
    let b := t.f 0x22 1 % 16
    let tile : KV (KV Nat) := rows.map fun x => (x.1, ((List.range x.2.length).zip x.2).map fun y => (g.col + y.1, y.2))
    let d' := (d.setArr t.core { a with shadow := overlay tile a.shadow g, pendGeo := kvPut b g a.pendGeo }).wr
      (Reg.ARR_BLOCK.PENDING t.core b) 1
    exec (.arrayLoad id) s = .next (s.after (if t.f 0x21 1 = 0 ∧ t.f 0x20 1 = 0 then d'.loadDone t else d')))
  ∧ (∀ (s : State) (core : Nat) (t : Td), s.dev.switchDue core false = some t →
    exec (.broadcastFlip core) s = .next (s.after ((s.dev.switchBlocks core (s.dev.arrOf core).pendGeo).loadDone t)))
  ∧ (∀ (s : State) (core : Nat) (t : Td), s.dev.switchDue core true = some t →
    exec (.relayFrontEnter core) s = .next (s.after
      ((s.dev.switchBlocks core ((s.dev.arrOf core).pendGeo.filter fun x => x.1 == t.f 0x22 1 % 16)).loadDone t)))
  ∧ (∀ (s : State) (id : Nat) (t : Td), s.dev.TdStarts id 0x11 t → t.started = false →
    ((s.dev.earlierOfCmd t).any fun u => tdKind u.td == 0x10 && !u.finished && (u.f 0x20 1 != 0 || u.f 0x21 1 != 0)) = false →
    s.dev.arrOpenTo t.core t.cmd = true → (s.dev.tdStart t).arrRefusal t.core = none →
    let e := (s.dev.tdStart t).setArr t.core { (s.dev.tdStart t).arrOf t.core with owner := some t.cmd }
    e.passCheck t = none →
    let e' := e.setArr t.core { e.arrOf t.core with pass := some ⟨id, 0, (passBlocks (t.f 0x2A 2)).map (e.blockGeo t.core), 0⟩ }
    exec (.arrayPass id) s = .next (s.after ((e'.wr (Reg.ARR_STATUS.MODE t.core) (t.f 0x28 1)).passRows t (t.f 0x20 4 + 1))))
  ∧ (∀ (s : State) (id : Nat) (t : Td), s.dev.td? id = some t → tdKind t.td = 0x11 → t.started = true → t.finished = false →
    s.dev.live = true → exec (.arrayPass id) s = .next (s.after (s.dev.passRows t (t.f 0x20 4 + 1))))
  ∧ (∀ (s : State) (core col : Nat), s.dev.coreClocks = true → s.dev.arrayRunOn core = none → (s.dev.arrOf core).owner = none →
    (s.dev.seq.tds.filter fun t => t.core == core && t.started && !t.finished && (tdKind t.td == 0x10 || tdKind t.td == 0x11)) = [] →
    let d := s.dev.raise 0x0801 clsContained none core col 0 0 .yes
    let d := if d.rd (Reg.ARR_STATUS.FAULT_COL core) = 0xFF then d.wr (Reg.ARR_STATUS.FAULT_COL core) col else d
    exec (.arrayColumnFault core col) s = .next (s.after
      ((d.wr (Reg.ARR_STATUS.FAULTED core) 1).inc (Reg.ARR_FAULTS.COLUMN core))))
  ∧ (∀ (s : State) (core col : Nat) (c : Cmd), s.dev.coreClocks = true → s.dev.arrayRunOn core = some c → (s.dev.arrOf core).owner = none →
    (s.dev.seq.tds.filter fun t => t.core == core && t.started && !t.finished && (tdKind t.td == 0x10 || tdKind t.td == 0x11)) = [] →
    let d := s.dev.raise 0x0801 clsContained (some c.ctx) core col 0 0 .yes
    let d := if d.rd (Reg.ARR_STATUS.FAULT_COL core) = 0xFF then d.wr (Reg.ARR_STATUS.FAULT_COL core) col else d
    exec (.arrayColumnFault core col) s = .next (s.after
      (((d.wr (Reg.ARR_STATUS.FAULTED core) 1).inc (Reg.ARR_FAULTS.COLUMN core)).failStaged c.slot ⟨0x0E, 0x0820, 0⟩)))
  ∧ (∀ (s : State) (slot : Nat) (c c' : Cmd) (d : Dev), s.dev.RoutineRuns slot 0x0302 c →
    let core := if c.total = 0 then s.dev.arrCore (c.par 0x37 1) else c.cores.headD 0
    let x := c.runShape
    let total := cdiv x.m (runRows x.k) * cdiv x.n (max 1 (s.dev.rd (Reg.ARR_COLS.COLS core)))
    (s.dev.arrOf core).owner = none → s.dev.runRefusal core = none →
    (if c.total = 0 then (s.dev.assign slot [core]).updCmd slot fun c => { c with total := total } else s.dev).runStage c core c.done
      = ⟨d, none⟩ →
    (d.pieceDone slot).cmd? slot = some c' →
    exec (.arrayRun slot) s = .next (s.after
      (if c'.done = c'.total then (d.pieceDone slot).okCmd slot c'.progress else d.pieceDone slot)))
  ∧ (∀ (s : State) (slot : Nat) (fails : List Nat) (c : Cmd), s.dev.RoutineRuns slot 0x0801 c →
    let core := c.par 0 1 % 2
    (s.dev.arrOf core).owner = none → s.dev.arrRefusal core = none →
    let bad := (List.range 192).filter fun k => fails.contains k
    let d := (s.dev.assign slot [core]).updCmd slot fun c => { c with total := 1, done := 1 }
    let inc := bad.filter fun k => !s.dev.bypassed core k
    let d := d.forEach (List.range 6) fun i d =>
      d.wr (Reg.ARR_TEST_MAP.COLS core i) (((bad.filter fun k => k / 32 == i).map fun k => 2 ^ (k % 32)).sum)
    let res := inc.length + bad.length * 256 + inc.headD 255 * 65536
    exec (.diagArrayTest slot fails) s = .next (s.after
      (if inc.isEmpty then d.okCmd slot res else d.endCmd slot 0x0E 0x0821 res)))

/-- SFU tables, row reductions and the memory test (10 R279, R280, R283–R286; 13 R352): SFU_TABLE_LOAD loads, frees and reads back,
RU_RUN reduces, DIAG_MEM_TEST tests a chunk, each with its own effect. -/
def Obligations.TableReductionTestComplete : Prop :=
  (∀ (s : State) (slot : Nat) (c : Cmd) (d : Dev) (t : List Byte), s.dev.CmdRuns slot 0x0A01 c →
    s.dev.unitBlocked ((coresOf (c.par 0x09 1)).map domSfu) 0x0913 = none → c.par 0x0A 1 = 0 → c.aux = [] →
    (∀ k ∈ coresOf (c.par 0x09 1), ∀ o, s.dev.sfuOwner k (c.par 0x08 1 % 16) = some o → o = c.ctx) →
    s.dev.read byCp c.ctx (c.par 0 8) 1088 = ⟨d, .ok t⟩ → tableFault t = none →
    exec (.sfuTableLoad slot) s = .next (s.after ((d.updCmd slot fun c => { c with rstate := t }).sfuWrite c (some t))))
  ∧ (∀ (s : State) (slot : Nat) (c : Cmd), s.dev.CmdRuns slot 0x0A01 c →
    s.dev.unitBlocked ((coresOf (c.par 0x09 1)).map domSfu) 0x0913 = none → c.par 0x0A 1 = 1 →
    exec (.sfuTableLoad slot) s = .next (s.after (s.dev.sfuWrite c none)))
  ∧ (∀ (s : State) (slot : Nat) (c : Cmd) (d : Dev), s.dev.CmdRuns slot 0x0A01 c →
    s.dev.unitBlocked ((coresOf (c.par 0x09 1)).map domSfu) 0x0913 = none → c.par 0x0A 1 = 2 →
    let sl := c.par 0x08 1 % 16
    let k := sfuReadCore (c.par 0x09 1)
    (∀ o, s.dev.sfuOwner k sl = some o → o = c.ctx) → s.dev.on (Reg.SFU_SLOT.LOADED k sl) = true →
    s.dev.write byCp c.ctx (c.par 0 8) (s.dev.sfuTable k sl) = ⟨d, none⟩ →
    exec (.sfuTableLoad slot) s = .next (s.after (d.okCmd slot)))
  ∧ (∀ (s : State) (id : Nat) (t : Td) (d d' : Dev) (xs : List (List Nat)), s.dev.TdStarts id 0x21 t →
    let e := (s.dev.tdStart t).wr (if t.f 0x2F 1 = 0 then Reg.RU_STATUS.CTX0 t.core else Reg.RU_STATUS.CTX1 t.core) t.ctx
    let src := t.f 0x18 8
    let dst := t.f 0x20 8
    let rows := t.f 0x28 4
    let len := t.f 0x2C 2
    let ops := (List.range 6).filter fun k => bitAt (t.f 0x2E 1) k
    e.unitBlocked [domRu t.core] 0x0A12 = none → src % 4 = 0 → dst % 4 = 0 → inSpm t.core src (4 * len * rows) = true →
    inSpm t.core dst (4 * rows * ops.length) = true → overlap src (4 * len * rows) dst (4 * rows * ops.length) = false →
    e.ruRows t.core t.ctx src len (List.range rows) = (d, .ok xs) →
    ((d.incMod (Reg.RU_ROWS.COUNT t.core) rows).incMod (Reg.RU_NONFINITE.COUNT t.core)
        (if ops.contains 5 then (xs.filter fun r => r.any fun x => !finite32 x).length else 0)).ruPlanes t.core t.ctx
      (((List.range ops.length).zip ops).map fun x => (dst + 4 * rows * x.1, xs.flatMap fun r => leBytes 4 (ruValue x.2 r)))
      = ⟨d', none⟩ →
    exec (.ruRun id) s = .next (s.after (d'.finishTd id)))
  ∧ (∀ (s : State) (slot : Nat) (bad : List (Nat × Bool)) (c c' : Cmd) (d : Dev), s.dev.RoutineRuns slot 0x0802 c → c.total ≠ 0 →
    c.done < c.total → Dev.memTestChunk bad c s.dev = (d, .ok c') →
    let e := d.updCmd slot fun y =>
      { y with done := c.done + 1, rested := false, cursor := c'.cursor, rstate := c'.rstate, hits := c'.hits, aux := c'.aux }
    exec (.diagMemTest slot bad) s = .next (s.after
      ((if c.done + 1 = c.total then e.okCmd slot c'.hits else e).memTestEnd slot)))

/-- The VE instructions 0x00–0x1A (09 R255–R259): each completes with its own lane function when its output writes succeed; the result
becomes the newest of the last eight. -/
def Obligations.VeArithmeticComplete : Prop :=
  ∀ x ∈ ([
        (.veNop, 0x00, fun _ _ _ _ _ => 0), (.veCopy, 0x03, fun _ _ _ _ l => l.a), (.veAdd, 0x08, fun _ _ _ _ l => add32 l.a l.b),
        (.veSub, 0x09, fun _ _ _ _ l => sub32 l.a l.b), (.veMul, 0x0A, fun _ _ _ _ l => mul32 l.a l.b),
        (.veFma, 0x0B, fun _ _ _ _ l => fma32 l.a l.b l.c), (.veFms, 0x0C, fun _ _ _ _ l => fms32 l.a l.b l.c),
        (.veFnma, 0x0D, fun _ _ _ _ l => fnma32 l.a l.b l.c), (.veMin, 0x0E, fun _ _ _ _ l => min32 false l.a l.b),
        (.veMax, 0x0F, fun _ _ _ _ l => max32 false l.a l.b), (.veMinnum, 0x10, fun _ _ _ _ l => min32 true l.a l.b),
        (.veMaxnum, 0x11, fun _ _ _ _ l => max32 true l.a l.b), (.veAbs, 0x12, fun _ _ _ _ l => l.a % signBit32),
        (.veNeg, 0x13, fun _ _ _ _ l => neg32 l.a), (.copysign, 0x14, fun _ _ _ _ l => l.a % signBit32 + l.b / signBit32 * signBit32),
        (.veClamp, 0x15, fun _ _ _ _ l => min32 false (max32 false l.a l.b) l.c),
        (.lerp, 0x16, fun _ _ _ _ l => fma32 l.c (sub32 l.b l.a) l.a), (.mulp2, 0x17, fun _ _ _ w l => mulp2 (toSigned 9 (veMod w)) l.a),
        (.nrrcp, 0x18, fun _ _ _ _ l => nrrcp l.a l.b), (.nrrsq, 0x19, fun _ _ _ _ l => nrrsq l.a l.b),
        (.rint, 0x1A, fun _ _ _ w l => rint32 (veMod w % 4) l.a)] :
      List ((Nat → Instr) × Nat × (Dev → Nat → VeRun → Nat → Lane → Nat))),
    ∀ (s : State) (core : Nat) (r : VeRun) (d : Dev), s.dev.VeAt core x.2.1 r →
      let res := (r.lanes r.word).map (x.2.2 s.dev core r r.word)
      s.dev.veWrite core r.ctx (r.writes r.word res fun _ => true) = ⟨d, none⟩ →
      exec (x.1 core) s = .next (s.after
        { d with ve := kvPut core { r with pos := r.pos + 1, res := (res :: r.res).take 8 } d.ve })

/-- The VE instructions 0x20–0x3B but CVTFI (09 R255–R261, 16 R436): each completes with its own lane function when its output writes
succeed. -/
def Obligations.VeLogicAndConversionsComplete : Prop :=
  ∀ x ∈ ([
        (.veCmp, 0x20, fun _ _ _ w l => mask32 (cmp32 (veMod w % 8) l.a l.b)),
        (.veSel, 0x21, fun _ _ _ _ l => if bitAt l.a 31 then l.b else l.c),
        (.fclass, 0x22, fun _ _ _ w l => mask32 (bitAt (veMod w) (fclass32 l.a))), (.veAnd, 0x24, fun _ _ _ _ l => l.a &&& l.b),
        (.veOr, 0x25, fun _ _ _ _ l => l.a ||| l.b), (.veXor, 0x26, fun _ _ _ _ l => l.a ^^^ l.b),
        (.veAndn, 0x27, fun _ _ _ _ l => l.a &&& (0xFFFFFFFF - l.b)),
        (.veShl, 0x28, fun _ _ _ w l => l.a * 2 ^ (veMod w % 32) % 2 ^ 32), (.veShr, 0x29, fun _ _ _ w l => l.a / 2 ^ (veMod w % 32)),
        (.veShra, 0x2A, fun _ _ _ w l => shra32 (veMod w % 32) l.a), (.iadd, 0x2B, fun _ _ _ _ l => (l.a + l.b) % 2 ^ 32),
        (.isub, 0x2C, fun _ _ _ _ l => (l.a + (2 ^ 32 - l.b)) % 2 ^ 32), (.imul, 0x2D, fun _ _ _ _ l => l.a * l.b % 2 ^ 32),
        (.icmp, 0x2E, fun _ _ _ w l => mask32 (icmp32 (veMod w) l.a l.b)), (.cvtif, 0x30, fun _ _ _ _ l => int32 (toSigned 32 l.a)),
        (.rbf16, 0x32, fun _ _ _ _ l => bf16to32 (to16 l.a)), (.srbf16, 0x33, fun _ _ r _ l => srbf16 l.a (r.draw l.i)),
        (.veSfu, 0x38, fun d core _ w l => sfuEval (d.sfuTable core (veMod w % 16)) l.a),
        (.sfubas, 0x39, fun d core _ w l => mul32 (sfuEval (d.sfuTable core (veMod w % 16)) (add32 l.a l.b)) l.c),
        (.sfugate, 0x3A, fun d core _ w l => mul32 l.a (sfuEval (d.sfuTable core (veMod w % 16)) l.b)),
        (.dropm, 0x3B, fun _ _ r _ l => mask32 (decide (l.b ≤ r.draw l.i % 2 ^ 32)))] :
      List ((Nat → Instr) × Nat × (Dev → Nat → VeRun → Nat → Lane → Nat))),
    ∀ (s : State) (core : Nat) (r : VeRun) (d : Dev), s.dev.VeAt core x.2.1 r →
      let res := (r.lanes r.word).map (x.2.2 s.dev core r r.word)
      s.dev.veWrite core r.ctx (r.writes r.word res fun _ => true) = ⟨d, none⟩ →
      exec (x.1 core) s = .next (s.after
        { d with ve := kvPut core { r with pos := r.pos + 1, res := (res :: r.res).take 8 } d.ve })

/-- The VE beyond its lanes (09 R241, R247, R250, R252, R257, R259, R262, R263, R267): VE_RUN_DESC, SETVL, VE_LOOP, PUT, CVTFI, VE_PROGRAM_LOAD
and VE_RUN complete with their own effect. -/
def Obligations.VeControlComplete : Prop :=
  (∀ (s : State) (id : Nat) (t : Td) (d : Dev) (tbl : List Byte) (ws : List Nat), s.dev.TdStarts id 0x20 t →
    let src := t.f 0x28 1
    let pc := t.f 0x20 2
    (src = 0 ∨ (s.dev.arrOf t.core).owner = some t.cmd) → s.dev.sfuHolds t = false →
    let e := s.dev.tdStart t
    let e := ((e.setArr t.core (e.arrOf t.core)).wr (Reg.VE_STATUS.SOURCE t.core) src).wr (Reg.VE_STATUS.CTX t.core) t.ctx
    e.unitBlocked [domVe t.core] 0x0913 = none → e.coreRead t.core t.ctx (t.f 0x18 8) 320 = ⟨d, .ok tbl⟩ →
    d.findBody t.core t.ctx (d.tdOpcode t) pc = .body ws → bodyFault tbl src pc (ws.headD 0) ws.tail = none →
    d.bodySfuFault t.core t.ctx ws.tail = none → streamFault t.core (d.rd (Reg.ARR_COLS.COLS t.core)) src (veA (ws.headD 0)) tbl = none →
    let r : VeRun := { td := id, cmd := t.cmd, ctx := t.ctx, source := src, tbl := tbl, body := ws, total := t.f 0x24 4, done := 0
                       pos := 0, vl := 0, row := (d.veStart t).1, col := (d.veStart t).2, ins := [], acc := [], res := []
                       seed := d.maskSeed t.ctx t.cmd }
    let d' : Dev := { d with ve := kvPut t.core r d.ve }
    exec (.veRunDesc id) s = .next (s.after
      ((d'.wr (Reg.VE_BODY.PC t.core) pc).wr (Reg.VE_BODY.L t.core) (ws.length - 1))))
  ∧ (∀ (s : State) (core : Nat) (r : VeRun) (d : Dev) (ins : List (List Nat)), kvGet core s.dev.ve = some r → s.dev.live = true →
    r.pos = 0 → r.done < r.total →
    ((veEnabled r.tbl).any fun n => (veStream r.tbl n).stride != 0 && decide ((veStream r.tbl n).rows ≤ r.row)) = false →
    s.dev.veWaiting core = false →
    let e := if r.source != 0 && r.col == 0 then s.dev.veTake core r else (s.dev, r)
    let vl := min e.2.cap (e.2.elems - e.2.col)
    e.1.veInputs core e.2 vl [0, 1, 2, 3] = (d, .ok ins) →
    let r' := { e.2 with pos := 1, vl := vl, ins := ins ++ [e.2.accVec d.free vl], res := [] }
    let d' := if r'.source != 0 && decide (fieldAt r'.tbl 0x12 1 < r'.col + vl) then { d with free := d.free + vl } else d
    exec (.setvl core) s = .next (s.after (({ d' with ve := kvPut core r' d'.ve } : Dev).wr (Reg.VE_STATUS.VL core) vl)))
  ∧ (∀ (s : State) (core : Nat) (r : VeRun), kvGet core s.dev.ve = some r → s.dev.live = true → r.pos = r.len + 1 →
    let ends := decide (r.elems ≤ r.col + r.vl)
    let r' := { r with done := r.done + 1, pos := 0, row := if ends then r.row + 1 else r.row, col := if ends then 0 else r.col + r.vl
                       ins := [], res := [] }
    let d := (s.dev.incMod (Reg.VE_ITERS.COUNT core)).incMod (Reg.VE_ISSUED.COUNT core) r.len
    let d := if r.source = 2 ∧ (ends = true ∨ r.total ≤ r.done + 1) then d.veRelease core else d
    (r.done + 1 < r.total → exec (.veLoop core) s = .next (s.after { d with ve := kvPut core r' d.ve }))
    ∧ (r.total ≤ r.done + 1 →
      let e : Dev := { d with ve := kvDel core d.ve }
      exec (.veLoop core) s = .next (s.after ((e.updCmd r.cmd fun c =>
        if c.opcode = 0x0305 then { c with aux := [r'.row, r'.col] ++ c.aux.drop 2 } else c).finishTd r.td))))
  ∧ (∀ (s : State) (core : Nat) (r : VeRun) (d : Dev), s.dev.VeAt core 0x04 r →
    let lanes := r.lanes r.word
    let res := lanes.map fun l => l.b
    s.dev.veWrite core r.ctx (r.writes r.word res fun i => (lanes.map fun l => bitAt l.a 31).getD i true) = ⟨d, none⟩ →
    exec (.vePut core) s = .next (s.after
      { d with ve := kvPut core { r with pos := r.pos + 1, res := (res :: r.res).take 8 } d.ve }))
  ∧ (∀ (s : State) (core : Nat) (r : VeRun) (d : Dev), s.dev.VeAt core 0x31 r →
    let sats := ((r.operand (veA r.word)).filter fun a => (cvtfi (veMod r.word % 4) a).2).length
    let res := (r.lanes r.word).map fun l => (cvtfi (veMod r.word % 4) l.a).1
    (s.dev.inc (Reg.VE_SAT.COUNT core) sats).veWrite core r.ctx (r.writes r.word res fun _ => true) = ⟨d, none⟩ →
    exec (.cvtfi core) s = .next (s.after
      { d with ve := kvPut core { r with pos := r.pos + 1, res := (res :: r.res).take 8 } d.ve }))
  ∧ (∀ (s : State) (slot : Nat) (c : Cmd) (d : Dev) (bs : List Byte), s.dev.CmdRuns slot 0x0A02 c →
    let ps := pagesOf (c.par 8 2) (c.par 0x0A 2)
    let cores := coresOf (c.par 0x0C 1)
    s.dev.unitBlocked (cores.map domVe) 0x0913 = none →
    (c.par 0x0D 1 = 1 → (cores.any fun k => s.dev.pagesInUse k (ps.filter fun p => s.dev.pageOwner k p == some c.ctx)) = false →
      exec (.veProgramLoad slot) s = .next (s.after ((s.dev.forEach cores fun k d =>
        d.forEach (ps.filter fun p => s.dev.pageOwner k p == some c.ctx) fun p d => d.setPage k p none).okCmd slot)))
    ∧ (c.par 0x0D 1 ≠ 1 → (∀ k ∈ cores, ∀ p ∈ ps, ∀ o, s.dev.pageOwner k p = some o → o = c.ctx) →
      (cores.any fun k => s.dev.pagesInUse k ps) = false → s.dev.read byCp c.ctx (c.par 0 8) (4 * c.par 0x0A 2) = ⟨d, .ok bs⟩ →
      exec (.veProgramLoad slot) s = .next (s.after ((d.forEach cores fun k d =>
        (d.storeWords k (c.par 8 2) ((chunksOf 4 bs).map leNat)).forEach ps fun p d => d.setPage k p (some c.ctx)).okCmd slot))))
  ∧ (∀ (s : State) (slot : Nat) (c : Cmd), s.dev.RoutineRuns slot 0x0305 c → c.todo = [] → s.dev.cmdTds slot = [] →
    let core := c.par 0x0E 1 % 2
    let iters := c.par 8 4
    let td (per : Nat) := tdMake 0x20 4 [(0x18, 8, c.par 0 8), (0x20, 2, c.par 0x0C 2), (0x24, 4, min per (iters - c.done * per))]
    (c.total ≠ 0 → exec (.veRun slot) s = .next (s.after (s.dev.addTodo slot [(core, td (c.aux.getD 2 1))])))
    ∧ (c.total = 0 → ∀ ws, s.dev.findBody core c.ctx 0x0305 (c.par 0x0C 2) = .body ws → 1 < ws.length →
      let per := veStageIters (ws.length - 1)
      exec (.veRun slot) s = .next (s.after (((s.dev.assign slot [core]).updCmd slot fun c =>
        { c with total := cdiv iters per, aux := [0, 0, per] }).addTodo slot [(core, td per)]))))

/-- SCAN descriptors (11 R290–R296): SCAN, REVERSE_SCAN, CHUNK_SUMMARY and CARRY_COMBINE complete with their own effect on a parameter block
that passes its check and whose accesses succeed. -/
def Obligations.ScanDescriptorsComplete : Prop :=
  ∀ (s : State) (id : Nat) (t : Td) (p : ScanParam) (d d' : Dev),
    (s.dev.ScanStarts id 0 t p d → d.scanStates t p false = ⟨d', none⟩ →
      exec (.scan id) s = .next (s.after ((d'.incMod (Reg.SU_STEPS.COUNT t.core) p.steps).finishTd id)))
    ∧ (s.dev.ScanStarts id 3 t p d → d.scanStates t p true = ⟨d', none⟩ →
      exec (.reverseScan id) s = .next (s.after ((d'.incMod (Reg.SU_STEPS.COUNT t.core) p.steps).finishTd id)))
    ∧ (s.dev.ScanStarts id 1 t p d → d.scanSummaries t p 0 (stepChunks p.steps p.chunk false) = ⟨d', none⟩ →
      exec (.chunkSummary id) s = .next (s.after ((d'.incMod (Reg.SU_STEPS.COUNT t.core) p.steps).finishTd id)))
    ∧ (∀ (d₁ : Dev) (h : List Nat), s.dev.ScanStarts id 2 t p d → d.scanCarry t.core t.ctx p = (d₁, .ok h) →
      d₁.scanCombine t p h (List.range p.steps) = ⟨d', none⟩ →
      exec (.carryCombine id) s = .next (s.after ((d'.incMod (Reg.SU_STEPS.COUNT t.core) p.steps).finishTd id)))

/-- SCAN_RUN and its look-back (11 R300–R307, R311): SCAN_RUN begins and runs a stage, LOOKBACK_STEP walks on, CARRY_TIMEOUT gives up,
CARRY_READ answers with entries, CARRY_DATA feeds the walk that asked. -/
def Obligations.ScanRunCommandsComplete : Prop :=
  (∀ (s : State) (slot : Nat) (c : Cmd) (d d' : Dev) (bs : List Byte), s.dev.RoutineRuns slot 0x0303 c → s.dev.scan? slot = none →
    let x := c.runScan
    s.dev.readAll byCp c.ctx [(x.map, 32 * x.segs)] = (d, .ok [bs]) → d.bindCarry c x.chunks = (d', true) →
    let segs := segsOf bs x.segs
    let core := d'.pickCore x.core
    let shares := scanShares (segs.getD x.seg ⟨0, 0, 0, 0, 0, 0⟩) (if x.core = 3 then 0 else core) (x.core == 3)
    exec (.scanRun slot) s = .next (s.after
      (((d'.assign slot (shares.map fun s => s.core)).updCmd slot fun c => { c with total := x.chunks }).setScan slot ⟨segs, shares⟩)))
  ∧ (∀ (s : State) (slot i : Nat) (c : Cmd) (r : ScanRun) (sh : ScanShare), s.dev.RoutineRuns slot 0x0303 c → s.dev.scan? slot = some r →
    (r.shares.findIdx? fun y => decide (y.phase ≤ 3) && y.walk.isNone && !c.preempt.contains y.core && !c.suspended.contains y.core
      && (c.runScan.mode != 2 || (s.dev.arrOf y.core).owner.isNone)) = some i →
    r.shares[i]? = some sh → exec (.scanRun slot) s = .next (s.after (s.dev.scanStage c r i sh)))
  ∧ (∀ (s : State) (slot share : Nat) (c : Cmd) (r : ScanRun) (sh : ScanShare) (w : Walk), s.dev.WalkOf slot share c r sh w →
    let so := walkSo r w
    (s.dev.soKind so ≠ 3 ∨ s.dev.soStale so = false → w.waiting = true → w.seen < s.dev.soValue so →
      exec (.lookbackStep slot share) s = .next (s.after (s.dev.walkRun c r share sh w (walkFuel r))))
    ∧ (w.waiting = true ∨ w.asked = true → exec (.carryTimeout slot share) s = .next (s.after (s.dev.walkTimeout c r sh w))))
  ∧ (∀ (s : State) (k : FabPkt) (d : Dev), s.dev.PktTaken ptCarryRead k d →
    let slot := k.addr % 16
    let epoch := fieldAt k.data 0 8
    let n := fieldAt k.data 8 2
    k.data.length = 16 → 1 ≤ n → n ≤ 64 → d.on (Reg.CTX_FAB.ACCEPT k.dctx) = true →
    (∀ x, kvGet slot d.carry = some x → x.ctx = k.dctx) →
    exec .carryRead s = .next (s.after ((d.incMod Reg.CARRY_READS.COUNT).forEach (List.range n) fun i d =>
      let e := match kvGet slot d.carry with
        | some x => if x.epoch = epoch then d.carryEntry slot (k.arg + i) else entry0
        | none => entry0
      (d.sendPkt { k with typ := ptCarryData, adaptive := false, dst := k.src, src := d.rd Reg.FAB_ID.DEVICE_ID, dctx := k.sctx
                          sctx := k.dctx, hops := 0, status := 0, arg := k.arg + i
                          data := (entryBytes e (k.arg + i) epoch).take (entryLen e.state) }).1)))
  ∧ (∀ (s : State) (k : FabPkt) (d : Dev) (t : Txn) (id : Nat) (c : Cmd) (r : ScanRun) (sh : ScanShare) (w : Walk),
    s.dev.PktTaken ptCarryData k d → (d.fab.txns.find? fun t => t.tag == k.tag && t.typ == ptCarryRead) = some t → t.who = .carry id →
    let e : Dev := { d with fab := { d.fab with txns := d.fab.txns.filter fun u => u.tag != k.tag } }
    e.WalkOf (id / 2) (id % 2) c r sh w → w.asked = true → w.j = k.arg →
    exec .carryData s = .next (s.after
      (match e.walkEntry c r (id % 2) sh w (entryOf c.runScan.width k.data) with
      | (d, none) => d
      | (d, some (r, sh, w)) => d.walkRun c r (id % 2) sh w (walkFuel r))))

/-- SOLVE descriptors (12 R317, R318, R320–R325): each of the fourteen rows runs the steps, or the stream operation, of a block whose
accesses succeed, and finishes its descriptor. -/
def Obligations.SolveDescriptorsComplete : Prop :=
  ∀ x ∈ ([(.zeroOrderHold, 0, none), (.newtonSchulz, 1, none), (.cholesky, 2, none), (.slvDiv, 3, some 0), (.slvSqrt, 3, some 1),
        (.slvRsqrt, 3, some 2), (.slvFma, 3, some 3), (.zoh1, 3, some 4), (.qFromF64, 3, some 5), (.qToF64, 3, some 6),
        (.qadd, 3, some 7), (.qsub, 3, some 8), (.qmul, 3, some 9), (.qfma, 3, some 10)] : List ((Nat → Instr) × Nat × Option Nat)),
    ∀ (s : State) (id : Nat) (t : Td) (d : Dev) (blk : List Byte), s.dev.TdStarts id 0x40 t → t.f 0x20 1 = x.2.1 →
      (∀ o, x.2.2 = some o → s.dev.peekNat (t.f 0x18 8 + 0x34) 2 = o) →
      (s.dev.tdStart t).unitBlocked [domSlv t.core] 0x0C10 = none →
      (s.dev.tdStart t).coreRead t.core t.ctx (t.f 0x18 8) 64 = ⟨d, .ok blk⟩ →
      let y : Slv := ⟨t.core, t.ctx, x.2.1, t.f 0x22 2, blk⟩
      let left := y.count * y.steps.length - y.stepFirst
      let ran := if x.2.1 = 3 then d.slvRun y 0 y.count
        else d.slvRun y y.stepFirst (if y.stepCount = 0 then left else min y.stepCount left)
      ran.err = none → exec (x.1 id) s = .next (s.after (ran.dev.finishTd id))

/-- SOLVE (12 R316, R319; 06 R166): a stage of the command completes; the last one completes the command, with INVALID and a RESULT
when blocks were flagged. -/
def Obligations.SolveCommandCompletes : Prop :=
  ∀ (s : State) (slot : Nat) (c c' : Cmd) (d₀ : Dev) (b : List Byte), s.dev.RoutineRuns slot 0x0304 c →
    let core := c.par 9 1 % 2
    s.dev.unitBlocked [domSlv core] 0x0C10 = none →
    (c.total = 0 ∧ s.dev.coreRead core c.ctx (c.par 0 8) 64 = ⟨d₀, .ok b⟩ ∨ c.total ≠ 0 ∧ d₀ = s.dev ∧ b = leBytes 64 (c.aux.headD 0)) →
    let r := c.par 8 1
    let blk := if r = 3 then b else blkKey b
    let x : Slv := ⟨core, c.ctx, r, c.par 0x0A 2, blk⟩
    x.refusal = none →
    let d := if c.total = 0 then
        (d₀.assign slot [core]).updCmd slot fun c => { c with total := x.stages.length, aux := [leNat blk] }
      else d₀
    let st := x.stages.getD c.done (0, 0)
    let ran := d.slvRun x st.1 st.2
    ran.err = none →
    let e := (ran.dev.pieceDone slot).updCmd slot fun c => { c with hits := c.hits + ran.flagged }
    e.cmd? slot = some c' →
    (c'.done < c'.total → exec (.solve slot) s = .next (s.after e))
    ∧ (c'.total ≤ c'.done → c'.hits = 0 → exec (.solve slot) s = .next (s.after (e.okCmd slot c'.progress)))
    ∧ (c'.total ≤ c'.done → c'.hits ≠ 0 → exec (.solve slot) s = .next (s.after
        (e.freeNext.endCmd slot 0x01 0x0C20 (e.freeVal % 2 ^ 32 + c'.hits % 2 ^ 32 * 2 ^ 32))))

/-- Collectives (15 R411–R418): COLL_RUN starts, goes on and ends, COLL_DATA is taken or held, EARLY_BUFFER_EXPIRY drops the oldest held
packet, COLL_TIMEOUT ends a waiting collective; each completes with its own effect. -/
def Obligations.CollectiveCommandsComplete : Prop :=
  (∀ (s : State) (slot : Nat) (c : Cmd) (g : Group) (d : Dev), s.dev.RoutineRuns slot 0x0602 c → c.total = 0 →
    s.dev.group? c.collOf.slot = some g →
    (s.dev.updCmd slot fun x => { x with total := collStages g c.collOf.op c.collOf.count c.collOf.inSize }).collStart c.collOf = some d →
    exec (.collRun slot) s = .next (s.after d))
  ∧ (∀ (s : State) (slot : Nat) (c : Cmd) (x : Coll) (d : Dev), s.dev.RoutineRuns slot 0x0602 c → c.total ≠ 0 →
    s.dev.coll? slot 0 = some x → x.busy = false →
    ((s.dev.pieceDone slot).collNext slot 0 = (d, false) → exec (.collRun slot) s = .next (s.after d))
    ∧ (∀ c', (s.dev.pieceDone slot).collNext slot 0 = (d, true) → d.cmd? slot = some c' →
      exec (.collRun slot) s = .next (s.after (d.okCmd slot c'.progress))))
  ∧ (∀ (s : State) (k : FabPkt), s.dev.fabClocks = true → (s.dev.fab.inbox.find? fun k => k.typ == ptCollData) = some k →
    (∀ (c : Coll) (k' : FabPkt) (d : Dev), s.dev.collMatch k = some c → s.dev.nextIn ptCollData = some (k', d) →
      exec .collData s = .next (s.after (d.collTake c k')))
    ∧ (s.dev.collMatch k = none →
      let e : Dev := { s.dev with fab := { s.dev.fab with inbox := s.dev.fab.inbox.erase k
                                                          early := s.dev.fab.early ++ [(k, s.dev.timeNs)] } }
      exec .collData s = .next (s.after (e.tracePkt (min k.port 255) k))))
  ∧ (∀ (s : State) (x : FabPkt × Nat) (rest : List (FabPkt × Nat)), s.dev.fab.early = x :: rest →
    let e := ({ s.dev with fab := { s.dev.fab with early := rest } } : Dev).returnCredits x.1
    exec .earlyBufferExpiry s = .next (s.after ((e.inc Reg.FAB_COLL_DROPS.COUNT).occur clsDropped)))
  ∧ (∀ (s : State) (slot part : Nat) (c : Coll), s.dev.coll? slot part = some c → c.busy = true →
    exec (.collTimeout slot part) s = .next (s.after (s.dev.collFail c ⟨0x05, 0x0F21, 0⟩ true)))

/-- Remote transactions (15 R405–R407): MEM_WRITE, MEM_READ and SO_OP_PKT are served at the home, ACK and READ_DATA are taken at the
source, FAB_TRANSACTION_TIMEOUT fails what is open; each completes with its own effect. -/
def Obligations.RemoteTransactionsComplete : Prop :=
  (∀ (s : State) (k : FabPkt) (d d' : Dev), s.dev.PktTaken ptMemWrite k d → d.remoteRefused k true k.data.length = none →
    d.epochDiffers k = false → d.writeRaw byFabric (some k.dctx) (k.addr % 2 ^ 48) k.data = ⟨d', none⟩ →
    exec .memWrite s = .next (s.after (d'.ackPkt k 0)))
  ∧ (∀ (s : State) (k : FabPkt) (d d' : Dev) (bs : List Byte), s.dev.PktTaken ptMemRead k d → d.remoteRefused k false k.arg = none →
    d.epochDiffers k = false → d.readRaw byFabric (some k.dctx) (k.addr % 2 ^ 48) k.arg = ⟨d', .ok bs⟩ →
    exec .memRead s = .next (s.after (d'.sendPkt { k with typ := ptReadData, adaptive := true, dst := k.src, src := d'.myId, dctx := k.sctx
                                                          sctx := k.dctx, hops := 0, status := 0, data := bs, port := 32 }).1))
  ∧ (∀ (s : State) (k : FabPkt) (d d' : Dev) (o : SoRes), s.dev.PktTaken ptSoOp k d → d.soRemoteDetail k = 0 →
    d.epochDiffers k = false →
    d.soOp .none k.dctx (k.addr % 4096) (bitAt k.arg 0) (leNat k.data) = ⟨d', o⟩ →
    (∀ mj dt, o ≠ .fail mj dt) → exec (.soOpPkt false) s = .next (s.after (d'.ackPkt k 0)))
  ∧ (∀ (s : State) (k : FabPkt) (d : Dev) (t : Txn), s.dev.PktTaken ptAck k d → (d.fab.txns.find? fun t => t.tag == k.tag) = some t →
    (k.status = 0 → exec .ack s = .next (s.after (d.txnDone t)))
    ∧ (k.status ≠ 0 → (∀ x, t.who ≠ .bind x) → (∀ x, t.who ≠ .way x) →
      exec .ack s = .next (s.after (d.txnFail t (statusFail k.status)))))
  ∧ (∀ (s : State) (k : FabPkt) (d : Dev), s.dev.PktTaken ptAck k d → (d.fab.txns.find? fun t => t.tag == k.tag) = none →
    exec .ack s = .next (s.after ((d.inc Reg.FAB_LATE_RSP.COUNT).occur clsDropped)))
  ∧ (∀ (s : State) (k : FabPkt) (d d' : Dev) (t : Txn), s.dev.PktTaken ptReadData k d →
    (d.fab.txns.find? fun t => t.tag == k.tag) = some t → (∀ id, t.who ≠ .td id) →
    d.write (byPorter t.group) t.ctx t.dst (k.data.take t.len) = ⟨d', none⟩ → exec .readData s = .next (s.after (d'.txnDone t)))
  ∧ (∀ (s : State) (k : FabPkt) (d d' : Dev) (t : Txn) (id p : Nat) (r : PorterRun), s.dev.PktTaken ptReadData k d →
    (d.fab.txns.find? fun t => t.tag == k.tag) = some t → t.who = .td id → d.porterOf id = some (p, r) →
    d.write (byPorter p) t.ctx t.dst (k.data.take t.len) = ⟨d', none⟩ → exec .readData s = .next (s.after (d'.txnDone t)))
  ∧ (∀ (s : State) (tag : Nat) (t : Txn),
    (s.dev.fab.txns.find? fun t => t.tag == tag && ([ptMemWrite, ptMemRead, ptSoOp, ptWayWrite] : List Nat).contains t.typ) = some t →
    exec (.fabTransactionTimeout tag) s = .next (s.after (s.dev.txnFail t ⟨0x05, 0x0F20, 0⟩)))

/-- The fabric's commands (15 R402, R411, R420–R423): FAB_ROUTE_LOAD loads and clears tables, FAB_PORT_CTL sets a port, REMOTE_COPY moves a
chunk, DIAG_LOOPBACK and LOOPBACK test a port; each completes with its own effect. -/
def Obligations.FabricCommandsComplete : Prop :=
  (∀ (s : State) (slot : Nat) (c : Cmd), s.dev.CmdRuns slot 0x0601 c → c.par 0x0A 1 = 1 → s.dev.groupBusy (c.par 9 1) = false →
    exec (.fabRouteLoad slot) s = .next (s.after ((s.dev.setGroups (kvDel (c.par 9 1) s.dev.fab.groups)).okCmd slot)))
  ∧ (∀ (s : State) (slot : Nat) (c : Cmd) (d : Dev) (bs : List Byte), s.dev.CmdRuns slot 0x0601 c → c.par 0x0A 1 ≠ 1 →
    s.dev.read byCp c.ctx (c.par 0 8) (c.par 0x0C 4) = ⟨d, .ok bs⟩ →
    (∀ g, c.par 8 1 = 1 → groupOf d.myId bs = some g → d.groupBusy (c.par 9 1) = false →
      exec (.fabRouteLoad slot) s = .next (s.after ((d.setGroups (kvPut (c.par 9 1) g d.fab.groups)).okCmd slot)))
    ∧ (c.par 8 1 ≠ 1 →
      let id := fieldAt bs 0 2 % 4096
      let rs := ((List.range 4096).map fun k =>
          (k, fieldAt bs (64 + 8 * k) 8 % 2 ^ 32, bitAt (fieldAt bs (64 + 8 * k) 8) 32)).filter fun x => x.2.1 != 0 || x.2.2
      exec (.fabRouteLoad slot) s = .next (s.after
        (if routeTableOk bs then
          if id = d.myId ∨ d.idInUse = false then
            (({ d with fab := { d.fab with routes := rs } } : Dev).wr Reg.FAB_ID.DEVICE_ID id).okCmd slot
          else d.endCmd slot 0x04 0x0F10 0
        else d.endCmd slot 0x02 0x0F02 0x20))))
  ∧ (∀ (s : State) (slot : Nat) (c : Cmd), s.dev.CmdRuns slot 0x0604 c →
    let p := c.par 0 1
    let gen := if c.par 2 1 = 0 then 2 else c.par 2 1
    let d := s.dev.setPort p { s.dev.port p with maxGen := gen, c2m := c.par 3 1 == 1 }
    (c.par 1 1 = 0 → ¬((d.portState p = psUp ∨ d.portState p = psRetrain) ∧ (d.port p).retry ≠ []) →
      exec (.fabPortCtl slot) s = .next (s.after ((d.portTo p psDisabled).okCmd slot)))
    ∧ (c.par 1 1 = 0 → d.portState p = psUp ∨ d.portState p = psRetrain → (d.port p).retry ≠ [] →
      exec (.fabPortCtl slot) s = .next (s.after ((d.setPort p { d.port p with flushing := true }).okCmd slot)))
    ∧ (c.par 1 1 = 1 → s.dev.domOn (domPort p) = true →
      exec (.fabPortCtl slot) s = .next (s.after ((if d.portState p = psDisabled then d.portTo p psDown else d).okCmd slot)))
    ∧ (c.par 1 1 = 2 → exec (.fabPortCtl slot) s = .next (s.after ((d.portRetrain p).okCmd slot))))
  ∧ (∀ (s : State) (slot k : Nat) (c₀ c : Cmd) (d d' : Dev), s.dev.RoutineRuns slot 0x0603 c₀ →
    let total := cdiv (c₀.par 0x10 8) s.dev.memChunk
    (c₀.total ≠ 0 ∧ d = s.dev
      ∨ c₀.total = 0 ∧ total ≤ 1 ∧ d = (s.dev.assign slot [s.dev.pickCore (c₀.par 0x1C 1)]).updCmd slot fun c => { c with total := total }) →
    d.cmd? slot = some c → c.done < c.total → d.unitBlocked [domPorters (c.cores.headD 0)] 0x0D21 = none →
    let p := 20 + 2 * c.cores.headD 0 + c.done % min 2 d.memPorters
    let lo := c.done * d.memChunk
    let ps := (burstsOf (c.par 8 8 + lo) (min d.memChunk (c.par 0x10 8 - lo))).map fun b => (lo + b.1, b.2)
    d.remoteIssue c p (ps.drop (c.aux.headD 0)) (c.aux.headD 0) = (d', .ok k) →
    (k < ps.length ∨ d'.cmdTxns slot ≠ 0 →
      exec (.remoteCopy slot) s = .next (s.after (d'.updCmd slot fun c => { c with aux := [k] })))
    ∧ (ps.length ≤ k → d'.cmdTxns slot = 0 →
      let e := ((d'.pieceDone slot).updCmd slot fun c => { c with aux := [0] }).inc (Reg.PRT_DESCS.COUNT p)
      exec (.remoteCopy slot) s = .next (s.after (if c.done + 1 = c.total then e.okCmd slot (c.par 0x10 8) else e))))
  ∧ (∀ (s : State) (slot bad : Nat) (c : Cmd), s.dev.RoutineRuns slot 0x0803 c →
    (c.par 1 1 = 0 → s.dev.portState (c.par 0 1) = psDisabled → exec (.diagLoopback slot bad) s = .next (s.after
      ((s.dev.updCmd slot fun c => { c with total := 1 }).loopEnd slot (min bad (c.par 4 4)))))
    ∧ (c.par 1 1 ≠ 0 → c.total = 0 → s.dev.portState (c.par 0 1) = psUp →
      let n := cdiv (c.par 4 4) 9
      let e : Dev := { s.dev with free := s.dev.free + 256 * n }
      exec (.diagLoopback slot bad) s = .next (s.after
        ((e.updCmd slot fun c => { c with total := n, aux := [s.dev.free] }).loopSend c s.dev.free 0))))
  ∧ (∀ (s : State) (k : FabPkt) (d : Dev), s.dev.PktTaken ptLoopback k d →
    (∀ c, (d.cp0.cmds.find? fun c => c.slot == k.tag && c.opcode == 0x0803 && c.phase == .running && c.par 0 1 == k.port) = some c →
      let base := c.aux.headD 0
      let bad := c.hits + loopDiffer (loopPattern base k.arg) k.data
      let e := d.updCmd c.slot fun c => { c with hits := bad }
      exec .loopback s = .next (s.after
        (if c.total ≤ c.done + 1 then e.loopEnd c.slot bad else (e.pieceDone c.slot).loopSend c base (c.done + 1))))
    ∧ ((d.cp0.cmds.find? fun c => c.slot == k.tag && c.opcode == 0x0803 && c.phase == .running && c.par 0 1 == k.port) = none →
      k.port < 32 →
      let x := d.port k.port
      exec .loopback s = .next (s.after
        ((d.setPort k.port { x with queue := x.queue ++ [{ k with dst := k.src, src := d.myId, hops := 1 }] }).pumpPort k.port))))

/-- Classes, templates and lodging (14 R360, R363, R364): INN_CLASS_SET creates and deletes, INN_TEMPLATE_LOAD, INN_LODGE; each completes
with its own effect. -/
def Obligations.InnClassCommandsComplete : Prop :=
  (∀ (s : State) (slot a : Nat) (c : Cmd), s.dev.CmdRuns slot 0x0401 c →
    let k := c.par 0 1
    let fl := c.par 3 1
    let cap := c.par 4 4
    c.par 1 1 = 0 → s.dev.classOn k = false → s.dev.capacitySum + cap ≤ 16777216 → s.dev.backingFit (cap * 2 ^ c.par 2 1) = some a →
    (bitAt fl 1 = true → ∀ q < 16, s.dev.classOn q = true → s.dev.classCtx q = c.ctx → s.dev.on (Reg.INN_CLASS.DEFAULT q) = false) →
    let lock := if c.par 8 2 = 0 then 100 else c.par 8 2
    let d := s.dev.setReg (Reg.INN_CLASS.EXISTS k).reg
      (1 + c.par 2 1 * 2 + c.ctx * 2 ^ 8 + fl % 8 * 2 ^ 12 + lock * 2 ^ 16 + cap * 2 ^ 32)
    let d : Dev := { d with inn := { d.inn with classes := kvPut k ⟨a, []⟩ d.inn.classes } }
    exec (.innClassSet slot) s = .next (s.after ((d.wr Reg.INN_CAPACITY.SUM d.capacitySum).innStatus.okCmd slot)))
  ∧ (∀ (s : State) (slot : Nat) (c : Cmd), s.dev.ClassRuns slot 0x0401 c (c.par 0 1) → c.par 1 1 ≠ 0 →
    let k := c.par 0 1
    let rs := s.dev.roomsOf fun r => r.cls == k
    (∀ r ∈ rs, r.state ≠ .locked ∧ r.state ≠ .staged ∧ r.state ≠ .busy) →
    let d := s.dev.forEach rs fun r d => d.dropRoom r
    let d : Dev := { d with inn := { d.inn with classes := kvDel k d.inn.classes } }
    let d := d.setReg (Reg.INN_CLASS.EXISTS k).reg 0
    exec (.innClassSet slot) s = .next (s.after ((d.wr Reg.INN_CAPACITY.SUM d.capacitySum).innStatus.okCmd slot)))
  ∧ (∀ (s : State) (slot : Nat) (c : Cmd) (x : InnClass), s.dev.ClassRuns slot 0x0402 c (c.par 8 1) →
    let k := c.par 8 1
    (c.par 9 1 = 0 → kvGet k s.dev.inn.classes = some x →
      let d : Dev := { s.dev with inn := { s.dev.inn with classes := kvPut k { x with tmpl := [] } s.dev.inn.classes } }
      exec (.innTemplateLoad slot) s = .next (s.after (d.okCmd slot).innStatus))
    ∧ (∀ (d : Dev) (bs : List Byte), c.par 9 1 ≠ 0 → s.dev.read byInn c.ctx (c.par 0 8) (s.dev.roomSize k - 32) = ⟨d, .ok bs⟩ →
      kvGet k d.inn.classes = some x →
      let d : Dev := { d with inn := { d.inn with classes := kvPut k { x with tmpl := bs } d.inn.classes } }
      exec (.innTemplateLoad slot) s = .next (s.after (d.okCmd slot).innStatus)))
  ∧ (∀ (s : State) (slot : Nat) (c : Cmd) (d : Dev) (bs : List Byte), s.dev.ClassRuns slot 0x0403 c (c.par 0x0B 1 % 16) →
    let k := c.par 0x0B 1 % 16
    let g := c.par 8 3
    (if c.par 0 8 = 0 then ⟨s.dev, .ok (s.dev.template k)⟩ else s.dev.read byInn c.ctx (c.par 0 8) (s.dev.roomSize k - 32)) =
      (⟨d, .ok bs⟩ : Got) →
    (s.dev.room? k g = none → s.dev.classFull k = false →
      exec (.innLodge slot) s = .next (s.after ((d.lodge k g (c.par 0x10 4) bs).okCmd slot).innStatus))
    ∧ (∀ r, s.dev.room? k g = some r → roomBusy r.state = none → bitAt (c.par 0x0C 1) 0 = true →
      let e := d.innWrite r.addr (roomHeader k g (c.par 0x10 4) 0 0 (d.roomSize k) ++ bs)
      exec (.innLodge slot) s = .next (s.after ((e.setRoom { r with
        state := .idle, bad := false, step := c.par 0x10 4, epoch := 0, expired := none, prev := none, staged := none }).okCmd
          slot).innStatus)))

/-- Commands on rooms (14 R366, R367, R376, R379): INN_RELEASE, INN_PIN, INN_UNPIN, INN_READ_ROOM, INN_QUERY complete with their own
effect. -/
def Obligations.InnRoomCommandsComplete : Prop :=
  (∀ (s : State) (slot : Nat) (c : Cmd) (r : Room), s.dev.RoomRuns slot 0x0404 c r → roomBusy r.state = none →
    exec (.innRelease slot) s = .next (s.after ((s.dev.dropRoom r).okCmd slot).innStatus))
  ∧ (∀ (s : State) (slot : Nat) (c : Cmd) (r : Room), s.dev.RoomRuns slot 0x0405 c r → r.state ≠ .busy → r.state ≠ .poisoned →
    r.bad = false →
    (r.pinned = true → exec (.innPin slot) s = .next (s.after (s.dev.okCmd slot).innStatus))
    ∧ (r.pinned = false → s.dev.pinnedBytes c.ctx + s.dev.roomSize r.cls ≤ s.dev.rd (Reg.INN_PIN_QUOTA.QUOTA c.ctx) * 0x10000 →
      exec (.innPin slot) s = .next (s.after ((s.dev.setRoom { r with pinned := true }).okCmd slot).innStatus)))
  ∧ (∀ (s : State) (slot : Nat) (c : Cmd) (r : Room), s.dev.RoomRuns slot 0x0406 c r →
    exec (.innUnpin slot) s = .next (s.after ((s.dev.setRoom { r with pinned := false, clamped := false }).okCmd slot).innStatus))
  ∧ (∀ (s : State) (slot : Nat) (bad : List (Nat × Bool)) (c : Cmd) (r : Room) (d d' : Dev) (bs : List Byte),
    s.dev.RoomRuns slot 0x0407 c r → r.state ≠ .busy → r.state ≠ .poisoned → r.bad = false →
    (s.dev.sprout (bad.filter fun x => touchesWord r.addr (s.dev.roomSize r.cls) (x.1 / 8 * 8))).innRead c.ctx r.addr
      (s.dev.roomSize r.cls) = (d, .ok bs) →
    d.write byInn c.ctx (c.par 8 8) bs = ⟨d', none⟩ → exec (.innReadRoom slot bad) s = .next (s.after (d'.okCmd slot).innStatus))
  ∧ (∀ (s : State) (slot : Nat) (c : Cmd), s.dev.ClassRuns slot 0x0408 c (c.par 3 1 % 16) →
    let k := c.par 3 1 % 16
    (c.par 4 1 = 0 → s.dev.room? k (c.par 0 3) = none → exec (.innQuery slot) s = .next (s.after (s.dev.okCmd slot).innStatus))
    ∧ (∀ r, c.par 4 1 = 0 → s.dev.room? k (c.par 0 3) = some r →
      let st := if r.bad then 5 else roomCode r.state
      exec (.innQuery slot) s = .next (s.after
        (s.dev.okCmd slot (r.step + st * 2 ^ 32 + b2n r.pinned * 2 ^ 35 + b2n (inHall r.addr) * 2 ^ 36)).innStatus))
    ∧ (c.par 4 1 ≠ 0 →
      let rs := s.dev.roomsOf fun r => r.cls == k
      exec (.innQuery slot) s = .next (s.after
        (s.dev.okCmd slot (rs.length + (rs.countP fun r => inHall r.addr) * 2 ^ 32)).innStatus)))

/-- Check-in, check-out, unlock, and what the Inn and the controllers do by themselves (13 R335; 14 R368–R373, R378–R380): CHECK_IN,
CHECK_OUT, UNLOCK, LOCK_EXPIRY, INN_EVICTION, PIN_MOVE_TO_HALL, SCRUB_READ complete with their own effect. -/
def Obligations.InnDescriptorsAndEventsComplete : Prop :=
  (∀ (s : State) (id : Nat) (bad : List (Nat × Bool)) (t : Td) (gs ocs : List Nat) (d d₁ d₂ : Dev), s.dev.InnOpStarts id 0 t gs d →
    let x := t.innOp
    (s.dev.innRefusal x = none → s.dev.checkInFits x ((List.range x.count).map fun i => s.dev.peekNat (x.list + 4 * i) 3) = true) →
    let e := d.sprout (bad.filter fun b => inHall b.1 || d.region b.1 == .reserved)
    e.checkInGo x ((List.range gs.length).zip (gs.zip (e.checkInPlan x gs [] (e.classLeft x.cls)))) [] = (d₁, .ok ocs) →
    d₁.innStatus.writeRaw byInn (some x.ctx) x.list ((gs.zip ocs).flatMap fun p => leBytes 3 p.1 ++ leBytes 1 p.2) = ⟨d₂, none⟩ →
    exec (.checkIn id bad) s = .next (s.after (d₂.finishTd id)))
  ∧ (∀ (s : State) (id : Nat) (bad : List (Nat × Bool)) (t : Td) (gs : List Nat) (d d₂ : Dev), s.dev.InnOpStarts id 1 t gs d →
    let x := t.innOp
    let out := ((List.range gs.length).zip gs).foldl (fun (acc : Dev × List Nat) p =>
      ((acc.1.checkOutRoom x p.1 p.2).1, acc.2 ++ [(acc.1.checkOutRoom x p.1 p.2).2]))
      (d.sprout (bad.filter fun b => d.region b.1 == .spm x.core), [])
    (out.1.innCeil x.ctx (out.1.inn.rooms.length + 1)).srvWake.innStatus.writeRaw byInn (some x.ctx) x.list
      ((gs.zip out.2).flatMap fun p => leBytes 3 p.1 ++ leBytes 1 p.2) = ⟨d₂, none⟩ →
    exec (.checkOut id bad) s = .next (s.after (d₂.finishTd id)))
  ∧ (∀ (s : State) (id : Nat) (t : Td) (gs : List Nat) (d d₂ : Dev), s.dev.InnOpStarts id 2 t gs d →
    let x := t.innOp
    let out := gs.foldl (fun (acc : Dev × List Nat) g =>
      match acc.1.room? x.cls g with
      | some r =>
        if r.state = .locked ∧ r.lock = some x.cmd then
          ((acc.1.trace 3 x.core (some x.ctx) none (some g) (some 2) (some r.step)).unlock r none, acc.2 ++ [ocDone])
        else (acc.1, acc.2 ++ [if r.expired = some x.cmd then ocExpired else ocNotLocked])
      | none => (acc.1, acc.2 ++ [ocNotLocked])) (d, [])
    out.1.srvWake.innStatus.writeRaw byInn (some x.ctx) x.list
      ((gs.zip out.2).flatMap fun p => leBytes 3 p.1 ++ leBytes 1 p.2) = ⟨d₂, none⟩ →
    exec (.unlock id) s = .next (s.after (d₂.finishTd id)))
  ∧ (∀ (s : State) (cls guest : Nat) (r : Room), s.dev.room? cls guest = some r →
    (r.state = .locked → exec (.lockExpiry cls guest) s = .next (s.after
      (((s.dev.unlock r r.lock).inc Reg.INN_ERR.LOCK_EXPIRED).raise 0x0E02 clsContained
        (some (((s.dev.unlock r r.lock).inc Reg.INN_ERR.LOCK_EXPIRED).classCtx cls)) cls guest (r.lock.getD 0) 0).innStatus.srvWake))
    ∧ (∀ bad : List (Nat × Bool), s.dev.victim (fun _ => true) = some r → exec (.innEviction cls guest bad) s = .next (s.after
      ((s.dev.sprout (bad.filter fun x => touchesWord r.addr (s.dev.roomSize cls) (x.1 / 8 * 8))).evict r).innStatus))
    ∧ (∀ (d d' : Dev) (a : Nat) (bs : List Byte), r.pinned = true → inHall r.addr = false → r.state = .idle →
      s.dev.hallSlotFor (s.dev.roomSize cls) = (d, some a) → d.innRead (d.classCtx cls) r.addr (d.roomSize cls) = (d', .ok bs) →
      exec (.pinMoveToHall cls guest) s = .next (s.after
        ((d'.innWrite a bs).setRoom { r with addr := a, clamped := false }).innStatus)))
  ∧ (∀ (s : State) (stack addr : Nat) (o : Ecc), addr < s.dev.hbmTop → s.dev.stackOf addr = stack → s.dev.stackReady stack = true →
    let w := addr / 8 * 8
    let d := match o with
      | .clean => s.dev
      | .corrected => s.dev.sprout [(w, false)]
      | .uncorrectable => s.dev.sprout [(w, true)]
    (d.ue.contains w = false → exec (.scrubRead stack addr o) s = .next (s.after (d.correctRange w 8)))
    ∧ (d.ue.contains w = true →
      let e := ({ d with led := { d.led with scrubbed := w :: d.led.scrubbed.filter fun x => x != w && d.ue.contains x } } : Dev).meetUe
        3 w none
      exec (.scrubRead stack addr o) s = .next (s.after
        (match (e.roomsOf fun r => touchesWord r.addr (e.roomSize r.cls) w && r.state != .poisoned && !r.bad).head? with
        | some r => (e.poison r).innStatus
        | none => e))))

/-- Serving (18 R481–R489, R494): the serving registers, RESULT_RING_SET, SAMPLE_BATCH, GAP_TIMEOUT, BATCH_WINDOW_EXPIRY, BATCH_RUN,
RESERVE_PERIOD complete with their own effect. -/
def Obligations.ServingCommandsComplete : Prop :=
  (∀ (s : State) (ctx off : Nat) (v : QWord), s.dev.hostRegsServed = true →
    exec (.srvRegisterWrite ctx off v) s = .next (s.after (s.dev.srvRegWrite ctx off v.toNat)))
  ∧ (∀ (s : State) (ctx : Nat) (v : Word), s.dev.hostRegsServed = true →
    exec (.srvRingHeadWrite ctx v) s = .next (s.after ((s.dev.wr (Reg.SRV_RING_HEAD.HEAD ctx) v.toNat).srvClose ctx)))
  ∧ (∀ (s : State) (slot : Nat) (c : Cmd), s.dev.CmdRuns slot 0x0104 c → s.dev.srvFrames c.ctx = [] →
    let r : SrvRing := ⟨c.par 0 8, c.par 8 8, c.par 0x10 1, c.par 0x11 1, c.par 0x12 2⟩
    let d : Dev := { s.dev with srv := { s.dev.srv with rings := kvPut c.ctx r s.dev.srv.rings } }
    exec (.resultRingSet slot) s = .next (s.after
      ((((d.wr (Reg.SRV_RING_HEAD.HEAD c.ctx) 0).wr (Reg.SRV_RING_TAIL.TAIL c.ctx) 0).wr (Reg.SRV_RING_TAIL.PHASE c.ctx) 1).okCmd slot)))
  ∧ (∀ (s : State) (slot k : Nat) (c : Cmd) (r : SrvRing) (d d' : Dev) (t : List Byte), s.dev.CmdRuns slot 0x0410 c → c.ofBatch = false →
    c.aux.headD 0 = 0 → s.dev.defaultClass c.ctx = some k → kvGet c.ctx s.dev.srv.rings = some r →
    ((kvGet c.ctx s.dev.srv.lists).isSome = true ∧ d = s.dev
      ∨ ∃ (e : Dev) (l : SrvList), (kvGet c.ctx s.dev.srv.lists).isSome = false
        ∧ s.dev.srvSnap c.ctx (s.dev.rd (Reg.SRV_LIST.ADDR c.ctx)) (s.dev.rd (Reg.SRV_LIST_INFO.COUNT c.ctx)) k r.size = (e, .ok l)
        ∧ d = { e with srv := { e.srv with lists := kvPut c.ctx l e.srv.lists } }) →
    d.read byCp c.ctx (c.par 0 8) (32 * c.par 8 4) = ⟨d', .ok t⟩ →
    let e := (d'.updCmd slot fun c => { c with aux := 0 :: c.aux.drop 1 }).ingestAll slot (chunksOf 32 t)
    let e := if bitAt (c.par 0x0C 1) 0 then
        ({ e with srv := { e.srv with batches := e.srv.batches.map fun b =>
          if b.ctx = c.ctx ∧ b.layout.isNone then { b with flush := true } else b } } : Dev).srvClose c.ctx
      else e
    exec (.sampleBatch slot) s = .next (s.after ((e.updCmd slot fun c => { c with aux := 1 :: c.aux.drop 1 }).sampleDone slot)))
  ∧ (∀ (s : State) (ctx guest : Nat), s.dev.live = true → s.dev.srvGap ctx guest (s.dev.srvGuest ctx guest) ≠ none →
    exec (.gapTimeout ctx guest) s = .next (s.after ((s.dev.gapPolicy ctx guest).srvNext ctx guest)))
  ∧ (∀ (s : State) (ctx : Nat) (b : Batch), s.dev.live = true →
    (s.dev.srv.batches.find? fun b => b.ctx == ctx && b.layout.isNone && !b.due) = some b →
    exec (.batchWindowExpiry ctx) s = .next (s.after ((s.dev.updBatch b.tag fun b => { b with due := true }).srvClose ctx)))
  ∧ (∀ s : State, exec .reservePeriod s = .next (s.after { s.dev with srv := { s.dev.srv with served := [] } }))
  ∧ (∀ (s : State) (tag : Nat) (b : Batch) (l : SrvList) (r : SrvRing), (s.dev.srv.batches.find? fun b => b.tag == tag) = some b →
    b.layout = some l → kvGet b.ctx s.dev.srv.rings = some r → s.dev.live = true →
    (∀ core half, b.step = 0 → s.dev.placeBatch b l = some (core, half) →
      exec (.batchRun tag) s = .next (s.after (s.dev.batchBegin b l core half)))
    ∧ (b.step = 4 → exec (.batchRun tag) s = .next (s.after (s.dev.batchWrite b l r)))
    ∧ (∀ c, s.dev.cmd? tag = some c → c.phase = .running → c.stop = none → c.todo = [] → s.dev.cmdTds tag = [] →
      (b.step = 1 → exec (.batchRun tag) s = .next (s.after (s.dev.batchList b l)))
      ∧ (b.step = 2 → exec (.batchRun tag) s = .next (s.after (s.dev.batchCheckOut b l r)))
      ∧ (b.step = 3 → exec (.batchRun tag) s = .next (s.after (s.dev.batchPublished b l)))))

/-- Lists and plans (06 R154–R156; 18 R495–R497): EXEC_LIST copies and checks its list and queues its descriptors; RESHARD begins, moves a
chunk, switches; each completes with its own effect. -/
def Obligations.ListCommandsComplete : Prop :=
  (∀ (s : State) (slot : Nat) (c : Cmd) (d d' : Dev) (bs : List Byte), s.dev.RoutineRuns slot 0x0301 c → c.total = 0 →
    s.dev.seq.snapshots.length < 64 → s.dev.read byCp c.ctx (c.par 0 8) (64 * c.par 8 4) = ⟨d, .ok bs⟩ →
    let want := c.par 0x0C 1
    d.listBad c.ctx (d.listCols want) (if want = 1 then 1 else 0) (indexed 0 (listWords bs)) = (d', none) →
    let core := d'.pickCore want
    let ws := if want = 2 ∧ core = 1 then (listWords bs).map tdOnSc1 else listWords bs
    let e := (d'.assign slot [core]).updCmd slot fun c => { c with total := listStages ws }
    let e : Dev := { e with seq := { e.seq with snapshots := e.seq.snapshots ++ [slot] } }
    exec (.execList slot) s = .next (s.after (e.addTodo slot ((stageStart ws).map fun w => (core, w)))))
  ∧ (∀ (s : State) (slot : Nat) (c₀ c : Cmd) (x : Reshard) (d : Dev), s.dev.RoutineRuns slot 0x0206 c₀ →
    d = (if (s.dev.reshard? slot).isSome then s.dev else s.dev.reshardStart slot c₀) →
    d.reshard? slot = some x → d.cmd? slot = some c →
    let dst := c₀.par 0x0C 1
    let next (e : Dev) : Dev :=
      let e := e.updReshard slot fun x => { x with next := x.next + 1 }
      if c.done ≤ x.next then e.updCmd slot fun c => { c with done := x.next + 1, rested := false } else e
    (d.planChunk dst (planItems x.plan) x.next = none → exec (.reshard slot) s = .next (s.after (d.reshardSwitch slot c x)))
    ∧ (∀ i k, d.planChunk dst (planItems x.plan) x.next = some (i, k) → i.kind = 0 → x.next < c.done →
      exec (.reshard slot) s = .next (s.after (next d)))
    ∧ (∀ i k e n, d.planChunk dst (planItems x.plan) x.next = some (i, k) → i.kind = 0 → c.done ≤ x.next →
      d.movePieces (byPorter (d.memPorter 0x0201 (c.cores.headD 0) x.next)) c.ctx
        (rowPieces 1 (min d.memChunk (i.length - k * d.memChunk)) (i.src + k * d.memChunk) 0 (i.dst + k * d.memChunk) 0) 0 = ⟨e, none, n⟩ →
      exec (.reshard slot) s = .next (s.after (next e)))
    ∧ (∀ i k e, d.planChunk dst (planItems x.plan) x.next = some (i, k) → i.kind ≠ 0 →
      (d.roomsChunk slot c.ctx dst i k = (e, .ok true) → exec (.reshard slot) s = .next (s.after (next e)))
      ∧ (d.roomsChunk slot c.ctx dst i k = (e, .ok false) → exec (.reshard slot) s = .next (s.after e))))

/-- The waystation (17 R464–R474): WAYSTATION_SET binds, hosts, clears and accepts, FAST_CHECKPOINT starts what is due, WAYSTATION_FULL and
WAYSTATION_RESTORE begin and go on, WAYSTATION_WRITE is taken; each completes with its own effect. -/
def Obligations.WaystationCommandsComplete : Prop :=
  (∀ (s : State) (slot : Nat) (c : Cmd), s.dev.CmdRuns slot 0x0901 c → s.dev.way.acceptCmd ≠ some slot →
    (c.par 0x0B 1 = 1 → 2 * c.par 0x10 2 ≤ s.dev.wayGib →
      let d := s.dev.wayCut true
      let d : Dev := { d with way := { d.way with
        host := true, hostDev := c.par 8 2 % 4096, hostCtx := c.par 0x0A 1 % 16, slotGib := c.par 0x10 2 } }
      exec (.waystationSet slot) s = .next (s.after
        (((d.poke (d.waySlot 0) (zeros 256)).poke (d.waySlot 1) (zeros 256)).wayShow.okCmd slot)))
    ∧ (c.par 0x0B 1 = 2 →
      exec (.waystationSet slot) s = .next (s.after (s.dev.wayDropTabs.wayClear.wayShow.okCmd slot)))
    ∧ (∀ (d : Dev) (bs : List Byte), s.dev.wayDropTabs.read byCp c.ctx (c.par 0 8) (64 + 64 * c.par 0x0C 2) = ⟨d, .ok bs⟩ →
      let t : ShardTab := ⟨shardsOf bs, c.par 0x12 1, bitAt (c.par 0x13 1) 0⟩
      let dev := c.par 8 2 % 4096
      let ctx := c.par 0x0A 1 % 16
      (c.par 0x0B 1 = 0 →
        exec (.waystationSet slot) s = .next (s.after ((d.wayBind t dev ctx (c.par 0x0E 2)).wayShow.okCmd slot)))
      ∧ (c.par 0x0B 1 = 3 → (s.dev.wayDropTabs.ledRec.state = lsFree ∨ s.dev.wayDropTabs.ledRec.state = lsReady) →
        exec (.waystationSet slot) s = .next (s.after (d.wayAccept slot c t dev ctx).wayShow))))
  ∧ (∀ (s : State) (n : Nat) (t : ShardTab), s.dev.way.due = some n → s.dev.way.sender = some t → s.dev.way.job = none →
    s.dev.live = true →
    let x := s.dev.waySeqNext
    let y := x.1.wayImage t none false s.dev.waySlotNext x.2
    exec .fastCheckpoint s = .next (s.after (({ y.1 with way := { y.1.way with due := none } } : Dev).wayStart false y.2)))
  ∧ (∀ (s : State) (slot : Nat) (c : Cmd), s.dev.RoutineRuns slot 0x0902 c →
    (∀ j, s.dev.way.job = some j → j.cmd = some slot → exec (.waystationFull slot) s = .next (s.after (s.dev.wayChunk false c j)))
    ∧ (∀ t, s.dev.way.job = none → c.total = 0 → s.dev.way.sender = some t →
      exec (.waystationFull slot) s = .next (s.after
        (s.dev.wayLong false c (s.dev.wayImage t (some slot) true 0 0).2.head.body s.dev.ledRec.epoch fun d rs =>
          if rs.length < 16 then d.waySeqNext.1.wayImage t (some slot) true d.waySlotNext d.waySeqNext.2
          else d.wayImage t (some slot) true (fieldAt rs 0 1 % 2) (fieldAt rs 1 4)))))
  ∧ (∀ (s : State) (slot : Nat) (c : Cmd), s.dev.RoutineRuns slot 0x0903 c →
    (∀ j, s.dev.way.rjob = some j → j.cmd = some slot → exec (.waystationRestore slot) s = .next (s.after (s.dev.wayChunk true c j)))
    ∧ (∀ h, s.dev.way.rjob = none → c.total = 0 → s.dev.way.host = true →
      let k := if c.par 0 1 = 0xFF then s.dev.newestHosted else c.par 0 1
      s.dev.hostedHead k = some h → h.state = wsValid →
      exec (.waystationRestore slot) s = .next (s.after (s.dev.wayLong true c h.body 0 fun d _ =>
        (d, { cmd := some slot, slot := k, dev := d.way.hostDev, ctx := d.way.hostCtx, head := h
              segs := [(d.waySlot k + wayBodyOff, h.body)], tail := [], sent := 0, upto := 0, phase := 0, crc := ones64 })))))
  ∧ (∀ (s : State) (k : FabPkt) (d : Dev), s.dev.PktTaken ptWayWrite k d → d.epochDiffers k = false →
    (bitAt k.arg 0 = true → exec .waystationWrite s = .next (s.after (d.restoreWrite k)))
    ∧ (bitAt k.arg 0 = false → exec .waystationWrite s = .next (s.after (d.hostedWrite k))))

/-- The ledger (17 R449, R453–R463; 15 R417): OPEN, CLOSE, SCALE_SET, LEDGER_QUERY, ADOPT and REVERT complete with the record the rules give;
a VOTE waits for its cast, is cast with the device's own vote; a vote packet is recorded, or kept until the commit; the timeout decides. -/
def Obligations.LedgerCommandsComplete : Prop :=
  (∀ (s : State) (slot : Nat) (c : Cmd), s.dev.CmdRuns slot 0x0504 c → c.par 0 1 = 1 → s.dev.ledRec.state = lsFree →
    let e := s.dev.rd Reg.LEDG_SCALE_CFG.INIT
    let d : Dev := { s.dev with led := { s.dev.led with steps := [], failed := false } }
    exec (.ledgerOpen slot) s = .next (s.after ((d.ledWrite fun r => { r with
      state := lsReady, cur := 0, scaleE := e, ctx := c.ctx, step := c.par 4 4, epoch := c.par 8 8, clean := 0, last := voNone, retain := false
      skips := 0, aborts := 0, prevE := e, revertible := false, prevClean := 0 }).okCmd slot)))
  ∧ (∀ (s : State) (slot : Nat) (c : Cmd), s.dev.LedgerRuns slot 3 c → s.dev.ledRec.state = lsReady →
    let d : Dev := { s.dev with led := { s.dev.led with steps := [] } }
    exec (.ledgerClose slot) s = .next (s.after
      ((d.ledWrite fun r => { r with state := lsFree, ctx := 0, retain := false, revertible := false }).okCmd slot)))
  ∧ (∀ (s : State) (slot : Nat) (c : Cmd), s.dev.CmdRuns slot 0x0507 c → s.dev.ledRefusal c.ctx = none →
    exec (.scaleSet slot) s = .next (s.after
      ((s.dev.ledWrite fun r => { r with scaleE := c.par 0 1, clean := if bitAt (c.par 1 1) 0 then 0 else r.clean }).okCmd slot)))
  ∧ (∀ (s : State) (slot : Nat) (c : Cmd), s.dev.CmdRuns slot 0x0505 c →
    (c.par 0 1 = 0 → let r := s.dev.ledRec
      exec (.ledgerQuery slot) s = .next (s.after (s.dev.okCmd slot (r.step + r.state * 2 ^ 32 + r.cur * 2 ^ 35 + b2n r.retain * 2 ^ 36
        + (if r.last = voNone then 7 else r.last) * 2 ^ 37 + r.scaleE * 2 ^ 40 + b2n r.revertible * 2 ^ 48))))
    ∧ (c.par 0 1 = 1 → exec (.ledgerQuery slot) s = .next (s.after (s.dev.okCmd slot s.dev.ledRec.epoch)))
    ∧ (c.par 0 1 = 2 → (s.dev.stepRec (c.par 4 4)).isSome = true →
      exec (.ledgerQuery slot) s = .next (s.after (s.dev.okCmd slot (s.dev.recField (c.par 4 4) 0x78 8))))
    ∧ (c.par 0 1 = 3 → (s.dev.stepRec (c.par 4 4)).isSome = true →
      exec (.ledgerQuery slot) s = .next (s.after (s.dev.okCmd slot (s.dev.recField (c.par 4 4) 0x80 8)))))
  ∧ (∀ (s : State) (slot : Nat) (c : Cmd), s.dev.LedgerRuns slot 0 c → s.dev.ledRec.state = lsOpen →
    (∀ g, c.aux = [] → s.dev.group? (c.par 1 1) = some g → (g.rings.headD []).contains s.dev.myId = true →
      exec (.ledgerVote slot) s = .next (s.after (s.dev.updCmd slot fun c => { c with aux := [1] })))
    ∧ (∀ late v, c.aux = [1] → s.dev.trainBusy c.ctx = false → s.dev.ownVote late = some v →
      exec (.voteCast slot late) s = .next (s.after
        ((s.dev.updCmd slot fun c => { c with aux := [2] }).voteCast (some slot) (c.par 1 1) v))))
  ∧ (∀ (s : State) (k : FabPkt), s.dev.fabClocks = true → (s.dev.fab.inbox.find? fun k => k.typ == ptVote) = some k →
    (∀ b g k' d, s.dev.voteMatch k = some (b, g) → s.dev.nextIn ptVote = some (k', d) →
      exec .vote s = .next (s.after (d.voteTake b g k').voteCheck))
    ∧ (s.dev.voteMatch k = none →
      let d : Dev := { s.dev with fab := { s.dev.fab with inbox := s.dev.fab.inbox.erase k, early := s.dev.fab.early ++ [(k, s.dev.timeNs)] } }
      exec .vote s = .next (s.after (d.tracePkt (min k.port 255) k))))
  ∧ (∀ (s : State) (b : Ballot) (g : Group), s.dev.ballotGroup = some (b, g) → exec .commitTimeout s = .next (s.after (s.dev.voteDecide b g)))
  ∧ (∀ (s : State) (slot : Nat) (c : Cmd), s.dev.LedgerRuns slot 2 c →
    let r := s.dev.ledRec
    r.state = lsReady → r.last = voAbort → r.retain = true → c.par 8 8 = r.epoch → c.par 4 4 = r.step →
    (c.par 1 1 = voCommit → s.dev.recHas r.step 1 = true → let d := s.dev.ledOutcome voCommit none
      exec (.ledgerAdopt slot) s = .next (s.after (d.okCmd slot (d.ledRec.step + voCommit * 2 ^ 32 + 0xFFFF * 2 ^ 48))))
    ∧ (c.par 1 1 = voSkip → let d := s.dev.ledOutcome voSkip none
      exec (.ledgerAdopt slot) s = .next (s.after (d.endCmd slot 0x01 0x1140 (d.ledRec.step + voSkip * 2 ^ 32 + 0xFFFF * 2 ^ 48)))))
  ∧ (∀ (s : State) (slot : Nat) (c : Cmd), s.dev.LedgerRuns slot 4 c →
    let r := s.dev.ledRec
    r.state = lsReady → r.last = voCommit → r.revertible = true → c.par 8 8 = r.epoch → c.par 4 4 = r.step →
    let step := (r.step + 2 ^ 32 - 1) % 2 ^ 32
    let d := s.dev.innRevert.ledWrite fun r => { r with
      epoch := (r.epoch + 2 ^ 64 - 1) % 2 ^ 64, step := step, cur := 1 - r.cur, scaleE := r.prevE, clean := r.prevClean, last := voAbort
      aborts := satAdd 32 r.aborts 1, retain := false, revertible := false }
    exec (.ledgerRevert slot) s = .next (s.after
      ((((d.recWrite step [(4, leBytes 1 voAbort)]).ledEvent voAbort none).wayRevert slot r.step).okCmd slot step)))

/-- Timetables and the exchange (16 R426–R442): TIMETABLE_LOAD frees or loads a slot, MASK_SEED_SET sets the seed; while a step runs, an
entry waits, begins and ends, a final bucket's reduce-scatter starts, and the wait for a neighbour can time out. -/
def Obligations.TimetableCommandsComplete : Prop :=
  (∀ (s : State) (slot : Nat) (c : Cmd), s.dev.CmdRuns slot 0x0501 c →
    let k := c.par 0x0C 1
    s.dev.ttForeign c.ctx k = false → s.dev.on (Reg.TRN_TT.RUNNING k) = false →
    (c.par 0x0D 1 = 1 → exec (.timetableLoad slot) s = .next (s.after ((s.dev.ttFree k).okCmd slot)))
    ∧ (∀ d d' t m, c.par 0x0D 1 = 0 → s.dev.read byCp c.ctx (c.par 0 8) (c.par 8 4) = ⟨d, .ok t⟩ → d.ttCheck c.ctx (c.par 8 4) t = (d', .ok m) →
      let e : Dev := { d' with trn := { d'.trn with slots := kvPut k ⟨t, m⟩ d'.trn.slots } }
      exec (.timetableLoad slot) s = .next (s.after ((e.setReg (Reg.TRN_TT.LOADED k).reg (1 + c.ctx * 2 ^ 4 + ttEntries t * 2 ^ 8
        + ttMb t % 4096 * 2 ^ 32 + ttStages t % 512 * 2 ^ 44 + ttStage t % 512 * 2 ^ 53)).okCmd slot))))
  ∧ (∀ (s : State) (slot : Nat) (c : Cmd), s.dev.CmdRuns slot 0x0506 c → s.dev.trainBusy c.ctx = false →
    exec (.maskSeedSet slot) s = .next (s.after ((s.dev.wr (Reg.TRN_SEED.SEED c.ctx) (c.par 0 8)).okCmd slot)))
  ∧ (∀ (s : State) (slot : Nat) (c : Cmd) (r : TrainRun) (x : Bucket) (l : List Bucket) (d : Dev), s.dev.StepRuns slot c r → r.phase ≤ 2 →
    (bucketsOf r.buckets).drop r.started = x :: l → s.dev.soArrived x.so x.value = .ok true →
    (s.dev.updRun slot fun r => { r with started := r.started + 1 }).collStart (r.coll r.started x) = some d →
    exec (.bucketReduceStart slot) s = .next (s.after d))
  ∧ (∀ (s : State) (slot : Nat) (c : Cmd) (r : TrainRun), s.dev.StepRuns slot c r → r.phase = 1 →
    let t := (s.dev.runTt r).bytes
    let e := ttEntry t r.entry
    (∀ so v, r.part = 0 → r.arrival t e = some (so, v) → s.dev.soValue so < v →
      exec (.stageTimeout slot) s = .next (s.after ((s.dev.inc Reg.TRN_ERR.STAGE_TIMEOUT).failStaged slot ⟨0x05, 0x1020, 0⟩)))
    ∧ (s.dev.cmdTds slot = [] → c.todo = [] →
      (r.part = 0 → r.arrival t e = none → exec (.timetableEntry slot) s = .next (s.after (s.dev.entryBegin slot r)))
      ∧ (∀ so v, r.part = 0 → r.arrival t e = some (so, v) → s.dev.soArrived so v = .ok true →
        exec (.timetableEntry slot) s = .next (s.after (s.dev.entryBegin slot r)))
      ∧ (r.part = 1 → s.dev.roomFailed e = none → exec (.timetableEntry slot) s = .next (s.after (s.dev.entryLists slot r (ttCore t))))
      ∧ (r.part = 2 → e.rooms = false → exec (.timetableEntry slot) s = .next (s.after (s.dev.entryDone slot (ttEntries t))))
      ∧ (r.part = 2 → e.rooms = true → exec (.timetableEntry slot) s = .next (s.after
          ((s.dev.addTodo slot [(ttCore t, roomTd 1 e)]).updRun slot fun r => { r with part := 3 })))
      ∧ (2 < r.part → s.dev.roomFailed e = none → exec (.timetableEntry slot) s = .next (s.after (s.dev.entryDone slot (ttEntries t))))))

/-- Training steps (16 R431, R441, R443, R444; 17 R476, R477): TRAIN_STEP and REPLAY_STEP open their step and take their exchange and norm
as far as they go; OPT_STEP begins and goes on; a flagged norm skips the update. -/
def Obligations.TrainingStepsComplete : Prop :=
  (∀ (s : State) (slot : Nat) (c : Cmd), s.dev.RoutineRuns slot 0x0502 c →
    (∀ r, s.dev.run? slot = some r → exec (.trainStep slot) s = .next (s.after (s.dev.exchangeGo slot r fun g2 fl d =>
      if fl = 0 then d.okCmd slot g2 else d.endCmd slot 0x01 0x1030 (g2 + fl * 2 ^ 32))))
    ∧ (∀ d bs, s.dev.run? slot = none → c.total = 0 → s.dev.trainRefusal c.ctx (c.par 0 1) = none →
      let l := s.dev.ledRec
      let r := { trainRun0 slot c.ctx with
        train := c.parBytes 0 32, step := l.step, epoch := l.epoch, scaleE := l.scaleE, seed := s.dev.rd (Reg.TRN_SEED.SEED c.ctx) }
      s.dev.trainChecks r = (d, .ok bs) → exec (.trainStep slot) s = .next (s.after (d.trainOpen { r with buckets := bs }))))
  ∧ (∀ (s : State) (slot : Nat) (c : Cmd), s.dev.RoutineRuns slot 0x0503 c →
    (∀ r, s.dev.run? slot = some r → exec (.optStep slot) s = .next (s.after (s.dev.optGo slot r c fun d => d.okCmd slot)))
    ∧ (∀ e, s.dev.run? slot = none → c.total = 0 → s.dev.trainBusy c.ctx = false → s.dev.ledRefusal c.ctx = none →
      e = (if s.dev.ledRec.revertible then s.dev.ledWrite fun l => { l with revertible := false } else s.dev) →
      let l := e.ledRec
      e.wayReads (1 - l.cur) = false → e.hasNorm c.ctx = true →
      (e.on (Reg.TRN_NORM.NONFINITE c.ctx) = true →
        exec (.optStep slot) s = .next (s.after ((e.optSkip l.step (c.parBytes 0 48)).endCmd slot 0x01 0x1031 0)))
      ∧ (∀ d d' bs, e.on (Reg.TRN_NORM.NONFINITE c.ctx) = false → e.read byCp c.ctx (c.par 0 8) (64 + 64 * c.par 8 2) = ⟨d, .ok bs⟩ →
        let r := { trainRun0 slot c.ctx with
          opt := c.parBytes 0 48, shards := bs, step := l.step, epoch := l.epoch, scaleE := l.scaleE, seed := d.rd (Reg.TRN_SEED.SEED c.ctx) }
        d.shardChecks r = ⟨d', none⟩ → exec (.optStep slot) s = .next (s.after (d'.optOpen r)))))
  ∧ (∀ (s : State) (slot : Nat) (c : Cmd), s.dev.RoutineRuns slot 0x0904 c →
    (∀ r, s.dev.run? slot = some r →
      (r.phase = 4 → exec (.replayStep slot) s = .next (s.after (s.dev.optGo slot r c fun d => d.replayEnd slot 0 0 r.g2)))
      ∧ (r.phase = 5 → exec (.replayStep slot) s = .next (s.after (s.dev.replayOpt slot (s.dev.rd (Reg.TRN_NORM.G2 r.ctx)) 0)))
      ∧ (r.phase ≤ 3 → exec (.replayStep slot) s = .next (s.after (s.dev.exchangeGo slot r fun g2 fl d => d.replayOpt slot g2 fl))))
    ∧ (∀ b d bs, s.dev.run? slot = none → c.total = 0 → s.dev.replayRefusal c.ctx (c.par 0 4) = none →
      s.dev.stepRec (c.par 0 4) = some b →
      let r := { trainRun0 slot c.ctx with
        train := (b.drop 0x20).take 32, opt := (b.drop 0x40).take 48, replay := true, step := s.dev.ledRec.step, epoch := s.dev.ledRec.epoch
        scaleE := fieldAt b 6 1, seed := fieldAt b 0x10 8 }
      s.dev.trainChecks r = (d, .ok bs) → exec (.replayStep slot) s = .next (s.after (d.trainOpen { r with buckets := bs }))))

/-- Power domains (19 R502–R511): PWR_DOMAIN_SET completes at once with the state it asked for under way, or waits; a drain, a power-down,
a dwell and a wake that end take the domain one state on. -/
def Obligations.PowerDomainsComplete : Prop :=
  (∀ (s : State) (slot : Nat) (c : Cmd), s.dev.CmdRuns slot 0x0702 c → (s.dev.pwr.waiting.any fun x => x.1 == slot) = false →
    let pd := c.par 0 1
    let t := c.par 1 1
    s.dev.domRefusal pd t = none →
    ((s.dev.domsOf pd).any fun x => s.dev.on (Reg.MGT_UNIT.PWR_BY_MGMT x) && decide (t < s.dev.rd (Reg.MGT_UNIT.PWR_TARGET x))) = false →
    (bitAt (c.par 2 1) 0 = false → let d := s.dev.domAccept pd t false
      exec (.pwrDomainSet slot) s = .next (s.after (d.okCmd slot (d.domState pd))))
    ∧ (bitAt (c.par 2 1) 0 = true →
      let d : Dev := { s.dev with pwr := { s.dev.pwr with waiting := s.dev.pwr.waiting ++ [(slot, pd, t)] } }
      exec (.pwrDomainSet slot) s = .next (s.after (d.domAccept pd t false))))
  ∧ (∀ (s : State) (dom : Nat) (d : Dev), s.dev.domState dom = stDraining →
    d = (if domClass dom = .inn then (s.dev.hallVacate (dom - 42)).1 else s.dev) → d.drained dom = true →
    exec (.domainDrainDone dom) s = .next (s.after (d.setDom dom stIsolated)))
  ∧ (∀ (s : State) (dom : Nat), s.dev.domState dom = stIsolated → exec (.domainPowerDownDone dom) s = .next (s.after (s.dev.domDown dom)))
  ∧ (∀ (s : State) (dom : Nat), (s.dev.domState dom = stRetention ∨ s.dev.domState dom = stOff) → s.dev.pwr.dwell.contains dom = false →
    let d : Dev := { s.dev with pwr := { s.dev.pwr with dwell := dom :: s.dev.pwr.dwell } }
    exec (.domainDwellEnd dom) s = .next (s.after (d.domAct dom)))
  ∧ (∀ (s : State) (dom : Nat), s.dev.domState dom = stWaking → s.dev.wakeReady dom = true →
    exec (.domainWakeDone dom) s = .next (s.after (s.dev.domUp dom)))

/-- The adaptive loops (13 R336; 19 R513–R522; 21 R561): PWR_POLICY_SET writes its control and waits for the loop; each evaluation, reading
and release of a loop that governs has its effect. -/
def Obligations.GovernorsComplete : Prop :=
  (∀ (s : State) (slot : Nat) (c : Cmd), s.dev.CmdRuns slot 0x0701 c → (s.dev.pwr.policy.any fun x => x.1 == slot) = false →
    let loop := c.par 0 1
    let ts := if loop = 1 ∨ loop = 4 then [0] else if c.par 1 1 = 0xFF then List.range (s.dev.policyTargets loop) else [c.par 1 1]
    let d := s.dev.forEach ts fun t d => d.policyPut loop (c.par 2 1) (c.par 4 4) t
    exec (.pwrPolicySet slot) s = .next (s.after { d with pwr := { d.pwr with policy := d.pwr.policy ++ ts.map fun t => (slot, loop, t) } }))
  ∧ (∀ s : State, s.dev.governs = true →
    (∀ core w1s w1ms idle, exec (.clockGovernorEval core w1s w1ms idle) s = .next (s.after (s.dev.governEval core w1s w1ms idle)))
    ∧ (∀ stack temp, stack < s.dev.stacks → exec (.hbmTempRead stack temp) s = .next (s.after (s.dev.hbmTemp stack temp)))
    ∧ (∀ port util stalled, port < s.dev.ports →
      exec (.laneWidthEval port util stalled) s = .next (s.after (s.dev.laneEval port util stalled)))
    ∧ (∀ amps, amps < 900 →
      exec (.avsCurrentRead amps true) s = .next (s.after { s.dev with pwr := { s.dev.pwr with avsFails := 0, overEdc := false } }))
    ∧ (∀ amps, 900 ≤ amps → let d : Dev := { s.dev with pwr := { s.dev.pwr with avsFails := 0, overEdc := true } }
      exec (.avsCurrentRead amps true) s = .next (s.after (d.governBy (if s.dev.pwr.overEdc then 500 else 250)))))
  ∧ (∀ (s : State) (vdone : Bool),
    let d : Dev := { s.dev with pwr := { s.dev.pwr with
      avsSettled := true, avsOpen := s.dev.pwr.avsOpen && !vdone, avsFails := if vdone then 0 else s.dev.pwr.avsFails } }
    exec (.avsVoltageSettled vdone) s = .next (s.after ((d.cclkRaise 0).cclkRaise 1)))
  ∧ (∀ s : State, s.dev.pwr.avsOpen = true → exec .avsVdoneTimeout s = .next (s.after (s.dev.inc Reg.MGT_ERR.PMBUS_ERR).avsBroken))
  ∧ (∀ (s : State) (stack : Nat), s.dev.on (Reg.MEM_STATUS.BW_CAPPED stack) = false →
    exec (.policyReleased 2 stack) s = .next (s.after (s.dev.unclamp 2 stack)))
  ∧ (∀ s : State, s.dev.rd Reg.PWR_AVS.MARGIN ≤ s.dev.marginHeld s.dev.cclkTop →
    exec (.policyReleased 1 0) s = .next (s.after (s.dev.unclamp 1 0).avsEval))

/-- Sensors, regulators and unit states (21 R553–R555, R562, R567–R569): a plausible reading is taken, another is discarded; an
unavailable sensor fences its units; a regulator's fault is reported when it appears; UNIT_STATE_SET and UNIT_STATE_QUERY complete. -/
def Obligations.SensorsAndUnitsComplete : Prop :=
  (∀ (s : State) (id : Nat) (v : Int), s.dev.sensorFitted id = true →
    (sensorPlausible id v = true → exec (.sensorUpdate id true v) s = .next (s.after (s.dev.sensorGood id v)))
    ∧ (sensorPlausible id v = false → exec (.sensorUpdate id true v) s = .next (s.after (s.dev.sensorBad id true)))
    ∧ exec (.sensorUpdate id false v) s = .next (s.after (s.dev.sensorBad id false)))
  ∧ (∀ (s : State) (id : Nat) (x : Sensor), kvGet id s.dev.mgt.sensors = some x → x.unavailable = true →
    (2 + s.dev.ioDies ≤ id → 0x10 ≤ id → id < 0x10 + s.dev.stacks →
      exec (.sensorFence id) s = .next (s.after (s.dev.unitWrite (30 + (id - 0x10)) true 1 1)))
    ∧ (2 ≤ id → id < 2 + s.dev.ioDies → let i := id - 2
      exec (.sensorFence id) s = .next (s.after
        (s.dev.forEach ([46 + 3 * i, 47 + 3 * i] ++ rangeFrom (64 + 8 * i) (72 + 8 * i)) fun u d => d.unitWrite u true 1 1))))
  ∧ (∀ (s : State) (rail mv status : Nat),
    let d := s.dev.sensorRead (0x40 + rail) true mv
    let others := d.mgt.regFault.filter fun x => x != rail
    exec (.pmbusPoll rail mv status true false) s = .next (s.after { d with mgt := { d.mgt with regFault := others } })
    ∧ (d.mgt.regFault.contains rail = false → exec (.pmbusPoll rail mv status true true) s =
      .next (s.after (({ d with mgt := { d.mgt with regFault := rail :: others } } : Dev).regulatorFault rail status))))
  ∧ (∀ (s : State) (slot : Nat) (c : Cmd), s.dev.CmdRuns slot 0x0703 c → s.dev.unitPresent (c.par 0 1) = true →
    unitFixed (c.par 0 1) = false → (bitAt (c.par 2 1) 0 = false ∨ c.par 4 4 = s.dev.rd (Reg.MGT_UNIT.GEN (c.par 0 1))) →
    let d := s.dev.unitWrite (c.par 0 1) false (c.par 1 1) 0
    exec (.unitStateSet slot) s = .next (s.after (d.okCmd slot (d.unitResult (c.par 0 1)))))
  ∧ (∀ (s : State) (slot : Nat) (c : Cmd), s.dev.CmdRuns slot 0x0704 c → s.dev.unitPresent (c.par 0 1) = true →
    exec (.unitStateQuery slot) s = .next (s.after (s.dev.okCmd slot (s.dev.unitResult (c.par 0 1)))))

/-- BAR0 and BAR2 (00 R6, R7; 03 R68–R71, R81): a device that answers writes the dwords of a well-formed request in ascending order, writes
and reads halves of wide registers, answers reads; a context window is written; BAR2 is read and written. -/
def Obligations.HostAccessesComplete : Prop :=
  ∀ s : State, s.dev.hostAnswers = true →
  (∀ off dwords, formBad off dwords.length = false →
    exec (.bar0Write off dwords) s = .next (s.after (s.dev.forEach dwords.zipIdx fun ((v, full), i) d =>
      if full then d.dwordWrite 0 (off + 4 * i) v.toNat else d.barError Reg.HOST_BAR_ERR.PARTIAL 0 (off + 4 * i))))
  ∧ (∀ off dwords, formBad off dwords.length = true →
    exec (.bar0Write off dwords) s = .next (s.after ((s.dev.barError Reg.HOST_BAR_ERR.FORM 0 off).emit (.aer 0))))
  ∧ (∀ issuer off v, wideAt off = some false →
    exec (.reg64LowWrite issuer off v) s = .next (s.after (s.dev.dwordWrite issuer off v.toNat))
    ∧ exec (.reg64LowRead issuer off) s = .next (s.after (s.dev.readOut issuer off false)))
  ∧ (∀ issuer off v, wideAt off = some true →
    exec (.reg64HighWrite issuer off v) s = .next (s.after (s.dev.dwordWrite issuer off v.toNat)))
  ∧ (∀ issuer off wide, (issuer ≠ 0 ∨ formBad off (if wide then 2 else 1) = false) →
    exec (.rcRead issuer off wide) s = .next (s.after (s.dev.readOut issuer off wide)))
  ∧ (∀ ctx off v, s.dev.board.domHeld = false → (s.dev.ready = true ∨ s.dev.boot.flr = true) →
    exec (.ctxWindowWrite ctx off v) s = .next (s.after (s.dev.windowWrite ctx off v.toNat)))
  ∧ (∀ off len, s.dev.bar2Len off len ≠ 0 → exec (.bar2Read off len) s = .next (s.after (s.dev.bar2Read off (s.dev.bar2Len off len))))
  ∧ (∀ off data, s.dev.bar2Len off data.length ≠ 0 →
    exec (.bar2Write off data) s = .next (s.after (s.dev.bar2Write off (s.dev.bar2Len off data.length) data)))

/-- Resets (20 R526–R532, R540, R546; 04 R100): each request that no running reset covers starts its reset; a core's routines are stopped
by force; each reset that has nothing left to wait for ends. -/
def Obligations.ResetsComplete : Prop :=
  (∀ s : State, s.dev.hostAnswers = true →
    (s.dev.resetCovered .warm 0 = false → exec .rstWarm s = .next (s.after (s.dev.warmReset 2)))
    ∧ (s.dev.resetCovered .cold 0 = false → exec .rstCold s = .next (s.after (s.dev.coldReset 2)))
    ∧ (∀ core, core < 2 → s.dev.resetCovered .core core = false → exec (.rstCore core) s = .next (s.after (s.dev.coreStart core)))
    ∧ (∀ ctx, ctx < 16 → s.dev.resetCovered .context ctx = false → exec (.rstContext ctx) s = .next (s.after (s.dev.contextStart ctx)))
    ∧ (s.dev.pci.link ≠ .down → s.dev.resetCovered .flr 0 = false → exec .flr s = .next (s.after s.dev.flrStart)))
  ∧ (∀ s : State, s.dev.board.tripped = false → s.dev.coldRuns = false →
    (∀ d, s.dev.dbg.pinsTaken = false → d = s.dev.dlDown →
      (fieldAt s.dev.dlDown.cfgLatched 0x18 1 = 1 → exec .perst s = .next (s.after (d.resetRequest .warm 0 7)))
      ∧ (fieldAt s.dev.dlDown.cfgLatched 0x18 1 ≠ 1 → exec .perst s = .next (s.after (d.resetRequest .flr 0 0))))
    ∧ (s.dev.board.bootFailed = false → let v := s.dev.freeVal
      exec .cpWatchdog s = .next (s.after
        ((((s.dev.occur clsFatal).fatal 0 (bits v 16 8) (bits v 24 32)).freeNext).resetRequest .warm 0 4))))
  ∧ (∀ (s : State) (core : Nat), s.dev.coreResets core = true → s.dev.coreClocks = true →
    exec (.coreResetForceStop core) s = .next (s.after (s.dev.forEach (s.dev.onCore core) fun c d => d.forceStop c))
    ∧ (∀ fails, s.dev.onCore core = [] → (s.dev.seq.tds.any fun t => t.core == core) = false →
      exec (.resetComplete 1 core fails) s = .next (s.after (s.dev.coreClose core fails))))
  ∧ (∀ (s : State) (fails : List Nat), s.dev.boot.flr = true → (s.dev.cp0.cmds.any fun c => c.phase != .ended) = false →
    exec (.resetComplete 0 0 fails) s = .next (s.after s.dev.flrClose.activateNow))
  ∧ (∀ (s : State) (ctx : Nat) (fails : List Nat), bitAt (s.dev.rd Reg.RST_BUSY.CONTEXT) ctx = true → s.dev.coreClocks = true →
    (s.dev.cp0.cmds.any fun c => c.ctx == ctx && !(c.ofBatch && c.phase == .ended)) = false →
    exec (.resetComplete 2 ctx fails) s = .next (s.after (s.dev.contextClose ctx)))

/-- The boot (02 R40, R42; 20 R537–R541, R544): SYS_PWRGD starts COLD reset or stops in it, the warm junction releases it, each stage goes on
or fails with its code, a trial that is late fails. -/
def Obligations.BootCompletes : Prop :=
  (∀ (s : State) (missing : List Nat) (cold : Bool) (d : Dev), d = s.dev.coldReset 1 →
    let rails := (List.range 9).filter missing.contains
    (rails = [] → exec (.sysPwrgdRise missing cold) s = .next (s.after { d with board := { d.board with coldHeld := cold } }))
    ∧ (rails ≠ [] → let e : Dev := { d with board := { d.board with coldHeld := true, railsOut := rails } }
      exec (.sysPwrgdRise missing cold) s = .next (s.after
        (((e.forEach rails fun r d => d.reportRail r).alert Reg.MGT_ALERT_STATUS.RAIL).bootFail 1))))
  ∧ (∀ s : State, s.dev.board.coldHeld = true → s.dev.board.pwrgd = true → s.dev.board.railsOut = [] →
    exec .junctionWarmRelease s = .next (s.after { s.dev with board := { s.dev.board with coldHeld := false } }))
  ∧ (∀ s : State, (s.dev.boot.running.isSome = true ∨ s.dev.board.bootFailed = true) → s.dev.ready = false → 2 ≤ s.dev.rd Reg.RST_STATUS.STAGE →
    s.dev.fwTrial < 2 → exec .trialTimeout s = .next (s.after (s.dev.trialFail s.dev.fwTrial)))
  ∧ (∀ (s : State) (kind : ResetKind) (bad0 bad1 : List Nat), s.dev.boot.running = some kind →
    s.dev.board.coldHeld = false → s.dev.board.refMissing.contains 0 = false → s.dev.board.domHeld = false → s.dev.board.tripped = false →
    let st := s.dev.rd Reg.RST_STATUS.STAGE
    (st = 0 → exec (.bootStageDone bad0 bad1) s = .next (s.after (s.dev.wr Reg.RST_STATUS.STAGE 1)))
    ∧ (st = 1 → assemblies.contains s.dev.board.assembly = true →
      exec (.bootStageDone bad0 bad1) s = .next (s.after (s.dev.wr Reg.RST_STATUS.STAGE 2)))
    ∧ (st = 1 → assemblies.contains s.dev.board.assembly = false →
      exec (.bootStageDone bad0 bad1) s = .next (s.after (s.dev.bootFail 2)))
    ∧ (st = 2 → exec (.bootStageDone [] bad1) s = .next (s.after (s.dev.wr Reg.RST_STATUS.STAGE 3)))
    ∧ (st = 2 → bad0 ≠ [] → exec (.bootStageDone bad0 bad1) s = .next (s.after (s.dev.bootFail 3)))
    ∧ (st = 3 → exec (.bootStageDone bad0 bad1) s = .next (s.after s.dev.bootSelect))
    ∧ (st = 4 → exec (.bootStageDone bad0 bad1) s = .next (s.after (s.dev.bootConfig.wr Reg.RST_STATUS.STAGE 5)))
    ∧ (st = 5 → exec (.bootStageDone [] bad1) s = .next (s.after (s.dev.wr Reg.RST_STATUS.STAGE 6)))
    ∧ (st = 6 → exec (.bootStageDone [] bad1) s = .next (s.after ((s.dev.bootHbm []).wr Reg.RST_STATUS.STAGE 7)))
    ∧ (st = 7 → exec (.bootStageDone bad0 bad1) s =
      .next (s.after (((s.dev.columnTest 0 bad0).columnTest 1 bad1).wr Reg.RST_STATUS.STAGE 8)))
    ∧ (st = 8 → exec (.bootStageDone bad0 bad1) s = .next (s.after (s.dev.bootUnits.wr Reg.RST_STATUS.STAGE 9)))
    ∧ (9 ≤ st → exec (.bootStageDone bad0 bad1) s = .next (s.after (s.dev.bootFabric.bootReady kind))))

/-- The event ring, the trace unit and the firmware commands (20 R542–R545; 22 R579–R582; 23 R601): EVENT_RING_SET sets or closes the
ring, TRACE_CTL stops, starts, clears and dumps, FW_STAGE programs a chunk, FW_ACTIVATE selects, BOOT_CFG_WRITE reads back and writes. -/
def Obligations.RingTraceFirmwareComplete : Prop :=
  (∀ (s : State) (slot : Nat) (c : Cmd), s.dev.CmdRuns slot 0x0105 c →
    (c.par 9 1 = 1 → exec (.eventRingSet slot) s = .next (s.after ((s.dev.wr Reg.ERR_EVT_CFG.EN 0).okCmd slot)))
    ∧ (c.par 9 1 = 0 →
      let r := c.par 0 8
      let d := ((((((s.dev.wr Reg.ERR_EVT_BASE.BASE (r / 4096)).wr Reg.ERR_EVT_CFG.LOG2 (c.par 8 1)).wr Reg.ERR_EVT_CFG.EN 1).wr
        Reg.ERR_EVT_HEAD.HEAD 0).wr Reg.ERR_EVT_TAIL.TAIL 0).wr Reg.ERR_EVT_TAIL.PHASE 1)
      let host := s.dev.region r == .host
      exec (.eventRingSet slot) s = .next (s.after
        (({ d with evt := { d.evt with ringHost := host, ringAddr := if host then d.hostAddr c.ctx r else r } } : Dev).okCmd slot))))
  ∧ (∀ (s : State) (v : Word), s.dev.board.tripped = false →
    exec (.errEvtHeadWrite v) s = .next (s.after (s.dev.wr Reg.ERR_EVT_HEAD.HEAD (bits v.toNat 0 16))))
  ∧ (∀ (s : State) (slot : Nat) (c : Cmd), s.dev.CmdRuns slot 0x0804 c →
    (s.dev.rd Reg.DBG_STATUS.OWNER ≠ 2 →
      (c.par 0 1 = 0 → exec (.traceCtl slot) s = .next (s.after (s.dev.traceStop.okCmd slot)))
      ∧ (c.par 0 1 = 1 → s.dev.unitBlocked [domDebug] 0x1703 = none → exec (.traceCtl slot) s =
        .next (s.after ((s.dev.traceStart 1 (c.par 1 1) (c.par 3 1) (c.par 2 1 == 1)).okCmd slot)))
      ∧ (c.par 0 1 = 2 → exec (.traceCtl slot) s = .next (s.after (s.dev.traceClear.okCmd slot))))
    ∧ (∀ d, c.par 0 1 = 3 → s.dev.unitBlocked [domDebug] 0x1703 = none →
      s.dev.write byCp c.ctx (c.par 8 8) (s.dev.traceNewest (c.par 4 4)).flatten = ⟨d, none⟩ →
      exec (.traceCtl slot) s = .next (s.after (d.okCmd slot (s.dev.traceNewest (c.par 4 4)).length))))
  ∧ (∀ (s : State) (slot : Nat) (ok : Bool) (c c' : Cmd) (d : Dev), s.dev.RoutineRuns slot 0x0A03 c → c.total ≠ 0 → c.done < c.total →
    s.dev.fwChunk c ok = (d, .ok c') →
    let e := d.updCmd slot fun y =>
      { y with done := c.done + 1, rested := false, cursor := c'.cursor, rstate := c'.rstate, hits := c'.hits, aux := c'.aux }
    exec (.fwStage slot ok) s = .next (s.after (if c.done + 1 = c.total then e.okCmd slot (c'.par 8 4) else e)))
  ∧ (∀ (s : State) (slot : Nat) (c : Cmd), s.dev.CmdRuns slot 0x0A04 c → exec (.fwActivate slot) s = .next (s.after
      (match s.dev.fwActivateFault (c.par 0 1) with
        | some (mj, dt) => s.dev.endCmd slot mj dt 0
        | none =>
          let d := s.dev.fwSelect (c.par 0 1) (bitAt (c.par 2 1) 0) (c.par 1 1 == 1)
          (if c.par 1 1 = 1 then d.fwStopAll (some slot) else d).okCmd slot)))
  ∧ (∀ (s : State) (slot : Nat) (c : Cmd), s.dev.CmdRuns slot 0x0A05 c →
    let old := s.dev.cfgStored.getD s.dev.cfgDefault
    (∀ d, c.par 8 1 = 1 → s.dev.write byCp c.ctx (c.par 0 8) old = ⟨d, none⟩ →
      exec (.bootCfgWrite slot) s = .next (s.after (d.okCmd slot)))
    ∧ (∀ d b, c.par 8 1 = 0 → s.dev.read byCp c.ctx (c.par 0 8) 256 = ⟨d, .ok b⟩ → d.cfgBad b = false →
      let b := b.take 0x50 ++ (old.drop 0x50).take 0x60 ++ b.drop 0xB0
      let new := sealCopy 256 (bytesPut b [(0xB0, 4, fieldAt old 0xB0 4 + 1)])
      let e : Dev := if writesA 256 0xB0 d.boot.cfgA d.boot.cfgB then { d with boot := { d.boot with cfgA := new } }
        else { d with boot := { d.boot with cfgB := new } }
      exec (.bootCfgWrite slot) s = .next (s.after (e.okCmd slot))))

/-- MCTP and PLDM type 0 (21 R548–R551): a good packet for the endpoint is gathered or completes its message, a bad one is counted; each
control and base request that is served is answered. -/
def Obligations.EndpointRequestsComplete : Prop :=
  (∀ (s : State) (vdm : Bool) (dest typ : Nat) (data : List Byte), s.dev.reached vdm = true →
    (∀ som eom, exec (.mctpPacket vdm false dest typ som eom data) s = .next (s.after
      (s.dev.inc (if vdm then Reg.MGT_ERR.VDM_DROPS else Reg.MGT_ERR.SMB_DROPS))))
    ∧ (typ ∈ ([0, 1, 5] : List Nat) → dest = s.dev.rd Reg.MGT_STATUS.EID → data.length ≤ 64 →
      let key := 2 * typ + b2n vdm
      let d : Dev := { s.dev with mgt := { s.dev.mgt with asm := kvDel key s.dev.mgt.asm } }
      exec (.mctpPacket vdm true dest typ true true data) s = .next (s.after (d.messageIn vdm typ data))
      ∧ exec (.mctpPacket vdm true dest typ true false data) s =
        .next (s.after { d with mgt := { d.mgt with asm := kvPut key data d.mgt.asm } })
      ∧ (∀ old, kvGet key s.dev.mgt.asm = some old → (old ++ data).length < 4096 →
        exec (.mctpPacket vdm true dest typ false true data) s = .next (s.after (d.messageIn vdm typ (old ++ data))))))
  ∧ (∀ (s : State) (vdm : Bool) (d : Dev), s.dev.Serves vdm mtControl true d →
    (∀ eid, eid ≠ 0 → eid ≠ 0xFF → exec (.setEndpointId vdm eid) s = .next (s.after
      ((d.wr Reg.MGT_STATUS.EID eid).reply mtControl 1 0 (leBytes 1 0 ++ leBytes 1 eid ++ leBytes 1 0))))
    ∧ exec (.getEndpointId vdm) s = .next (s.after (d.reply mtControl 2 0 (leBytes 1 (d.rd Reg.MGT_STATUS.EID) ++ leBytes 2 0)))
    ∧ exec (.getEndpointUuid vdm) s = .next (s.after (d.reply mtControl 3 0 (Config.standardBytes 1)))
    ∧ exec (.getMctpVersionSupport vdm) s = .next (s.after (d.reply mtControl 4 0 (leBytes 1 1 ++ leBytes 4 0xF1F3FF00)))
    ∧ exec (.getMessageTypeSupport vdm) s = .next (s.after (d.reply mtControl 5 0 ([3, 0, 1, 5] : List Byte))))
  ∧ (∀ (s : State) (vdm : Bool) (d : Dev), s.dev.Serves vdm mtPldm true d →
    exec (.getTid vdm) s = .next (s.after (d.reply mtPldm 2 0 (Config.standardBytes 2)))
    ∧ exec (.getPldmVersion vdm 2) s = .next (s.after (d.reply mtPldm 3 0 (leBytes 4 0xF1F2F000)))
    ∧ exec (.getPldmVersion vdm 5) s = .next (s.after (d.reply mtPldm 3 0 (leBytes 4 0xF1F1F000)))
    ∧ exec (.getPldmTypes vdm) s = .next (s.after (d.reply mtPldm 4 0 (leBytes 8 0x25)))
    ∧ (∀ typ, typ ∈ ([0, 2, 5] : List Nat) →
      exec (.getPldmCommands vdm typ) s = .next (s.after
        (d.reply mtPldm 5 0 (leBytes 32 ((pldmCommands typ).map fun c => 2 ^ c).sum)))))

/-- PLDM type 2 (21 R551–R553, R556): PDRs, sensor readings, effecters and events of a device that serves the request. -/
def Obligations.PlatformRequestsComplete : Prop :=
  (∀ (s : State) (vdm : Bool) (d : Dev), s.dev.Serves vdm mtPldm false d →
    exec (.getPdrRepositoryInfo vdm) s = .next (s.after (d.reply mtPldm 0x50 0 (leBytes 4 d.pdrCount ++ Config.standardBytes 4)))
    ∧ (∀ r, r < d.pdrCount → exec (.getPdr vdm r) s = .next (s.after (d.reply mtPldm 0x51 0 (Config.standardBytes (0x10000 + r)))))
    ∧ (∀ id v, exec (.setStateEffecterStates vdm id v) s =
      .next (s.after ((d.mgmtEffect id v).1.reply mtPldm 0x39 (d.mgmtEffect id v).2)))
    ∧ (∀ id, 0x100 ≤ id → id < 0x160 → d.unitPresent (id - 0x100) = true → exec (.getStateEffecterStates vdm id) s =
      .next (s.after (d.reply mtPldm 0x3A 0 (leBytes 1 (d.rd (Reg.MGT_UNIT.SAFETY (id - 0x100)) + 1)))))
    ∧ (∀ id, 0x300 ≤ id → id < 0x340 → d.domPresent (id - 0x300) = true → exec (.getStateEffecterStates vdm id) s =
      .next (s.after (d.reply mtPldm 0x3A 0 (leBytes 1 (d.rd (Reg.MGT_UNIT.PWR_TARGET (id - 0x300)) + 1)))))
    ∧ (∀ recvVdm mode, mode < 3 → ¬ (mode = 1 ∧ recvVdm = false) →
      let e : Dev := { d with mgt := { d.mgt with mode := mode, binding := b2n recvVdm, polled := false } }
      exec (.setEventReceiver vdm recvVdm mode) s = .next (s.after
        (((e.wr Reg.MGT_STATUS.RECEIVER (b2n (mode != 0))).wr Reg.MGT_STATUS.POLLING (b2n (mode == 2))).reply mtPldm 4 0)))
    ∧ (∀ x rest, d.mgt.mode = 2 → d.evt.mgmt = x :: rest →
      exec (.pollForPlatformEventMessage vdm false true) s = .next (s.after
        (({ d with mgt := { d.mgt with polled := true } } : Dev).emit (.mgmtEvent x)))))
  ∧ (∀ (s : State) (vdm : Bool) (id : Nat) (d : Dev), s.dev.Serves vdm mtPldm (s.dev.sensorEarly id) d → d.sensorFitted id = true →
    (0x30 ≤ id → id < 0x40 → exec (.getSensorReading vdm id) s = .next (s.after
      (d.reply mtPldm 0x11 0 (leBytes 1 0 ++ leBytes 2 (d.rd (Reg.CLK_CCLK.CUR_MHZ (id - 0x30)))))))
    ∧ (∀ x, ¬ (0x30 ≤ id ∧ id < 0x40) → kvGet id d.mgt.sensors = some x → exec (.getSensorReading vdm id) s = .next (s.after
      (d.reply mtPldm 0x11 0 (leBytes 1 (if x.unavailable then 2 else 0) ++ sint16 x.value)))))
  ∧ (∀ (s : State) (vdm : Bool) (id : Nat) (d : Dev),
    s.dev.Serves vdm mtPldm (id == 0x200 || decide (5 < s.dev.rd Reg.RST_STATUS.STAGE)) d →
    (id = 0x200 → exec (.getStateSensorReadings vdm id) s = .next (s.after (d.reply mtPldm 0x21 0 (leBytes 1 d.deviceState))))
    ∧ (0x100 ≤ id → id < 0x160 → d.unitPresent (id - 0x100) = true → exec (.getStateSensorReadings vdm id) s =
      .next (s.after (d.reply mtPldm 0x21 0 (leBytes 1 (d.unitState (id - 0x100) + 1))))))
  ∧ (∀ (s : State) (e : Event) (rest : List Event), s.dev.evt.mgmt = e :: rest → s.dev.mgt.mode = 1 → s.dev.reached true = true →
    exec .platformEventMessage s = .next (s.after (({ s.dev with evt := { s.dev.evt with mgmt := rest } } : Dev).emit (.mgmtEvent e))))

/-- PLDM type 5 (20 R536, R542, R543; 21 R557, R558): each request of a firmware update that fits its state, and each of its steps, has its
effect. -/
def Obligations.FirmwareUpdateComplete : Prop :=
  (∀ (s : State) (vdm : Bool) (d : Dev), s.dev.Serves vdm mtPldm true d →
    (∀ n, d.mgt.upd.active = false → d.updRefused = false → 32 ≤ n → exec (.requestUpdate vdm n) s = .next (s.after
      ((d.setUpd { update0 with active := true, state := 1, piece := min n 1024 }).reply mtPldm 0x10 0)))
    ∧ (∀ cls ident, d.updBad [1] = none → exec (.passComponentTable vdm cls ident) s = .next (s.after
      ((d.setUpd { d.mgt.upd with state := 2 }).reply mtPldm 0x13 0 (leBytes 1 (b2n !(ourComponent cls ident))))))
    ∧ (∀ n, d.updBad [2] = none → 0 < n → n ≤ slotBytes →
      let e := d.setUpd { d.mgt.upd with state := 3, offset := 0, total := n, image := [], verified := false }
      exec (.updateComponent vdm 0x000A 0x0880 n) s = .next (s.after (e.reply mtPldm 0x14 0 (leBytes 1 0)).askPiece))
    ∧ (∀ self, d.updBad [2] = none → d.mgt.upd.verified = true →
      (d.romUpdate = true → exec (.activateFirmware vdm self) s = .next (s.after
        (if d.fwActivateFault d.updSlot = none then
          (((d.selWrite [(0, 1, 0)]).setUpd update0).reply mtPldm 0x1A 0).resetRequest .cold 0 3 else d.reply mtPldm 0x1A 0x84)))
      ∧ (d.romUpdate = false →
        let e := (d.fwSelect d.updSlot false self).reply mtPldm 0x1A 0
        exec (.activateFirmware vdm self) s = .next (s.after
          (if d.fwActivateFault d.updSlot = none then
            if self then ((e.setUpd { update0 with active := true, state := 6 }).fwStopAll none).activateNow else (e.setUpd update0).fwShow
          else d.reply mtPldm 0x1A 0x84))))
    ∧ exec (.getStatus vdm) s = .next (s.after (d.reply mtPldm 0x1B 0 (leBytes 1 d.mgt.upd.state)))
    ∧ (d.updBad [3, 4, 5] = none → exec (.cancelUpdateComponent vdm) s = .next (s.after
      ((d.setUpd { update0 with active := true, state := 2, piece := d.mgt.upd.piece }).reply mtPldm 0x1C 0)))
    ∧ (d.updBad [1, 2, 3, 4, 5] = none →
      exec (.cancelUpdate vdm) s = .next (s.after ((d.setUpd update0).reply mtPldm 0x1D 0)))
    ∧ exec (.queryDeviceIdentifiers vdm) s = .next (s.after (d.reply mtPldm 1 0 (Config.standardBytes 5)))
    ∧ exec (.getFirmwareParameters vdm) s = .next (s.after
      (d.reply mtPldm 2 0 (leBytes 2 0x000A ++ leBytes 2 0x0880 ++ versionText (d.rd Reg.RST_FW.VERSION)))))
  ∧ (∀ s : State, s.dev.board.tripped = false →
    let u := s.dev.mgt.upd
    (∀ data : List Byte, u.state = 3 → s.dev.romUpdate = false → data.length = min u.piece (u.total - u.offset) → data ≠ [] →
      let e : Dev := { s.dev with mgt := { s.dev.mgt with upd := { u with image := u.image ++ data, offset := u.offset + data.length } } }
      exec (.requestFirmwareData data) s = .next (s.after (if u.offset + data.length = u.total then e else e.askPiece)))
    ∧ (u.state = 3 → u.offset = u.total →
      exec .transferComplete s = .next (s.after ((s.dev.setUpd { u with state := 4 }).reply mtPldm 0x16 0 (leBytes 1 0))))
    ∧ (u.state = 4 → exec .verifyComplete s = .next (s.after
      (if (s.dev.fwFault s.dev.updImage).isNone && fieldAt s.dev.updImage 0x10 4 + 0x1000 == u.total then
        (s.dev.setUpd { u with state := 5 }).reply mtPldm 0x17 0 (leBytes 1 0) else (s.dev.setUpd update0).reply mtPldm 0x17 0 (leBytes 1 1))))
    ∧ (u.state = 5 → s.dev.romUpdate = false →
      exec (.applyComplete true) s = .next (s.after (((((s.dev.fwMark s.dev.updSlot fwWriting).setSlot s.dev.updSlot u.image).fwMark
        s.dev.updSlot fwValid).setUpd { u with state := 2, image := [], verified := true }).reply mtPldm 0x18 0 (leBytes 1 0))))
    ∧ (u.active = true → u.state ≠ 6 → exec .updateInactivityTimeout s = .next (s.after (s.dev.setUpd update0))))

/-- SPDM (21 R559, R560): each request that the connection has come far enough for is answered. -/
def Obligations.AttestationRequestsComplete : Prop :=
  (∀ (s : State) (vdm : Bool) (d : Dev), s.dev.Serves vdm mtSpdm true d →
    exec (.getVersion vdm) s = .next (s.after
      (({ d with mgt := { d.mgt with spdm := 1 } } : Dev).reply mtSpdm 0x84 0 (leBytes 1 1 ++ leBytes 2 0x1200)))
    ∧ (1 ≤ d.mgt.spdm → exec (.getCapabilities vdm) s = .next (s.after (({ d with mgt := { d.mgt with spdm := 2 } } : Dev).reply mtSpdm 0xE1 0
      (leBytes 1 16 ++ leBytes 4 0x16 ++ leBytes 4 4096 ++ leBytes 4 4096))))
    ∧ (∀ asym hash meas, 2 ≤ d.mgt.spdm → bitAt asym 7 = true → bitAt hash 1 = true → bitAt meas 0 = true →
      exec (.negotiateAlgorithms vdm asym hash meas) s = .next (s.after (({ d with mgt := { d.mgt with spdm := 3 } } : Dev).reply mtSpdm 0xE3 0
        (leBytes 1 1 ++ leBytes 4 4 ++ leBytes 4 0x80 ++ leBytes 4 2))))
    ∧ (3 ≤ d.mgt.spdm → ∀ signed,
      let all := ([1, 2, 3, 4, 5] : List Nat).filter fun i => (d.measurement i).isSome
      ∀ index, (index = 0 ∨ index = 0xFF ∨ index ∈ all) →
      let b := leBytes 1 all.length ++ (if index = 0 then [] else d.measurements (if index = 0xFF then all else [index]))
      exec (.getMeasurements vdm index signed) s = .next (s.after (if signed then d.replySigned 0xE0 b else d.reply mtSpdm 0xE0 0 b))))
  ∧ (∀ (s : State) (vdm : Bool) (d : Dev), s.dev.Serves vdm mtSpdm false d → 3 ≤ d.mgt.spdm →
    exec (.getDigests vdm) s = .next (s.after (d.reply mtSpdm 0x81 0 (leBytes 1 1 ++ Config.sha384 identityChain)))
    ∧ (∀ offset len,
      let p := (identityChain.drop offset).take (min len 4000)
      exec (.getCertificate vdm 0 offset len) s = .next (s.after (if identityChain.length ≤ offset then d.reply mtSpdm 0x82 1
        else d.reply mtSpdm 0x82 0 (leBytes 2 p.length ++ leBytes 2 (identityChain.length - offset - p.length) ++ p))))
    ∧ exec (.challenge vdm 0) s = .next (s.after (d.replySigned 0x83 (Config.sha384 identityChain))))

/-- The monitor's commands (23 R592–R598, R601; 14 R366, R367; 07 R195): a command that Hehus takes, with arguments in range at an unlock
level that allows it, prints what the rules give and ends with its status line. -/
def Obligations.MonitorCommandsComplete : Prop :=
  (∀ s : State, s.dev.HehusTakes true 0 → let d := s.dev
    exec .hehusHelp s = .next (s.after (d.forEach helpLines fun l d => d.emit (.hehus l)).hOk)
    ∧ (let e := ((d.hPut "CTL_ASSEMBLY" (d.reg Reg.CTL_ASSEMBLY.CODE.reg)).hPut "REVISION" revisionId).hPut "SERIAL" d.board.serial
      let e := (e.hPut "RST_STATUS" (e.reg Reg.RST_STATUS.READY.reg)).hPut "VERSION" (e.rd Reg.RST_FW.VERSION)
      exec .hehusInfo s = .next (s.after
        ((e.hPut "LEVEL" (e.rd Reg.DBG_STATUS.LEVEL)).hPut "BAUD" (bauds.getD (e.rd Reg.DBG_STATUS.BAUD) 0)).hOk))
    ∧ (∀ level d' n, (level = 1 ∨ level = 2) → d.askNonce level = (d', .ok n) →
      exec (.hehusUnlock level) s = .next (s.after (d'.hPut "CHAL" n).hOk))
    ∧ (∀ sig : List Byte, sig.length = 96 → let r := d.respond sig
      exec (.hehusResp sig) s = .next (s.after (if r.2 then r.1.hOk else r.1.hErr 8)))
    ∧ exec .hehusLock s = .next (s.after (d.wr Reg.DBG_STATUS.LEVEL 0).hOk)
    ∧ (∀ rate, bauds.contains rate = true → exec (.hehusBaud rate) s = .next (s.after
        ({ d with dbg := { d.dbg with baudNext := some (bauds.idxOf rate) } } : Dev).hOk)))
  ∧ (∀ s : State, s.dev.HehusTakes true 1 → let d := s.dev
    (∀ a n, a % 4 = 0 → 1 ≤ n → n ≤ 256 → exec (.hehusRd a n) s = .next (s.after ((d.hReads a n).1.hEnd (d.hReads a n).2)))
    ∧ (∀ n, n < 4096 → d.dbgHeld soBase = false →
      (d.so.ue.contains n = true → exec (.hehusSo n false) s = .next (s.after (d.hPut "UE" n).hOk))
      ∧ (d.so.ue.contains n = false → let e := (d.hPut "VALUE" (d.soValue n)).hPut "CFG" (d.reg (Reg.SO_CFG.KIND n).reg)
        exec (.hehusSo n false) s = .next (s.after
          (e.forEach (e.so.waiters.filter fun w => w.so == n) fun w d => (d.hPut "WAIT" w.cond).hPut "CMP" w.cmp).hOk)))
    ∧ (∀ cls guest r, d.innArgs cls guest = true → d.coreClocks = true → d.room? cls guest = some r →
      exec (.hehusInn cls guest) s = .next (s.after (d.hPut "INN"
        (r.step + (if r.bad then 5 else roomCode r.state) * 2 ^ 32 + b2n r.pinned * 2 ^ 35 + b2n (inHall r.addr) * 2 ^ 36)).hOk))
    ∧ (∀ cls guest bad r d' bs e, d.room? cls guest = some r →
      e = d.sprout (bad.filter fun x => touchesWord r.addr (d.roomSize cls) (x.1 / 8 * 8)) → e.HehusTakes true 1 →
      e.innArgs cls guest = true → e.coreClocks = true → e.room? cls guest = some r → r.state ≠ .busy → r.state ≠ .poisoned → r.bad = false →
      e.innRead (e.classCtx cls) r.addr (e.roomSize cls) = (d', .ok bs) →
      exec (.hehusInnImage cls guest bad) s = .next (s.after (d'.hPut "IMAGE" (leNat bs)).hOk))
    ∧ exec .hehusPwr s = .next (s.after (d.forEach (List.range 64) fun p d => d.hPut "PWR_DOM" (d.reg (Reg.PWR_DOM.STATE p).reg)).hOk)
    ∧ (∀ u, u < 96 → exec (.hehusUnit u) s = .next (s.after (d.hPut "MGT_UNIT" (d.reg (Reg.MGT_UNIT.WORK u).reg)).hOk))
    ∧ exec .hehusEvents s = .next (s.after (((d.hPut "ERR_EVT_PENDING" (d.reg Reg.ERR_EVT_PENDING.COUNT.reg)).hPut "ERR_EVT_SEQ"
        (d.reg Reg.ERR_EVT_SEQ.SEQ.reg)).hPut "ERR_LAST_FATAL" (d.reg Reg.ERR_LAST_FATAL.CODE.reg)).hOk))
  ∧ (∀ s : State, s.dev.HehusTakes true 2 → let d := s.dev
    (∀ a v, a % 4 = 0 → v < 2 ^ 32 →
      exec (.hehusWr a v) s = .next (s.after ((d.dbgWrite a (leBytes 4 v)).1.hEnd (d.dbgWrite a (leBytes 4 v)).2)))
    ∧ (∀ a len v, a % 8 = 0 → len % 8 = 0 → 8 ≤ len → len ≤ 0x100000 → v < 2 ^ 64 →
      exec (.hehusFill a len v) s = .next (s.after ((d.hFills a v (len / 8)).1.hEnd (d.hFills a v (len / 8)).2)))
    ∧ (∀ n v, n < 4096 → v < 2 ^ 64 → d.dbgHeld soBase = false → exec (.hehusSoSet n v) s = .next (s.after
        (({ d with so := { d.so with ue := d.so.ue.filter fun x => x != n } } : Dev).soHost n true v).hOk))
    ∧ (∀ n v, n < 4096 → v < 2 ^ 32 → d.dbgHeld soBase = false → d.so.ue.contains n = false →
      exec (.hehusSoAdd n v) s = .next (s.after (d.soHost n false v).hOk))
    ∧ (∀ dom v, dom < 64 → d.live = true →
      exec (.hehusPwrSet dom v) s = .next (s.after ((d.mgmtDomain dom v).1.hEnd (mgmtErr (d.mgmtDomain dom v).2))))
    ∧ (∀ u off, u < 96 → d.live = true → exec (.hehusUnitSet u off) s = .next (s.after
        ((d.mgmtUnit u (1 + b2n off)).1.hEnd (mgmtErr (d.mgmtUnit u (1 + b2n off)).2))))
    ∧ (d.rd Reg.DBG_STATUS.OWNER ≠ 1 →
      (∀ mask wrap, mask < 256 → d.domOn domDebug = true →
        exec (.hehusTraceStart mask wrap) s = .next (s.after (d.traceStart 2 mask 0xFF wrap).hOk))
      ∧ exec .hehusTraceStop s = .next (s.after d.traceStop.hOk)
      ∧ exec .hehusTraceClear s = .next (s.after d.traceClear.hOk))
    ∧ (∀ v, (resetOf v).isSome = true → d.board.tripped = false → d.board.bootFailed = false →
      exec (.hehusReset v) s = .next (s.after (d.hOk.mgmtReset v).1)))

/-- The monitor's lines, dumps and timers (23 R592–R599, R601): a line runs or is buffered, a dump prints line by line, the interrupt and
the timeout end it, the rate, the nonce and the refusal change when their time comes. -/
def Obligations.MonitorLinesComplete : Prop :=
  (∀ s : State, s.dev.dbg.pinsTaken = false → let d := s.dev
    (∀ line, d.dbg.dump = none → exec (.hehusLine line) s = .next (s.after
      (({ d with dbg := { d.dbg with buf := [] } } : Dev).runLine (d.dbg.buf ++ line))))
    ∧ (∀ line, d.dbg.dump ≠ none → exec (.hehusLine line) s = .next (s.after
      { d with dbg := { d.dbg with buf := (d.dbg.buf ++ line ++ [0x0D]).take 256 } }))
    ∧ (d.dbg.dump ≠ none → exec .hehusInterrupt s = .next (s.after (d.dumpOver 0)))
    ∧ exec .hehusAccessTimeout s = .next (s.after (d.dumpOver 7))
    ∧ (∀ a len, d.dbg.dump ≠ none → exec (.hehusDump a len) s = .next (s.after (d.dumpLine.runBuffer 257)))
    ∧ (∀ n, d.dbg.dump ≠ none → exec (.hehusTraceDump n) s = .next (s.after (d.dumpLine.runBuffer 257)))
    ∧ (∀ a len, d.HehusTakes true 1 → 1 ≤ len → len ≤ 0x100000 → exec (.hehusDump a len) s = .next (s.after
      ((({ d with dbg := { d.dbg with dump := some ⟨false, a, len, []⟩ } } : Dev).dumpLine).runBuffer 257)))
    ∧ (∀ n, d.HehusTakes true 1 → n ≤ traceSize → d.domOn domDebug = true → exec (.hehusTraceDump n) s = .next (s.after
      ((({ d with dbg := { d.dbg with dump := some ⟨true, 0, 0, if n = 0 then d.dbg.trace else d.traceNewest n⟩ } } :
        Dev).dumpLine).runBuffer 257))))
  ∧ (∀ (s : State) (i : Nat), s.dev.dbg.baudNext = some i → exec .baudSwitch s = .next (s.after
    (({ s.dev with dbg := { s.dev.dbg with baudNext := none } } : Dev).wr Reg.DBG_STATUS.BAUD i)))
  ∧ (∀ s : State, exec .nonceExpiry s = .next (s.after { s.dev with dbg := { s.dev.dbg with nonce := none } }))
  ∧ (∀ s : State, s.dev.on Reg.DBG_UNLOCK.BACKOFF = true → exec .unlockBackoffEnd s = .next (s.after
    (({ s.dev with dbg := { s.dev.dbg with failRun := 0 } } : Dev).wr Reg.DBG_UNLOCK.BACKOFF 0)))

/-- The TAP (23 R595, R598, R603, R604): every instruction is selected and shifts out its register; DBG_AUTH takes its step, DBG_MEM its
access. -/
def Obligations.TapInstructionsComplete : Prop :=
  ∀ s : State, let d := s.dev
  exec .bypass s = .next (s.after ((d.tapSelect 1).emit (.tdo 0)))
  ∧ exec .idcode s = .next (s.after ((d.tapSelect 0).emit (.tdo 0x10880567)))
  ∧ (∀ x ∈ ([(.samplePreload, 2), (.extest, 3), (.extestPulse, 6), (.extestTrain, 7)] : List (Instr × Nat)),
    exec x.1 s = .next (s.after (d.tapSelect x.2).tdoPins))
  ∧ exec .tapClamp s = .next (s.after ((d.tapSelect 4).emit (.tdo 0)))
  ∧ exec .highz s = .next (s.after ((d.tapSelect 5).emit (.tdo 0)))
  ∧ exec .tapRelease s = .next (s.after (d.tapSelect 0))
  ∧ (∀ (e : Dev) (out : Dev → Nat → Nat → Dev), e = d.tapSelect 8 →
    (out = fun d err nonce => d.emit (.tdo (d.rd Reg.DBG_STATUS.LEVEL + err * 4 + nonce * 64))) →
    (∀ level sig, exec (.dbgAuth 0 level sig) s = .next (s.after (out e (if e.board.debugDisable then 3 else 0) 0)))
    ∧ (∀ level sig e' n, (level = 1 ∨ level = 2) → e.askNonce level = (e', .ok n) →
      exec (.dbgAuth 1 level sig) s = .next (s.after (out e' 0 n)))
    ∧ (∀ level sig, e.board.debugDisable = false → sig.length = 96 →
      exec (.dbgAuth 2 level sig) s = .next (s.after (out (e.respond sig).1 (if (e.respond sig).2 then 0 else 8) 0))))
  ∧ (∀ (e : Dev) (a v : Nat), e = d.tapSelect 9 → a % 4 = 0 → v < 2 ^ 32 →
    (1 ≤ e.rd Reg.DBG_STATUS.LEVEL → let g := e.dbgRead a
      exec (.dbgMem false a v) s = .next (s.after (g.dev.emit (.tdo (match g.val with
        | some v => v * 16
        | none => if g.err = 0 then 15 else g.err)))))
    ∧ (2 ≤ e.rd Reg.DBG_STATUS.LEVEL →
      exec (.dbgMem true a v) s = .next (s.after ((e.dbgWrite a (leBytes 4 v)).1.emit (.tdo (e.dbgWrite a (leBytes 4 v)).2)))))
end

