-- ==== Sys2Proof/Laws/Map.lean ====
section
/-!
SUPPORT. Laws of the sparse maps and of the byte memory: what a read gives after a write or a deletion, and that the canonical form is
kept.
-/
namespace Sys2Proof.Machine

@[simp] theorem kvGet_kvPut_self {α : Type} (k : Nat) (v : α) (m : KV α) : kvGet k (kvPut k v m) = some v := by
  induction m with
  | nil => simp [kvPut, kvGet]
  | cons e m ih =>
    obtain ⟨k', v'⟩ := e
    simp only [kvPut]
    split
    · simp [kvGet]
    · split
      · simp [kvGet]
      · simp_all [kvGet]

theorem kvGet_kvPut_ne {α : Type} {k j : Nat} (h : j ≠ k) (v : α) (m : KV α) : kvGet j (kvPut k v m) = kvGet j m := by
  induction m with
  | nil => simp [kvPut, kvGet, h]
  | cons e m ih =>
    obtain ⟨k', v'⟩ := e
    simp only [kvPut]
    split
    · simp [kvGet, h]
    · split
      · rename_i _ he
        subst he
        simp [kvGet, h]
      · simp [kvGet, ih]

@[simp] theorem kvGet_kvDel_self {α : Type} (k : Nat) (m : KV α) : kvGet k (kvDel k m) = none := by
  induction m with
  | nil => rfl
  | cons e m ih =>
    obtain ⟨k', v'⟩ := e
    simp only [kvDel]
    split
    · exact ih
    · simp_all [kvGet]

theorem kvGet_kvDel_ne {α : Type} {k j : Nat} (h : j ≠ k) (m : KV α) : kvGet j (kvDel k m) = kvGet j m := by
  induction m with
  | nil => rfl
  | cons e m ih =>
    obtain ⟨k', v'⟩ := e
    simp only [kvDel]
    split
    · rename_i he
      subst he
      simp [kvGet, h, ih]
    · simp [kvGet, ih]

theorem mem_kvDel {α : Type} {k : Nat} {e : Nat × α} {m : KV α} (h : e ∈ kvDel k m) : e ∈ m := by
  induction m with
  | nil => simp [kvDel] at h
  | cons x m ih =>
    obtain ⟨k', v'⟩ := x
    simp only [kvDel] at h
    split at h
    · exact List.mem_cons_of_mem _ (ih h)
    · rcases List.mem_cons.1 h with h | h
      · simp [h]
      · exact List.mem_cons_of_mem _ (ih h)

theorem mem_kvPut {α : Type} {k : Nat} {v : α} {e : Nat × α} {m : KV α} (h : e ∈ kvPut k v m) : e = (k, v) ∨ e ∈ m := by
  induction m with
  | nil => simpa [kvPut] using h
  | cons x m ih =>
    obtain ⟨k', v'⟩ := x
    simp only [kvPut] at h
    split at h
    · simpa using h
    · split at h
      · rcases List.mem_cons.1 h with h | h
        · exact .inl h
        · exact .inr (List.mem_cons_of_mem _ h)
      · rcases List.mem_cons.1 h with h | h
        · exact .inr (by simp [h])
        · rcases ih h with h | h
          · exact .inl h
          · exact .inr (List.mem_cons_of_mem _ h)

theorem kvWf_kvDel {α : Type} (k : Nat) {m : KV α} (h : kvWf m) : kvWf (kvDel k m) := by
  induction m with
  | nil => exact h
  | cons x m ih =>
    obtain ⟨k', v'⟩ := x
    have hx := List.pairwise_cons.1 h
    simp only [kvDel]
    split
    · exact ih hx.2
    · exact List.pairwise_cons.2 ⟨fun e he => hx.1 e (mem_kvDel he), ih hx.2⟩

theorem kvWf_kvPut {α : Type} (k : Nat) (v : α) {m : KV α} (h : kvWf m) : kvWf (kvPut k v m) := by
  induction m with
  | nil => simp [kvWf, kvPut]
  | cons x m ih =>
    obtain ⟨k', v'⟩ := x
    have hx := List.pairwise_cons.1 h
    simp only [kvPut]
    split
    · rename_i hk
      refine List.pairwise_cons.2 ⟨fun e he => ?_, h⟩
      rcases List.mem_cons.1 he with rfl | he
      · exact hk
      · exact Nat.lt_trans hk (hx.1 e he)
    · split
      · rename_i hk
        subst hk
        exact List.pairwise_cons.2 ⟨hx.1, hx.2⟩
      · rename_i h1 h2
        refine List.pairwise_cons.2 ⟨fun e he => ?_, ih hx.2⟩
        rcases mem_kvPut he with rfl | he
        · simp only; omega
        · exact hx.1 e he

/-! ### Memory -/

@[simp] theorem memGet_memPut_self (m : Mem) (a : Nat) (b : Byte) : memGet (memPut m a b) a = b := by
  unfold memPut memGet
  split
  · rename_i h; simp [h]
  · simp

theorem memGet_memPut_ne {a x : Nat} (h : x ≠ a) (m : Mem) (b : Byte) : memGet (memPut m a b) x = memGet m x := by
  unfold memPut memGet
  split
  · rw [kvGet_kvDel_ne h]
  · rw [kvGet_kvPut_ne h]

theorem memGet_memPutList_out {m : Mem} {a x : Nat} {bs : List Byte} (h : x < a ∨ a + bs.length ≤ x) :
    memGet (memPutList m a bs) x = memGet m x := by
  induction bs generalizing m a with
  | nil => rfl
  | cons b bs ih =>
    simp only [List.length_cons] at h
    rw [memPutList, ih (by omega), memGet_memPut_ne (by omega)]

theorem memGetList_congr {m m' : Mem} {a n : Nat} (h : ∀ x, a ≤ x → x < a + n → memGet m x = memGet m' x) :
    memGetList m a n = memGetList m' a n := by
  induction n generalizing a with
  | zero => rfl
  | succ n ih =>
    rw [memGetList, memGetList, h a (by omega) (by omega), ih fun x h1 h2 => h x (by omega) (by omega)]

/-- What a list write stores, a list read of the same place gives. -/
theorem memGetList_memPutList (m : Mem) (a : Nat) (bs : List Byte) : memGetList (memPutList m a bs) a bs.length = bs := by
  induction bs generalizing m a with
  | nil => rfl
  | cons b bs ih =>
    rw [List.length_cons, memGetList, memPutList, ih, memGet_memPutList_out (by omega), memGet_memPut_self]

theorem memGetList_memPutList_out {m : Mem} {a x n : Nat} {bs : List Byte} (h : x + n ≤ a ∨ a + bs.length ≤ x) :
    memGetList (memPutList m a bs) x n = memGetList m x n :=
  memGetList_congr fun _ _ _ => memGet_memPutList_out (by omega)

theorem wf_memPut {m : Mem} (a : Nat) (b : Byte) (h : Memory.wf m) : Memory.wf (memPut m a b) := by
  unfold memPut
  split
  · exact ⟨kvWf_kvDel a h.1, fun c hc => h.2 c (mem_kvDel hc)⟩
  · rename_i hb
    refine ⟨kvWf_kvPut a b h.1, fun c hc => ?_⟩
    rcases mem_kvPut hc with rfl | hc
    · exact hb
    · exact h.2 c hc

theorem wf_memPutList {m : Mem} (a : Nat) (bs : List Byte) (h : Memory.wf m) : Memory.wf (memPutList m a bs) := by
  induction bs generalizing m a with
  | nil => exact h
  | cons b bs ih => exact ih (a + 1) (wf_memPut a b h)

theorem wf_memClear {m : Mem} (lo len : Nat) (h : Memory.wf m) : Memory.wf (memClear m lo len) :=
  ⟨h.1.filter _, fun c hc => h.2 c (List.mem_filter.1 hc).1⟩

/-! ### Bit fields -/

@[simp] theorem bits_setBits_self (x lo len v : Nat) : bits (setBits x lo len v) lo len = v % 2 ^ len := by
  unfold setBits bits
  have hp : 0 < 2 ^ lo := by positivity
  have hq : 0 < 2 ^ len := by positivity
  generalize hP : 2 ^ lo = P at *
  generalize hQ : 2 ^ len = Q at *
  have hle : x / P % Q * P ≤ x := (Nat.mul_le_mul_right P (Nat.mod_le _ _)).trans (Nat.div_mul_le_self x P)
  have hsub : x - x / P % Q * P = x % P + (x / P - x / P % Q) * P := by
    have h1 := Nat.mod_add_div x P
    have h2 : x / P % Q ≤ x / P := Nat.mod_le _ _
    rw [Nat.sub_mul]
    have h3 : x / P % Q * P ≤ x / P * P := Nat.mul_le_mul_right P h2
    rw [Nat.mul_comm (x / P) P] at *
    omega
  rw [hsub, Nat.add_assoc, ← Nat.add_mul, Nat.add_mul_div_right _ _ hp, Nat.div_eq_of_lt (Nat.mod_lt _ hp), Nat.zero_add]
  have h4 : x / P - x / P % Q = Q * (x / P / Q) := by
    have := Nat.mod_add_div (x / P) Q; omega
  rw [h4, Nat.mul_add_mod, Nat.mod_mod]

/-- The three parts of a number after a field write. -/
theorem setBits_eq (x lo len v : Nat) : setBits x lo len v = x / 2 ^ (lo + len) * 2 ^ (lo + len) + v % 2 ^ len * 2 ^ lo + x % 2 ^ lo := by
  unfold setBits bits
  have h1 := Nat.div_add_mod x (2 ^ lo)
  have h2 := Nat.div_add_mod (x / 2 ^ lo) (2 ^ len)
  rw [Nat.div_div_eq_div_mul, ← pow_add] at h2
  have h3 : x = 2 ^ lo * (2 ^ len * (x / 2 ^ (lo + len)) + x / 2 ^ lo % 2 ^ len) + x % 2 ^ lo := by rw [h2]; exact h1.symm
  have h4 : x / 2 ^ lo % 2 ^ len * 2 ^ lo + x / 2 ^ (lo + len) * 2 ^ (lo + len) + x % 2 ^ lo = x := by
    rw [pow_add] at *
    nlinarith [h3]
  omega

/-- Each bit after a field write. -/
theorem testBit_setBits (x lo len v i : Nat) :
    (setBits x lo len v).testBit i = if lo ≤ i ∧ i < lo + len then v.testBit (i - lo) else x.testBit i := by
  have hv : v % 2 ^ len * 2 ^ lo + x % 2 ^ lo < 2 ^ (lo + len) := by
    have := Nat.mod_lt v (Nat.two_pow_pos len)
    have h2 := Nat.mod_lt x (Nat.two_pow_pos lo)
    calc v % 2 ^ len * 2 ^ lo + x % 2 ^ lo < v % 2 ^ len * 2 ^ lo + 2 ^ lo := by omega
      _ = (v % 2 ^ len + 1) * 2 ^ lo := by ring
      _ ≤ 2 ^ len * 2 ^ lo := Nat.mul_le_mul_right _ this
      _ = 2 ^ (lo + len) := by rw [pow_add, Nat.mul_comm]
  rw [setBits_eq, Nat.add_assoc, Nat.mul_comm (x / _), Nat.testBit_two_pow_mul_add _ hv]
  split
  · rename_i hi
    rw [Nat.mul_comm (v % _), Nat.testBit_two_pow_mul_add _ (Nat.mod_lt _ (Nat.two_pow_pos lo))]
    split
    · rw [if_neg (by omega), Nat.testBit_mod_two_pow]; simp [*]
    · rw [if_pos (by omega), Nat.testBit_mod_two_pow]; simp; omega
  · rename_i hi
    rw [if_neg (by omega), Nat.testBit_div_two_pow]; congr 1; omega

/-- A field write leaves a field beside it alone. -/
theorem bits_setBits_disjoint {lo len lo' len' : Nat} (h : lo' + len' ≤ lo ∨ lo + len ≤ lo') (x v : Nat) :
    bits (setBits x lo len v) lo' len' = bits x lo' len' := by
  unfold bits
  apply Nat.eq_of_testBit_eq
  intro i
  simp only [Nat.testBit_mod_two_pow, Nat.testBit_div_two_pow, testBit_setBits]
  by_cases hi : i < len'
  · rw [if_neg (by omega)]
  · simp [hi]

/-- What a little-endian list of a number's bytes reads as. -/
theorem leNat_leBytes (n x : Nat) : leNat (leBytes n x) = x % 256 ^ n := by
  induction n generalizing x with
  | zero => simp [leBytes, leNat, Nat.mod_one]
  | succ n ih =>
    have h : 256 ^ (n + 1) = 256 * 256 ^ n := by rw [pow_succ, Nat.mul_comm]
    rw [leBytes, leNat, ih, BitVec.toNat_ofNat, h, Nat.mod_mul]

@[simp] theorem length_leBytes (n x : Nat) : (leBytes n x).length = n := by
  induction n generalizing x with
  | zero => rfl
  | succ n ih => simp [leBytes, ih]

end Sys2Proof.Machine
end

