-- ==== Sys2Proof/Laws/State.lean ====
section
/-!
SUPPORT. Laws of the state: what each plain update leaves alone, field by field; registers and their fields after a write; what holds
after `Dev.settle`.
-/
namespace Sys2Proof.Machine

/-! ### setReg -/

@[simp] theorem Dev.setReg_mem (d : Dev) (off v : Nat) : (d.setReg off v).mem = d.mem := rfl
@[simp] theorem Dev.setReg_hostMem (d : Dev) (off v : Nat) : (d.setReg off v).hostMem = d.hostMem := rfl
@[simp] theorem Dev.setReg_ue (d : Dev) (off v : Nat) : (d.setReg off v).ue = d.ue := rfl
@[simp] theorem Dev.setReg_ce (d : Dev) (off v : Nat) : (d.setReg off v).ce = d.ce := rfl
@[simp] theorem Dev.setReg_undef (d : Dev) (off v : Nat) : (d.setReg off v).undef = d.undef := rfl
@[simp] theorem Dev.setReg_out (d : Dev) (off v : Nat) : (d.setReg off v).out = d.out := rfl
@[simp] theorem Dev.setReg_free (d : Dev) (off v : Nat) : (d.setReg off v).free = d.free := rfl
@[simp] theorem Dev.setReg_timeNs (d : Dev) (off v : Nat) : (d.setReg off v).timeNs = d.timeNs := rfl
@[simp] theorem Dev.setReg_board (d : Dev) (off v : Nat) : (d.setReg off v).board = d.board := rfl
@[simp] theorem Dev.setReg_boot (d : Dev) (off v : Nat) : (d.setReg off v).boot = d.boot := rfl
@[simp] theorem Dev.setReg_pci (d : Dev) (off v : Nat) : (d.setReg off v).pci = d.pci := rfl
@[simp] theorem Dev.setReg_evt (d : Dev) (off v : Nat) : (d.setReg off v).evt = d.evt := rfl
@[simp] theorem Dev.setReg_cp0 (d : Dev) (off v : Nat) : (d.setReg off v).cp0 = d.cp0 := rfl
@[simp] theorem Dev.setReg_seq (d : Dev) (off v : Nat) : (d.setReg off v).seq = d.seq := rfl
@[simp] theorem Dev.setReg_so (d : Dev) (off v : Nat) : (d.setReg off v).so = d.so := rfl
@[simp] theorem Dev.setReg_porters (d : Dev) (off v : Nat) : (d.setReg off v).porters = d.porters := rfl
@[simp] theorem Dev.setReg_arr (d : Dev) (off v : Nat) : (d.setReg off v).arr = d.arr := rfl
@[simp] theorem Dev.setReg_ve (d : Dev) (off v : Nat) : (d.setReg off v).ve = d.ve := rfl
@[simp] theorem Dev.setReg_veStore (d : Dev) (off v : Nat) : (d.setReg off v).veStore = d.veStore := rfl
@[simp] theorem Dev.setReg_sfu (d : Dev) (off v : Nat) : (d.setReg off v).sfu = d.sfu := rfl
@[simp] theorem Dev.setReg_carry (d : Dev) (off v : Nat) : (d.setReg off v).carry = d.carry := rfl
@[simp] theorem Dev.setReg_scans (d : Dev) (off v : Nat) : (d.setReg off v).scans = d.scans := rfl
@[simp] theorem Dev.setReg_slv (d : Dev) (off v : Nat) : (d.setReg off v).slv = d.slv := rfl
@[simp] theorem Dev.setReg_inn (d : Dev) (off v : Nat) : (d.setReg off v).inn = d.inn := rfl
@[simp] theorem Dev.setReg_trn (d : Dev) (off v : Nat) : (d.setReg off v).trn = d.trn := rfl
@[simp] theorem Dev.setReg_led (d : Dev) (off v : Nat) : (d.setReg off v).led = d.led := rfl
@[simp] theorem Dev.setReg_way (d : Dev) (off v : Nat) : (d.setReg off v).way = d.way := rfl
@[simp] theorem Dev.setReg_srv (d : Dev) (off v : Nat) : (d.setReg off v).srv = d.srv := rfl
@[simp] theorem Dev.setReg_fab (d : Dev) (off v : Nat) : (d.setReg off v).fab = d.fab := rfl
@[simp] theorem Dev.setReg_pwr (d : Dev) (off v : Nat) : (d.setReg off v).pwr = d.pwr := rfl
@[simp] theorem Dev.setReg_mgt (d : Dev) (off v : Nat) : (d.setReg off v).mgt = d.mgt := rfl
@[simp] theorem Dev.setReg_dbg (d : Dev) (off v : Nat) : (d.setReg off v).dbg = d.dbg := rfl

/-! ### wr -/

@[simp] theorem Dev.wr_mem (d : Dev) (f : Fld) (v : Nat) : (d.wr f v).mem = d.mem := rfl
@[simp] theorem Dev.wr_hostMem (d : Dev) (f : Fld) (v : Nat) : (d.wr f v).hostMem = d.hostMem := rfl
@[simp] theorem Dev.wr_ue (d : Dev) (f : Fld) (v : Nat) : (d.wr f v).ue = d.ue := rfl
@[simp] theorem Dev.wr_ce (d : Dev) (f : Fld) (v : Nat) : (d.wr f v).ce = d.ce := rfl
@[simp] theorem Dev.wr_undef (d : Dev) (f : Fld) (v : Nat) : (d.wr f v).undef = d.undef := rfl
@[simp] theorem Dev.wr_out (d : Dev) (f : Fld) (v : Nat) : (d.wr f v).out = d.out := rfl
@[simp] theorem Dev.wr_free (d : Dev) (f : Fld) (v : Nat) : (d.wr f v).free = d.free := rfl
@[simp] theorem Dev.wr_timeNs (d : Dev) (f : Fld) (v : Nat) : (d.wr f v).timeNs = d.timeNs := rfl
@[simp] theorem Dev.wr_board (d : Dev) (f : Fld) (v : Nat) : (d.wr f v).board = d.board := rfl
@[simp] theorem Dev.wr_boot (d : Dev) (f : Fld) (v : Nat) : (d.wr f v).boot = d.boot := rfl
@[simp] theorem Dev.wr_pci (d : Dev) (f : Fld) (v : Nat) : (d.wr f v).pci = d.pci := rfl
@[simp] theorem Dev.wr_evt (d : Dev) (f : Fld) (v : Nat) : (d.wr f v).evt = d.evt := rfl
@[simp] theorem Dev.wr_cp0 (d : Dev) (f : Fld) (v : Nat) : (d.wr f v).cp0 = d.cp0 := rfl
@[simp] theorem Dev.wr_seq (d : Dev) (f : Fld) (v : Nat) : (d.wr f v).seq = d.seq := rfl
@[simp] theorem Dev.wr_so (d : Dev) (f : Fld) (v : Nat) : (d.wr f v).so = d.so := rfl
@[simp] theorem Dev.wr_porters (d : Dev) (f : Fld) (v : Nat) : (d.wr f v).porters = d.porters := rfl
@[simp] theorem Dev.wr_arr (d : Dev) (f : Fld) (v : Nat) : (d.wr f v).arr = d.arr := rfl
@[simp] theorem Dev.wr_ve (d : Dev) (f : Fld) (v : Nat) : (d.wr f v).ve = d.ve := rfl
@[simp] theorem Dev.wr_veStore (d : Dev) (f : Fld) (v : Nat) : (d.wr f v).veStore = d.veStore := rfl
@[simp] theorem Dev.wr_sfu (d : Dev) (f : Fld) (v : Nat) : (d.wr f v).sfu = d.sfu := rfl
@[simp] theorem Dev.wr_carry (d : Dev) (f : Fld) (v : Nat) : (d.wr f v).carry = d.carry := rfl
@[simp] theorem Dev.wr_scans (d : Dev) (f : Fld) (v : Nat) : (d.wr f v).scans = d.scans := rfl
@[simp] theorem Dev.wr_slv (d : Dev) (f : Fld) (v : Nat) : (d.wr f v).slv = d.slv := rfl
@[simp] theorem Dev.wr_inn (d : Dev) (f : Fld) (v : Nat) : (d.wr f v).inn = d.inn := rfl
@[simp] theorem Dev.wr_trn (d : Dev) (f : Fld) (v : Nat) : (d.wr f v).trn = d.trn := rfl
@[simp] theorem Dev.wr_led (d : Dev) (f : Fld) (v : Nat) : (d.wr f v).led = d.led := rfl
@[simp] theorem Dev.wr_way (d : Dev) (f : Fld) (v : Nat) : (d.wr f v).way = d.way := rfl
@[simp] theorem Dev.wr_srv (d : Dev) (f : Fld) (v : Nat) : (d.wr f v).srv = d.srv := rfl
@[simp] theorem Dev.wr_fab (d : Dev) (f : Fld) (v : Nat) : (d.wr f v).fab = d.fab := rfl
@[simp] theorem Dev.wr_pwr (d : Dev) (f : Fld) (v : Nat) : (d.wr f v).pwr = d.pwr := rfl
@[simp] theorem Dev.wr_mgt (d : Dev) (f : Fld) (v : Nat) : (d.wr f v).mgt = d.mgt := rfl
@[simp] theorem Dev.wr_dbg (d : Dev) (f : Fld) (v : Nat) : (d.wr f v).dbg = d.dbg := rfl

/-! ### freeNext -/

@[simp] theorem Dev.freeNext_regs (d : Dev) : (d.freeNext).regs = d.regs := rfl
@[simp] theorem Dev.freeNext_mem (d : Dev) : (d.freeNext).mem = d.mem := rfl
@[simp] theorem Dev.freeNext_hostMem (d : Dev) : (d.freeNext).hostMem = d.hostMem := rfl
@[simp] theorem Dev.freeNext_ue (d : Dev) : (d.freeNext).ue = d.ue := rfl
@[simp] theorem Dev.freeNext_ce (d : Dev) : (d.freeNext).ce = d.ce := rfl
@[simp] theorem Dev.freeNext_undef (d : Dev) : (d.freeNext).undef = d.undef := rfl
@[simp] theorem Dev.freeNext_out (d : Dev) : (d.freeNext).out = d.out := rfl
@[simp] theorem Dev.freeNext_timeNs (d : Dev) : (d.freeNext).timeNs = d.timeNs := rfl
@[simp] theorem Dev.freeNext_board (d : Dev) : (d.freeNext).board = d.board := rfl
@[simp] theorem Dev.freeNext_boot (d : Dev) : (d.freeNext).boot = d.boot := rfl
@[simp] theorem Dev.freeNext_pci (d : Dev) : (d.freeNext).pci = d.pci := rfl
@[simp] theorem Dev.freeNext_evt (d : Dev) : (d.freeNext).evt = d.evt := rfl
@[simp] theorem Dev.freeNext_cp0 (d : Dev) : (d.freeNext).cp0 = d.cp0 := rfl
@[simp] theorem Dev.freeNext_seq (d : Dev) : (d.freeNext).seq = d.seq := rfl
@[simp] theorem Dev.freeNext_so (d : Dev) : (d.freeNext).so = d.so := rfl
@[simp] theorem Dev.freeNext_porters (d : Dev) : (d.freeNext).porters = d.porters := rfl
@[simp] theorem Dev.freeNext_arr (d : Dev) : (d.freeNext).arr = d.arr := rfl
@[simp] theorem Dev.freeNext_ve (d : Dev) : (d.freeNext).ve = d.ve := rfl
@[simp] theorem Dev.freeNext_veStore (d : Dev) : (d.freeNext).veStore = d.veStore := rfl
@[simp] theorem Dev.freeNext_sfu (d : Dev) : (d.freeNext).sfu = d.sfu := rfl
@[simp] theorem Dev.freeNext_carry (d : Dev) : (d.freeNext).carry = d.carry := rfl
@[simp] theorem Dev.freeNext_scans (d : Dev) : (d.freeNext).scans = d.scans := rfl
@[simp] theorem Dev.freeNext_slv (d : Dev) : (d.freeNext).slv = d.slv := rfl
@[simp] theorem Dev.freeNext_inn (d : Dev) : (d.freeNext).inn = d.inn := rfl
@[simp] theorem Dev.freeNext_trn (d : Dev) : (d.freeNext).trn = d.trn := rfl
@[simp] theorem Dev.freeNext_led (d : Dev) : (d.freeNext).led = d.led := rfl
@[simp] theorem Dev.freeNext_way (d : Dev) : (d.freeNext).way = d.way := rfl
@[simp] theorem Dev.freeNext_srv (d : Dev) : (d.freeNext).srv = d.srv := rfl
@[simp] theorem Dev.freeNext_fab (d : Dev) : (d.freeNext).fab = d.fab := rfl
@[simp] theorem Dev.freeNext_pwr (d : Dev) : (d.freeNext).pwr = d.pwr := rfl
@[simp] theorem Dev.freeNext_mgt (d : Dev) : (d.freeNext).mgt = d.mgt := rfl
@[simp] theorem Dev.freeNext_dbg (d : Dev) : (d.freeNext).dbg = d.dbg := rfl

/-! ### poke -/

@[simp] theorem Dev.poke_regs (d : Dev) (a : Nat) (bs : List Byte) : (d.poke a bs).regs = d.regs := rfl
@[simp] theorem Dev.poke_hostMem (d : Dev) (a : Nat) (bs : List Byte) : (d.poke a bs).hostMem = d.hostMem := rfl
@[simp] theorem Dev.poke_out (d : Dev) (a : Nat) (bs : List Byte) : (d.poke a bs).out = d.out := rfl
@[simp] theorem Dev.poke_free (d : Dev) (a : Nat) (bs : List Byte) : (d.poke a bs).free = d.free := rfl
@[simp] theorem Dev.poke_timeNs (d : Dev) (a : Nat) (bs : List Byte) : (d.poke a bs).timeNs = d.timeNs := rfl
@[simp] theorem Dev.poke_board (d : Dev) (a : Nat) (bs : List Byte) : (d.poke a bs).board = d.board := rfl
@[simp] theorem Dev.poke_boot (d : Dev) (a : Nat) (bs : List Byte) : (d.poke a bs).boot = d.boot := rfl
@[simp] theorem Dev.poke_pci (d : Dev) (a : Nat) (bs : List Byte) : (d.poke a bs).pci = d.pci := rfl
@[simp] theorem Dev.poke_evt (d : Dev) (a : Nat) (bs : List Byte) : (d.poke a bs).evt = d.evt := rfl
@[simp] theorem Dev.poke_cp0 (d : Dev) (a : Nat) (bs : List Byte) : (d.poke a bs).cp0 = d.cp0 := rfl
@[simp] theorem Dev.poke_seq (d : Dev) (a : Nat) (bs : List Byte) : (d.poke a bs).seq = d.seq := rfl
@[simp] theorem Dev.poke_so (d : Dev) (a : Nat) (bs : List Byte) : (d.poke a bs).so = d.so := rfl
@[simp] theorem Dev.poke_porters (d : Dev) (a : Nat) (bs : List Byte) : (d.poke a bs).porters = d.porters := rfl
@[simp] theorem Dev.poke_arr (d : Dev) (a : Nat) (bs : List Byte) : (d.poke a bs).arr = d.arr := rfl
@[simp] theorem Dev.poke_ve (d : Dev) (a : Nat) (bs : List Byte) : (d.poke a bs).ve = d.ve := rfl
@[simp] theorem Dev.poke_veStore (d : Dev) (a : Nat) (bs : List Byte) : (d.poke a bs).veStore = d.veStore := rfl
@[simp] theorem Dev.poke_sfu (d : Dev) (a : Nat) (bs : List Byte) : (d.poke a bs).sfu = d.sfu := rfl
@[simp] theorem Dev.poke_carry (d : Dev) (a : Nat) (bs : List Byte) : (d.poke a bs).carry = d.carry := rfl
@[simp] theorem Dev.poke_scans (d : Dev) (a : Nat) (bs : List Byte) : (d.poke a bs).scans = d.scans := rfl
@[simp] theorem Dev.poke_slv (d : Dev) (a : Nat) (bs : List Byte) : (d.poke a bs).slv = d.slv := rfl
@[simp] theorem Dev.poke_inn (d : Dev) (a : Nat) (bs : List Byte) : (d.poke a bs).inn = d.inn := rfl
@[simp] theorem Dev.poke_trn (d : Dev) (a : Nat) (bs : List Byte) : (d.poke a bs).trn = d.trn := rfl
@[simp] theorem Dev.poke_led (d : Dev) (a : Nat) (bs : List Byte) : (d.poke a bs).led = d.led := rfl
@[simp] theorem Dev.poke_way (d : Dev) (a : Nat) (bs : List Byte) : (d.poke a bs).way = d.way := rfl
@[simp] theorem Dev.poke_srv (d : Dev) (a : Nat) (bs : List Byte) : (d.poke a bs).srv = d.srv := rfl
@[simp] theorem Dev.poke_fab (d : Dev) (a : Nat) (bs : List Byte) : (d.poke a bs).fab = d.fab := rfl
@[simp] theorem Dev.poke_pwr (d : Dev) (a : Nat) (bs : List Byte) : (d.poke a bs).pwr = d.pwr := rfl
@[simp] theorem Dev.poke_mgt (d : Dev) (a : Nat) (bs : List Byte) : (d.poke a bs).mgt = d.mgt := rfl
@[simp] theorem Dev.poke_dbg (d : Dev) (a : Nat) (bs : List Byte) : (d.poke a bs).dbg = d.dbg := rfl

/-! ### hostPoke -/

@[simp] theorem Dev.hostPoke_regs (d : Dev) (a : Nat) (bs : List Byte) : (d.hostPoke a bs).regs = d.regs := rfl
@[simp] theorem Dev.hostPoke_mem (d : Dev) (a : Nat) (bs : List Byte) : (d.hostPoke a bs).mem = d.mem := rfl
@[simp] theorem Dev.hostPoke_ue (d : Dev) (a : Nat) (bs : List Byte) : (d.hostPoke a bs).ue = d.ue := rfl
@[simp] theorem Dev.hostPoke_ce (d : Dev) (a : Nat) (bs : List Byte) : (d.hostPoke a bs).ce = d.ce := rfl
@[simp] theorem Dev.hostPoke_undef (d : Dev) (a : Nat) (bs : List Byte) : (d.hostPoke a bs).undef = d.undef := rfl
@[simp] theorem Dev.hostPoke_out (d : Dev) (a : Nat) (bs : List Byte) : (d.hostPoke a bs).out = d.out := rfl
@[simp] theorem Dev.hostPoke_free (d : Dev) (a : Nat) (bs : List Byte) : (d.hostPoke a bs).free = d.free := rfl
@[simp] theorem Dev.hostPoke_timeNs (d : Dev) (a : Nat) (bs : List Byte) : (d.hostPoke a bs).timeNs = d.timeNs := rfl
@[simp] theorem Dev.hostPoke_board (d : Dev) (a : Nat) (bs : List Byte) : (d.hostPoke a bs).board = d.board := rfl
@[simp] theorem Dev.hostPoke_boot (d : Dev) (a : Nat) (bs : List Byte) : (d.hostPoke a bs).boot = d.boot := rfl
@[simp] theorem Dev.hostPoke_pci (d : Dev) (a : Nat) (bs : List Byte) : (d.hostPoke a bs).pci = d.pci := rfl
@[simp] theorem Dev.hostPoke_evt (d : Dev) (a : Nat) (bs : List Byte) : (d.hostPoke a bs).evt = d.evt := rfl
@[simp] theorem Dev.hostPoke_cp0 (d : Dev) (a : Nat) (bs : List Byte) : (d.hostPoke a bs).cp0 = d.cp0 := rfl
@[simp] theorem Dev.hostPoke_seq (d : Dev) (a : Nat) (bs : List Byte) : (d.hostPoke a bs).seq = d.seq := rfl
@[simp] theorem Dev.hostPoke_so (d : Dev) (a : Nat) (bs : List Byte) : (d.hostPoke a bs).so = d.so := rfl
@[simp] theorem Dev.hostPoke_porters (d : Dev) (a : Nat) (bs : List Byte) : (d.hostPoke a bs).porters = d.porters := rfl
@[simp] theorem Dev.hostPoke_arr (d : Dev) (a : Nat) (bs : List Byte) : (d.hostPoke a bs).arr = d.arr := rfl
@[simp] theorem Dev.hostPoke_ve (d : Dev) (a : Nat) (bs : List Byte) : (d.hostPoke a bs).ve = d.ve := rfl
@[simp] theorem Dev.hostPoke_veStore (d : Dev) (a : Nat) (bs : List Byte) : (d.hostPoke a bs).veStore = d.veStore := rfl
@[simp] theorem Dev.hostPoke_sfu (d : Dev) (a : Nat) (bs : List Byte) : (d.hostPoke a bs).sfu = d.sfu := rfl
@[simp] theorem Dev.hostPoke_carry (d : Dev) (a : Nat) (bs : List Byte) : (d.hostPoke a bs).carry = d.carry := rfl
@[simp] theorem Dev.hostPoke_scans (d : Dev) (a : Nat) (bs : List Byte) : (d.hostPoke a bs).scans = d.scans := rfl
@[simp] theorem Dev.hostPoke_slv (d : Dev) (a : Nat) (bs : List Byte) : (d.hostPoke a bs).slv = d.slv := rfl
@[simp] theorem Dev.hostPoke_inn (d : Dev) (a : Nat) (bs : List Byte) : (d.hostPoke a bs).inn = d.inn := rfl
@[simp] theorem Dev.hostPoke_trn (d : Dev) (a : Nat) (bs : List Byte) : (d.hostPoke a bs).trn = d.trn := rfl
@[simp] theorem Dev.hostPoke_led (d : Dev) (a : Nat) (bs : List Byte) : (d.hostPoke a bs).led = d.led := rfl
@[simp] theorem Dev.hostPoke_way (d : Dev) (a : Nat) (bs : List Byte) : (d.hostPoke a bs).way = d.way := rfl
@[simp] theorem Dev.hostPoke_srv (d : Dev) (a : Nat) (bs : List Byte) : (d.hostPoke a bs).srv = d.srv := rfl
@[simp] theorem Dev.hostPoke_fab (d : Dev) (a : Nat) (bs : List Byte) : (d.hostPoke a bs).fab = d.fab := rfl
@[simp] theorem Dev.hostPoke_pwr (d : Dev) (a : Nat) (bs : List Byte) : (d.hostPoke a bs).pwr = d.pwr := rfl
@[simp] theorem Dev.hostPoke_mgt (d : Dev) (a : Nat) (bs : List Byte) : (d.hostPoke a bs).mgt = d.mgt := rfl
@[simp] theorem Dev.hostPoke_dbg (d : Dev) (a : Nat) (bs : List Byte) : (d.hostPoke a bs).dbg = d.dbg := rfl

/-! ### holdPush -/

@[simp] theorem Dev.holdPush_regs (d : Dev) (h : Held) : (d.holdPush h).regs = d.regs := rfl
@[simp] theorem Dev.holdPush_mem (d : Dev) (h : Held) : (d.holdPush h).mem = d.mem := rfl
@[simp] theorem Dev.holdPush_hostMem (d : Dev) (h : Held) : (d.holdPush h).hostMem = d.hostMem := rfl
@[simp] theorem Dev.holdPush_ue (d : Dev) (h : Held) : (d.holdPush h).ue = d.ue := rfl
@[simp] theorem Dev.holdPush_ce (d : Dev) (h : Held) : (d.holdPush h).ce = d.ce := rfl
@[simp] theorem Dev.holdPush_undef (d : Dev) (h : Held) : (d.holdPush h).undef = d.undef := rfl
@[simp] theorem Dev.holdPush_out (d : Dev) (h : Held) : (d.holdPush h).out = d.out := rfl
@[simp] theorem Dev.holdPush_free (d : Dev) (h : Held) : (d.holdPush h).free = d.free := rfl
@[simp] theorem Dev.holdPush_timeNs (d : Dev) (h : Held) : (d.holdPush h).timeNs = d.timeNs := rfl
@[simp] theorem Dev.holdPush_board (d : Dev) (h : Held) : (d.holdPush h).board = d.board := rfl
@[simp] theorem Dev.holdPush_boot (d : Dev) (h : Held) : (d.holdPush h).boot = d.boot := rfl
@[simp] theorem Dev.holdPush_evt (d : Dev) (h : Held) : (d.holdPush h).evt = d.evt := rfl
@[simp] theorem Dev.holdPush_cp0 (d : Dev) (h : Held) : (d.holdPush h).cp0 = d.cp0 := rfl
@[simp] theorem Dev.holdPush_seq (d : Dev) (h : Held) : (d.holdPush h).seq = d.seq := rfl
@[simp] theorem Dev.holdPush_so (d : Dev) (h : Held) : (d.holdPush h).so = d.so := rfl
@[simp] theorem Dev.holdPush_porters (d : Dev) (h : Held) : (d.holdPush h).porters = d.porters := rfl
@[simp] theorem Dev.holdPush_arr (d : Dev) (h : Held) : (d.holdPush h).arr = d.arr := rfl
@[simp] theorem Dev.holdPush_ve (d : Dev) (h : Held) : (d.holdPush h).ve = d.ve := rfl
@[simp] theorem Dev.holdPush_veStore (d : Dev) (h : Held) : (d.holdPush h).veStore = d.veStore := rfl
@[simp] theorem Dev.holdPush_sfu (d : Dev) (h : Held) : (d.holdPush h).sfu = d.sfu := rfl
@[simp] theorem Dev.holdPush_carry (d : Dev) (h : Held) : (d.holdPush h).carry = d.carry := rfl
@[simp] theorem Dev.holdPush_scans (d : Dev) (h : Held) : (d.holdPush h).scans = d.scans := rfl
@[simp] theorem Dev.holdPush_slv (d : Dev) (h : Held) : (d.holdPush h).slv = d.slv := rfl
@[simp] theorem Dev.holdPush_inn (d : Dev) (h : Held) : (d.holdPush h).inn = d.inn := rfl
@[simp] theorem Dev.holdPush_trn (d : Dev) (h : Held) : (d.holdPush h).trn = d.trn := rfl
@[simp] theorem Dev.holdPush_led (d : Dev) (h : Held) : (d.holdPush h).led = d.led := rfl
@[simp] theorem Dev.holdPush_way (d : Dev) (h : Held) : (d.holdPush h).way = d.way := rfl
@[simp] theorem Dev.holdPush_srv (d : Dev) (h : Held) : (d.holdPush h).srv = d.srv := rfl
@[simp] theorem Dev.holdPush_fab (d : Dev) (h : Held) : (d.holdPush h).fab = d.fab := rfl
@[simp] theorem Dev.holdPush_pwr (d : Dev) (h : Held) : (d.holdPush h).pwr = d.pwr := rfl
@[simp] theorem Dev.holdPush_mgt (d : Dev) (h : Held) : (d.holdPush h).mgt = d.mgt := rfl
@[simp] theorem Dev.holdPush_dbg (d : Dev) (h : Held) : (d.holdPush h).dbg = d.dbg := rfl

/-! ### setArr -/

@[simp] theorem Dev.setArr_regs (d : Dev) (core : Nat) (a : Arr) : (d.setArr core a).regs = d.regs := rfl
@[simp] theorem Dev.setArr_mem (d : Dev) (core : Nat) (a : Arr) : (d.setArr core a).mem = d.mem := rfl
@[simp] theorem Dev.setArr_hostMem (d : Dev) (core : Nat) (a : Arr) : (d.setArr core a).hostMem = d.hostMem := rfl
@[simp] theorem Dev.setArr_ue (d : Dev) (core : Nat) (a : Arr) : (d.setArr core a).ue = d.ue := rfl
@[simp] theorem Dev.setArr_ce (d : Dev) (core : Nat) (a : Arr) : (d.setArr core a).ce = d.ce := rfl
@[simp] theorem Dev.setArr_undef (d : Dev) (core : Nat) (a : Arr) : (d.setArr core a).undef = d.undef := rfl
@[simp] theorem Dev.setArr_out (d : Dev) (core : Nat) (a : Arr) : (d.setArr core a).out = d.out := rfl
@[simp] theorem Dev.setArr_free (d : Dev) (core : Nat) (a : Arr) : (d.setArr core a).free = d.free := rfl
@[simp] theorem Dev.setArr_timeNs (d : Dev) (core : Nat) (a : Arr) : (d.setArr core a).timeNs = d.timeNs := rfl
@[simp] theorem Dev.setArr_board (d : Dev) (core : Nat) (a : Arr) : (d.setArr core a).board = d.board := rfl
@[simp] theorem Dev.setArr_boot (d : Dev) (core : Nat) (a : Arr) : (d.setArr core a).boot = d.boot := rfl
@[simp] theorem Dev.setArr_pci (d : Dev) (core : Nat) (a : Arr) : (d.setArr core a).pci = d.pci := rfl
@[simp] theorem Dev.setArr_evt (d : Dev) (core : Nat) (a : Arr) : (d.setArr core a).evt = d.evt := rfl
@[simp] theorem Dev.setArr_cp0 (d : Dev) (core : Nat) (a : Arr) : (d.setArr core a).cp0 = d.cp0 := rfl
@[simp] theorem Dev.setArr_seq (d : Dev) (core : Nat) (a : Arr) : (d.setArr core a).seq = d.seq := rfl
@[simp] theorem Dev.setArr_so (d : Dev) (core : Nat) (a : Arr) : (d.setArr core a).so = d.so := rfl
@[simp] theorem Dev.setArr_porters (d : Dev) (core : Nat) (a : Arr) : (d.setArr core a).porters = d.porters := rfl
@[simp] theorem Dev.setArr_ve (d : Dev) (core : Nat) (a : Arr) : (d.setArr core a).ve = d.ve := rfl
@[simp] theorem Dev.setArr_veStore (d : Dev) (core : Nat) (a : Arr) : (d.setArr core a).veStore = d.veStore := rfl
@[simp] theorem Dev.setArr_sfu (d : Dev) (core : Nat) (a : Arr) : (d.setArr core a).sfu = d.sfu := rfl
@[simp] theorem Dev.setArr_carry (d : Dev) (core : Nat) (a : Arr) : (d.setArr core a).carry = d.carry := rfl
@[simp] theorem Dev.setArr_scans (d : Dev) (core : Nat) (a : Arr) : (d.setArr core a).scans = d.scans := rfl
@[simp] theorem Dev.setArr_slv (d : Dev) (core : Nat) (a : Arr) : (d.setArr core a).slv = d.slv := rfl
@[simp] theorem Dev.setArr_inn (d : Dev) (core : Nat) (a : Arr) : (d.setArr core a).inn = d.inn := rfl
@[simp] theorem Dev.setArr_trn (d : Dev) (core : Nat) (a : Arr) : (d.setArr core a).trn = d.trn := rfl
@[simp] theorem Dev.setArr_led (d : Dev) (core : Nat) (a : Arr) : (d.setArr core a).led = d.led := rfl
@[simp] theorem Dev.setArr_way (d : Dev) (core : Nat) (a : Arr) : (d.setArr core a).way = d.way := rfl
@[simp] theorem Dev.setArr_srv (d : Dev) (core : Nat) (a : Arr) : (d.setArr core a).srv = d.srv := rfl
@[simp] theorem Dev.setArr_fab (d : Dev) (core : Nat) (a : Arr) : (d.setArr core a).fab = d.fab := rfl
@[simp] theorem Dev.setArr_pwr (d : Dev) (core : Nat) (a : Arr) : (d.setArr core a).pwr = d.pwr := rfl
@[simp] theorem Dev.setArr_mgt (d : Dev) (core : Nat) (a : Arr) : (d.setArr core a).mgt = d.mgt := rfl
@[simp] theorem Dev.setArr_dbg (d : Dev) (core : Nat) (a : Arr) : (d.setArr core a).dbg = d.dbg := rfl

/-! ### setPort -/

@[simp] theorem Dev.setPort_regs (d : Dev) (p : Nat) (x : Port) : (d.setPort p x).regs = d.regs := rfl
@[simp] theorem Dev.setPort_mem (d : Dev) (p : Nat) (x : Port) : (d.setPort p x).mem = d.mem := rfl
@[simp] theorem Dev.setPort_hostMem (d : Dev) (p : Nat) (x : Port) : (d.setPort p x).hostMem = d.hostMem := rfl
@[simp] theorem Dev.setPort_ue (d : Dev) (p : Nat) (x : Port) : (d.setPort p x).ue = d.ue := rfl
@[simp] theorem Dev.setPort_ce (d : Dev) (p : Nat) (x : Port) : (d.setPort p x).ce = d.ce := rfl
@[simp] theorem Dev.setPort_undef (d : Dev) (p : Nat) (x : Port) : (d.setPort p x).undef = d.undef := rfl
@[simp] theorem Dev.setPort_out (d : Dev) (p : Nat) (x : Port) : (d.setPort p x).out = d.out := rfl
@[simp] theorem Dev.setPort_free (d : Dev) (p : Nat) (x : Port) : (d.setPort p x).free = d.free := rfl
@[simp] theorem Dev.setPort_timeNs (d : Dev) (p : Nat) (x : Port) : (d.setPort p x).timeNs = d.timeNs := rfl
@[simp] theorem Dev.setPort_board (d : Dev) (p : Nat) (x : Port) : (d.setPort p x).board = d.board := rfl
@[simp] theorem Dev.setPort_boot (d : Dev) (p : Nat) (x : Port) : (d.setPort p x).boot = d.boot := rfl
@[simp] theorem Dev.setPort_pci (d : Dev) (p : Nat) (x : Port) : (d.setPort p x).pci = d.pci := rfl
@[simp] theorem Dev.setPort_evt (d : Dev) (p : Nat) (x : Port) : (d.setPort p x).evt = d.evt := rfl
@[simp] theorem Dev.setPort_cp0 (d : Dev) (p : Nat) (x : Port) : (d.setPort p x).cp0 = d.cp0 := rfl
@[simp] theorem Dev.setPort_seq (d : Dev) (p : Nat) (x : Port) : (d.setPort p x).seq = d.seq := rfl
@[simp] theorem Dev.setPort_so (d : Dev) (p : Nat) (x : Port) : (d.setPort p x).so = d.so := rfl
@[simp] theorem Dev.setPort_porters (d : Dev) (p : Nat) (x : Port) : (d.setPort p x).porters = d.porters := rfl
@[simp] theorem Dev.setPort_arr (d : Dev) (p : Nat) (x : Port) : (d.setPort p x).arr = d.arr := rfl
@[simp] theorem Dev.setPort_ve (d : Dev) (p : Nat) (x : Port) : (d.setPort p x).ve = d.ve := rfl
@[simp] theorem Dev.setPort_veStore (d : Dev) (p : Nat) (x : Port) : (d.setPort p x).veStore = d.veStore := rfl
@[simp] theorem Dev.setPort_sfu (d : Dev) (p : Nat) (x : Port) : (d.setPort p x).sfu = d.sfu := rfl
@[simp] theorem Dev.setPort_carry (d : Dev) (p : Nat) (x : Port) : (d.setPort p x).carry = d.carry := rfl
@[simp] theorem Dev.setPort_scans (d : Dev) (p : Nat) (x : Port) : (d.setPort p x).scans = d.scans := rfl
@[simp] theorem Dev.setPort_slv (d : Dev) (p : Nat) (x : Port) : (d.setPort p x).slv = d.slv := rfl
@[simp] theorem Dev.setPort_inn (d : Dev) (p : Nat) (x : Port) : (d.setPort p x).inn = d.inn := rfl
@[simp] theorem Dev.setPort_trn (d : Dev) (p : Nat) (x : Port) : (d.setPort p x).trn = d.trn := rfl
@[simp] theorem Dev.setPort_led (d : Dev) (p : Nat) (x : Port) : (d.setPort p x).led = d.led := rfl
@[simp] theorem Dev.setPort_way (d : Dev) (p : Nat) (x : Port) : (d.setPort p x).way = d.way := rfl
@[simp] theorem Dev.setPort_srv (d : Dev) (p : Nat) (x : Port) : (d.setPort p x).srv = d.srv := rfl
@[simp] theorem Dev.setPort_pwr (d : Dev) (p : Nat) (x : Port) : (d.setPort p x).pwr = d.pwr := rfl
@[simp] theorem Dev.setPort_mgt (d : Dev) (p : Nat) (x : Port) : (d.setPort p x).mgt = d.mgt := rfl
@[simp] theorem Dev.setPort_dbg (d : Dev) (p : Nat) (x : Port) : (d.setPort p x).dbg = d.dbg := rfl

/-! ### closeTxn -/

@[simp] theorem Dev.closeTxn_regs (d : Dev) (tag : Nat) : (d.closeTxn tag).regs = d.regs := rfl
@[simp] theorem Dev.closeTxn_mem (d : Dev) (tag : Nat) : (d.closeTxn tag).mem = d.mem := rfl
@[simp] theorem Dev.closeTxn_hostMem (d : Dev) (tag : Nat) : (d.closeTxn tag).hostMem = d.hostMem := rfl
@[simp] theorem Dev.closeTxn_ue (d : Dev) (tag : Nat) : (d.closeTxn tag).ue = d.ue := rfl
@[simp] theorem Dev.closeTxn_ce (d : Dev) (tag : Nat) : (d.closeTxn tag).ce = d.ce := rfl
@[simp] theorem Dev.closeTxn_undef (d : Dev) (tag : Nat) : (d.closeTxn tag).undef = d.undef := rfl
@[simp] theorem Dev.closeTxn_out (d : Dev) (tag : Nat) : (d.closeTxn tag).out = d.out := rfl
@[simp] theorem Dev.closeTxn_free (d : Dev) (tag : Nat) : (d.closeTxn tag).free = d.free := rfl
@[simp] theorem Dev.closeTxn_timeNs (d : Dev) (tag : Nat) : (d.closeTxn tag).timeNs = d.timeNs := rfl
@[simp] theorem Dev.closeTxn_board (d : Dev) (tag : Nat) : (d.closeTxn tag).board = d.board := rfl
@[simp] theorem Dev.closeTxn_boot (d : Dev) (tag : Nat) : (d.closeTxn tag).boot = d.boot := rfl
@[simp] theorem Dev.closeTxn_pci (d : Dev) (tag : Nat) : (d.closeTxn tag).pci = d.pci := rfl
@[simp] theorem Dev.closeTxn_evt (d : Dev) (tag : Nat) : (d.closeTxn tag).evt = d.evt := rfl
@[simp] theorem Dev.closeTxn_cp0 (d : Dev) (tag : Nat) : (d.closeTxn tag).cp0 = d.cp0 := rfl
@[simp] theorem Dev.closeTxn_seq (d : Dev) (tag : Nat) : (d.closeTxn tag).seq = d.seq := rfl
@[simp] theorem Dev.closeTxn_so (d : Dev) (tag : Nat) : (d.closeTxn tag).so = d.so := rfl
@[simp] theorem Dev.closeTxn_porters (d : Dev) (tag : Nat) : (d.closeTxn tag).porters = d.porters := rfl
@[simp] theorem Dev.closeTxn_arr (d : Dev) (tag : Nat) : (d.closeTxn tag).arr = d.arr := rfl
@[simp] theorem Dev.closeTxn_ve (d : Dev) (tag : Nat) : (d.closeTxn tag).ve = d.ve := rfl
@[simp] theorem Dev.closeTxn_veStore (d : Dev) (tag : Nat) : (d.closeTxn tag).veStore = d.veStore := rfl
@[simp] theorem Dev.closeTxn_sfu (d : Dev) (tag : Nat) : (d.closeTxn tag).sfu = d.sfu := rfl
@[simp] theorem Dev.closeTxn_carry (d : Dev) (tag : Nat) : (d.closeTxn tag).carry = d.carry := rfl
@[simp] theorem Dev.closeTxn_scans (d : Dev) (tag : Nat) : (d.closeTxn tag).scans = d.scans := rfl
@[simp] theorem Dev.closeTxn_slv (d : Dev) (tag : Nat) : (d.closeTxn tag).slv = d.slv := rfl
@[simp] theorem Dev.closeTxn_inn (d : Dev) (tag : Nat) : (d.closeTxn tag).inn = d.inn := rfl
@[simp] theorem Dev.closeTxn_trn (d : Dev) (tag : Nat) : (d.closeTxn tag).trn = d.trn := rfl
@[simp] theorem Dev.closeTxn_led (d : Dev) (tag : Nat) : (d.closeTxn tag).led = d.led := rfl
@[simp] theorem Dev.closeTxn_way (d : Dev) (tag : Nat) : (d.closeTxn tag).way = d.way := rfl
@[simp] theorem Dev.closeTxn_srv (d : Dev) (tag : Nat) : (d.closeTxn tag).srv = d.srv := rfl
@[simp] theorem Dev.closeTxn_pwr (d : Dev) (tag : Nat) : (d.closeTxn tag).pwr = d.pwr := rfl
@[simp] theorem Dev.closeTxn_mgt (d : Dev) (tag : Nat) : (d.closeTxn tag).mgt = d.mgt := rfl
@[simp] theorem Dev.closeTxn_dbg (d : Dev) (tag : Nat) : (d.closeTxn tag).dbg = d.dbg := rfl

/-! ### setClamps -/

@[simp] theorem Dev.setClamps_regs (d : Dev) (l : List Clamp) : (d.setClamps l).regs = d.regs := rfl
@[simp] theorem Dev.setClamps_mem (d : Dev) (l : List Clamp) : (d.setClamps l).mem = d.mem := rfl
@[simp] theorem Dev.setClamps_hostMem (d : Dev) (l : List Clamp) : (d.setClamps l).hostMem = d.hostMem := rfl
@[simp] theorem Dev.setClamps_ue (d : Dev) (l : List Clamp) : (d.setClamps l).ue = d.ue := rfl
@[simp] theorem Dev.setClamps_ce (d : Dev) (l : List Clamp) : (d.setClamps l).ce = d.ce := rfl
@[simp] theorem Dev.setClamps_undef (d : Dev) (l : List Clamp) : (d.setClamps l).undef = d.undef := rfl
@[simp] theorem Dev.setClamps_out (d : Dev) (l : List Clamp) : (d.setClamps l).out = d.out := rfl
@[simp] theorem Dev.setClamps_free (d : Dev) (l : List Clamp) : (d.setClamps l).free = d.free := rfl
@[simp] theorem Dev.setClamps_timeNs (d : Dev) (l : List Clamp) : (d.setClamps l).timeNs = d.timeNs := rfl
@[simp] theorem Dev.setClamps_board (d : Dev) (l : List Clamp) : (d.setClamps l).board = d.board := rfl
@[simp] theorem Dev.setClamps_boot (d : Dev) (l : List Clamp) : (d.setClamps l).boot = d.boot := rfl
@[simp] theorem Dev.setClamps_pci (d : Dev) (l : List Clamp) : (d.setClamps l).pci = d.pci := rfl
@[simp] theorem Dev.setClamps_evt (d : Dev) (l : List Clamp) : (d.setClamps l).evt = d.evt := rfl
@[simp] theorem Dev.setClamps_cp0 (d : Dev) (l : List Clamp) : (d.setClamps l).cp0 = d.cp0 := rfl
@[simp] theorem Dev.setClamps_seq (d : Dev) (l : List Clamp) : (d.setClamps l).seq = d.seq := rfl
@[simp] theorem Dev.setClamps_so (d : Dev) (l : List Clamp) : (d.setClamps l).so = d.so := rfl
@[simp] theorem Dev.setClamps_porters (d : Dev) (l : List Clamp) : (d.setClamps l).porters = d.porters := rfl
@[simp] theorem Dev.setClamps_arr (d : Dev) (l : List Clamp) : (d.setClamps l).arr = d.arr := rfl
@[simp] theorem Dev.setClamps_ve (d : Dev) (l : List Clamp) : (d.setClamps l).ve = d.ve := rfl
@[simp] theorem Dev.setClamps_veStore (d : Dev) (l : List Clamp) : (d.setClamps l).veStore = d.veStore := rfl
@[simp] theorem Dev.setClamps_sfu (d : Dev) (l : List Clamp) : (d.setClamps l).sfu = d.sfu := rfl
@[simp] theorem Dev.setClamps_carry (d : Dev) (l : List Clamp) : (d.setClamps l).carry = d.carry := rfl
@[simp] theorem Dev.setClamps_scans (d : Dev) (l : List Clamp) : (d.setClamps l).scans = d.scans := rfl
@[simp] theorem Dev.setClamps_slv (d : Dev) (l : List Clamp) : (d.setClamps l).slv = d.slv := rfl
@[simp] theorem Dev.setClamps_inn (d : Dev) (l : List Clamp) : (d.setClamps l).inn = d.inn := rfl
@[simp] theorem Dev.setClamps_trn (d : Dev) (l : List Clamp) : (d.setClamps l).trn = d.trn := rfl
@[simp] theorem Dev.setClamps_led (d : Dev) (l : List Clamp) : (d.setClamps l).led = d.led := rfl
@[simp] theorem Dev.setClamps_way (d : Dev) (l : List Clamp) : (d.setClamps l).way = d.way := rfl
@[simp] theorem Dev.setClamps_srv (d : Dev) (l : List Clamp) : (d.setClamps l).srv = d.srv := rfl
@[simp] theorem Dev.setClamps_fab (d : Dev) (l : List Clamp) : (d.setClamps l).fab = d.fab := rfl
@[simp] theorem Dev.setClamps_mgt (d : Dev) (l : List Clamp) : (d.setClamps l).mgt = d.mgt := rfl
@[simp] theorem Dev.setClamps_dbg (d : Dev) (l : List Clamp) : (d.setClamps l).dbg = d.dbg := rfl

/-! ### setRoom -/

@[simp] theorem Dev.setRoom_regs (d : Dev) (r : Room) : (d.setRoom r).regs = d.regs := rfl
@[simp] theorem Dev.setRoom_mem (d : Dev) (r : Room) : (d.setRoom r).mem = d.mem := rfl
@[simp] theorem Dev.setRoom_hostMem (d : Dev) (r : Room) : (d.setRoom r).hostMem = d.hostMem := rfl
@[simp] theorem Dev.setRoom_ue (d : Dev) (r : Room) : (d.setRoom r).ue = d.ue := rfl
@[simp] theorem Dev.setRoom_ce (d : Dev) (r : Room) : (d.setRoom r).ce = d.ce := rfl
@[simp] theorem Dev.setRoom_undef (d : Dev) (r : Room) : (d.setRoom r).undef = d.undef := rfl
@[simp] theorem Dev.setRoom_out (d : Dev) (r : Room) : (d.setRoom r).out = d.out := rfl
@[simp] theorem Dev.setRoom_free (d : Dev) (r : Room) : (d.setRoom r).free = d.free := rfl
@[simp] theorem Dev.setRoom_timeNs (d : Dev) (r : Room) : (d.setRoom r).timeNs = d.timeNs := rfl
@[simp] theorem Dev.setRoom_board (d : Dev) (r : Room) : (d.setRoom r).board = d.board := rfl
@[simp] theorem Dev.setRoom_boot (d : Dev) (r : Room) : (d.setRoom r).boot = d.boot := rfl
@[simp] theorem Dev.setRoom_pci (d : Dev) (r : Room) : (d.setRoom r).pci = d.pci := rfl
@[simp] theorem Dev.setRoom_evt (d : Dev) (r : Room) : (d.setRoom r).evt = d.evt := rfl
@[simp] theorem Dev.setRoom_cp0 (d : Dev) (r : Room) : (d.setRoom r).cp0 = d.cp0 := rfl
@[simp] theorem Dev.setRoom_seq (d : Dev) (r : Room) : (d.setRoom r).seq = d.seq := rfl
@[simp] theorem Dev.setRoom_so (d : Dev) (r : Room) : (d.setRoom r).so = d.so := rfl
@[simp] theorem Dev.setRoom_porters (d : Dev) (r : Room) : (d.setRoom r).porters = d.porters := rfl
@[simp] theorem Dev.setRoom_arr (d : Dev) (r : Room) : (d.setRoom r).arr = d.arr := rfl
@[simp] theorem Dev.setRoom_ve (d : Dev) (r : Room) : (d.setRoom r).ve = d.ve := rfl
@[simp] theorem Dev.setRoom_veStore (d : Dev) (r : Room) : (d.setRoom r).veStore = d.veStore := rfl
@[simp] theorem Dev.setRoom_sfu (d : Dev) (r : Room) : (d.setRoom r).sfu = d.sfu := rfl
@[simp] theorem Dev.setRoom_carry (d : Dev) (r : Room) : (d.setRoom r).carry = d.carry := rfl
@[simp] theorem Dev.setRoom_scans (d : Dev) (r : Room) : (d.setRoom r).scans = d.scans := rfl
@[simp] theorem Dev.setRoom_slv (d : Dev) (r : Room) : (d.setRoom r).slv = d.slv := rfl
@[simp] theorem Dev.setRoom_trn (d : Dev) (r : Room) : (d.setRoom r).trn = d.trn := rfl
@[simp] theorem Dev.setRoom_led (d : Dev) (r : Room) : (d.setRoom r).led = d.led := rfl
@[simp] theorem Dev.setRoom_way (d : Dev) (r : Room) : (d.setRoom r).way = d.way := rfl
@[simp] theorem Dev.setRoom_srv (d : Dev) (r : Room) : (d.setRoom r).srv = d.srv := rfl
@[simp] theorem Dev.setRoom_fab (d : Dev) (r : Room) : (d.setRoom r).fab = d.fab := rfl
@[simp] theorem Dev.setRoom_pwr (d : Dev) (r : Room) : (d.setRoom r).pwr = d.pwr := rfl
@[simp] theorem Dev.setRoom_mgt (d : Dev) (r : Room) : (d.setRoom r).mgt = d.mgt := rfl
@[simp] theorem Dev.setRoom_dbg (d : Dev) (r : Room) : (d.setRoom r).dbg = d.dbg := rfl

/-! ### dropRoom -/

@[simp] theorem Dev.dropRoom_regs (d : Dev) (r : Room) : (d.dropRoom r).regs = d.regs := rfl
@[simp] theorem Dev.dropRoom_mem (d : Dev) (r : Room) : (d.dropRoom r).mem = d.mem := rfl
@[simp] theorem Dev.dropRoom_hostMem (d : Dev) (r : Room) : (d.dropRoom r).hostMem = d.hostMem := rfl
@[simp] theorem Dev.dropRoom_ue (d : Dev) (r : Room) : (d.dropRoom r).ue = d.ue := rfl
@[simp] theorem Dev.dropRoom_ce (d : Dev) (r : Room) : (d.dropRoom r).ce = d.ce := rfl
@[simp] theorem Dev.dropRoom_undef (d : Dev) (r : Room) : (d.dropRoom r).undef = d.undef := rfl
@[simp] theorem Dev.dropRoom_out (d : Dev) (r : Room) : (d.dropRoom r).out = d.out := rfl
@[simp] theorem Dev.dropRoom_free (d : Dev) (r : Room) : (d.dropRoom r).free = d.free := rfl
@[simp] theorem Dev.dropRoom_timeNs (d : Dev) (r : Room) : (d.dropRoom r).timeNs = d.timeNs := rfl
@[simp] theorem Dev.dropRoom_board (d : Dev) (r : Room) : (d.dropRoom r).board = d.board := rfl
@[simp] theorem Dev.dropRoom_boot (d : Dev) (r : Room) : (d.dropRoom r).boot = d.boot := rfl
@[simp] theorem Dev.dropRoom_pci (d : Dev) (r : Room) : (d.dropRoom r).pci = d.pci := rfl
@[simp] theorem Dev.dropRoom_evt (d : Dev) (r : Room) : (d.dropRoom r).evt = d.evt := rfl
@[simp] theorem Dev.dropRoom_cp0 (d : Dev) (r : Room) : (d.dropRoom r).cp0 = d.cp0 := rfl
@[simp] theorem Dev.dropRoom_seq (d : Dev) (r : Room) : (d.dropRoom r).seq = d.seq := rfl
@[simp] theorem Dev.dropRoom_so (d : Dev) (r : Room) : (d.dropRoom r).so = d.so := rfl
@[simp] theorem Dev.dropRoom_porters (d : Dev) (r : Room) : (d.dropRoom r).porters = d.porters := rfl
@[simp] theorem Dev.dropRoom_arr (d : Dev) (r : Room) : (d.dropRoom r).arr = d.arr := rfl
@[simp] theorem Dev.dropRoom_ve (d : Dev) (r : Room) : (d.dropRoom r).ve = d.ve := rfl
@[simp] theorem Dev.dropRoom_veStore (d : Dev) (r : Room) : (d.dropRoom r).veStore = d.veStore := rfl
@[simp] theorem Dev.dropRoom_sfu (d : Dev) (r : Room) : (d.dropRoom r).sfu = d.sfu := rfl
@[simp] theorem Dev.dropRoom_carry (d : Dev) (r : Room) : (d.dropRoom r).carry = d.carry := rfl
@[simp] theorem Dev.dropRoom_scans (d : Dev) (r : Room) : (d.dropRoom r).scans = d.scans := rfl
@[simp] theorem Dev.dropRoom_slv (d : Dev) (r : Room) : (d.dropRoom r).slv = d.slv := rfl
@[simp] theorem Dev.dropRoom_trn (d : Dev) (r : Room) : (d.dropRoom r).trn = d.trn := rfl
@[simp] theorem Dev.dropRoom_led (d : Dev) (r : Room) : (d.dropRoom r).led = d.led := rfl
@[simp] theorem Dev.dropRoom_way (d : Dev) (r : Room) : (d.dropRoom r).way = d.way := rfl
@[simp] theorem Dev.dropRoom_srv (d : Dev) (r : Room) : (d.dropRoom r).srv = d.srv := rfl
@[simp] theorem Dev.dropRoom_fab (d : Dev) (r : Room) : (d.dropRoom r).fab = d.fab := rfl
@[simp] theorem Dev.dropRoom_pwr (d : Dev) (r : Room) : (d.dropRoom r).pwr = d.pwr := rfl
@[simp] theorem Dev.dropRoom_mgt (d : Dev) (r : Room) : (d.dropRoom r).mgt = d.mgt := rfl
@[simp] theorem Dev.dropRoom_dbg (d : Dev) (r : Room) : (d.dropRoom r).dbg = d.dbg := rfl

/-! ### setScan -/

@[simp] theorem Dev.setScan_regs (d : Dev) (slot : Nat) (r : ScanRun) : (d.setScan slot r).regs = d.regs := rfl
@[simp] theorem Dev.setScan_mem (d : Dev) (slot : Nat) (r : ScanRun) : (d.setScan slot r).mem = d.mem := rfl
@[simp] theorem Dev.setScan_hostMem (d : Dev) (slot : Nat) (r : ScanRun) : (d.setScan slot r).hostMem = d.hostMem := rfl
@[simp] theorem Dev.setScan_ue (d : Dev) (slot : Nat) (r : ScanRun) : (d.setScan slot r).ue = d.ue := rfl
@[simp] theorem Dev.setScan_ce (d : Dev) (slot : Nat) (r : ScanRun) : (d.setScan slot r).ce = d.ce := rfl
@[simp] theorem Dev.setScan_undef (d : Dev) (slot : Nat) (r : ScanRun) : (d.setScan slot r).undef = d.undef := rfl
@[simp] theorem Dev.setScan_out (d : Dev) (slot : Nat) (r : ScanRun) : (d.setScan slot r).out = d.out := rfl
@[simp] theorem Dev.setScan_free (d : Dev) (slot : Nat) (r : ScanRun) : (d.setScan slot r).free = d.free := rfl
@[simp] theorem Dev.setScan_timeNs (d : Dev) (slot : Nat) (r : ScanRun) : (d.setScan slot r).timeNs = d.timeNs := rfl
@[simp] theorem Dev.setScan_board (d : Dev) (slot : Nat) (r : ScanRun) : (d.setScan slot r).board = d.board := rfl
@[simp] theorem Dev.setScan_boot (d : Dev) (slot : Nat) (r : ScanRun) : (d.setScan slot r).boot = d.boot := rfl
@[simp] theorem Dev.setScan_pci (d : Dev) (slot : Nat) (r : ScanRun) : (d.setScan slot r).pci = d.pci := rfl
@[simp] theorem Dev.setScan_evt (d : Dev) (slot : Nat) (r : ScanRun) : (d.setScan slot r).evt = d.evt := rfl
@[simp] theorem Dev.setScan_cp0 (d : Dev) (slot : Nat) (r : ScanRun) : (d.setScan slot r).cp0 = d.cp0 := rfl
@[simp] theorem Dev.setScan_seq (d : Dev) (slot : Nat) (r : ScanRun) : (d.setScan slot r).seq = d.seq := rfl
@[simp] theorem Dev.setScan_so (d : Dev) (slot : Nat) (r : ScanRun) : (d.setScan slot r).so = d.so := rfl
@[simp] theorem Dev.setScan_porters (d : Dev) (slot : Nat) (r : ScanRun) : (d.setScan slot r).porters = d.porters := rfl
@[simp] theorem Dev.setScan_arr (d : Dev) (slot : Nat) (r : ScanRun) : (d.setScan slot r).arr = d.arr := rfl
@[simp] theorem Dev.setScan_ve (d : Dev) (slot : Nat) (r : ScanRun) : (d.setScan slot r).ve = d.ve := rfl
@[simp] theorem Dev.setScan_veStore (d : Dev) (slot : Nat) (r : ScanRun) : (d.setScan slot r).veStore = d.veStore := rfl
@[simp] theorem Dev.setScan_sfu (d : Dev) (slot : Nat) (r : ScanRun) : (d.setScan slot r).sfu = d.sfu := rfl
@[simp] theorem Dev.setScan_carry (d : Dev) (slot : Nat) (r : ScanRun) : (d.setScan slot r).carry = d.carry := rfl
@[simp] theorem Dev.setScan_slv (d : Dev) (slot : Nat) (r : ScanRun) : (d.setScan slot r).slv = d.slv := rfl
@[simp] theorem Dev.setScan_inn (d : Dev) (slot : Nat) (r : ScanRun) : (d.setScan slot r).inn = d.inn := rfl
@[simp] theorem Dev.setScan_trn (d : Dev) (slot : Nat) (r : ScanRun) : (d.setScan slot r).trn = d.trn := rfl
@[simp] theorem Dev.setScan_led (d : Dev) (slot : Nat) (r : ScanRun) : (d.setScan slot r).led = d.led := rfl
@[simp] theorem Dev.setScan_way (d : Dev) (slot : Nat) (r : ScanRun) : (d.setScan slot r).way = d.way := rfl
@[simp] theorem Dev.setScan_srv (d : Dev) (slot : Nat) (r : ScanRun) : (d.setScan slot r).srv = d.srv := rfl
@[simp] theorem Dev.setScan_fab (d : Dev) (slot : Nat) (r : ScanRun) : (d.setScan slot r).fab = d.fab := rfl
@[simp] theorem Dev.setScan_pwr (d : Dev) (slot : Nat) (r : ScanRun) : (d.setScan slot r).pwr = d.pwr := rfl
@[simp] theorem Dev.setScan_mgt (d : Dev) (slot : Nat) (r : ScanRun) : (d.setScan slot r).mgt = d.mgt := rfl
@[simp] theorem Dev.setScan_dbg (d : Dev) (slot : Nat) (r : ScanRun) : (d.setScan slot r).dbg = d.dbg := rfl

/-! ### failStep -/

@[simp] theorem Dev.failStep_regs (d : Dev) : (d.failStep).regs = d.regs := rfl
@[simp] theorem Dev.failStep_mem (d : Dev) : (d.failStep).mem = d.mem := rfl
@[simp] theorem Dev.failStep_hostMem (d : Dev) : (d.failStep).hostMem = d.hostMem := rfl
@[simp] theorem Dev.failStep_ue (d : Dev) : (d.failStep).ue = d.ue := rfl
@[simp] theorem Dev.failStep_ce (d : Dev) : (d.failStep).ce = d.ce := rfl
@[simp] theorem Dev.failStep_undef (d : Dev) : (d.failStep).undef = d.undef := rfl
@[simp] theorem Dev.failStep_out (d : Dev) : (d.failStep).out = d.out := rfl
@[simp] theorem Dev.failStep_free (d : Dev) : (d.failStep).free = d.free := rfl
@[simp] theorem Dev.failStep_timeNs (d : Dev) : (d.failStep).timeNs = d.timeNs := rfl
@[simp] theorem Dev.failStep_board (d : Dev) : (d.failStep).board = d.board := rfl
@[simp] theorem Dev.failStep_boot (d : Dev) : (d.failStep).boot = d.boot := rfl
@[simp] theorem Dev.failStep_pci (d : Dev) : (d.failStep).pci = d.pci := rfl
@[simp] theorem Dev.failStep_evt (d : Dev) : (d.failStep).evt = d.evt := rfl
@[simp] theorem Dev.failStep_cp0 (d : Dev) : (d.failStep).cp0 = d.cp0 := rfl
@[simp] theorem Dev.failStep_seq (d : Dev) : (d.failStep).seq = d.seq := rfl
@[simp] theorem Dev.failStep_so (d : Dev) : (d.failStep).so = d.so := rfl
@[simp] theorem Dev.failStep_porters (d : Dev) : (d.failStep).porters = d.porters := rfl
@[simp] theorem Dev.failStep_arr (d : Dev) : (d.failStep).arr = d.arr := rfl
@[simp] theorem Dev.failStep_ve (d : Dev) : (d.failStep).ve = d.ve := rfl
@[simp] theorem Dev.failStep_veStore (d : Dev) : (d.failStep).veStore = d.veStore := rfl
@[simp] theorem Dev.failStep_sfu (d : Dev) : (d.failStep).sfu = d.sfu := rfl
@[simp] theorem Dev.failStep_carry (d : Dev) : (d.failStep).carry = d.carry := rfl
@[simp] theorem Dev.failStep_scans (d : Dev) : (d.failStep).scans = d.scans := rfl
@[simp] theorem Dev.failStep_slv (d : Dev) : (d.failStep).slv = d.slv := rfl
@[simp] theorem Dev.failStep_inn (d : Dev) : (d.failStep).inn = d.inn := rfl
@[simp] theorem Dev.failStep_trn (d : Dev) : (d.failStep).trn = d.trn := rfl
@[simp] theorem Dev.failStep_way (d : Dev) : (d.failStep).way = d.way := rfl
@[simp] theorem Dev.failStep_srv (d : Dev) : (d.failStep).srv = d.srv := rfl
@[simp] theorem Dev.failStep_fab (d : Dev) : (d.failStep).fab = d.fab := rfl
@[simp] theorem Dev.failStep_pwr (d : Dev) : (d.failStep).pwr = d.pwr := rfl
@[simp] theorem Dev.failStep_mgt (d : Dev) : (d.failStep).mgt = d.mgt := rfl
@[simp] theorem Dev.failStep_dbg (d : Dev) : (d.failStep).dbg = d.dbg := rfl

/-! ### settlePin -/

@[simp] theorem Dev.settlePin_regs (d : Dev) : (d.settlePin).regs = d.regs := rfl
@[simp] theorem Dev.settlePin_mem (d : Dev) : (d.settlePin).mem = d.mem := rfl
@[simp] theorem Dev.settlePin_hostMem (d : Dev) : (d.settlePin).hostMem = d.hostMem := rfl
@[simp] theorem Dev.settlePin_ue (d : Dev) : (d.settlePin).ue = d.ue := rfl
@[simp] theorem Dev.settlePin_ce (d : Dev) : (d.settlePin).ce = d.ce := rfl
@[simp] theorem Dev.settlePin_undef (d : Dev) : (d.settlePin).undef = d.undef := rfl
@[simp] theorem Dev.settlePin_out (d : Dev) : (d.settlePin).out = d.out := rfl
@[simp] theorem Dev.settlePin_free (d : Dev) : (d.settlePin).free = d.free := rfl
@[simp] theorem Dev.settlePin_timeNs (d : Dev) : (d.settlePin).timeNs = d.timeNs := rfl
@[simp] theorem Dev.settlePin_boot (d : Dev) : (d.settlePin).boot = d.boot := rfl
@[simp] theorem Dev.settlePin_pci (d : Dev) : (d.settlePin).pci = d.pci := rfl
@[simp] theorem Dev.settlePin_evt (d : Dev) : (d.settlePin).evt = d.evt := rfl
@[simp] theorem Dev.settlePin_cp0 (d : Dev) : (d.settlePin).cp0 = d.cp0 := rfl
@[simp] theorem Dev.settlePin_seq (d : Dev) : (d.settlePin).seq = d.seq := rfl
@[simp] theorem Dev.settlePin_so (d : Dev) : (d.settlePin).so = d.so := rfl
@[simp] theorem Dev.settlePin_porters (d : Dev) : (d.settlePin).porters = d.porters := rfl
@[simp] theorem Dev.settlePin_arr (d : Dev) : (d.settlePin).arr = d.arr := rfl
@[simp] theorem Dev.settlePin_ve (d : Dev) : (d.settlePin).ve = d.ve := rfl
@[simp] theorem Dev.settlePin_veStore (d : Dev) : (d.settlePin).veStore = d.veStore := rfl
@[simp] theorem Dev.settlePin_sfu (d : Dev) : (d.settlePin).sfu = d.sfu := rfl
@[simp] theorem Dev.settlePin_carry (d : Dev) : (d.settlePin).carry = d.carry := rfl
@[simp] theorem Dev.settlePin_scans (d : Dev) : (d.settlePin).scans = d.scans := rfl
@[simp] theorem Dev.settlePin_slv (d : Dev) : (d.settlePin).slv = d.slv := rfl
@[simp] theorem Dev.settlePin_inn (d : Dev) : (d.settlePin).inn = d.inn := rfl
@[simp] theorem Dev.settlePin_trn (d : Dev) : (d.settlePin).trn = d.trn := rfl
@[simp] theorem Dev.settlePin_led (d : Dev) : (d.settlePin).led = d.led := rfl
@[simp] theorem Dev.settlePin_way (d : Dev) : (d.settlePin).way = d.way := rfl
@[simp] theorem Dev.settlePin_srv (d : Dev) : (d.settlePin).srv = d.srv := rfl
@[simp] theorem Dev.settlePin_fab (d : Dev) : (d.settlePin).fab = d.fab := rfl
@[simp] theorem Dev.settlePin_pwr (d : Dev) : (d.settlePin).pwr = d.pwr := rfl
@[simp] theorem Dev.settlePin_mgt (d : Dev) : (d.settlePin).mgt = d.mgt := rfl
@[simp] theorem Dev.settlePin_dbg (d : Dev) : (d.settlePin).dbg = d.dbg := rfl

/-! ### idle -/

@[simp] theorem Dev.idle_regs (d : Dev) : (d.idle).regs = d.regs := rfl
@[simp] theorem Dev.idle_mem (d : Dev) : (d.idle).mem = d.mem := rfl
@[simp] theorem Dev.idle_hostMem (d : Dev) : (d.idle).hostMem = d.hostMem := rfl
@[simp] theorem Dev.idle_ue (d : Dev) : (d.idle).ue = d.ue := rfl
@[simp] theorem Dev.idle_ce (d : Dev) : (d.idle).ce = d.ce := rfl
@[simp] theorem Dev.idle_undef (d : Dev) : (d.idle).undef = d.undef := rfl
@[simp] theorem Dev.idle_out (d : Dev) : (d.idle).out = d.out := rfl
@[simp] theorem Dev.idle_free (d : Dev) : (d.idle).free = d.free := rfl
@[simp] theorem Dev.idle_board (d : Dev) : (d.idle).board = d.board := rfl
@[simp] theorem Dev.idle_boot (d : Dev) : (d.idle).boot = d.boot := rfl
@[simp] theorem Dev.idle_pci (d : Dev) : (d.idle).pci = d.pci := rfl
@[simp] theorem Dev.idle_evt (d : Dev) : (d.idle).evt = d.evt := rfl
@[simp] theorem Dev.idle_cp0 (d : Dev) : (d.idle).cp0 = d.cp0 := rfl
@[simp] theorem Dev.idle_seq (d : Dev) : (d.idle).seq = d.seq := rfl
@[simp] theorem Dev.idle_so (d : Dev) : (d.idle).so = d.so := rfl
@[simp] theorem Dev.idle_porters (d : Dev) : (d.idle).porters = d.porters := rfl
@[simp] theorem Dev.idle_arr (d : Dev) : (d.idle).arr = d.arr := rfl
@[simp] theorem Dev.idle_ve (d : Dev) : (d.idle).ve = d.ve := rfl
@[simp] theorem Dev.idle_veStore (d : Dev) : (d.idle).veStore = d.veStore := rfl
@[simp] theorem Dev.idle_sfu (d : Dev) : (d.idle).sfu = d.sfu := rfl
@[simp] theorem Dev.idle_carry (d : Dev) : (d.idle).carry = d.carry := rfl
@[simp] theorem Dev.idle_scans (d : Dev) : (d.idle).scans = d.scans := rfl
@[simp] theorem Dev.idle_slv (d : Dev) : (d.idle).slv = d.slv := rfl
@[simp] theorem Dev.idle_inn (d : Dev) : (d.idle).inn = d.inn := rfl
@[simp] theorem Dev.idle_trn (d : Dev) : (d.idle).trn = d.trn := rfl
@[simp] theorem Dev.idle_led (d : Dev) : (d.idle).led = d.led := rfl
@[simp] theorem Dev.idle_way (d : Dev) : (d.idle).way = d.way := rfl
@[simp] theorem Dev.idle_srv (d : Dev) : (d.idle).srv = d.srv := rfl
@[simp] theorem Dev.idle_fab (d : Dev) : (d.idle).fab = d.fab := rfl
@[simp] theorem Dev.idle_pwr (d : Dev) : (d.idle).pwr = d.pwr := rfl
@[simp] theorem Dev.idle_mgt (d : Dev) : (d.idle).mgt = d.mgt := rfl
@[simp] theorem Dev.idle_dbg (d : Dev) : (d.idle).dbg = d.dbg := rfl
/-! ### Registers -/

@[simp] theorem Dev.reg_setReg_self (d : Dev) (off v : Nat) : (d.setReg off v).reg off = v % 2 ^ 64 := by
  unfold Dev.setReg Dev.reg
  by_cases h : (BitVec.ofNat 64 v).toNat = regReset off
  · simp only [if_pos h, kvGet_kvDel_self]
    rw [← h, BitVec.toNat_ofNat]
  · simp only [BitVec.toNat_ofNat] at h ⊢
    simp only [if_neg h, kvGet_kvPut_self, BitVec.toNat_ofNat]

theorem Dev.reg_setReg_ne {off off' : Nat} (h : off' ≠ off) (d : Dev) (v : Nat) : (d.setReg off v).reg off' = d.reg off' := by
  unfold Dev.setReg Dev.reg
  by_cases hv : (BitVec.ofNat 64 v).toNat = regReset off
  · simp only [if_pos hv, kvGet_kvDel_ne h]
  · simp only [if_neg hv, kvGet_kvPut_ne h]

/-- A field of another register is unchanged by a field write. -/
theorem Dev.rd_wr_ne {f g : Fld} (h : g.reg ≠ f.reg) (d : Dev) (v : Nat) : (d.wr f v).rd g = d.rd g := by
  unfold Dev.wr Dev.rd
  rw [Dev.reg_setReg_ne h]

/-- The low 64 bits of a number have the fields of the number. -/
theorem bits_mod {lo len n : Nat} (h : lo + len ≤ n) (x : Nat) : bits (x % 2 ^ n) lo len = bits x lo len := by
  unfold bits
  apply Nat.eq_of_testBit_eq
  intro i
  simp only [Nat.testBit_mod_two_pow, Nat.testBit_div_two_pow]
  by_cases hi : i < len
  · simp [hi]; omega
  · simp [hi]

/-- A field write is read back, cut to the field's width. -/
theorem Dev.rd_wr_self {f : Fld} (h : f.lo + f.len ≤ 64) (d : Dev) (v : Nat) : (d.wr f v).rd f = v % 2 ^ f.len := by
  unfold Dev.wr Dev.rd
  rw [Dev.reg_setReg_self, bits_mod h, bits_setBits_self]

/-- A one-bit field after a write of a truth value. -/
theorem Dev.on_wr_self {f : Fld} (h : f.lo + f.len ≤ 64) (hl : 0 < f.len) (d : Dev) (b : Bool) : (d.wr f (b2n b)).on f = b := by
  unfold Dev.on
  rw [Dev.rd_wr_self h]
  have h2 : 1 < 2 ^ f.len := Nat.one_lt_two_pow (by omega)
  cases b
  · simp [b2n]
  · simp [b2n, Nat.mod_eq_of_lt h2]

/-- A field write leaves every other field alone, in its own register and in any other. -/
theorem Dev.rd_wr_disjoint {f g : Fld} (hg : g.lo + g.len ≤ 64) (h : g.reg ≠ f.reg ∨ g.lo + g.len ≤ f.lo ∨ f.lo + f.len ≤ g.lo)
    (d : Dev) (v : Nat) : (d.wr f v).rd g = d.rd g := by
  by_cases hr : g.reg = f.reg
  · unfold Dev.wr Dev.rd
    rw [hr, Dev.reg_setReg_self, bits_mod hg, bits_setBits_disjoint (h.resolve_left (fun h => h hr))]
  · exact Dev.rd_wr_ne hr d v

/-! ### Loops -/

/-- What every round of a loop keeps, the loop keeps. -/
theorem Dev.forEach_keeps {α : Type} (P : Dev → Prop) {f : α → Dev → Dev} (hf : ∀ a d, P d → P (f a d)) (l : List α) {d : Dev} (h : P d) :
    P (d.forEach l f) := by
  unfold Dev.forEach
  induction l generalizing d with
  | nil => exact h
  | cons a l ih => exact ih (hf a d h)

@[simp] theorem Dev.forEach_nil {α : Type} (f : α → Dev → Dev) (d : Dev) : d.forEach [] f = d := rfl

@[simp] theorem Dev.forEach_cons {α : Type} (a : α) (l : List α) (f : α → Dev → Dev) (d : Dev) :
    d.forEach (a :: l) f = (f a d).forEach l f := rfl

@[simp] theorem Dev.whenB_true (d : Dev) (f : Dev → Dev) : d.whenB true f = f d := rfl

@[simp] theorem Dev.whenB_false (d : Dev) (f : Dev → Dev) : d.whenB false f = d := rfl

/-! ### Steps and meanings -/

/-- Running an effect answers a next state with the same queue. -/
theorem State.run_eq (s : State) (f : Dev → Dev) : s.run f = .next { s with dev := (f s.dev).settle } := rfl

/-- A state that a meaning leaves has the queue it started with. -/
theorem State.run_pending {s t : State} {f : Dev → Dev} (h : s.run f = .next t) : t.pending = s.pending := by
  cases h; rfl

/-! ### The settled state -/

@[simp] theorem Dev.settlePin_alertLow (d : Dev) : d.settlePin.board.alertLow = d.alertWanted := rfl

theorem Dev.settlePin_reg (d : Dev) (off : Nat) : d.settlePin.reg off = d.reg off := rfl

@[simp] theorem Dev.settlePin_rd (d : Dev) (f : Fld) : d.settlePin.rd f = d.rd f := rfl

@[simp] theorem Dev.settlePin_alertWanted (d : Dev) : d.settlePin.alertWanted = d.alertWanted := rfl

/-! ### Memory of the device -/

/-- Device memory after a write, outside it. -/
theorem Dev.poke_mem_out {d : Dev} {a x : Nat} {bs : List Byte} (h : x < a ∨ a + bs.length ≤ x) :
    memGet (d.poke a bs).mem x = memGet d.mem x := memGet_memPutList_out h

/-- A write keeps device memory's canonical form. -/
theorem Dev.poke_wf {d : Dev} (a : Nat) (bs : List Byte) (h : Memory.wf d.mem) : Memory.wf (d.poke a bs).mem := wf_memPutList a bs h

/-- Losing the contents of a range keeps it. -/
theorem Dev.scribble_wf {d : Dev} (a n : Nat) (h : Memory.wf d.mem) : Memory.wf (d.scribble a n).mem := by
  unfold Dev.scribble
  split
  · exact h
  · exact wf_memClear a n h

/-- A write to host memory keeps its canonical form. -/
theorem Dev.hostPoke_wf {d : Dev} (a : Nat) (bs : List Byte) (h : Memory.wf d.hostMem) : Memory.wf (d.hostPoke a bs).hostMem :=
  wf_memPutList a bs h

/-- Memory is canonical at reset. -/
theorem reset_memory_wf : Memory.wf State.reset.dev.mem ∧ Memory.wf State.reset.dev.hostMem := by decide

end Sys2Proof.Machine
end

