-- ==== Sys2Proof/Laws/Guards.lean ====
section
/-!
SUPPORT. What the operations that guard a meaning do when the conditions of Sys2Proof/Safety.lean hold: they run its effect.
-/
namespace Sys2Proof.Machine

/-- A meaning answers the state after its effect on the device. -/
theorem State.run_after (s : State) (f : Dev → Dev) : s.run f = .next (s.after (f s.dev)) := rfl

/-- The guard of commands lets a command that runs have its effect. -/
theorem Dev.onCmd_runs {d : Dev} {slot op : Nat} {c : Cmd} (h : d.CmdRuns slot op c) (f : Cmd → Dev → Dev) :
    d.onCmd slot op f = f c d := by
  obtain ⟨h1, h2, h3, h4, h5, h6, h7, h8⟩ := h
  simp [Dev.onCmd, h1, h2, h3, h4, h5, h6, h7, h8]

/-- The guard of routines lets a routine that runs have its next piece. -/
theorem Dev.onRoutine_runs {d : Dev} {slot op : Nat} {c : Cmd} (h : d.RoutineRuns slot op c) (f : Cmd → Dev → Dev) :
    d.onRoutine slot op f = f c d := by
  unfold Dev.onRoutine
  rw [Dev.onCmd_runs h.toCmdRuns]
  have h1 : (c.saved < c.done && c.tab.isSome) = false := by
    rcases h.saved with h | h
    · simp [h]
    · simp; omega
  have h2 : (!c.midChunk && !c.cores.isEmpty && c.cores.all fun k => c.preempt.contains k || c.suspended.contains k) = false := by
    rw [h.calm.1, h.calm.2]
    cases c.cores <;> simp
  refine (if_neg (by rw [h1]; simp [h.stop])).trans (if_neg (by rw [h2]; decide))

/-- A LONG routine that has begun runs its next chunk; the last one completes it. -/
theorem Dev.longRun_chunk {d : Dev} {slot op : Nat} {c : Cmd} (h : d.RoutineRuns slot op c) (h0 : c.total ≠ 0) (h1 : c.done < c.total)
    {total epoch : Nat} {cores : List Nat} {result : Cmd → Nat} {chunk : Cmd → Dev → Dev × Except Fail Cmd} {d' : Dev} {c' : Cmd}
    (h2 : chunk c d = (d', .ok c')) :
    d.longRun slot op total epoch cores result chunk =
      let e := d'.updCmd slot fun y =>
        { y with done := c.done + 1, rested := false, cursor := c'.cursor, rstate := c'.rstate, hits := c'.hits, aux := c'.aux }
      if c.done + 1 = c.total then e.okCmd slot (result { c' with done := c.done + 1, rested := false }) else e := by
  unfold Dev.longRun
  refine (Dev.onRoutine_runs h _).trans ?_
  have hb : (c.total != 0) = true := by simp [h0]
  simp only [hb, if_true, h.found, Nat.not_le.2 h1, if_false, h2]

/-- The guard of descriptors lets one that starts have its effect. -/
theorem Dev.onTd_starts {d : Dev} {id kind : Nat} {t : Td} {kinds : List Nat} (h : d.TdStarts id kind t) (hk : kinds.contains kind = true)
    (f : Td → Dev → Dev) : d.onTd id kinds f = f t (d.tdStart t) := by
  obtain ⟨h1, h2, h3⟩ := h
  unfold Dev.onTd
  rw [h1]
  simp only [h2, h3, hk, Bool.and_self, if_true]

/-- The guard of packets lets the packet taken have its effect. -/
theorem Dev.onPkt_taken {d : Dev} {typ : Nat} {k : FabPkt} {d' : Dev} (h : d.PktTaken typ k d') (f : FabPkt → Dev → Dev) :
    d.onPkt typ f = f k d' := by
  unfold Dev.onPkt
  simp [h.clocks, h.next]

/-- The guard of porters lets the descriptor taken up have its effect. -/
theorem Dev.onPorter_takes {d : Dev} {p op x : Nat} {r : PorterRun} {d' : Dev} (h : d.PorterTakes p op r x d') (f : PrtEffect) :
    d.onPorter p op f = f p { r with waitOk := true } x d' := by
  obtain ⟨h1, h2, h3, h4, h5, d1, d2, bs, h6, h7, h8, h9, h10, h11⟩ := h
  have h4' : (r.pos != 0) = false := by simp [h4]
  simp only [Dev.onPorter, h1, h2, h3, h6, h7, h4', h8, h5]
  refine (if_neg (by simp)).trans ((if_neg (by simp)).trans ((if_neg (by simp)).trans ((if_neg ?_).trans ?_)))
  · intro h
    rw [Bool.or_eq_true] at h
    rcases h with h | h
    · simp at h
      have := h9 h.1.1 h.1.2
      simp [this] at h
    · simp at h
      have := h10 h.1
      simp [this] at h
  · rw [h11]

/-- An array descriptor that starts takes the array for its command. -/
theorem Dev.onArr_starts {d : Dev} {id kind : Nat} {t : Td} (h : d.TdStarts id kind t) (ho : d.arrOpenTo t.core t.cmd = true)
    (hr : (d.tdStart t).arrRefusal t.core = none) (f : Td → Dev → Dev) :
    d.onArr id kind f = f t ((d.tdStart t).setArr t.core { (d.tdStart t).arrOf t.core with owner := some t.cmd }) := by
  unfold Dev.onArr
  simp only [h.found, ho, if_true]
  rw [Dev.onTd_starts h (by simp)]
  simp only [hr]

/-- A VE instruction whose writes succeed leaves its result as the newest of eight. -/
theorem Dev.veDo_at {d d' : Dev} {core op : Nat} {r : VeRun} (h : d.VeAt core op r) (f : VeRun → Nat → Lane → Nat)
    (hw : d.veWrite core r.ctx (r.writes r.word ((r.lanes r.word).map (f r r.word)) fun _ => true) = ⟨d', none⟩) :
    d.veDo core op f =
      { d' with ve := kvPut core { r with pos := r.pos + 1, res := ((r.lanes r.word).map (f r r.word) :: r.res).take 8 } d'.ve } := by
  obtain ⟨h1, h2, h3, h4, h5⟩ := h
  unfold Dev.veDo Dev.onVe
  simp only [h1, h2, if_true]
  refine (if_neg (by omega)).trans ?_
  have hk : (fun i => ((r.lanes r.word).map fun _ => true).getD i true) = fun _ => true := by
    funext i
    rw [List.getD_eq_getElem?_getD, List.getElem?_map]
    cases (r.lanes r.word)[i]? <;> rfl
  simp only [hk, hw]

/-- A SCAN descriptor that starts and whose effect succeeds counts its steps and finishes. -/
theorem Dev.onScan_starts {d d' e : Dev} {id op : Nat} {t : Td} {p : ScanParam} (h : d.ScanStarts id op t p e)
    (f : Td → ScanParam → Dev → Put) (hf : f t p e = ⟨d', none⟩) :
    d.onScan id op f = (d'.incMod (Reg.SU_STEPS.COUNT t.core) p.steps).finishTd id := by
  obtain ⟨h1, h2, h3, d1, bs, h4, h5, h6, h7⟩ := h
  unfold Dev.onScan
  simp only [h1.found]
  refine (if_neg (by simp [h2])).trans ((Dev.onTd_starts h1 (by decide) _).trans ?_)
  simp only [h3, h4, ← h5, h6, ← h7, hf]

/-- The guard of walks lets a walk under way have its effect. -/
theorem Dev.onWalk_of {d : Dev} {slot share : Nat} {c : Cmd} {r : ScanRun} {sh : ScanShare} {w : Walk}
    (h : d.WalkOf slot share c r sh w) (f : Cmd → ScanRun → ScanShare → Walk → Dev → Dev) : d.onWalk slot share f = f c r sh w d := by
  obtain ⟨h1, h2, h3, h4, h5, h6, h7, h8⟩ := h
  unfold Dev.onWalk
  simp only [h1, h2, h3, h4, h5, h6, h7, h8]
  rfl

/-- A SOLVE descriptor that starts and whose run succeeds finishes. -/
theorem Dev.slvDesc_runs {d e : Dev} {id routine : Nat} {op : Option Nat} {t : Td} {blk : List Byte} (h : d.TdStarts id 0x40 t)
    (h1 : t.f 0x20 1 = routine) (h2 : ∀ o, op = some o → d.peekNat (t.f 0x18 8 + 0x34) 2 = o)
    (h3 : (d.tdStart t).unitBlocked [domSlv t.core] 0x0C10 = none)
    (h4 : (d.tdStart t).coreRead t.core t.ctx (t.f 0x18 8) 64 = ⟨e, .ok blk⟩) (ran : SlvRan)
    (hr : ran = (let y : Slv := ⟨t.core, t.ctx, routine, t.f 0x22 2, blk⟩
      let left := y.count * y.steps.length - y.stepFirst
      if routine = 3 then e.slvRun y 0 y.count
      else e.slvRun y y.stepFirst (if y.stepCount = 0 then left else min y.stepCount left)))
    (h5 : ran.err = none) : d.slvDesc id routine op = ran.dev.finishTd id := by
  unfold Dev.slvDesc
  simp only [h.found]
  refine (if_neg ?_).trans ((Dev.onTd_starts h (by decide) _).trans ?_)
  · simp only [h1, beq_self_eq_true, Bool.true_and]
    cases op with
    | none => simp
    | some o => simp [h2 o rfl]
  · simp only [h3, h4]
    by_cases h6 : routine = 3
    · subst h6
      simp only [if_true] at hr ⊢
      subst hr
      simp only [h5]
    · simp only [h6, if_false] at hr ⊢
      subst hr
      simp only [h5]

/-- The guard of class commands lets one whose class is owned have its effect. -/
theorem Dev.onClass_runs {d : Dev} {slot op off : Nat} {c : Cmd} {cls : Cmd → Nat} (h : d.ClassRuns slot op c (cls c))
    (f : Cmd → Nat → Dev → Dev) : d.onClass slot op off cls f = (f c (cls c) d).innStatus := by
  unfold Dev.onClass
  refine (Dev.onCmd_runs h.toCmdRuns _).trans ?_
  simp only [h.owned]

/-- The guard of room commands lets one whose room is lodged have its effect. -/
theorem Dev.onRoom_runs {d : Dev} {slot op : Nat} {c : Cmd} {r : Room} (h : d.RoomRuns slot op c r) (f : Cmd → Room → Dev → Dev) :
    d.onRoom slot op f = (f c r d).innStatus := by
  unfold Dev.onRoom
  refine (Dev.onClass_runs (cls := fun c => c.par 3 1 % 16) h.toClassRuns _).trans ?_
  simp only [h.room]

theorem orElse_ok {α : Type} {r : Except Fail α} {a : α} (h : r = .ok a) (E : Fail → Dev) (K : α → Dev) : orElse r E K = K a := by
  subst h
  rfl

theorem Put.next_ok {p : Put} {d : Dev} (h : p = ⟨d, none⟩) (E : Dev → Fail → Dev) (K : Dev → Dev) : p.next E K = K d := by
  subst h
  rfl

/-- The end of an INN_OP whose outcomes are written. -/
theorem Dev.innOpEnd_ok {r : Dev × Except Fail (List Nat)} {id : Nat} {x : InnOp} {gs ocs : List Nat} {d : Dev} (h1 : r.2 = .ok ocs)
    (h2 : r.1.innStatus.writeRaw byInn (some x.ctx) x.list ((gs.zip ocs).flatMap fun p => leBytes 3 p.1 ++ leBytes 1 p.2) = ⟨d, none⟩) :
    Dev.innOpEnd id x gs r = d.finishTd id :=
  (orElse_ok h1 _ _).trans (Put.next_ok h2 _ _)

/-- The guard of INN_OPs lets one that starts have its effect. -/
theorem Dev.onInnOp_starts {d e d₁ d₂ : Dev} {id op : Nat} {t : Td} {gs ocs : List Nat} (h : d.InnOpStarts id op t gs e)
    {waits : InnOp → List Nat → Dev → Bool} {f : InnOp → List Nat → Dev → Dev × Except Fail (List Nat)}
    (hw : d.innRefusal t.innOp = none →
      waits t.innOp ((List.range t.innOp.count).map fun i => d.peekNat (t.innOp.list + 4 * i) 3) d = false)
    (hf : f t.innOp gs e = (d₁, .ok ocs))
    (h2 : d₁.innStatus.writeRaw byInn (some t.innOp.ctx) t.innOp.list ((gs.zip ocs).flatMap fun p => leBytes 3 p.1 ++ leBytes 1 p.2)
      = ⟨d₂, none⟩) : d.onInnOp id op waits f = d₂.finishTd id := by
  obtain ⟨h1, h3, h4, d', bs, h5, h6, rfl⟩ := h
  unfold Dev.onInnOp
  split
  · rename_i h8
    cases h8.symm.trans h1.found
  rename_i t' h8
  cases h8.symm.trans h1.found
  extract_lets x guests
  rw [if_neg, Dev.onTd_starts h1 (by decide)]
  · split
    · rename_i h8
      cases h8.symm.trans h4
    split
    · rename_i h8
      cases h8.symm.trans h5
    rename_i h8
    cases h8.symm.trans h5
    split
    · rename_i h8
      cases h8.symm.trans h6
    rename_i h8
    cases h8.symm.trans h6
    exact Dev.innOpEnd_ok (congrArg Prod.snd hf) (by rw [hf]; exact h2)
  · rintro (h8 | ⟨h8, h9⟩)
    · exact h8 h3
    · rw [hw (Option.isNone_iff_eq_none.1 h8)] at h9
      cases h9

/-- The guard of LEDGER_COMMIT lets one of its operation have its effect. -/
theorem Dev.onLedger_runs {d : Dev} {slot op : Nat} {c : Cmd} (h : d.LedgerRuns slot op c) (f : Cmd → Dev → Dev) :
    d.onLedger slot op f = f c d := by
  unfold Dev.onLedger
  refine (Dev.onCmd_runs h.toCmdRuns _).trans ((if_neg (by simp [h.oper])).trans ?_)
  rw [h.owner]

/-- The guard of the training machinery lets a step that runs go on. -/
theorem Dev.onTrain_runs {d : Dev} {slot : Nat} {c : Cmd} {r : TrainRun} (h : d.StepRuns slot c r) (f : TrainRun → Cmd → Dev → Dev) :
    d.onTrain slot f = f r c d := by
  unfold Dev.onTrain
  rw [h.run, h.found]
  refine (Dev.onRoutine_runs h.toRoutineRuns _).trans ?_
  simp only [h.run]

/-- The management endpoint lets a request that it serves have its effect. -/
theorem Dev.serve_runs {d d' : Dev} {vdm early : Bool} {typ cmd : Nat} (h : d.Serves vdm typ early d') (f : Dev → Dev) :
    d.serve vdm typ cmd early f = f d' := by
  obtain ⟨h1, h2, rfl⟩ := h
  unfold Dev.serve
  refine (if_neg (by simp [h1])).trans ?_
  rcases h2 with h2 | ⟨h2, h3⟩
  · exact if_pos h2
  · by_cases hb : d.booted = true
    · exact if_pos hb
    · exact (if_neg hb).trans ((if_neg (by simp [h2])).trans (if_pos h3))

/-- The firmware update lets a request that fits its state have its effect. -/
theorem Dev.serveUpd_runs {d d' : Dev} {vdm : Bool} {cmd : Nat} {states : List Nat} (h : d.Serves vdm mtPldm true d')
    (h1 : d'.updBad states = none) (f : Dev → Dev) : d.serveUpd vdm cmd states f = f d' := by
  unfold Dev.serveUpd
  refine (Dev.serve_runs h _).trans ?_
  rw [h1]

/-- SPDM lets a request that the connection has come far enough for have its effect. -/
theorem Dev.serveSpdm_runs {d d' : Dev} {vdm early : Bool} {cmd stage : Nat} (h : d.Serves vdm mtSpdm early d')
    (h1 : stage ≤ d'.mgt.spdm) (f : Dev → Dev) : d.serveSpdm vdm cmd stage early f = f d' := by
  unfold Dev.serveSpdm
  exact (Dev.serve_runs h _).trans (if_neg (Nat.not_lt.2 h1))

/-- Hehus lets a command that it takes have its effect. -/
theorem Dev.hCmd_takes {d : Dev} {args : Bool} {level : Nat} (h : d.HehusTakes args level) (f : Dev → Dev) : d.hCmd args level f = f d := by
  unfold Dev.hCmd
  exact (if_neg (by simp [h.args])).trans (if_neg (Nat.not_lt.2 h.level))

end Sys2Proof.Machine
end

