-- ==== Sys2Proof/WellFormed.lean ====
section
/-!
DEFINITION. Which commands are well formed: every operand that numbers something the device has a fixed count of lies below that
count (registers, queues, contexts, cores, porters, ports, stacks, domains: 00 R9, 05 R110, 13 R342, 15 R388, 19 R500).
-/
namespace Sys2Proof

/-- The operands of a command lie in their ranges. -/
def wellFormed : Instr → Bool
  | .sysPwrgdRise _ _ => true
  | .railOutOfRange rail _ => decide (rail < 9)
  | .railHold rail => decide (rail < 9)
  | .thermTrip => true
  | .hbmTempRead stack _ => decide (stack < 12)
  | .clkRefLost ref => decide (ref < 3)
  | .refCoreDomainsHeld => true
  | .clkRefOk ref => decide (ref < 3)
  | .cclkTargetReached core => decide (core < 2)
  | .clkMeasStart _ => true
  | .clkMeasDone _ => true
  | .clockGovernorEval core _ _ _ => decide (core < 2)
  | .policyReleased loop target => decide (loop < 5) && decide (target < 64)
  | .avsCurrentRead _ _ => true
  | .avsVoltageSettled _ => true
  | .avsVdoneTimeout => true
  | .laneWidthEval port _ _ => decide (port < 32)
  | .pmbusPoll rail _ _ _ _ => decide (rail < 9)
  | .sensorUpdate sensor _ _ => decide (sensor < 65536)
  | .sensorFence sensor => decide (sensor < 65536)
  | .bar0Write _ _ => true
  | .reg64LowWrite issuer _ _ => decide (issuer < 6)
  | .reg64HighWrite issuer _ _ => decide (issuer < 6)
  | .reg64LowRead issuer _ => decide (issuer < 6)
  | .rcRead issuer _ _ => decide (issuer < 6)
  | .bar2Read _ _ => true
  | .bar2Write _ _ => true
  | .bar2Resize log2 => decide (log2 < 64)
  | .ctxWindowWrite ctx _ _ => decide (ctx < 16)
  | .ctxCfgWrite ctx _ => decide (ctx < 16)
  | .qpConfigWrite qp _ _ => decide (qp < 256)
  | .qpEnable qp _ => decide (qp < 256)
  | .qpDisable qp => decide (qp < 256)
  | .sqTailDoorbell qp _ => decide (qp < 256)
  | .cqHeadDoorbell qp _ => decide (qp < 256)
  | .sqFetch qp _ => decide (qp < 256)
  | .sqFetchData _ _ => true
  | .cmdDispatch => true
  | .headerWaitSatisfied _ => true
  | .cmdTimeout _ => true
  | .cmdEnd _ => true
  | .msixHoldoffExpiry vector => decide (vector < 64)
  | .msixUnmask vector => decide (vector < 64)
  | .busMasterEnable _ _ _ => true
  | .d3hotEntry => true
  | .d0Entry => true
  | .aspmL1Request => true
  | .flr => true
  | .linkUp speed width _ => decide (speed < 7) && decide (width < 17)
  | .linkRecovery => true
  | .dlDown => true
  | .heldWriteExpiry => true
  | .hostPathReturn => true
  | .hostReadTimeout _ => true
  | .hostReadError _ _ => true
  | .poisonedWriteReceived bar _ => decide (bar < 5)
  | .nop _ => true
  | .abort _ => true
  | .timestamp _ => true
  | .resultRingSet _ => true
  | .eventRingSet _ => true
  | .memCopy _ => true
  | .memFill _ => true
  | .memCopy2d _ => true
  | .memTranspose _ => true
  | .memCheck _ => true
  | .reshard _ => true
  | .execList _ => true
  | .arrayRun _ => true
  | .scanRun _ => true
  | .solve _ => true
  | .veRun _ => true
  | .innClassSet _ => true
  | .innTemplateLoad _ => true
  | .innLodge _ => true
  | .innRelease _ => true
  | .innPin _ => true
  | .innUnpin _ => true
  | .innReadRoom _ _ => true
  | .innQuery _ => true
  | .sampleBatch _ => true
  | .timetableLoad _ => true
  | .trainStep _ => true
  | .optStep _ => true
  | .ledgerVote _ => true
  | .ledgerOpen _ => true
  | .ledgerAdopt _ => true
  | .ledgerClose _ => true
  | .ledgerRevert _ => true
  | .ledgerQuery _ => true
  | .maskSeedSet _ => true
  | .scaleSet _ => true
  | .fabRouteLoad _ => true
  | .collRun _ => true
  | .remoteCopy _ => true
  | .fabPortCtl _ => true
  | .soMirrorBind _ => true
  | .soMirrorUnbind _ => true
  | .pwrPolicySet _ => true
  | .pwrDomainSet _ => true
  | .unitStateSet _ => true
  | .unitStateQuery _ => true
  | .diagArrayTest _ _ => true
  | .diagMemTest _ _ => true
  | .diagLoopback _ _ => true
  | .traceCtl _ => true
  | .waystationSet _ => true
  | .waystationFull _ => true
  | .waystationRestore _ => true
  | .replayStep _ => true
  | .sfuTableLoad _ => true
  | .veProgramLoad _ => true
  | .fwStage _ _ => true
  | .fwActivate _ => true
  | .bootCfgWrite _ => true
  | .tdWrite _ => true
  | .tdNop _ => true
  | .fence _ => true
  | .soOp _ _ => true
  | .soWaitRegister _ _ => true
  | .soValueWrite n _ _ => decide (n < 4096)
  | .soAddWrite n _ _ => decide (n < 4096)
  | .soCfgWrite n _ _ => decide (n < 4096)
  | .soHeartbeat n dev mirror => decide (n < 4096) && decide (dev < 4096) && decide (mirror < 4096)
  | .mirrorStale n => decide (n < 4096)
  | .mirrorBindTimeout _ => true
  | .arrayLoad _ => true
  | .arrayPass _ => true
  | .broadcastFlip core => decide (core < 2)
  | .relayFrontEnter core => decide (core < 2)
  | .arrayColumnFault core col => decide (core < 2) && decide (col < 192)
  | .veRunDesc _ => true
  | .veNop core => decide (core < 2)
  | .setvl core => decide (core < 2)
  | .veLoop core => decide (core < 2)
  | .veCopy core => decide (core < 2)
  | .vePut core => decide (core < 2)
  | .veAdd core => decide (core < 2)
  | .veSub core => decide (core < 2)
  | .veMul core => decide (core < 2)
  | .veFma core => decide (core < 2)
  | .veFms core => decide (core < 2)
  | .veFnma core => decide (core < 2)
  | .veMin core => decide (core < 2)
  | .veMax core => decide (core < 2)
  | .veMinnum core => decide (core < 2)
  | .veMaxnum core => decide (core < 2)
  | .veAbs core => decide (core < 2)
  | .veNeg core => decide (core < 2)
  | .copysign core => decide (core < 2)
  | .veClamp core => decide (core < 2)
  | .lerp core => decide (core < 2)
  | .mulp2 core => decide (core < 2)
  | .nrrcp core => decide (core < 2)
  | .nrrsq core => decide (core < 2)
  | .rint core => decide (core < 2)
  | .veCmp core => decide (core < 2)
  | .veSel core => decide (core < 2)
  | .fclass core => decide (core < 2)
  | .veAnd core => decide (core < 2)
  | .veOr core => decide (core < 2)
  | .veXor core => decide (core < 2)
  | .veAndn core => decide (core < 2)
  | .veShl core => decide (core < 2)
  | .veShr core => decide (core < 2)
  | .veShra core => decide (core < 2)
  | .iadd core => decide (core < 2)
  | .isub core => decide (core < 2)
  | .imul core => decide (core < 2)
  | .icmp core => decide (core < 2)
  | .cvtif core => decide (core < 2)
  | .cvtfi core => decide (core < 2)
  | .rbf16 core => decide (core < 2)
  | .srbf16 core => decide (core < 2)
  | .veSfu core => decide (core < 2)
  | .sfubas core => decide (core < 2)
  | .sfugate core => decide (core < 2)
  | .dropm core => decide (core < 2)
  | .ruRun _ => true
  | .scan _ => true
  | .chunkSummary _ => true
  | .carryCombine _ => true
  | .reverseScan _ => true
  | .zeroOrderHold _ => true
  | .newtonSchulz _ => true
  | .cholesky _ => true
  | .slvDiv _ => true
  | .slvSqrt _ => true
  | .slvRsqrt _ => true
  | .slvFma _ => true
  | .zoh1 _ => true
  | .qFromF64 _ => true
  | .qToF64 _ => true
  | .qadd _ => true
  | .qsub _ => true
  | .qmul _ => true
  | .qfma _ => true
  | .checkIn _ _ => true
  | .checkOut _ _ => true
  | .unlock _ => true
  | .porterList _ => true
  | .porterNop porter => decide (porter < 24)
  | .prtCopy porter => decide (porter < 24)
  | .prtFill porter => decide (porter < 24)
  | .prtCheck porter => decide (porter < 24)
  | .prtTranspose porter => decide (porter < 24)
  | .remoteWrite porter => decide (porter < 24)
  | .remoteRead porter => decide (porter < 24)
  | .tdComplete _ _ => true
  | .preemptPark _ _ => true
  | .routineResume _ => true
  | .tabWrite _ _ => true
  | .scrubRead stack _ _ => decide (stack < 12)
  | .lockExpiry cls _ => decide (cls < 16)
  | .innEviction cls _ _ => decide (cls < 16)
  | .pinMoveToHall cls _ => decide (cls < 16)
  | .lookbackStep _ share => decide (share < 2)
  | .carryTimeout _ share => decide (share < 2)
  | .portSignalDetect port => decide (port < 32)
  | .equalizeDone port _ => decide (port < 32)
  | .equalizeTimeout port => decide (port < 32)
  | .alignDone port _ => decide (port < 32)
  | .initFlit port dev peerPort _ => decide (port < 32) && decide (dev < 4096) && decide (peerPort < 32)
  | .downRetry port => decide (port < 32)
  | .retrainTimeout port => decide (port < 32)
  | .laneSignalLoss port lanes => decide (port < 32) && decide (lanes < 16)
  | .fecErrorBurst port => decide (port < 32)
  | .flitReceive port _ => decide (port < 32)
  | .nakReceive port ack => decide (port < 32) && decide (ack < 65536)
  | .replayTimer port => decide (port < 32)
  | .widthFlit port width => decide (port < 32) && decide (width < 5)
  | .packetRoute => true
  | .memWrite => true
  | .memRead => true
  | .soOpPkt _ => true
  | .mirrorBind => true
  | .mirrorUnbind => true
  | .carryRead => true
  | .waystationWrite => true
  | .ack => true
  | .readData => true
  | .soPush => true
  | .carryData => true
  | .collData => true
  | .vote => true
  | .loopback => true
  | .fabTransactionTimeout _ => true
  | .fabCreditStall port vc => decide (port < 32) && decide (vc < 4)
  | .earlyBufferExpiry => true
  | .collTimeout _ _ => true
  | .voteCast _ _ => true
  | .commitTimeout => true
  | .timetableEntry _ => true
  | .stageTimeout _ => true
  | .bucketReduceStart _ => true
  | .fastCheckpoint => true
  | .gapTimeout ctx _ => decide (ctx < 16)
  | .batchWindowExpiry ctx => decide (ctx < 16)
  | .batchRun _ => true
  | .srvRegisterWrite ctx _ _ => decide (ctx < 16)
  | .srvRingHeadWrite ctx _ => decide (ctx < 16)
  | .reservePeriod => true
  | .domainDrainDone dom => decide (dom < 64)
  | .domainPowerDownDone dom => decide (dom < 64)
  | .domainDwellEnd dom => decide (dom < 64)
  | .domainWakeDone dom => decide (dom < 64)
  | .rstWarm => true
  | .rstCold => true
  | .rstCore target => decide (target < 16)
  | .rstContext target => decide (target < 16)
  | .coreResetForceStop core => decide (core < 2)
  | .perst => true
  | .cpWatchdog => true
  | .bootStageDone _ _ => true
  | .trialTimeout => true
  | .mctpPacket _ _ dest typ _ _ _ => decide (dest < 256) && decide (typ < 128)
  | .setEndpointId _ eid => decide (eid < 256)
  | .getEndpointId _ => true
  | .getEndpointUuid _ => true
  | .getMctpVersionSupport _ => true
  | .getMessageTypeSupport _ => true
  | .getTid _ => true
  | .getPldmVersion _ typ => decide (typ < 64)
  | .getPldmTypes _ => true
  | .getPldmCommands _ typ => decide (typ < 64)
  | .getPdrRepositoryInfo _ => true
  | .getPdr _ _ => true
  | .getSensorReading _ sensor => decide (sensor < 65536)
  | .getStateSensorReadings _ sensor => decide (sensor < 65536)
  | .setStateEffecterStates _ effecter value => decide (effecter < 65536) && decide (value < 256)
  | .getStateEffecterStates _ effecter => decide (effecter < 65536)
  | .setEventReceiver _ _ mode => decide (mode < 256)
  | .platformEventMessage => true
  | .pollForPlatformEventMessage _ _ _ => true
  | .requestUpdate _ _ => true
  | .passComponentTable _ cls ident => decide (cls < 65536) && decide (ident < 65536)
  | .updateComponent _ cls ident _ => decide (cls < 65536) && decide (ident < 65536)
  | .requestFirmwareData _ => true
  | .transferComplete => true
  | .verifyComplete => true
  | .applyComplete _ => true
  | .activateFirmware _ _ => true
  | .getStatus _ => true
  | .cancelUpdateComponent _ => true
  | .cancelUpdate _ => true
  | .queryDeviceIdentifiers _ => true
  | .getFirmwareParameters _ => true
  | .updateInactivityTimeout => true
  | .getVersion _ => true
  | .getCapabilities _ => true
  | .negotiateAlgorithms _ _ _ _ => true
  | .getDigests _ => true
  | .getCertificate _ _ _ _ => true
  | .challenge _ _ => true
  | .getMeasurements _ index _ => decide (index < 256)
  | .errEvtHeadWrite _ => true
  | .hehusLine _ => true
  | .hehusInterrupt => true
  | .hehusHelp => true
  | .hehusInfo => true
  | .hehusUnlock _ => true
  | .hehusResp _ => true
  | .hehusLock => true
  | .hehusBaud _ => true
  | .baudSwitch => true
  | .nonceExpiry => true
  | .unlockBackoffEnd => true
  | .hehusRd _ _ => true
  | .hehusWr _ _ => true
  | .hehusDump _ _ => true
  | .hehusFill _ _ _ => true
  | .hehusSo _ _ => true
  | .hehusSoSet _ _ => true
  | .hehusSoAdd _ _ => true
  | .hehusInn _ _ => true
  | .hehusInnImage _ _ _ => true
  | .hehusPwr => true
  | .hehusPwrSet _ _ => true
  | .hehusUnit _ => true
  | .hehusUnitSet _ _ => true
  | .hehusEvents => true
  | .hehusTraceStart _ _ => true
  | .hehusTraceStop => true
  | .hehusTraceClear => true
  | .hehusTraceDump _ => true
  | .hehusReset _ => true
  | .hehusAccessTimeout => true
  | .bypass => true
  | .idcode => true
  | .samplePreload => true
  | .extest => true
  | .highz => true
  | .extestPulse => true
  | .extestTrain => true
  | .dbgAuth op level _ => decide (op < 4) && decide (level < 4)
  | .dbgMem _ _ _ => true
  | .tapRelease => true
  | .tapClamp => true
  | .aspmL1Exit => true
  | .resetComplete kind target _ => decide (kind < 3) && decide (target < 16)
  | .portFlushTimeout port => decide (port < 32)
  | .junctionWarmRelease => true

end Sys2Proof
end

