-- ==== Sys2Proof/Laws/PerInstr.lean ====
section
/-!
SUPPORT. One lemma per command for a statement about every command. `Shape.Statement`: the command's row admits well-formed operands,
so the check of WellFormed.lean shuts no row out.
-/
namespace Sys2Proof.Laws

open Sys2Proof.Machine (HostRead Ecc Flit)

/-- Some command of the same row is well formed. -/
def Shape.Statement (i : Instr) : Prop := ∃ j : Instr, j.ctorIdx = i.ctorIdx ∧ wellFormed j = true

theorem Shape.sysPwrgdRise (missing : List Nat) (cold : Bool) : Shape.Statement (.sysPwrgdRise missing cold) := ⟨.sysPwrgdRise [] false, rfl, rfl⟩
theorem Shape.railOutOfRange (rail : Nat) (mv : Nat) : Shape.Statement (.railOutOfRange rail mv) := ⟨.railOutOfRange 0 0, rfl, rfl⟩
theorem Shape.railHold (rail : Nat) : Shape.Statement (.railHold rail) := ⟨.railHold 0, rfl, rfl⟩
theorem Shape.thermTrip : Shape.Statement (.thermTrip) := ⟨.thermTrip, rfl, rfl⟩
theorem Shape.hbmTempRead (stack : Nat) (temp : Nat) : Shape.Statement (.hbmTempRead stack temp) := ⟨.hbmTempRead 0 0, rfl, rfl⟩
theorem Shape.clkRefLost (ref : Nat) : Shape.Statement (.clkRefLost ref) := ⟨.clkRefLost 0, rfl, rfl⟩
theorem Shape.refCoreDomainsHeld : Shape.Statement (.refCoreDomainsHeld) := ⟨.refCoreDomainsHeld, rfl, rfl⟩
theorem Shape.clkRefOk (ref : Nat) : Shape.Statement (.clkRefOk ref) := ⟨.clkRefOk 0, rfl, rfl⟩
theorem Shape.cclkTargetReached (core : Nat) : Shape.Statement (.cclkTargetReached core) := ⟨.cclkTargetReached 0, rfl, rfl⟩
theorem Shape.clkMeasStart (value : Word) : Shape.Statement (.clkMeasStart value) := ⟨.clkMeasStart 0, rfl, rfl⟩
theorem Shape.clkMeasDone (count : Nat) : Shape.Statement (.clkMeasDone count) := ⟨.clkMeasDone 0, rfl, rfl⟩
theorem Shape.clockGovernorEval (core : Nat) (w1s : Nat) (w1ms : Nat) (idle : Bool) : Shape.Statement (.clockGovernorEval core w1s w1ms idle) := ⟨.clockGovernorEval 0 0 0 false, rfl, rfl⟩
theorem Shape.policyReleased (loop : Nat) (target : Nat) : Shape.Statement (.policyReleased loop target) := ⟨.policyReleased 0 0, rfl, rfl⟩
theorem Shape.avsCurrentRead (amps : Nat) (ok : Bool) : Shape.Statement (.avsCurrentRead amps ok) := ⟨.avsCurrentRead 0 false, rfl, rfl⟩
theorem Shape.avsVoltageSettled (vdone : Bool) : Shape.Statement (.avsVoltageSettled vdone) := ⟨.avsVoltageSettled false, rfl, rfl⟩
theorem Shape.avsVdoneTimeout : Shape.Statement (.avsVdoneTimeout) := ⟨.avsVdoneTimeout, rfl, rfl⟩
theorem Shape.laneWidthEval (port : Nat) (util : Nat) (stalled : Bool) : Shape.Statement (.laneWidthEval port util stalled) := ⟨.laneWidthEval 0 0 false, rfl, rfl⟩
theorem Shape.pmbusPoll (rail : Nat) (mv : Nat) (status : Nat) (ok : Bool) (fault : Bool) : Shape.Statement (.pmbusPoll rail mv status ok fault) := ⟨.pmbusPoll 0 0 0 false false, rfl, rfl⟩
theorem Shape.sensorUpdate (sensor : Nat) (present : Bool) (value : Int) : Shape.Statement (.sensorUpdate sensor present value) := ⟨.sensorUpdate 0 false 0, rfl, rfl⟩
theorem Shape.sensorFence (sensor : Nat) : Shape.Statement (.sensorFence sensor) := ⟨.sensorFence 0, rfl, rfl⟩
theorem Shape.bar0Write (off : Nat) (dwords : List (Word × Bool)) : Shape.Statement (.bar0Write off dwords) := ⟨.bar0Write 0 [], rfl, rfl⟩
theorem Shape.reg64LowWrite (issuer : Nat) (off : Nat) (value : Word) : Shape.Statement (.reg64LowWrite issuer off value) := ⟨.reg64LowWrite 0 0 0, rfl, rfl⟩
theorem Shape.reg64HighWrite (issuer : Nat) (off : Nat) (value : Word) : Shape.Statement (.reg64HighWrite issuer off value) := ⟨.reg64HighWrite 0 0 0, rfl, rfl⟩
theorem Shape.reg64LowRead (issuer : Nat) (off : Nat) : Shape.Statement (.reg64LowRead issuer off) := ⟨.reg64LowRead 0 0, rfl, rfl⟩
theorem Shape.rcRead (issuer : Nat) (off : Nat) (wide : Bool) : Shape.Statement (.rcRead issuer off wide) := ⟨.rcRead 0 0 false, rfl, rfl⟩
theorem Shape.bar2Read (off : Nat) (len : Nat) : Shape.Statement (.bar2Read off len) := ⟨.bar2Read 0 0, rfl, rfl⟩
theorem Shape.bar2Write (off : Nat) (data : List Byte) : Shape.Statement (.bar2Write off data) := ⟨.bar2Write 0 [], rfl, rfl⟩
theorem Shape.bar2Resize (log2 : Nat) : Shape.Statement (.bar2Resize log2) := ⟨.bar2Resize 0, rfl, rfl⟩
theorem Shape.ctxWindowWrite (ctx : Nat) (off : Nat) (value : QWord) : Shape.Statement (.ctxWindowWrite ctx off value) := ⟨.ctxWindowWrite 0 0 0, rfl, rfl⟩
theorem Shape.ctxCfgWrite (ctx : Nat) (value : Word) : Shape.Statement (.ctxCfgWrite ctx value) := ⟨.ctxCfgWrite 0 0, rfl, rfl⟩
theorem Shape.qpConfigWrite (qp : Nat) (off : Nat) (value : QWord) : Shape.Statement (.qpConfigWrite qp off value) := ⟨.qpConfigWrite 0 0 0, rfl, rfl⟩
theorem Shape.qpEnable (qp : Nat) (value : Word) : Shape.Statement (.qpEnable qp value) := ⟨.qpEnable 0 0, rfl, rfl⟩
theorem Shape.qpDisable (qp : Nat) : Shape.Statement (.qpDisable qp) := ⟨.qpDisable 0, rfl, rfl⟩
theorem Shape.sqTailDoorbell (qp : Nat) (value : Word) : Shape.Statement (.sqTailDoorbell qp value) := ⟨.sqTailDoorbell 0 0, rfl, rfl⟩
theorem Shape.cqHeadDoorbell (qp : Nat) (value : Word) : Shape.Statement (.cqHeadDoorbell qp value) := ⟨.cqHeadDoorbell 0 0, rfl, rfl⟩
theorem Shape.sqFetch (qp : Nat) (count : Nat) : Shape.Statement (.sqFetch qp count) := ⟨.sqFetch 0 0, rfl, rfl⟩
theorem Shape.sqFetchData (slot : Nat) (outcome : HostRead) : Shape.Statement (.sqFetchData slot outcome) := ⟨.sqFetchData 0 .ok, rfl, rfl⟩
theorem Shape.cmdDispatch : Shape.Statement (.cmdDispatch) := ⟨.cmdDispatch, rfl, rfl⟩
theorem Shape.headerWaitSatisfied (slot : Nat) : Shape.Statement (.headerWaitSatisfied slot) := ⟨.headerWaitSatisfied 0, rfl, rfl⟩
theorem Shape.cmdTimeout (slot : Nat) : Shape.Statement (.cmdTimeout slot) := ⟨.cmdTimeout 0, rfl, rfl⟩
theorem Shape.cmdEnd (slot : Nat) : Shape.Statement (.cmdEnd slot) := ⟨.cmdEnd 0, rfl, rfl⟩
theorem Shape.msixHoldoffExpiry (vector : Nat) : Shape.Statement (.msixHoldoffExpiry vector) := ⟨.msixHoldoffExpiry 0, rfl, rfl⟩
theorem Shape.msixUnmask (vector : Nat) : Shape.Statement (.msixUnmask vector) := ⟨.msixUnmask 0, rfl, rfl⟩
theorem Shape.busMasterEnable (msix : Bool) (fmask : Bool) (l1 : Bool) : Shape.Statement (.busMasterEnable msix fmask l1) := ⟨.busMasterEnable false false false, rfl, rfl⟩
theorem Shape.d3hotEntry : Shape.Statement (.d3hotEntry) := ⟨.d3hotEntry, rfl, rfl⟩
theorem Shape.d0Entry : Shape.Statement (.d0Entry) := ⟨.d0Entry, rfl, rfl⟩
theorem Shape.aspmL1Request : Shape.Statement (.aspmL1Request) := ⟨.aspmL1Request, rfl, rfl⟩
theorem Shape.flr : Shape.Statement (.flr) := ⟨.flr, rfl, rfl⟩
theorem Shape.linkUp (speed : Nat) (width : Nat) (flit : Bool) : Shape.Statement (.linkUp speed width flit) := ⟨.linkUp 0 0 false, rfl, rfl⟩
theorem Shape.linkRecovery : Shape.Statement (.linkRecovery) := ⟨.linkRecovery, rfl, rfl⟩
theorem Shape.dlDown : Shape.Statement (.dlDown) := ⟨.dlDown, rfl, rfl⟩
theorem Shape.heldWriteExpiry : Shape.Statement (.heldWriteExpiry) := ⟨.heldWriteExpiry, rfl, rfl⟩
theorem Shape.hostPathReturn : Shape.Statement (.hostPathReturn) := ⟨.hostPathReturn, rfl, rfl⟩
theorem Shape.hostReadTimeout (slot : Nat) : Shape.Statement (.hostReadTimeout slot) := ⟨.hostReadTimeout 0, rfl, rfl⟩
theorem Shape.hostReadError (slot : Nat) (poisoned : Bool) : Shape.Statement (.hostReadError slot poisoned) := ⟨.hostReadError 0 false, rfl, rfl⟩
theorem Shape.poisonedWriteReceived (bar : Nat) (off : Nat) : Shape.Statement (.poisonedWriteReceived bar off) := ⟨.poisonedWriteReceived 0 0, rfl, rfl⟩
theorem Shape.nop (slot : Nat) : Shape.Statement (.nop slot) := ⟨.nop 0, rfl, rfl⟩
theorem Shape.abort (slot : Nat) : Shape.Statement (.abort slot) := ⟨.abort 0, rfl, rfl⟩
theorem Shape.timestamp (slot : Nat) : Shape.Statement (.timestamp slot) := ⟨.timestamp 0, rfl, rfl⟩
theorem Shape.resultRingSet (slot : Nat) : Shape.Statement (.resultRingSet slot) := ⟨.resultRingSet 0, rfl, rfl⟩
theorem Shape.eventRingSet (slot : Nat) : Shape.Statement (.eventRingSet slot) := ⟨.eventRingSet 0, rfl, rfl⟩
theorem Shape.memCopy (slot : Nat) : Shape.Statement (.memCopy slot) := ⟨.memCopy 0, rfl, rfl⟩
theorem Shape.memFill (slot : Nat) : Shape.Statement (.memFill slot) := ⟨.memFill 0, rfl, rfl⟩
theorem Shape.memCopy2d (slot : Nat) : Shape.Statement (.memCopy2d slot) := ⟨.memCopy2d 0, rfl, rfl⟩
theorem Shape.memTranspose (slot : Nat) : Shape.Statement (.memTranspose slot) := ⟨.memTranspose 0, rfl, rfl⟩
theorem Shape.memCheck (slot : Nat) : Shape.Statement (.memCheck slot) := ⟨.memCheck 0, rfl, rfl⟩
theorem Shape.reshard (slot : Nat) : Shape.Statement (.reshard slot) := ⟨.reshard 0, rfl, rfl⟩
theorem Shape.execList (slot : Nat) : Shape.Statement (.execList slot) := ⟨.execList 0, rfl, rfl⟩
theorem Shape.arrayRun (slot : Nat) : Shape.Statement (.arrayRun slot) := ⟨.arrayRun 0, rfl, rfl⟩
theorem Shape.scanRun (slot : Nat) : Shape.Statement (.scanRun slot) := ⟨.scanRun 0, rfl, rfl⟩
theorem Shape.solve (slot : Nat) : Shape.Statement (.solve slot) := ⟨.solve 0, rfl, rfl⟩
theorem Shape.veRun (slot : Nat) : Shape.Statement (.veRun slot) := ⟨.veRun 0, rfl, rfl⟩
theorem Shape.innClassSet (slot : Nat) : Shape.Statement (.innClassSet slot) := ⟨.innClassSet 0, rfl, rfl⟩
theorem Shape.innTemplateLoad (slot : Nat) : Shape.Statement (.innTemplateLoad slot) := ⟨.innTemplateLoad 0, rfl, rfl⟩
theorem Shape.innLodge (slot : Nat) : Shape.Statement (.innLodge slot) := ⟨.innLodge 0, rfl, rfl⟩
theorem Shape.innRelease (slot : Nat) : Shape.Statement (.innRelease slot) := ⟨.innRelease 0, rfl, rfl⟩
theorem Shape.innPin (slot : Nat) : Shape.Statement (.innPin slot) := ⟨.innPin 0, rfl, rfl⟩
theorem Shape.innUnpin (slot : Nat) : Shape.Statement (.innUnpin slot) := ⟨.innUnpin 0, rfl, rfl⟩
theorem Shape.innReadRoom (slot : Nat) (bad : List (Nat × Bool)) : Shape.Statement (.innReadRoom slot bad) := ⟨.innReadRoom 0 [], rfl, rfl⟩
theorem Shape.innQuery (slot : Nat) : Shape.Statement (.innQuery slot) := ⟨.innQuery 0, rfl, rfl⟩
theorem Shape.sampleBatch (slot : Nat) : Shape.Statement (.sampleBatch slot) := ⟨.sampleBatch 0, rfl, rfl⟩
theorem Shape.timetableLoad (slot : Nat) : Shape.Statement (.timetableLoad slot) := ⟨.timetableLoad 0, rfl, rfl⟩
theorem Shape.trainStep (slot : Nat) : Shape.Statement (.trainStep slot) := ⟨.trainStep 0, rfl, rfl⟩
theorem Shape.optStep (slot : Nat) : Shape.Statement (.optStep slot) := ⟨.optStep 0, rfl, rfl⟩
theorem Shape.ledgerVote (slot : Nat) : Shape.Statement (.ledgerVote slot) := ⟨.ledgerVote 0, rfl, rfl⟩
theorem Shape.ledgerOpen (slot : Nat) : Shape.Statement (.ledgerOpen slot) := ⟨.ledgerOpen 0, rfl, rfl⟩
theorem Shape.ledgerAdopt (slot : Nat) : Shape.Statement (.ledgerAdopt slot) := ⟨.ledgerAdopt 0, rfl, rfl⟩
theorem Shape.ledgerClose (slot : Nat) : Shape.Statement (.ledgerClose slot) := ⟨.ledgerClose 0, rfl, rfl⟩
theorem Shape.ledgerRevert (slot : Nat) : Shape.Statement (.ledgerRevert slot) := ⟨.ledgerRevert 0, rfl, rfl⟩
theorem Shape.ledgerQuery (slot : Nat) : Shape.Statement (.ledgerQuery slot) := ⟨.ledgerQuery 0, rfl, rfl⟩
theorem Shape.maskSeedSet (slot : Nat) : Shape.Statement (.maskSeedSet slot) := ⟨.maskSeedSet 0, rfl, rfl⟩
theorem Shape.scaleSet (slot : Nat) : Shape.Statement (.scaleSet slot) := ⟨.scaleSet 0, rfl, rfl⟩
theorem Shape.fabRouteLoad (slot : Nat) : Shape.Statement (.fabRouteLoad slot) := ⟨.fabRouteLoad 0, rfl, rfl⟩
theorem Shape.collRun (slot : Nat) : Shape.Statement (.collRun slot) := ⟨.collRun 0, rfl, rfl⟩
theorem Shape.remoteCopy (slot : Nat) : Shape.Statement (.remoteCopy slot) := ⟨.remoteCopy 0, rfl, rfl⟩
theorem Shape.fabPortCtl (slot : Nat) : Shape.Statement (.fabPortCtl slot) := ⟨.fabPortCtl 0, rfl, rfl⟩
theorem Shape.soMirrorBind (slot : Nat) : Shape.Statement (.soMirrorBind slot) := ⟨.soMirrorBind 0, rfl, rfl⟩
theorem Shape.soMirrorUnbind (slot : Nat) : Shape.Statement (.soMirrorUnbind slot) := ⟨.soMirrorUnbind 0, rfl, rfl⟩
theorem Shape.pwrPolicySet (slot : Nat) : Shape.Statement (.pwrPolicySet slot) := ⟨.pwrPolicySet 0, rfl, rfl⟩
theorem Shape.pwrDomainSet (slot : Nat) : Shape.Statement (.pwrDomainSet slot) := ⟨.pwrDomainSet 0, rfl, rfl⟩
theorem Shape.unitStateSet (slot : Nat) : Shape.Statement (.unitStateSet slot) := ⟨.unitStateSet 0, rfl, rfl⟩
theorem Shape.unitStateQuery (slot : Nat) : Shape.Statement (.unitStateQuery slot) := ⟨.unitStateQuery 0, rfl, rfl⟩
theorem Shape.diagArrayTest (slot : Nat) (fails : List Nat) : Shape.Statement (.diagArrayTest slot fails) := ⟨.diagArrayTest 0 [], rfl, rfl⟩
theorem Shape.diagMemTest (slot : Nat) (bad : List (Nat × Bool)) : Shape.Statement (.diagMemTest slot bad) := ⟨.diagMemTest 0 [], rfl, rfl⟩
theorem Shape.diagLoopback (slot : Nat) (bad : Nat) : Shape.Statement (.diagLoopback slot bad) := ⟨.diagLoopback 0 0, rfl, rfl⟩
theorem Shape.traceCtl (slot : Nat) : Shape.Statement (.traceCtl slot) := ⟨.traceCtl 0, rfl, rfl⟩
theorem Shape.waystationSet (slot : Nat) : Shape.Statement (.waystationSet slot) := ⟨.waystationSet 0, rfl, rfl⟩
theorem Shape.waystationFull (slot : Nat) : Shape.Statement (.waystationFull slot) := ⟨.waystationFull 0, rfl, rfl⟩
theorem Shape.waystationRestore (slot : Nat) : Shape.Statement (.waystationRestore slot) := ⟨.waystationRestore 0, rfl, rfl⟩
theorem Shape.replayStep (slot : Nat) : Shape.Statement (.replayStep slot) := ⟨.replayStep 0, rfl, rfl⟩
theorem Shape.sfuTableLoad (slot : Nat) : Shape.Statement (.sfuTableLoad slot) := ⟨.sfuTableLoad 0, rfl, rfl⟩
theorem Shape.veProgramLoad (slot : Nat) : Shape.Statement (.veProgramLoad slot) := ⟨.veProgramLoad 0, rfl, rfl⟩
theorem Shape.fwStage (slot : Nat) (ok : Bool) : Shape.Statement (.fwStage slot ok) := ⟨.fwStage 0 false, rfl, rfl⟩
theorem Shape.fwActivate (slot : Nat) : Shape.Statement (.fwActivate slot) := ⟨.fwActivate 0, rfl, rfl⟩
theorem Shape.bootCfgWrite (slot : Nat) : Shape.Statement (.bootCfgWrite slot) := ⟨.bootCfgWrite 0, rfl, rfl⟩
theorem Shape.tdWrite (slot : Nat) : Shape.Statement (.tdWrite slot) := ⟨.tdWrite 0, rfl, rfl⟩
theorem Shape.tdNop (id : Nat) : Shape.Statement (.tdNop id) := ⟨.tdNop 0, rfl, rfl⟩
theorem Shape.fence (id : Nat) : Shape.Statement (.fence id) := ⟨.fence 0, rfl, rfl⟩
theorem Shape.soOp (id : Nat) (ue : Bool) : Shape.Statement (.soOp id ue) := ⟨.soOp 0 false, rfl, rfl⟩
theorem Shape.soWaitRegister (who : Nat) (id : Nat) : Shape.Statement (.soWaitRegister who id) := ⟨.soWaitRegister 0 0, rfl, rfl⟩
theorem Shape.soValueWrite (n : Nat) (value : QWord) (ue : Bool) : Shape.Statement (.soValueWrite n value ue) := ⟨.soValueWrite 0 0 false, rfl, rfl⟩
theorem Shape.soAddWrite (n : Nat) (value : Word) (ue : Bool) : Shape.Statement (.soAddWrite n value ue) := ⟨.soAddWrite 0 0 false, rfl, rfl⟩
theorem Shape.soCfgWrite (n : Nat) (value : Word) (ue : Bool) : Shape.Statement (.soCfgWrite n value ue) := ⟨.soCfgWrite 0 0 false, rfl, rfl⟩
theorem Shape.soHeartbeat (n : Nat) (dev : Nat) (mirror : Nat) : Shape.Statement (.soHeartbeat n dev mirror) := ⟨.soHeartbeat 0 0 0, rfl, rfl⟩
theorem Shape.mirrorStale (n : Nat) : Shape.Statement (.mirrorStale n) := ⟨.mirrorStale 0, rfl, rfl⟩
theorem Shape.mirrorBindTimeout (slot : Nat) : Shape.Statement (.mirrorBindTimeout slot) := ⟨.mirrorBindTimeout 0, rfl, rfl⟩
theorem Shape.arrayLoad (id : Nat) : Shape.Statement (.arrayLoad id) := ⟨.arrayLoad 0, rfl, rfl⟩
theorem Shape.arrayPass (id : Nat) : Shape.Statement (.arrayPass id) := ⟨.arrayPass 0, rfl, rfl⟩
theorem Shape.broadcastFlip (core : Nat) : Shape.Statement (.broadcastFlip core) := ⟨.broadcastFlip 0, rfl, rfl⟩
theorem Shape.relayFrontEnter (core : Nat) : Shape.Statement (.relayFrontEnter core) := ⟨.relayFrontEnter 0, rfl, rfl⟩
theorem Shape.arrayColumnFault (core : Nat) (col : Nat) : Shape.Statement (.arrayColumnFault core col) := ⟨.arrayColumnFault 0 0, rfl, rfl⟩
theorem Shape.veRunDesc (id : Nat) : Shape.Statement (.veRunDesc id) := ⟨.veRunDesc 0, rfl, rfl⟩
theorem Shape.veNop (core : Nat) : Shape.Statement (.veNop core) := ⟨.veNop 0, rfl, rfl⟩
theorem Shape.setvl (core : Nat) : Shape.Statement (.setvl core) := ⟨.setvl 0, rfl, rfl⟩
theorem Shape.veLoop (core : Nat) : Shape.Statement (.veLoop core) := ⟨.veLoop 0, rfl, rfl⟩
theorem Shape.veCopy (core : Nat) : Shape.Statement (.veCopy core) := ⟨.veCopy 0, rfl, rfl⟩
theorem Shape.vePut (core : Nat) : Shape.Statement (.vePut core) := ⟨.vePut 0, rfl, rfl⟩
theorem Shape.veAdd (core : Nat) : Shape.Statement (.veAdd core) := ⟨.veAdd 0, rfl, rfl⟩
theorem Shape.veSub (core : Nat) : Shape.Statement (.veSub core) := ⟨.veSub 0, rfl, rfl⟩
theorem Shape.veMul (core : Nat) : Shape.Statement (.veMul core) := ⟨.veMul 0, rfl, rfl⟩
theorem Shape.veFma (core : Nat) : Shape.Statement (.veFma core) := ⟨.veFma 0, rfl, rfl⟩
theorem Shape.veFms (core : Nat) : Shape.Statement (.veFms core) := ⟨.veFms 0, rfl, rfl⟩
theorem Shape.veFnma (core : Nat) : Shape.Statement (.veFnma core) := ⟨.veFnma 0, rfl, rfl⟩
theorem Shape.veMin (core : Nat) : Shape.Statement (.veMin core) := ⟨.veMin 0, rfl, rfl⟩
theorem Shape.veMax (core : Nat) : Shape.Statement (.veMax core) := ⟨.veMax 0, rfl, rfl⟩
theorem Shape.veMinnum (core : Nat) : Shape.Statement (.veMinnum core) := ⟨.veMinnum 0, rfl, rfl⟩
theorem Shape.veMaxnum (core : Nat) : Shape.Statement (.veMaxnum core) := ⟨.veMaxnum 0, rfl, rfl⟩
theorem Shape.veAbs (core : Nat) : Shape.Statement (.veAbs core) := ⟨.veAbs 0, rfl, rfl⟩
theorem Shape.veNeg (core : Nat) : Shape.Statement (.veNeg core) := ⟨.veNeg 0, rfl, rfl⟩
theorem Shape.copysign (core : Nat) : Shape.Statement (.copysign core) := ⟨.copysign 0, rfl, rfl⟩
theorem Shape.veClamp (core : Nat) : Shape.Statement (.veClamp core) := ⟨.veClamp 0, rfl, rfl⟩
theorem Shape.lerp (core : Nat) : Shape.Statement (.lerp core) := ⟨.lerp 0, rfl, rfl⟩
theorem Shape.mulp2 (core : Nat) : Shape.Statement (.mulp2 core) := ⟨.mulp2 0, rfl, rfl⟩
theorem Shape.nrrcp (core : Nat) : Shape.Statement (.nrrcp core) := ⟨.nrrcp 0, rfl, rfl⟩
theorem Shape.nrrsq (core : Nat) : Shape.Statement (.nrrsq core) := ⟨.nrrsq 0, rfl, rfl⟩
theorem Shape.rint (core : Nat) : Shape.Statement (.rint core) := ⟨.rint 0, rfl, rfl⟩
theorem Shape.veCmp (core : Nat) : Shape.Statement (.veCmp core) := ⟨.veCmp 0, rfl, rfl⟩
theorem Shape.veSel (core : Nat) : Shape.Statement (.veSel core) := ⟨.veSel 0, rfl, rfl⟩
theorem Shape.fclass (core : Nat) : Shape.Statement (.fclass core) := ⟨.fclass 0, rfl, rfl⟩
theorem Shape.veAnd (core : Nat) : Shape.Statement (.veAnd core) := ⟨.veAnd 0, rfl, rfl⟩
theorem Shape.veOr (core : Nat) : Shape.Statement (.veOr core) := ⟨.veOr 0, rfl, rfl⟩
theorem Shape.veXor (core : Nat) : Shape.Statement (.veXor core) := ⟨.veXor 0, rfl, rfl⟩
theorem Shape.veAndn (core : Nat) : Shape.Statement (.veAndn core) := ⟨.veAndn 0, rfl, rfl⟩
theorem Shape.veShl (core : Nat) : Shape.Statement (.veShl core) := ⟨.veShl 0, rfl, rfl⟩
theorem Shape.veShr (core : Nat) : Shape.Statement (.veShr core) := ⟨.veShr 0, rfl, rfl⟩
theorem Shape.veShra (core : Nat) : Shape.Statement (.veShra core) := ⟨.veShra 0, rfl, rfl⟩
theorem Shape.iadd (core : Nat) : Shape.Statement (.iadd core) := ⟨.iadd 0, rfl, rfl⟩
theorem Shape.isub (core : Nat) : Shape.Statement (.isub core) := ⟨.isub 0, rfl, rfl⟩
theorem Shape.imul (core : Nat) : Shape.Statement (.imul core) := ⟨.imul 0, rfl, rfl⟩
theorem Shape.icmp (core : Nat) : Shape.Statement (.icmp core) := ⟨.icmp 0, rfl, rfl⟩
theorem Shape.cvtif (core : Nat) : Shape.Statement (.cvtif core) := ⟨.cvtif 0, rfl, rfl⟩
theorem Shape.cvtfi (core : Nat) : Shape.Statement (.cvtfi core) := ⟨.cvtfi 0, rfl, rfl⟩
theorem Shape.rbf16 (core : Nat) : Shape.Statement (.rbf16 core) := ⟨.rbf16 0, rfl, rfl⟩
theorem Shape.srbf16 (core : Nat) : Shape.Statement (.srbf16 core) := ⟨.srbf16 0, rfl, rfl⟩
theorem Shape.veSfu (core : Nat) : Shape.Statement (.veSfu core) := ⟨.veSfu 0, rfl, rfl⟩
theorem Shape.sfubas (core : Nat) : Shape.Statement (.sfubas core) := ⟨.sfubas 0, rfl, rfl⟩
theorem Shape.sfugate (core : Nat) : Shape.Statement (.sfugate core) := ⟨.sfugate 0, rfl, rfl⟩
theorem Shape.dropm (core : Nat) : Shape.Statement (.dropm core) := ⟨.dropm 0, rfl, rfl⟩
theorem Shape.ruRun (id : Nat) : Shape.Statement (.ruRun id) := ⟨.ruRun 0, rfl, rfl⟩
theorem Shape.scan (id : Nat) : Shape.Statement (.scan id) := ⟨.scan 0, rfl, rfl⟩
theorem Shape.chunkSummary (id : Nat) : Shape.Statement (.chunkSummary id) := ⟨.chunkSummary 0, rfl, rfl⟩
theorem Shape.carryCombine (id : Nat) : Shape.Statement (.carryCombine id) := ⟨.carryCombine 0, rfl, rfl⟩
theorem Shape.reverseScan (id : Nat) : Shape.Statement (.reverseScan id) := ⟨.reverseScan 0, rfl, rfl⟩
theorem Shape.zeroOrderHold (id : Nat) : Shape.Statement (.zeroOrderHold id) := ⟨.zeroOrderHold 0, rfl, rfl⟩
theorem Shape.newtonSchulz (id : Nat) : Shape.Statement (.newtonSchulz id) := ⟨.newtonSchulz 0, rfl, rfl⟩
theorem Shape.cholesky (id : Nat) : Shape.Statement (.cholesky id) := ⟨.cholesky 0, rfl, rfl⟩
theorem Shape.slvDiv (id : Nat) : Shape.Statement (.slvDiv id) := ⟨.slvDiv 0, rfl, rfl⟩
theorem Shape.slvSqrt (id : Nat) : Shape.Statement (.slvSqrt id) := ⟨.slvSqrt 0, rfl, rfl⟩
theorem Shape.slvRsqrt (id : Nat) : Shape.Statement (.slvRsqrt id) := ⟨.slvRsqrt 0, rfl, rfl⟩
theorem Shape.slvFma (id : Nat) : Shape.Statement (.slvFma id) := ⟨.slvFma 0, rfl, rfl⟩
theorem Shape.zoh1 (id : Nat) : Shape.Statement (.zoh1 id) := ⟨.zoh1 0, rfl, rfl⟩
theorem Shape.qFromF64 (id : Nat) : Shape.Statement (.qFromF64 id) := ⟨.qFromF64 0, rfl, rfl⟩
theorem Shape.qToF64 (id : Nat) : Shape.Statement (.qToF64 id) := ⟨.qToF64 0, rfl, rfl⟩
theorem Shape.qadd (id : Nat) : Shape.Statement (.qadd id) := ⟨.qadd 0, rfl, rfl⟩
theorem Shape.qsub (id : Nat) : Shape.Statement (.qsub id) := ⟨.qsub 0, rfl, rfl⟩
theorem Shape.qmul (id : Nat) : Shape.Statement (.qmul id) := ⟨.qmul 0, rfl, rfl⟩
theorem Shape.qfma (id : Nat) : Shape.Statement (.qfma id) := ⟨.qfma 0, rfl, rfl⟩
theorem Shape.checkIn (id : Nat) (bad : List (Nat × Bool)) : Shape.Statement (.checkIn id bad) := ⟨.checkIn 0 [], rfl, rfl⟩
theorem Shape.checkOut (id : Nat) (bad : List (Nat × Bool)) : Shape.Statement (.checkOut id bad) := ⟨.checkOut 0 [], rfl, rfl⟩
theorem Shape.unlock (id : Nat) : Shape.Statement (.unlock id) := ⟨.unlock 0, rfl, rfl⟩
theorem Shape.porterList (id : Nat) : Shape.Statement (.porterList id) := ⟨.porterList 0, rfl, rfl⟩
theorem Shape.porterNop (porter : Nat) : Shape.Statement (.porterNop porter) := ⟨.porterNop 0, rfl, rfl⟩
theorem Shape.prtCopy (porter : Nat) : Shape.Statement (.prtCopy porter) := ⟨.prtCopy 0, rfl, rfl⟩
theorem Shape.prtFill (porter : Nat) : Shape.Statement (.prtFill porter) := ⟨.prtFill 0, rfl, rfl⟩
theorem Shape.prtCheck (porter : Nat) : Shape.Statement (.prtCheck porter) := ⟨.prtCheck 0, rfl, rfl⟩
theorem Shape.prtTranspose (porter : Nat) : Shape.Statement (.prtTranspose porter) := ⟨.prtTranspose 0, rfl, rfl⟩
theorem Shape.remoteWrite (porter : Nat) : Shape.Statement (.remoteWrite porter) := ⟨.remoteWrite 0, rfl, rfl⟩
theorem Shape.remoteRead (porter : Nat) : Shape.Statement (.remoteRead porter) := ⟨.remoteRead 0, rfl, rfl⟩
theorem Shape.tdComplete (id : Nat) (parity : Bool) : Shape.Statement (.tdComplete id parity) := ⟨.tdComplete 0 false, rfl, rfl⟩
theorem Shape.preemptPark (slot : Nat) (stageNs : Nat) : Shape.Statement (.preemptPark slot stageNs) := ⟨.preemptPark 0 0, rfl, rfl⟩
theorem Shape.routineResume (slot : Nat) : Shape.Statement (.routineResume slot) := ⟨.routineResume 0, rfl, rfl⟩
theorem Shape.tabWrite (slot : Nat) (torn : Bool) : Shape.Statement (.tabWrite slot torn) := ⟨.tabWrite 0 false, rfl, rfl⟩
theorem Shape.scrubRead (stack : Nat) (addr : Nat) (outcome : Ecc) : Shape.Statement (.scrubRead stack addr outcome) := ⟨.scrubRead 0 0 .clean, rfl, rfl⟩
theorem Shape.lockExpiry (cls : Nat) (guest : Nat) : Shape.Statement (.lockExpiry cls guest) := ⟨.lockExpiry 0 0, rfl, rfl⟩
theorem Shape.innEviction (cls : Nat) (guest : Nat) (bad : List (Nat × Bool)) : Shape.Statement (.innEviction cls guest bad) := ⟨.innEviction 0 0 [], rfl, rfl⟩
theorem Shape.pinMoveToHall (cls : Nat) (guest : Nat) : Shape.Statement (.pinMoveToHall cls guest) := ⟨.pinMoveToHall 0 0, rfl, rfl⟩
theorem Shape.lookbackStep (slot : Nat) (share : Nat) : Shape.Statement (.lookbackStep slot share) := ⟨.lookbackStep 0 0, rfl, rfl⟩
theorem Shape.carryTimeout (slot : Nat) (share : Nat) : Shape.Statement (.carryTimeout slot share) := ⟨.carryTimeout 0 0, rfl, rfl⟩
theorem Shape.portSignalDetect (port : Nat) : Shape.Statement (.portSignalDetect port) := ⟨.portSignalDetect 0, rfl, rfl⟩
theorem Shape.equalizeDone (port : Nat) (gen : Nat) : Shape.Statement (.equalizeDone port gen) := ⟨.equalizeDone 0 0, rfl, rfl⟩
theorem Shape.equalizeTimeout (port : Nat) : Shape.Statement (.equalizeTimeout port) := ⟨.equalizeTimeout 0, rfl, rfl⟩
theorem Shape.alignDone (port : Nat) (bad : Nat) : Shape.Statement (.alignDone port bad) := ⟨.alignDone 0 0, rfl, rfl⟩
theorem Shape.initFlit (port : Nat) (dev : Nat) (peerPort : Nat) (bufs : List Nat) : Shape.Statement (.initFlit port dev peerPort bufs) := ⟨.initFlit 0 0 0 [], rfl, rfl⟩
theorem Shape.downRetry (port : Nat) : Shape.Statement (.downRetry port) := ⟨.downRetry 0, rfl, rfl⟩
theorem Shape.retrainTimeout (port : Nat) : Shape.Statement (.retrainTimeout port) := ⟨.retrainTimeout 0, rfl, rfl⟩
theorem Shape.laneSignalLoss (port : Nat) (lanes : Nat) : Shape.Statement (.laneSignalLoss port lanes) := ⟨.laneSignalLoss 0 0, rfl, rfl⟩
theorem Shape.fecErrorBurst (port : Nat) : Shape.Statement (.fecErrorBurst port) := ⟨.fecErrorBurst 0, rfl, rfl⟩
theorem Shape.flitReceive (port : Nat) (flit : Flit) : Shape.Statement (.flitReceive port flit) := ⟨.flitReceive 0 ⟨0, 0, 0, 0, 0, 0, [], true⟩, rfl, rfl⟩
theorem Shape.nakReceive (port : Nat) (ack : Nat) : Shape.Statement (.nakReceive port ack) := ⟨.nakReceive 0 0, rfl, rfl⟩
theorem Shape.replayTimer (port : Nat) : Shape.Statement (.replayTimer port) := ⟨.replayTimer 0, rfl, rfl⟩
theorem Shape.widthFlit (port : Nat) (width : Nat) : Shape.Statement (.widthFlit port width) := ⟨.widthFlit 0 0, rfl, rfl⟩
theorem Shape.packetRoute : Shape.Statement (.packetRoute) := ⟨.packetRoute, rfl, rfl⟩
theorem Shape.memWrite : Shape.Statement (.memWrite) := ⟨.memWrite, rfl, rfl⟩
theorem Shape.memRead : Shape.Statement (.memRead) := ⟨.memRead, rfl, rfl⟩
theorem Shape.soOpPkt (ue : Bool) : Shape.Statement (.soOpPkt ue) := ⟨.soOpPkt false, rfl, rfl⟩
theorem Shape.mirrorBind : Shape.Statement (.mirrorBind) := ⟨.mirrorBind, rfl, rfl⟩
theorem Shape.mirrorUnbind : Shape.Statement (.mirrorUnbind) := ⟨.mirrorUnbind, rfl, rfl⟩
theorem Shape.carryRead : Shape.Statement (.carryRead) := ⟨.carryRead, rfl, rfl⟩
theorem Shape.waystationWrite : Shape.Statement (.waystationWrite) := ⟨.waystationWrite, rfl, rfl⟩
theorem Shape.ack : Shape.Statement (.ack) := ⟨.ack, rfl, rfl⟩
theorem Shape.readData : Shape.Statement (.readData) := ⟨.readData, rfl, rfl⟩
theorem Shape.soPush : Shape.Statement (.soPush) := ⟨.soPush, rfl, rfl⟩
theorem Shape.carryData : Shape.Statement (.carryData) := ⟨.carryData, rfl, rfl⟩
theorem Shape.collData : Shape.Statement (.collData) := ⟨.collData, rfl, rfl⟩
theorem Shape.vote : Shape.Statement (.vote) := ⟨.vote, rfl, rfl⟩
theorem Shape.loopback : Shape.Statement (.loopback) := ⟨.loopback, rfl, rfl⟩
theorem Shape.fabTransactionTimeout (tag : Nat) : Shape.Statement (.fabTransactionTimeout tag) := ⟨.fabTransactionTimeout 0, rfl, rfl⟩
theorem Shape.fabCreditStall (port : Nat) (vc : Nat) : Shape.Statement (.fabCreditStall port vc) := ⟨.fabCreditStall 0 0, rfl, rfl⟩
theorem Shape.earlyBufferExpiry : Shape.Statement (.earlyBufferExpiry) := ⟨.earlyBufferExpiry, rfl, rfl⟩
theorem Shape.collTimeout (slot : Nat) (part : Nat) : Shape.Statement (.collTimeout slot part) := ⟨.collTimeout 0 0, rfl, rfl⟩
theorem Shape.voteCast (slot : Nat) (late : Bool) : Shape.Statement (.voteCast slot late) := ⟨.voteCast 0 false, rfl, rfl⟩
theorem Shape.commitTimeout : Shape.Statement (.commitTimeout) := ⟨.commitTimeout, rfl, rfl⟩
theorem Shape.timetableEntry (slot : Nat) : Shape.Statement (.timetableEntry slot) := ⟨.timetableEntry 0, rfl, rfl⟩
theorem Shape.stageTimeout (slot : Nat) : Shape.Statement (.stageTimeout slot) := ⟨.stageTimeout 0, rfl, rfl⟩
theorem Shape.bucketReduceStart (slot : Nat) : Shape.Statement (.bucketReduceStart slot) := ⟨.bucketReduceStart 0, rfl, rfl⟩
theorem Shape.fastCheckpoint : Shape.Statement (.fastCheckpoint) := ⟨.fastCheckpoint, rfl, rfl⟩
theorem Shape.gapTimeout (ctx : Nat) (guest : Nat) : Shape.Statement (.gapTimeout ctx guest) := ⟨.gapTimeout 0 0, rfl, rfl⟩
theorem Shape.batchWindowExpiry (ctx : Nat) : Shape.Statement (.batchWindowExpiry ctx) := ⟨.batchWindowExpiry 0, rfl, rfl⟩
theorem Shape.batchRun (tag : Nat) : Shape.Statement (.batchRun tag) := ⟨.batchRun 0, rfl, rfl⟩
theorem Shape.srvRegisterWrite (ctx : Nat) (off : Nat) (value : QWord) : Shape.Statement (.srvRegisterWrite ctx off value) := ⟨.srvRegisterWrite 0 0 0, rfl, rfl⟩
theorem Shape.srvRingHeadWrite (ctx : Nat) (value : Word) : Shape.Statement (.srvRingHeadWrite ctx value) := ⟨.srvRingHeadWrite 0 0, rfl, rfl⟩
theorem Shape.reservePeriod : Shape.Statement (.reservePeriod) := ⟨.reservePeriod, rfl, rfl⟩
theorem Shape.domainDrainDone (dom : Nat) : Shape.Statement (.domainDrainDone dom) := ⟨.domainDrainDone 0, rfl, rfl⟩
theorem Shape.domainPowerDownDone (dom : Nat) : Shape.Statement (.domainPowerDownDone dom) := ⟨.domainPowerDownDone 0, rfl, rfl⟩
theorem Shape.domainDwellEnd (dom : Nat) : Shape.Statement (.domainDwellEnd dom) := ⟨.domainDwellEnd 0, rfl, rfl⟩
theorem Shape.domainWakeDone (dom : Nat) : Shape.Statement (.domainWakeDone dom) := ⟨.domainWakeDone 0, rfl, rfl⟩
theorem Shape.rstWarm : Shape.Statement (.rstWarm) := ⟨.rstWarm, rfl, rfl⟩
theorem Shape.rstCold : Shape.Statement (.rstCold) := ⟨.rstCold, rfl, rfl⟩
theorem Shape.rstCore (target : Nat) : Shape.Statement (.rstCore target) := ⟨.rstCore 0, rfl, rfl⟩
theorem Shape.rstContext (target : Nat) : Shape.Statement (.rstContext target) := ⟨.rstContext 0, rfl, rfl⟩
theorem Shape.coreResetForceStop (core : Nat) : Shape.Statement (.coreResetForceStop core) := ⟨.coreResetForceStop 0, rfl, rfl⟩
theorem Shape.perst : Shape.Statement (.perst) := ⟨.perst, rfl, rfl⟩
theorem Shape.cpWatchdog : Shape.Statement (.cpWatchdog) := ⟨.cpWatchdog, rfl, rfl⟩
theorem Shape.bootStageDone (bad0 : List Nat) (bad1 : List Nat) : Shape.Statement (.bootStageDone bad0 bad1) := ⟨.bootStageDone [] [], rfl, rfl⟩
theorem Shape.trialTimeout : Shape.Statement (.trialTimeout) := ⟨.trialTimeout, rfl, rfl⟩
theorem Shape.mctpPacket (vdm : Bool) (good : Bool) (dest : Nat) (typ : Nat) (som : Bool) (eom : Bool) (data : List Byte) : Shape.Statement (.mctpPacket vdm good dest typ som eom data) := ⟨.mctpPacket false false 0 0 false false [], rfl, rfl⟩
theorem Shape.setEndpointId (vdm : Bool) (eid : Nat) : Shape.Statement (.setEndpointId vdm eid) := ⟨.setEndpointId false 0, rfl, rfl⟩
theorem Shape.getEndpointId (vdm : Bool) : Shape.Statement (.getEndpointId vdm) := ⟨.getEndpointId false, rfl, rfl⟩
theorem Shape.getEndpointUuid (vdm : Bool) : Shape.Statement (.getEndpointUuid vdm) := ⟨.getEndpointUuid false, rfl, rfl⟩
theorem Shape.getMctpVersionSupport (vdm : Bool) : Shape.Statement (.getMctpVersionSupport vdm) := ⟨.getMctpVersionSupport false, rfl, rfl⟩
theorem Shape.getMessageTypeSupport (vdm : Bool) : Shape.Statement (.getMessageTypeSupport vdm) := ⟨.getMessageTypeSupport false, rfl, rfl⟩
theorem Shape.getTid (vdm : Bool) : Shape.Statement (.getTid vdm) := ⟨.getTid false, rfl, rfl⟩
theorem Shape.getPldmVersion (vdm : Bool) (typ : Nat) : Shape.Statement (.getPldmVersion vdm typ) := ⟨.getPldmVersion false 0, rfl, rfl⟩
theorem Shape.getPldmTypes (vdm : Bool) : Shape.Statement (.getPldmTypes vdm) := ⟨.getPldmTypes false, rfl, rfl⟩
theorem Shape.getPldmCommands (vdm : Bool) (typ : Nat) : Shape.Statement (.getPldmCommands vdm typ) := ⟨.getPldmCommands false 0, rfl, rfl⟩
theorem Shape.getPdrRepositoryInfo (vdm : Bool) : Shape.Statement (.getPdrRepositoryInfo vdm) := ⟨.getPdrRepositoryInfo false, rfl, rfl⟩
theorem Shape.getPdr (vdm : Bool) (record : Nat) : Shape.Statement (.getPdr vdm record) := ⟨.getPdr false 0, rfl, rfl⟩
theorem Shape.getSensorReading (vdm : Bool) (sensor : Nat) : Shape.Statement (.getSensorReading vdm sensor) := ⟨.getSensorReading false 0, rfl, rfl⟩
theorem Shape.getStateSensorReadings (vdm : Bool) (sensor : Nat) : Shape.Statement (.getStateSensorReadings vdm sensor) := ⟨.getStateSensorReadings false 0, rfl, rfl⟩
theorem Shape.setStateEffecterStates (vdm : Bool) (effecter : Nat) (value : Nat) : Shape.Statement (.setStateEffecterStates vdm effecter value) := ⟨.setStateEffecterStates false 0 0, rfl, rfl⟩
theorem Shape.getStateEffecterStates (vdm : Bool) (effecter : Nat) : Shape.Statement (.getStateEffecterStates vdm effecter) := ⟨.getStateEffecterStates false 0, rfl, rfl⟩
theorem Shape.setEventReceiver (vdm : Bool) (recvVdm : Bool) (mode : Nat) : Shape.Statement (.setEventReceiver vdm recvVdm mode) := ⟨.setEventReceiver false false 0, rfl, rfl⟩
theorem Shape.platformEventMessage : Shape.Statement (.platformEventMessage) := ⟨.platformEventMessage, rfl, rfl⟩
theorem Shape.pollForPlatformEventMessage (vdm : Bool) (ack : Bool) (get : Bool) : Shape.Statement (.pollForPlatformEventMessage vdm ack get) := ⟨.pollForPlatformEventMessage false false false, rfl, rfl⟩
theorem Shape.requestUpdate (vdm : Bool) (maxXfer : Nat) : Shape.Statement (.requestUpdate vdm maxXfer) := ⟨.requestUpdate false 0, rfl, rfl⟩
theorem Shape.passComponentTable (vdm : Bool) (cls : Nat) (ident : Nat) : Shape.Statement (.passComponentTable vdm cls ident) := ⟨.passComponentTable false 0 0, rfl, rfl⟩
theorem Shape.updateComponent (vdm : Bool) (cls : Nat) (ident : Nat) (total : Nat) : Shape.Statement (.updateComponent vdm cls ident total) := ⟨.updateComponent false 0 0 0, rfl, rfl⟩
theorem Shape.requestFirmwareData (data : List Byte) : Shape.Statement (.requestFirmwareData data) := ⟨.requestFirmwareData [], rfl, rfl⟩
theorem Shape.transferComplete : Shape.Statement (.transferComplete) := ⟨.transferComplete, rfl, rfl⟩
theorem Shape.verifyComplete : Shape.Statement (.verifyComplete) := ⟨.verifyComplete, rfl, rfl⟩
theorem Shape.applyComplete (ok : Bool) : Shape.Statement (.applyComplete ok) := ⟨.applyComplete false, rfl, rfl⟩
theorem Shape.activateFirmware (vdm : Bool) (self : Bool) : Shape.Statement (.activateFirmware vdm self) := ⟨.activateFirmware false false, rfl, rfl⟩
theorem Shape.getStatus (vdm : Bool) : Shape.Statement (.getStatus vdm) := ⟨.getStatus false, rfl, rfl⟩
theorem Shape.cancelUpdateComponent (vdm : Bool) : Shape.Statement (.cancelUpdateComponent vdm) := ⟨.cancelUpdateComponent false, rfl, rfl⟩
theorem Shape.cancelUpdate (vdm : Bool) : Shape.Statement (.cancelUpdate vdm) := ⟨.cancelUpdate false, rfl, rfl⟩
theorem Shape.queryDeviceIdentifiers (vdm : Bool) : Shape.Statement (.queryDeviceIdentifiers vdm) := ⟨.queryDeviceIdentifiers false, rfl, rfl⟩
theorem Shape.getFirmwareParameters (vdm : Bool) : Shape.Statement (.getFirmwareParameters vdm) := ⟨.getFirmwareParameters false, rfl, rfl⟩
theorem Shape.updateInactivityTimeout : Shape.Statement (.updateInactivityTimeout) := ⟨.updateInactivityTimeout, rfl, rfl⟩
theorem Shape.getVersion (vdm : Bool) : Shape.Statement (.getVersion vdm) := ⟨.getVersion false, rfl, rfl⟩
theorem Shape.getCapabilities (vdm : Bool) : Shape.Statement (.getCapabilities vdm) := ⟨.getCapabilities false, rfl, rfl⟩
theorem Shape.negotiateAlgorithms (vdm : Bool) (asym : Nat) (hash : Nat) (meas : Nat) : Shape.Statement (.negotiateAlgorithms vdm asym hash meas) := ⟨.negotiateAlgorithms false 0 0 0, rfl, rfl⟩
theorem Shape.getDigests (vdm : Bool) : Shape.Statement (.getDigests vdm) := ⟨.getDigests false, rfl, rfl⟩
theorem Shape.getCertificate (vdm : Bool) (certSlot : Nat) (offset : Nat) (len : Nat) : Shape.Statement (.getCertificate vdm certSlot offset len) := ⟨.getCertificate false 0 0 0, rfl, rfl⟩
theorem Shape.challenge (vdm : Bool) (certSlot : Nat) : Shape.Statement (.challenge vdm certSlot) := ⟨.challenge false 0, rfl, rfl⟩
theorem Shape.getMeasurements (vdm : Bool) (index : Nat) (signed : Bool) : Shape.Statement (.getMeasurements vdm index signed) := ⟨.getMeasurements false 0 false, rfl, rfl⟩
theorem Shape.errEvtHeadWrite (value : Word) : Shape.Statement (.errEvtHeadWrite value) := ⟨.errEvtHeadWrite 0, rfl, rfl⟩
theorem Shape.hehusLine (line : List Byte) : Shape.Statement (.hehusLine line) := ⟨.hehusLine [], rfl, rfl⟩
theorem Shape.hehusInterrupt : Shape.Statement (.hehusInterrupt) := ⟨.hehusInterrupt, rfl, rfl⟩
theorem Shape.hehusHelp : Shape.Statement (.hehusHelp) := ⟨.hehusHelp, rfl, rfl⟩
theorem Shape.hehusInfo : Shape.Statement (.hehusInfo) := ⟨.hehusInfo, rfl, rfl⟩
theorem Shape.hehusUnlock (level : Nat) : Shape.Statement (.hehusUnlock level) := ⟨.hehusUnlock 0, rfl, rfl⟩
theorem Shape.hehusResp (sig : List Byte) : Shape.Statement (.hehusResp sig) := ⟨.hehusResp [], rfl, rfl⟩
theorem Shape.hehusLock : Shape.Statement (.hehusLock) := ⟨.hehusLock, rfl, rfl⟩
theorem Shape.hehusBaud (rate : Nat) : Shape.Statement (.hehusBaud rate) := ⟨.hehusBaud 0, rfl, rfl⟩
theorem Shape.baudSwitch : Shape.Statement (.baudSwitch) := ⟨.baudSwitch, rfl, rfl⟩
theorem Shape.nonceExpiry : Shape.Statement (.nonceExpiry) := ⟨.nonceExpiry, rfl, rfl⟩
theorem Shape.unlockBackoffEnd : Shape.Statement (.unlockBackoffEnd) := ⟨.unlockBackoffEnd, rfl, rfl⟩
theorem Shape.hehusRd (addr : Nat) (count : Nat) : Shape.Statement (.hehusRd addr count) := ⟨.hehusRd 0 0, rfl, rfl⟩
theorem Shape.hehusWr (addr : Nat) (value : Nat) : Shape.Statement (.hehusWr addr value) := ⟨.hehusWr 0 0, rfl, rfl⟩
theorem Shape.hehusDump (addr : Nat) (len : Nat) : Shape.Statement (.hehusDump addr len) := ⟨.hehusDump 0 0, rfl, rfl⟩
theorem Shape.hehusFill (addr : Nat) (len : Nat) (value : Nat) : Shape.Statement (.hehusFill addr len value) := ⟨.hehusFill 0 0 0, rfl, rfl⟩
theorem Shape.hehusSo (n : Nat) (ue : Bool) : Shape.Statement (.hehusSo n ue) := ⟨.hehusSo 0 false, rfl, rfl⟩
theorem Shape.hehusSoSet (n : Nat) (value : Nat) : Shape.Statement (.hehusSoSet n value) := ⟨.hehusSoSet 0 0, rfl, rfl⟩
theorem Shape.hehusSoAdd (n : Nat) (value : Nat) : Shape.Statement (.hehusSoAdd n value) := ⟨.hehusSoAdd 0 0, rfl, rfl⟩
theorem Shape.hehusInn (cls : Nat) (guest : Nat) : Shape.Statement (.hehusInn cls guest) := ⟨.hehusInn 0 0, rfl, rfl⟩
theorem Shape.hehusInnImage (cls : Nat) (guest : Nat) (bad : List (Nat × Bool)) : Shape.Statement (.hehusInnImage cls guest bad) := ⟨.hehusInnImage 0 0 [], rfl, rfl⟩
theorem Shape.hehusPwr : Shape.Statement (.hehusPwr) := ⟨.hehusPwr, rfl, rfl⟩
theorem Shape.hehusPwrSet (dom : Nat) (target : Nat) : Shape.Statement (.hehusPwrSet dom target) := ⟨.hehusPwrSet 0 0, rfl, rfl⟩
theorem Shape.hehusUnit (u : Nat) : Shape.Statement (.hehusUnit u) := ⟨.hehusUnit 0, rfl, rfl⟩
theorem Shape.hehusUnitSet (u : Nat) (offline : Bool) : Shape.Statement (.hehusUnitSet u offline) := ⟨.hehusUnitSet 0 false, rfl, rfl⟩
theorem Shape.hehusEvents : Shape.Statement (.hehusEvents) := ⟨.hehusEvents, rfl, rfl⟩
theorem Shape.hehusTraceStart (mask : Nat) (wrap : Bool) : Shape.Statement (.hehusTraceStart mask wrap) := ⟨.hehusTraceStart 0 false, rfl, rfl⟩
theorem Shape.hehusTraceStop : Shape.Statement (.hehusTraceStop) := ⟨.hehusTraceStop, rfl, rfl⟩
theorem Shape.hehusTraceClear : Shape.Statement (.hehusTraceClear) := ⟨.hehusTraceClear, rfl, rfl⟩
theorem Shape.hehusTraceDump (count : Nat) : Shape.Statement (.hehusTraceDump count) := ⟨.hehusTraceDump 0, rfl, rfl⟩
theorem Shape.hehusReset (value : Nat) : Shape.Statement (.hehusReset value) := ⟨.hehusReset 0, rfl, rfl⟩
theorem Shape.hehusAccessTimeout : Shape.Statement (.hehusAccessTimeout) := ⟨.hehusAccessTimeout, rfl, rfl⟩
theorem Shape.bypass : Shape.Statement (.bypass) := ⟨.bypass, rfl, rfl⟩
theorem Shape.idcode : Shape.Statement (.idcode) := ⟨.idcode, rfl, rfl⟩
theorem Shape.samplePreload : Shape.Statement (.samplePreload) := ⟨.samplePreload, rfl, rfl⟩
theorem Shape.extest : Shape.Statement (.extest) := ⟨.extest, rfl, rfl⟩
theorem Shape.highz : Shape.Statement (.highz) := ⟨.highz, rfl, rfl⟩
theorem Shape.extestPulse : Shape.Statement (.extestPulse) := ⟨.extestPulse, rfl, rfl⟩
theorem Shape.extestTrain : Shape.Statement (.extestTrain) := ⟨.extestTrain, rfl, rfl⟩
theorem Shape.dbgAuth (op : Nat) (level : Nat) (sig : List Byte) : Shape.Statement (.dbgAuth op level sig) := ⟨.dbgAuth 0 0 [], rfl, rfl⟩
theorem Shape.dbgMem (write : Bool) (addr : Nat) (value : Nat) : Shape.Statement (.dbgMem write addr value) := ⟨.dbgMem false 0 0, rfl, rfl⟩
theorem Shape.tapRelease : Shape.Statement (.tapRelease) := ⟨.tapRelease, rfl, rfl⟩
theorem Shape.tapClamp : Shape.Statement (.tapClamp) := ⟨.tapClamp, rfl, rfl⟩
theorem Shape.aspmL1Exit : Shape.Statement (.aspmL1Exit) := ⟨.aspmL1Exit, rfl, rfl⟩
theorem Shape.resetComplete (kind : Nat) (target : Nat) (fails : List Nat) : Shape.Statement (.resetComplete kind target fails) := ⟨.resetComplete 0 0 [], rfl, rfl⟩
theorem Shape.portFlushTimeout (port : Nat) : Shape.Statement (.portFlushTimeout port) := ⟨.portFlushTimeout 0, rfl, rfl⟩
theorem Shape.junctionWarmRelease : Shape.Statement (.junctionWarmRelease) := ⟨.junctionWarmRelease, rfl, rfl⟩

end Sys2Proof.Laws
end

