-- ==== Sys2Proof/Laws/Settle.lean ====
section
/-!
SUPPORT. Laws of `Dev.settleStatus`: each status field that follows from other state agrees with it afterwards, and nothing but
registers and ALERT_N changes.
-/
namespace Sys2Proof.Machine

/-- Two devices that differ in their registers only. -/
def Dev.SameButRegs (d e : Dev) : Prop := { d with regs := e.regs } = e

theorem Dev.SameButRegs.refl (d : Dev) : d.SameButRegs d := rfl

theorem Dev.SameButRegs.trans {a b c : Dev} (h : a.SameButRegs b) (g : b.SameButRegs c) : a.SameButRegs c := by
  unfold Dev.SameButRegs at *
  rw [← g, ← h]

theorem Dev.setReg_sameButRegs (d : Dev) (off v : Nat) : d.SameButRegs (d.setReg off v) := rfl

theorem Dev.wr_sameButRegs (d : Dev) (f : Fld) (v : Nat) : d.SameButRegs (d.wr f v) := rfl

theorem Dev.settleQueue_sameButRegs (d : Dev) (core q : Nat) : d.SameButRegs (d.settleQueue core q) := by
  unfold Dev.settleQueue
  split
  · exact .refl d
  · exact d.setReg_sameButRegs ..

theorem Dev.settleQueue_reg_ne {off core q : Nat} (h : off ≠ (Reg.SEQ_TQ_STATUS.DEPTH core q).reg) (d : Dev) :
    (d.settleQueue core q).reg off = d.reg off := by
  unfold Dev.settleQueue
  split
  · rfl
  · exact Dev.reg_setReg_ne h ..

theorem Dev.settleQueue_rd_ne {core q : Nat} {f : Fld} (h : f.reg ≠ (Reg.SEQ_TQ_STATUS.DEPTH core q).reg) (d : Dev) :
    (d.settleQueue core q).rd f = d.rd f := by
  unfold Dev.rd
  rw [Dev.settleQueue_reg_ne h]

theorem Dev.queueTds_sameButRegs {d e : Dev} (h : d.SameButRegs e) (core q : Nat) : e.queueTds core q = d.queueTds core q := by
  unfold Dev.queueTds
  rw [← h]

/-- The depth of a queue after its status has been brought up to date. -/
theorem Dev.settleQueue_depth (d : Dev) (core q : Nat) :
    (d.settleQueue core q).rd (Reg.SEQ_TQ_STATUS.DEPTH core q) = (d.queueTds core q).length % 2 ^ (Reg.SEQ_TQ_STATUS.DEPTH core q).len := by
  have hv : ∃ n, d.queueStatus core q = (d.queueTds core q).length + 2 ^ 8 * n := by
    unfold Dev.queueStatus
    dsimp only
    generalize b2n _ = x
    generalize b2n _ = y
    exact ⟨x + 2 * y, by omega⟩
  obtain ⟨n, hn⟩ := hv
  have h8 : ∀ x, bits x 0 8 = x % 2 ^ 8 := fun x => by simp [bits]
  show bits _ 0 8 = (d.queueTds core q).length % 2 ^ 8
  rw [h8]
  unfold Dev.settleQueue
  split
  · rename_i h
    rw [h, hn]
    omega
  · rw [Dev.reg_setReg_self, hn]
    omega

theorem Dev.settleQueues_eq (d : Dev) : d.settleQueues =
    (((((((d.settleQueue 0 0).settleQueue 0 1).settleQueue 0 2).settleQueue 0 3).settleQueue 1 0).settleQueue 1 1).settleQueue 1
      2).settleQueue 1 3 := by
  unfold Dev.settleQueues
  simp only [Dev.forEach_cons, Dev.forEach_nil]

theorem Dev.settleQueues_sameButRegs (d : Dev) : d.SameButRegs d.settleQueues := by
  rw [Dev.settleQueues_eq]
  exact ((((((((d.settleQueue_sameButRegs _ _).trans (Dev.settleQueue_sameButRegs _ _ _)).trans (Dev.settleQueue_sameButRegs _ _ _)).trans
    (Dev.settleQueue_sameButRegs _ _ _)).trans (Dev.settleQueue_sameButRegs _ _ _)).trans (Dev.settleQueue_sameButRegs _ _ _)).trans
    (Dev.settleQueue_sameButRegs _ _ _)).trans (Dev.settleQueue_sameButRegs _ _ _))

/-- A field of another register is unchanged by the status of the queues. -/
theorem Dev.settleQueues_rd_ne {f : Fld} (h : ∀ core < 2, ∀ q < 4, f.reg ≠ (Reg.SEQ_TQ_STATUS.DEPTH core q).reg) (d : Dev) :
    d.settleQueues.rd f = d.rd f := by
  rw [Dev.settleQueues_eq]
  rw [Dev.settleQueue_rd_ne (h 1 (by decide) 3 (by decide)), Dev.settleQueue_rd_ne (h 1 (by decide) 2 (by decide)),
    Dev.settleQueue_rd_ne (h 1 (by decide) 1 (by decide)), Dev.settleQueue_rd_ne (h 1 (by decide) 0 (by decide)),
    Dev.settleQueue_rd_ne (h 0 (by decide) 3 (by decide)), Dev.settleQueue_rd_ne (h 0 (by decide) 2 (by decide)),
    Dev.settleQueue_rd_ne (h 0 (by decide) 1 (by decide)), Dev.settleQueue_rd_ne (h 0 (by decide) 0 (by decide))]

end Sys2Proof.Machine
end

