-- ==== Sys2Proof/Tests/Slice0.lean ====
section
/-!
SUPPORT. Tests: ill-formed commands, worked examples of spec/, and for every statement of Sys2Proof/Certificates a concrete state and
operands that meet its hypotheses, clause by clause.
-/
namespace Sys2Proof.Tests

set_option Elab.async false

open Sys2Proof Sys2Proof.Machine

/-! ### Small states -/

/-- The device right after reset. -/
def rst : Dev := State.reset.dev

/-- A state with no command waiting. -/
def st (d : Dev) : State := ⟨[], d⟩

/-- A device that has trained its stacks, tested its arrays and is READY, its host link active; context 0 owns the first GiB of HBM, both
scratchpads, every sync object and a host window of 1 MiB. -/
def up : Dev :=
  { rst with
    regs := [(0x10, 0x037004C1), (0x201000, 880), (0x300000, 1), (0x410004, 1), (0x600000, 7), (0x600008, 0x3FFF0000),
      (0x600100, 0x4000000), (0x600104, 0x4000000), (0x600108, 0x10000000), (0x600118, 0x100000), (0x810000, 192), (0x810004, 0xFF01),
      (0xC10000, 192), (0xC10004, 0xFF01), (0x1000000, 1), (0x1010000, 1), (0x1020000, 1), (0x1030000, 1), (0x1040000, 1), (0x1050000, 1),
      (0x1060000, 1), (0x1070000, 1), (0x1080000, 1), (0x1090000, 1), (0x10A0000, 1), (0x10B0000, 1), (0x10C0008, 0x6C00000000),
      (0x2C00000, 0x6400)]
    pci := { pci0 with link := .active, busMaster := true, l1Enable := true }
    board := { board0 with coldHeld := false, pwrgd := true } }

/-- A running command of context 0 in device tag 0: opcode and fields (offset, length, value) of its parameter block. -/
def cmd (op : Nat) (f : List (Nat × Nat × Nat) := []) : Cmd :=
  { slot := 0, qp := 0, ctx := 0, pkt := BitVec.ofNat 2048 (op + f.foldl (fun n (o, l, v) => setBits n (8 * (0x20 + o)) (8 * l) v) 0)
    sqIdx := 0, phase := .running, bellNs := 0, fin := none, stop := none, maySignal := true, cores := [], suspended := []
    rested := false, preempt := [], preemptNs := 0, suspNs := 0, total := 0, done := 0, todo := [], targets := [], hits := 0
    tab := none, saved := 0, cursor := 0, rstate := [], aux := [] }

/-- `up` with commands in flight. -/
def upC (cs : List Cmd) : Dev := { up with cp0 := { up.cp0 with cmds := cs } }

/-- A descriptor of tag 0 on core 0: kind, flags and fields. -/
def td (kind : Nat) (f : List (Nat × Nat × Nat) := []) (flags : Nat := 0) : Td :=
  { id := 0, cmd := 0, core := 0, tq := 1, td := tdMake kind flags f, started := false, finished := false, fail := none, signalled := false }

/-- `up` with a running EXEC_LIST and its descriptors. -/
def upT (ts : List Td) : Dev :=
  let d := upC [{ cmd 0x0301 with cores := [0], total := 1 }]
  { d with seq := { d.seq with tds := ts, nextId := 1 } }

/-! ### How the conditions of Sys2Proof/Safety.lean are met -/

theorem runs {d : Dev} {slot op : Nat} {c : Cmd} (h : (d.cmd? slot == some c && d.live && c.phase == .running && c.opcode == op
    && c.fin == none && c.stop == none && c.parked == false && d.coreHeld c == false) = true) : d.CmdRuns slot op c := by
  simp only [Bool.and_eq_true, beq_iff_eq] at h
  obtain ⟨⟨⟨⟨⟨⟨⟨h1, h2⟩, h3⟩, h4⟩, h5⟩, h6⟩, h7⟩, h8⟩ := h
  exact ⟨h1, h2, h3, h4, h5, h6, h7, h8⟩

theorem runsR {d : Dev} {slot op : Nat} {c : Cmd} (h : (d.cmd? slot == some c && d.live && c.phase == .running && c.opcode == op
    && c.fin == none && c.stop == none && c.parked == false && d.coreHeld c == false) = true)
    (g : (c.tab = none ∨ c.done ≤ c.saved) ∧ c.preempt = [] ∧ c.suspended = []) : d.RoutineRuns slot op c := ⟨runs h, g.1, g.2⟩

theorem starts {d : Dev} {id kind : Nat} {t : Td} (h : (d.td? id == some t && tdKind t.td == kind && d.tdMayStart t) = true) :
    d.TdStarts id kind t := by
  simp only [Bool.and_eq_true, beq_iff_eq] at h
  exact ⟨h.1.1, h.1.2, h.2⟩

/-- The bytes a read answers. -/
def bytesOf (g : Got) : List Byte :=
  match g.res with
  | .ok b => b
  | .error _ => []

theorem got {g : Got} (h : (match g.res with
    | .ok _ => true
    | .error _ => false) = true) : g = ⟨g.dev, .ok (bytesOf g)⟩ := by
  obtain ⟨d, r⟩ := g
  cases r with
  | ok b => rfl
  | error e => cases h

theorem done {p : Put} (h : p.err.isNone = true) : p = ⟨p.dev, none⟩ := by
  obtain ⟨d, e⟩ := p
  cases e with
  | none => rfl
  | some e => cases h

theorem sentOk {o : SoOut} (h : (match o.res with
    | .sent _ => true
    | _ => false) = true) : ∃ d tag, o = ⟨d, .sent tag⟩ := by
  obtain ⟨d, r⟩ := o
  cases r with
  | sent t => exact ⟨d, t, rfl⟩
  | done => cases h
  | fail a b => cases h

theorem askedOk {p : Dev × Option Nat} (h : p.2.isSome = true) : ∃ d tag, p = (d, some tag) := by
  obtain ⟨d, r⟩ := p
  cases r with
  | some t => exact ⟨d, t, rfl⟩
  | none => cases h

/-- The state in which a porter's descriptor runs, once it has been fetched and checked. -/
def takenUp (d : Dev) (p : Nat) (r : PorterRun) (x : Nat) : Dev :=
  let d₂ := ((d.read (byPorter p) r.ctx (r.list + 64 * r.index) 64).dev.prtCheck p r.ctx x).1
  let d₃ := ((d₂.takeWake (.porter p)).wr (Reg.PRT_STATUS.WAITING p) 0).trace 4 p (some r.ctx) none (some r.cmd) none none
  { d₃ with porters := kvPut p { r with waitOk := true } d₃.porters }

theorem takes {d : Dev} {p op x : Nat} {r : PorterRun} (h : kvGet p d.porters = some r ∧ d.live = true ∧ r.index < r.count ∧ r.pos = 0
    ∧ pdOp x = op ∧ pdFence x = false ∧ pdWaitEn x = false)
    (h1 : (match (d.read (byPorter p) r.ctx (r.list + 64 * r.index) 64).res with
      | .ok _ => true
      | .error _ => false) = true)
    (h2 : leNat (bytesOf (d.read (byPorter p) r.ctx (r.list + 64 * r.index) 64)) = x)
    (h3 : ((d.read (byPorter p) r.ctx (r.list + 64 * r.index) 64).dev.prtCheck p r.ctx x).2 = none) :
    d.PorterTakes p op r x (takenUp d p r x) := by
  obtain ⟨a1, a2, a3, a4, a5, a6, a7⟩ := h
  exact ⟨a1, a2, a3, a4, a5, _, _, _, got h1, h2, Prod.ext rfl h3, by simp [a6], by simp [a7], rfl⟩

theorem taken {d : Dev} {typ : Nat} (h : d.fabClocks = true) (g : (d.nextIn typ).isSome = true) :
    ∃ k d', d.PktTaken typ k d' := by
  cases hn : d.nextIn typ with
  | none => rw [hn] at g; cases g
  | some x => exact ⟨x.1, x.2, h, by rw [hn]⟩

theorem upC_cmd {c : Cmd} {l : List Cmd} (h : c.slot = 0) : (upC (c :: l)).cmd? 0 = some c := by
  simp [upC, Dev.cmd?, h]

theorem upT_td {t : Td} {l : List Td} (h : t.id = 0) : (upT (t :: l)).td? 0 = some t := by
  simp [upT, Dev.td?, h]

theorem okOf {ε α : Type} {x : Dev × Except ε α} (h : (match x.2 with
    | .ok _ => true
    | .error _ => false) = true) : ∃ d v, x = (d, .ok v) := by
  obtain ⟨d, r⟩ := x
  cases r with
  | ok v => exact ⟨d, v, rfl⟩
  | error e => cases h

theorem gotOk {g : Got} (h : (match g.res with
    | .ok _ => true
    | .error _ => false) = true) : ∃ d bs, g = ⟨d, .ok bs⟩ := ⟨_, _, got h⟩

theorem putOk {p : Put} (h : p.err.isNone = true) : ∃ d, p = ⟨d, none⟩ := ⟨_, done h⟩

theorem gotIs {g : Got} {bs : List Byte} (h : (match g.res with
    | .ok b => b == bs
    | .error _ => false) = true) : g = ⟨g.dev, .ok bs⟩ := by
  obtain ⟨d, r⟩ := g
  cases r with
  | ok b => rw [show b = bs from beq_iff_eq.1 h]
  | error e => cases h

theorem okOf₁ {ε α : Type} {x : Dev × Except ε (List α)} (h : (match x.2 with
    | .ok [_] => true
    | _ => false) = true) : ∃ d v, x = (d, .ok [v]) := by
  obtain ⟨d, r⟩ := x
  match r, h with
  | .ok [v], _ => exact ⟨d, v, rfl⟩

/-- The device after it has taken the oldest packet of a type. -/
def took (d : Dev) (typ : Nat) : Dev := (d.nextIn typ).elim rst fun x => x.2

theorem takenOf {d : Dev} {typ : Nat} {k : FabPkt} (h : (d.fabClocks && ((d.nextIn typ).map fun x => x.1) == some k) = true) :
    d.PktTaken typ k (took d typ) := by
  rw [Bool.and_eq_true, beq_iff_eq] at h
  refine ⟨h.1, ?_⟩
  unfold took
  cases hn : d.nextIn typ with
  | none => rw [hn] at h; cases h.2
  | some x =>
    rw [hn] at h
    simp only [Option.map_some, Option.some.injEq] at h
    rw [← h.2]
    rfl

theorem someOf {α : Type} {o : Option α} {P : α → Prop} [DecidablePred P] (h : (o.any fun x => decide (P x)) = true) : ∃ x, o = some x ∧ P x := by
  cases o with
  | none => cases h
  | some x => exact ⟨x, rfl, of_decide_eq_true h⟩

theorem pairOf {α β : Type} {x : α × β} {b : β} (h : x.2 = b) : ∃ a, x = (a, b) := ⟨x.1, Prod.ext rfl h⟩

theorem isSomeOf {α : Type} {o : Option α} (h : o.isSome = true) : ∃ x, o = some x := Option.isSome_iff_exists.1 h

theorem doneOk {o : SoOut} (h : (o.res == .done) = true) : ∃ d, o = ⟨d, .done⟩ := ⟨o.dev, by rw [← beq_iff_eq.1 h]⟩

theorem okIs {ε α : Type} [DecidableEq α] {x : Dev × Except ε α} {v : α} (h : (match x.2 with
    | .ok w => decide (w = v)
    | .error _ => false) = true) : x = (x.1, .ok v) := by
  obtain ⟨d, r⟩ := x
  cases r with
  | ok w => rw [show w = v from of_decide_eq_true h]
  | error e => cases h

/-- `n` bytes with fields (offset, length, value), 0 elsewhere. -/
def fill (n : Nat) (f : List (Nat × Nat × Nat)) : List Byte :=
  f.foldl (fun bs (o, l, v) => bs.take o ++ leBytes l v ++ bs.drop (o + l)) (zeros n)

theorem okTrue {ε : Type} {x : Except ε Bool} (h : (match x with
    | .ok b => b
    | .error _ => false) = true) : x = .ok true := by
  match x, h with
  | .ok true, _ => rfl
/-! ### Witnesses: the hypotheses of each statement are met, clause by clause -/

/-- An event that waits in the hold buffer since the link went down. -/
def heldUp : Dev := { up with pci := { up.pci with link := .down, wasDown := true, hold := [⟨.output, 0x40, zeros 8, none, 0⟩] } }

theorem witness_HostLinkCommandsComplete :
    (rst.board.hclkHeld = false ∧ rst.board.tripped = false ∧ rst.pci.link ≠ .active)
    ∧ up.pci.link = .active ∧ up.pci.link ≠ .down ∧ up.board.tripped = false
    ∧ ({ up with pci := { up.pci with d3hot := true } } : Dev).pci.d3hot = true
    ∧ (up.pci.l1Enable = true ∧ up.pci.link = .active ∧ up.pci.hold = [] ∧ up.deadlineQueue = false ∧ ∀ c ∈ up.cp0.cmds, c.phase ≠ .fetching)
    ∧ (∃ h rest, heldUp.pci.wasDown = true ∧ heldUp.pathUp = false ∧ heldUp.pci.hold = h :: rest)
    ∧ (∃ d : Dev, d.pathUp = true ∧ d.pci.wasDown = true) := by
  refine ⟨by decide +kernel, rfl, by decide +kernel, rfl, rfl, by decide +kernel, ⟨_, _, rfl, rfl, rfl⟩, { up with pci := { up.pci with wasDown := true } }, by decide +kernel⟩

theorem witness_HostSignalCommandsComplete :
    (∃ n, kvGet 63 ({ up with pci := { up.pci with unsignalled := [(63, 2)] } } : Dev).pci.unsignalled = some n)
    ∧ up.board.tripped = false
    ∧ (∃ (d : Dev) (slot : Nat) (c : Cmd), d.cmd? slot = some c ∧ c.phase = .running ∧ c.ofBatch = false ∧ c.opcode ≠ 0x0410
      ∧ ((d.cmdTds slot).find? fun t => t.started && !t.finished) = none)
    ∧ (∃ (d : Dev) (slot : Nat) (c : Cmd) (t : Td), d.cmd? slot = some c ∧ c.phase = .running ∧ c.ofBatch = false ∧ c.opcode ≠ 0x0410
      ∧ ((d.cmdTds slot).find? fun t => t.started && !t.finished) = some t)
    ∧ (30 ≤ 39 ∧ up.pci.link ≠ .down) :=
  ⟨⟨2, rfl⟩, rfl, ⟨upC [cmd 0x0201], 0, cmd 0x0201, by decide +kernel⟩,
    ⟨upT [{ td 0x60 with started := true }], 0, { cmd 0x0301 with cores := [0], total := 1 }, { td 0x60 with started := true },
      by decide +kernel⟩, by decide +kernel⟩

theorem witness_ClockAndRailCommandsComplete :
    (∃ (d : Dev) (rail : Nat), d.board.railsOut.contains rail = true ∧ d.board.domHeld = false)
    ∧ up.board.tripped = false ∧ up.board.refMissing.contains 2 = false
    ∧ (∃ d : Dev, d.board.refMissing.contains 0 = true ∧ d.board.domHeld = false)
    ∧ (∃ (d : Dev) (ref : Nat), d.board.refMissing.contains ref = true) ∧ up.coreClocks = true
    ∧ (∃ v : Word, bitAt v.toNat 31 = true ∧ up.on Reg.CLK_MEAS_CTL.START = false)
    ∧ (up.wr Reg.CLK_MEAS_CTL.START 1).on Reg.CLK_MEAS_CTL.START = true :=
  ⟨⟨{ up with board := { up.board with railsOut := [8] } }, 8, by decide +kernel⟩, rfl, by decide +kernel,
    ⟨{ up with board := { up.board with refMissing := [0] } }, by decide +kernel⟩,
    ⟨{ up with board := { up.board with refMissing := [2] } }, 2, by decide +kernel⟩, by decide +kernel,
    ⟨0x80000000, by decide +kernel⟩, by decide +kernel⟩

/-- `up` with port 0 in a state of training, as `x`. -/
def upPort (state : Nat) (x : Port := port0) : Dev := (up.wr (Reg.FAB_PORT_STATUS.STATE 0) state).setPort 0 x

theorem witness_PortTrainingCommandsComplete :
    (∃ d : Dev, d.portState 31 = psDown ∧ d.portPowered 31 = true)
    ∧ (∃ d : Dev, d.portState 0 = psEqualize ∧ (d.port 0).maxGen = 1)
    ∧ (∃ d : Dev, d.portState 0 = psEqualize ∧ (d.port 0).maxGen = 2 ∧ (d.port 0).gen1Tried = false)
    ∧ (∃ d : Dev, d.portState 0 = psEqualize ∧ (d.port 0).gen1Tried = true)
    ∧ (∃ (d : Dev) (bad : Nat), d.portState 0 = psAlign ∧ lanesUp ((d.port 0).badLanes ||| (bad % 16)) ≠ 0)
    ∧ (∃ (d : Dev) (bad : Nat), d.portState 0 = psRetrain ∧ lanesUp ((d.port 0).badLanes ||| (bad % 16)) ≠ 0)
    ∧ (∃ (d : Dev) (bad : Nat), d.portState 0 = psAlign ∧ lanesUp ((d.port 0).badLanes ||| (bad % 16)) = 0)
    ∧ (∃ (d : Dev) (bad : Nat), d.portState 0 = psRetrain ∧ lanesUp ((d.port 0).badLanes ||| (bad % 16)) = 0)
    ∧ (∃ d : Dev, d.portState 0 = psInit ∧ (d.port 0).width ≠ 0) ∧ (∃ d : Dev, d.portState 0 = psRetrain ∧ (d.port 0).width ≠ 0)
    ∧ (∃ (d : Dev) (lanes : Nat), d.portState 0 ≠ psDisabled ∧ lanes % 16 = 15)
    ∧ (∃ (d : Dev) (lanes : Nat), d.portState 0 ≠ psDisabled ∧ lanes % 16 ≠ 15 ∧ lanes % 16 ≠ 0)
    ∧ (∃ d : Dev, d.portState 0 = psUp) ∧ (∃ d : Dev, (d.port 0).flushing = true)
    ∧ (∃ d : Dev, (d.port 0).flushing = false ∧ (d.port 0).drain = true) :=
  ⟨⟨up.wr (Reg.FAB_PORT_STATUS.STATE 31) psDown, by decide +kernel⟩, ⟨upPort psEqualize { port0 with maxGen := 1 }, by decide +kernel⟩, ⟨upPort psEqualize, by decide +kernel⟩,
    ⟨upPort psEqualize { port0 with gen1Tried := true }, by decide +kernel⟩, ⟨upPort psAlign, 3, by decide +kernel⟩,
    ⟨upPort psRetrain, 14, by decide +kernel⟩, ⟨upPort psAlign, 15, by decide +kernel⟩, ⟨upPort psRetrain, 15, by decide +kernel⟩,
    ⟨upPort psInit { port0 with width := 1 }, by decide +kernel⟩, ⟨upPort psRetrain { port0 with width := 4 }, by decide +kernel⟩,
    ⟨upPort psUp, 15, by decide +kernel⟩, ⟨upPort psUp, 8, by decide +kernel⟩, ⟨upPort psUp, by decide +kernel⟩,
    ⟨upPort psUp { port0 with flushing := true }, by decide +kernel⟩, ⟨upPort psUp { port0 with drain := true }, by decide +kernel⟩⟩

/-- A flit of kind 1 with sequence number 0. -/
def flit1 : Flit := ⟨1, 0, 0, 0, 0, 0, [], true⟩

/-- A packet of a type for this device from device 7, which has come in on port 0. -/
def pkt (typ : Nat) (addr : Nat := 0) (arg : Nat := 0) (data : List Byte := []) : FabPkt :=
  ⟨typ, false, 0, 7, 0, 0, 0, 5, 0, addr, 0, arg, data, 0⟩

theorem witness_FlitCommandsComplete :
    (∃ d : Dev, d.portState 0 = psUp ∧ d.fabClocks = true ∧ d.dbg.pinsTaken = false ∧ flit1.seq ≠ (d.port 0).rxSeq)
    ∧ (∃ d : Dev, d.portState 0 = psUp ∧ d.fabClocks = true ∧ d.dbg.pinsTaken = false ∧ flit1.seq = (d.port 0).rxSeq)
    ∧ (flit1.crcOk = true ∧ flit1.kind = 1) ∧ ({ flit1 with crcOk := false } : Flit).crcOk = false ∧ ({ flit1 with kind := 2 } : Flit).kind = 2
    ∧ (∃ (d e : Dev) (k : FabPkt) (rest : List FabPkt) (sent : Bool), d.fab.arrived = k :: rest ∧ d.fabClocks = true
      ∧ ({ d with fab := { d.fab with arrived := rest } } : Dev).sendPkt k = (e, sent))
    ∧ (∃ (d : Dev) (p vc : Nat), ((d.port p).queue.any fun k => vcOf k.typ == vc) = true) :=
  ⟨⟨upPort psUp { port0 with rxSeq := 9 }, by decide +kernel⟩, ⟨upPort psUp, by decide +kernel⟩, by decide +kernel, by decide +kernel, by decide +kernel,
    ⟨{ up with fab := { up.fab with arrived := [pkt ptMemWrite] } }, _, _, _, _, rfl, rfl, rfl⟩,
    ⟨upPort psUp { port0 with queue := [pkt ptMemWrite] }, 0, vcOf ptMemWrite, by decide +kernel⟩⟩
/-- A QP_CFG value: rings of 16 entries, vector 1, context 0. -/
def qpCfg1 : Nat := 4 * 2 ^ 8 + 4 * 2 ^ 12 + 2 ^ 16

/-- `up` with queue pair 255 active. -/
def upQ : Dev := (up.setReg (Reg.QP_CFG.CTX 255).reg (qpCfg1 + 2 ^ 31)).wr (Reg.QP_STATUS.STATE 255) qsActive

/-- `up` with the rings of queue pair 255 at the start of the host window. -/
def upRings : Dev := (up.wr (Reg.QP_SQ_BASE.BASE 255) 0x200000000).wr (Reg.QP_CQ_BASE.BASE 255) 0x200000000

theorem witness_QueuePairCommandsComplete :
    (up.hostRegsServed = true ∧ up.ctxState 15 = csIdle ∧ bits (0xFFFFFFFE : Word).toNat 0 2 ≠ 3)
    ∧ (up.ctxState 0 ≠ csIdle ∧ bits (3 : Word).toNat 0 2 = 3)
    ∧ (up.qpState 255 = qsDisabled ∧ bitAt ((BitVec.ofNat 64 qpCfg1 : QWord).toNat % 2 ^ 32 &&& qpCfgMask) 31 = false)
    ∧ (upRings.hostAnswers = true ∧ upRings.board.domHeld = false ∧ upRings.qpState 255 = qsDisabled
      ∧ (upRings.setReg (Reg.QP_CFG.CTX 255).reg (setBits (BitVec.ofNat 32 qpCfg1 : Word).toNat 31 1 1 &&& qpCfgMask)).enableFault 255 = 0)
    ∧ (upQ.hostRegsServed = true ∧ upQ.qpState 255 = qsActive
      ∧ upQ.reg (Reg.QP_CFG.CTX 255).reg &&& qpCfgMask = upQ.reg (Reg.QP_CFG.CTX 255).reg)
    ∧ (upQ.coreClocks = true ∧ (15 : Word).toNat < upQ.sqSize 255)
    ∧ ((0 : Word).toNat < upQ.cqSize 255
      ∧ ((0 : Word).toNat + upQ.cqSize 255 - upQ.rd (Reg.QP_CQ_PTRS.HEAD 255)) % upQ.cqSize 255
        ≤ (upQ.rd (Reg.QP_CQ_PTRS.TAIL 255) + upQ.cqSize 255 - upQ.rd (Reg.QP_CQ_PTRS.HEAD 255)) % upQ.cqSize 255) := by decide +kernel

/-- `up` with one NOP ready for dispatch. -/
def upReady : Dev := upC [{ cmd 0x0101 with phase := .ready }]

theorem witness_CommandLifeComplete :
    (∃ (d : Dev) (slot : Nat) (c : Cmd), d.cmd? slot = some c ∧ c.phase = .fetching ∧ d.coreClocks = true ∧ d.hostReadable = true)
    ∧ HostRead.urCa ≠ .ok
    ∧ (∃ (k c q : Nat) (aged : Bool) (d : Dev) (x : Cmd), upReady.live = true ∧ upReady.chooseClass = some (k, aged)
      ∧ upReady.chooseCtx k = some (c, d)
      ∧ nextAfter ((kvGet c d.cp0.lastQp).getD 256) ((d.candQps k).filter fun q => d.qpCtx q == c) = some q ∧ d.nextOf q = some x)
    ∧ (∃ (d : Dev) (slot : Nat) (c : Cmd), d.cmd? slot = some c ∧ c.phase = .waiting ∧ d.isWoken (.cmd slot) = true ∧ d.live = true)
    ∧ (∃ (d : Dev) (slot : Nat) (c : Cmd), d.cmd? slot = some c ∧ c.opcode ≠ 0x0102 ∧ c.ofBatch = false ∧ c.phase = .waiting)
    ∧ (∃ (d : Dev) (slot : Nat) (c : Cmd), d.cmd? slot = some c ∧ c.opcode ≠ 0x0102 ∧ c.ofBatch = false ∧ c.phase = .running
      ∧ c.parked = false)
    ∧ (∃ (d : Dev) (slot : Nat) (c : Cmd) (f : Finish), d.cmd? slot = some c ∧ c.phase = .ended ∧ c.fin = some f ∧ c.ofBatch = false
      ∧ c.activates = false ∧ d.coreClocks = true ∧ d.cmdTxns slot = 0 ∧ d.boot.flr = false ∧ c.signalDue f.major = false)
    ∧ (∃ (d : Dev) (c : Cmd), d.CmdRuns 0 0x0101 c) ∧ (∃ (d : Dev) (c : Cmd), d.CmdRuns 0 0x0103 c)
    ∧ (∃ (d : Dev) (c : Cmd), d.CmdRuns 0 0x0102 c ∧ c.aux = [])
    ∧ (∃ (d : Dev) (c : Cmd), d.CmdRuns 0 0x0102 c ∧ c.aux ≠ [] ∧ ∀ t ∈ c.targets, d.cmd? t = none) :=
  ⟨⟨upC [{ cmd 0x0101 with phase := .fetching }], 0, _, upC_cmd rfl, by decide +kernel⟩, by decide,
    ⟨1, 0, 0, false, { upReady with cp0 := { upReady.cp0 with deficit := [(0, 0)] } }, { cmd 0x0101 with phase := .ready },
      by decide +kernel⟩,
    ⟨{ upC [{ cmd 0x0101 with phase := .waiting }] with so := { so0 with woken := [.cmd 0] } }, 0, _, upC_cmd (l := []) rfl, by decide +kernel⟩,
    ⟨upC [{ cmd 0x0101 with phase := .waiting }], 0, _, upC_cmd rfl, by decide +kernel⟩,
    ⟨upC [cmd 0x0201], 0, _, upC_cmd rfl, by decide +kernel⟩,
    ⟨upC [{ cmd 0x0101 with phase := .ended, fin := some ⟨0, 0, 0⟩ }], 0, _, ⟨0, 0, 0⟩, upC_cmd rfl, by decide +kernel⟩,
    ⟨_, _, runs (d := upC [cmd 0x0101]) (c := cmd 0x0101) (by decide +kernel)⟩,
    ⟨_, _, runs (d := upC [cmd 0x0103]) (c := cmd 0x0103) (by decide +kernel)⟩,
    ⟨_, _, runs (d := upC [cmd 0x0102]) (c := cmd 0x0102) (by decide +kernel), rfl⟩,
    ⟨_, _, runs (d := upC [{ cmd 0x0102 with aux := [1], targets := [5] }]) (c := { cmd 0x0102 with aux := [1], targets := [5] })
      (by decide +kernel), by decide, by decide +kernel⟩⟩

theorem witness_SequencerCommandsComplete :
    (∃ (d : Dev) (slot core : Nat) (c : Cmd) (w : BitVec 512) (rest : List (Nat × BitVec 512)), d.cmd? slot = some c
      ∧ c.todo = (core, w) :: rest ∧ d.live = true ∧ c.phase = .running ∧ c.fin = none ∧ c.stop = none ∧ c.suspended.contains core = false
      ∧ c.preempt.contains core = false ∧ (d.queueTds core (d.tqOf c)).length < 128)
    ∧ (∃ (d : Dev) (t : Td), d.TdStarts 0 0x01 t)
    ∧ (∃ (d : Dev) (t : Td), d.TdStarts 0 0x02 t ∧ d.fenceHolds t = true ∧ t.f 0x18 1 = 1 ∧ (d.tdStart t).hostReadable = true)
    ∧ (∃ (d : Dev) (t : Td), d.TdStarts 0 0x02 t ∧ d.fenceHolds t = true ∧ t.f 0x18 1 ≠ 1)
    ∧ (∃ (d : Dev) (t : Td), d.td? 0 = some t ∧ d.coreClocks = true ∧ t.started = true ∧ t.finished = true ∧ d.openTxns 0 = false
      ∧ tdSignalEn t.td = false)
    ∧ (∃ (d : Dev) (t : Td) (c : Cmd), d.td? 0 = some t ∧ d.coreClocks = true ∧ t.started = true ∧ t.finished = true ∧ d.openTxns 0 = false
      ∧ tdSignalEn t.td = true ∧ t.signalled = false ∧ d.cmd? t.cmd = some c ∧ c.fin = none
      ∧ (d.soOp (.td 0) t.ctx (tdSignalSo t.td) false (tdSignalAdd t.td)).res = .done)
    ∧ (∃ (d : Dev) (slot k : Nat) (c : Cmd), d.cmd? slot = some c ∧ c.tab = some k ∧ d.live = true ∧ c.phase = .running ∧ c.saved < c.done)
    ∧ (∃ (d : Dev) (slot mj dt : Nat) (c : Cmd), d.cmd? slot = some c ∧ d.coreClocks = true ∧ c.phase = .running ∧ c.fin = none
      ∧ c.stop = some (mj, dt) ∧ d.atPoint c none = true)
    ∧ (∃ (d : Dev) (slot k : Nat) (c : Cmd), d.cmd? slot = some c ∧ d.coreClocks = true ∧ c.phase = .running ∧ c.fin = none ∧ c.stop = none
      ∧ (c.preempt.find? fun k => d.atPoint c (some k)) = some k)
    ∧ (∃ (d : Dev) (slot : Nat) (c : Cmd), d.cmd? slot = some c ∧ d.live = true ∧ c.suspended ≠ [] ∧ c.fin = none) :=
  ⟨⟨upC [{ cmd 0x0301 with todo := [(1, tdMake 0x01 0 [])], cores := [1] }], 0, 1, _, _, _, upC_cmd rfl, rfl, by decide +kernel⟩,
    ⟨_, _, starts (d := upT [td 0x01]) (t := td 0x01) (by decide +kernel)⟩,
    ⟨_, _, starts (d := upT [td 0x02 [(0x18, 1, 1)]]) (t := td 0x02 [(0x18, 1, 1)]) (by decide +kernel), by decide +kernel⟩,
    ⟨_, _, starts (d := upT [td 0x02]) (t := td 0x02) (by decide +kernel), by decide +kernel⟩,
    ⟨upT [{ td 0x01 with started := true, finished := true }], _, upT_td rfl, by decide +kernel⟩,
    ⟨upT [{ td 0x01 [(0x06, 2, 4095), (0x10, 4, 1)] 2 with started := true, finished := true }],
      { td 0x01 [(0x06, 2, 4095), (0x10, 4, 1)] 2 with started := true, finished := true },
      { cmd 0x0301 with cores := [0], total := 1 }, by decide +kernel⟩,
    ⟨upC [{ cmd 0x0201 with tab := some 0, total := 2, done := 1 }], 0, 0, _, upC_cmd rfl, by decide +kernel⟩,
    ⟨upC [{ cmd 0x0201 with stop := some (6, 0x0540) }], 0, 6, 0x0540, _, upC_cmd rfl, by decide +kernel⟩,
    ⟨upC [{ cmd 0x0302 with preempt := [1], cores := [1], total := 2 }], 0, 1, _, upC_cmd rfl, by decide +kernel⟩,
    ⟨upC [{ cmd 0x0302 with suspended := [1], cores := [1] }], 0, _, upC_cmd rfl, by decide +kernel⟩⟩
/-- `up` whose sync object 4095 is a mirror of object 0 of this device. -/
def upMirror (ts : List Td) : Dev :=
  { (upT ts).setReg (Reg.SO_CFG.KIND 4095).reg 3 with so := { so0 with mirrors := [(4095, ⟨0, 2, 0, 0, 0⟩)] } }

/-- A SO_OP that adds 1 to object 4095. -/
def soAdd1 : Td := td 0x03 [(0x1A, 2, 4095), (0x20, 8, 1)]

/-- A porter that has come to the one descriptor of its list, at address 0. -/
def run1 : PorterRun :=
  { td := 0, cmd := 0, ctx := 0, list := 0, count := 1, index := 0, waitOk := false, pos := 0, crc := 0, signals := [] }

theorem witness_SyncObjectCommandsComplete :
    (∃ (d : Dev) (t : Td), d.TdStarts 0 0x03 t ∧ t.f 0x19 1 ≠ 1 ∧ (d.tdStart t).so.ue.contains (t.f 0x1A 2 % 4096) = false
      ∧ (d.tdStart t).soKind (t.f 0x1A 2 % 4096) ≠ 3)
    ∧ (∃ (d : Dev) (t : Td), d.TdStarts 0 0x03 t ∧ t.f 0x19 1 = 1 ∧ d.earlierOfCmd t = [])
    ∧ (∃ (d : Dev) (t : Td), (d.TdStarts 0 0x03 t ∧ t.f 0x19 1 ≠ 1)
      ∧ ∃ (d' : Dev) (tag : Nat), (d.tdStart t).soOp (.td 0) t.ctx (t.f 0x1A 2 % 4096) (t.f 0x18 1 == 1) (t.f 0x20 8) = ⟨d', .sent tag⟩)
    ∧ (∃ (d : Dev) (c : Cmd), d.live = true ∧ d.cmd? 0 = some c ∧ c.phase = .waiting ∧ d.isWaiting (.cmd 0) = false
      ∧ d.isWoken (.cmd 0) = false)
    ∧ (∃ (d : Dev) (t : Td), d.live = true ∧ d.td? 0 = some t ∧ tdWaitEn t.td = true ∧ t.started = false ∧ d.isWaiting (.td 0) = false
      ∧ d.isWoken (.td 0) = false ∧ (beforeTd 0 (d.queueTds t.core t.tq)).length < 16)
    ∧ (∃ (d : Dev) (r : PorterRun), d.live = true ∧ kvGet 0 d.porters = some r ∧ pdWaitEn (d.porterDesc r) = true ∧ r.waitOk = false
      ∧ r.index < r.count ∧ d.isWaiting (.porter 0) = false ∧ d.isWoken (.porter 0) = false
      ∧ d.soAllowed r.ctx (pdWaitSo (d.porterDesc r)) = true)
    ∧ (up.hostRegsServed = true ∧ up.so.ue.contains 4095 = false ∧ up.soKind 4095 ≠ 3)
    ∧ (bits (4 : Word).toNat 0 2 = up.soKind 4095 ∧ bits (4 : Word).toNat 4 12 = up.rd (Reg.SO_CFG.ARG 4095) ∧ bitAt (4 : Word).toNat 2 = true)
    ∧ (bits (0x31 : Word).toNat 0 2 ≠ up.soKind 4095 ∧ (up.so.waiters.any fun w => w.so == 4095) = false ∧ bits (0x31 : Word).toNat 0 2 ≠ 3) :=
  ⟨⟨_, _, starts (d := upT [soAdd1]) (t := soAdd1) (by decide +kernel), by decide +kernel⟩,
    ⟨_, _, starts (d := upT [td 0x03 [(0x19, 1, 1)]]) (t := td 0x03 [(0x19, 1, 1)]) (by decide +kernel), by decide +kernel⟩,
    ⟨_, _, ⟨starts (d := upMirror [soAdd1]) (t := soAdd1) (by decide +kernel), by decide +kernel⟩, sentOk (by decide +kernel)⟩,
    ⟨upC [{ cmd 0x0101 with phase := .waiting }], { cmd 0x0101 with phase := .waiting }, by decide +kernel⟩,
    ⟨upT [td 0x01 [] 1], td 0x01 [] 1, by decide +kernel⟩,
    ⟨{ up.poke 1 (leBytes 1 1) with porters := [(0, run1)] }, run1, by decide +kernel⟩,
    by decide +kernel, by decide +kernel, by decide +kernel⟩

/-- `up` with a packet for this device in the receive buffer; context 0 accepts remote work. -/
def upPkt (k : FabPkt) : Dev :=
  let d := up.wr (Reg.CTX_FAB.ACCEPT 0) 1
  { d with fab := { d.fab with inbox := [k] } }

/-- The device after it has taken the packet. -/
def tookPkt (k : FabPkt) : Dev := ((upPkt k).nextIn k.typ).elim rst fun x => x.2

theorem takenPkt {typ : Nat} {k : FabPkt} (h : k.typ = typ) : (upPkt k).PktTaken typ k (tookPkt k) := by
  subst h
  refine ⟨rfl, ?_⟩
  have hn : (upPkt k).nextIn k.typ =
      some (k, (({ upPkt k with fab := { (upPkt k).fab with inbox := (upPkt k).fab.inbox.erase k } } : Dev).returnCredits k).tracePkt
        (min k.port 255) k) := by
    unfold Dev.nextIn
    simp [upPkt]
  rw [hn]
  unfold tookPkt
  rw [hn]
  rfl

theorem witness_MirrorCommandsComplete :
    (∃ (d : Dev) (c : Cmd), (d.CmdRuns 0 0x0605 c ∧ c.par 7 1 = 0 ∧ (d.so.binds.any fun b => b.cmd == 0) = false
      ∧ d.soAllowed c.ctx (c.par 0 2 % 4096) = true ∧ d.soWaited (c.par 0 2 % 4096) = false ∧ d.soKind (c.par 0 2 % 4096) ≠ 3
      ∧ (d.so.binds.any fun b => b.so == c.par 0 2 % 4096) = false)
      ∧ ∃ (d' : Dev) (tag : Nat), d.request { d.newPkt ptMirrorBind (c.par 2 2 % 4096) (c.par 6 1 % 16) c.ctx (c.par 4 2 % 4096) with
        arg := c.par 0 2 % 4096 } (.bind 0) c.ctx 0 0 0 = (d', some tag))
    ∧ (∃ (d : Dev) (c : Cmd) (m : Mirror), d.CmdRuns 0 0x0605 c ∧ c.par 7 1 = 1 ∧ d.soAllowed c.ctx (c.par 0 2 % 4096) = true
      ∧ d.soWaited (c.par 0 2 % 4096) = false ∧ (d.so.binds.any fun b => b.so == c.par 0 2 % 4096) = false
      ∧ d.soKind (c.par 0 2 % 4096) = 3 ∧ kvGet (c.par 0 2 % 4096) d.so.mirrors = some m)
    ∧ (∃ (d : Dev) (b : Bind) (c : Cmd), (d.so.binds.find? fun b => b.cmd == 0) = some b ∧ d.cmd? 0 = some c)
    ∧ ((upMirror []).soKind 4095 = 3 ∧ (upMirror []).soStale 4095 = false ∧ (upMirror []).coreClocks = true)
    ∧ (∃ (k : FabPkt) (d d' : Dev), d.PktTaken ptSoPush k d' ∧ (d'.so.binds.find? fun b => b.dev == k.src && b.home == k.addr % 4096) = none
      ∧ ((d'.so.mirrors.map fun m => m.1).filter fun n => d'.rd (Reg.SO_CFG.HOME_DEV n) == k.src
        && d'.rd (Reg.SO_CFG.ARG n) == k.addr % 4096).filter (fun n => !d'.soStale n) ≠ [])
    ∧ (∃ (k : FabPkt) (d d' : Dev) (b : Bind), d.PktTaken ptSoPush k d'
      ∧ (d'.so.binds.find? fun b => b.dev == k.src && b.home == k.addr % 4096) = some b)
    ∧ (∃ (k : FabPkt) (d d' : Dev), d.PktTaken ptMirrorBind k d' ∧ d'.soRemoteDetail k = 0 ∧ d'.epochDiffers k = false
      ∧ d'.so.ue.contains (k.addr % 4096) = false ∧ d'.so.pushes.length < 64)
    ∧ (∃ (k : FabPkt) (d d' : Dev), d.PktTaken ptMirrorUnbind k d')
    ∧ (∃ (d : Dev) (e : PushEntry), d.coreClocks = true
      ∧ (d.so.pushes.find? fun e => e.home == 4095 && e.dev == 7 && e.mirror == 0) = some e) := by
  let pushed (so : So) (regs : Dev → Dev) (k : FabPkt) : Dev := { regs (upPkt k) with so := so }
  refine ⟨⟨_, _, ⟨runs (d := upC [cmd 0x0605 [(0, 2, 4095)]]) (c := cmd 0x0605 [(0, 2, 4095)]) (by decide +kernel), by decide +kernel⟩,
      askedOk (by decide +kernel)⟩,
    ⟨_, _, ⟨0, 2, 0, 0, 0⟩, runs (d := { upMirror [] with cp0 := { cp00 with cmds := [cmd 0x0605 [(0, 2, 4095), (7, 1, 1)]] } })
      (c := cmd 0x0605 [(0, 2, 4095), (7, 1, 1)]) (by decide +kernel), by decide +kernel⟩,
    ⟨{ upC [cmd 0x0605] with so := { so0 with binds := [⟨0, 4095, 7, 0, 0, 2⟩] } }, ⟨0, 4095, 7, 0, 0, 2⟩, cmd 0x0605, by decide +kernel⟩,
    by decide +kernel, ?_, ?_, ⟨_, _, _, takenPkt (k := pkt ptMirrorBind) rfl, by decide +kernel⟩,
    ⟨_, _, _, takenPkt (k := pkt ptMirrorUnbind) rfl⟩,
    ⟨{ up with so := { so0 with pushes := [⟨4095, 7, 0, 0, 0⟩] } }, ⟨4095, 7, 0, 0, 0⟩, by decide +kernel⟩⟩
  · let k := pkt ptSoPush 0
    let d := pushed { so0 with mirrors := [(5, ⟨0, 2, 0, 0, 0⟩)] } (fun d => d.setReg (Reg.SO_CFG.KIND 5).reg (3 + 7 * 2 ^ 16)) k
    exact ⟨k, d, (d.nextIn ptSoPush).elim rst fun x => x.2, ⟨by decide +kernel, by decide +kernel⟩, by decide +kernel⟩
  · let k := pkt ptSoPush 0
    let d := pushed { so0 with binds := [⟨0, 4095, 7, 0, 0, 2⟩] } id k
    exact ⟨k, d, (d.nextIn ptSoPush).elim rst fun x => x.2, ⟨0, 4095, 7, 0, 0, 2⟩, ⟨by decide +kernel, by decide +kernel⟩, by decide +kernel⟩
/-- A porter descriptor: one row of 16 bytes, of 2 to transpose, from 0x1000 to 0x2000. -/
def desc1 (op : Nat) : Nat :=
  [(0x00, 1, op), (0x08, 8, 0x1000), (0x10, 8, 0x2000), (0x18, 4, 1), (0x1C, 4, if op = 4 then 2 else 16), (0x20, 4, 16), (0x24, 4, 16)].foldl
    (fun n (o, l, v) => setBits n (8 * o) (8 * l) v) 0

/-- `up` with a porter that has come to such a descriptor. -/
def upPrt (p op : Nat) : Dev := { up.poke 0 (leBytes 40 (desc1 op)) with porters := [(p, run1)] }

theorem takesUp {p op : Nat} (h : (kvGet p (upPrt p op).porters = some run1 ∧ (upPrt p op).live = true ∧ run1.index < run1.count ∧ run1.pos = 0
    ∧ pdOp (desc1 op) = op ∧ pdFence (desc1 op) = false ∧ pdWaitEn (desc1 op) = false)
    ∧ (match ((upPrt p op).read (byPorter p) run1.ctx (run1.list + 64 * run1.index) 64).res with
      | .ok _ => true
      | .error _ => false) = true
    ∧ leNat (bytesOf ((upPrt p op).read (byPorter p) run1.ctx (run1.list + 64 * run1.index) 64)) = desc1 op
    ∧ (((upPrt p op).read (byPorter p) run1.ctx (run1.list + 64 * run1.index) 64).dev.prtCheck p run1.ctx (desc1 op)).2 = none) :
    (upPrt p op).PorterTakes p op run1 (desc1 op) (takenUp (upPrt p op) p run1 (desc1 op)) := takes h.1 h.2.1 h.2.2.1 h.2.2.2

/-- The source, and the destination, of the descriptor as pieces. -/
def src1 (x : Nat) : List (Nat × Nat) := (List.range (pdRows x)).flatMap fun i =>
  (burstsOf (pdSrc x + i * pdSrcStride x) (pdRowBytes x)).map fun b => (pdSrc x + i * pdSrcStride x + b.1, b.2)
def dst1 (x : Nat) : List (Nat × Nat) := (List.range (pdRows x)).flatMap fun i =>
  (burstsOf (pdDst x + i * pdDstStride x) (pdRowBytes x)).map fun b => (pdDst x + i * pdDstStride x + b.1, b.2)

theorem crcOk {x : Dev × Except Fail Nat} (h : (match x.2 with
    | .ok _ => true
    | .error _ => false) = true) : ∃ v, x = (x.1, .ok v) := by
  obtain ⟨d, r⟩ := x
  cases r with
  | ok v => exact ⟨v, rfl⟩
  | error e => cases h

theorem witness_PorterCommandsComplete :
    (∃ (d : Dev) (t : Td), d.TdStarts 0 0x60 t ∧ kvGet (t.f 0x20 1) d.porters = none
      ∧ (d.tdStart t).unitBlocked [domPorters t.core] 0x0D21 = none)
    ∧ (∃ (d d' : Dev) (x : Nat), d.PorterTakes 23 0 run1 x d')
    ∧ (∃ (d d' : Dev) (x : Nat), d.PorterTakes 0 1 run1 x d'
      ∧ (d'.movePieces (byPorter 0) run1.ctx
        (rowPieces (pdRows x) (pdRowBytes x) (pdSrc x) (pdSrcStride x) (pdDst x) (pdDstStride x)) 0).err = none)
    ∧ (∃ (d d' : Dev) (x : Nat), d.PorterTakes 0 2 run1 x d' ∧ (d'.fillPieces (byPorter 0) run1.ctx (pdAux x) (dst1 x) 0).err = none)
    ∧ (∃ (d d' : Dev) (x : Nat), d.PorterTakes 0 3 run1 x d'
      ∧ ∃ v, d'.crcPieces (byPorter 0) run1.ctx (src1 x) (pdAux x) = ((d'.crcPieces (byPorter 0) run1.ctx (src1 x) (pdAux x)).1, .ok v))
    ∧ (∃ (d d' : Dev) (x : Nat), d.PorterTakes 16 4 run1 x d'
      ∧ (d'.movePieces (byPorter 16) run1.ctx (transposePieces (pdRows x) (pdRowBytes x / elemSize (pdElem x)) (elemSize (pdElem x)) (pdSrc x)
        (pdSrcStride x) (pdDst x) (pdDstStride x)) 0).err = none)
    ∧ (∃ (d d' : Dev) (x : Nat), d.PorterTakes 20 5 run1 x d') ∧ (∃ (d d' : Dev) (x : Nat), d.PorterTakes 20 6 run1 x d') :=
  ⟨⟨_, _, starts (d := upT [td 0x60]) (t := td 0x60) (by decide +kernel), by decide +kernel⟩,
    ⟨_, _, _, takesUp (p := 23) (op := 0) (by decide +kernel)⟩,
    ⟨_, _, _, takesUp (p := 0) (op := 1) (by decide +kernel), by decide +kernel⟩,
    ⟨_, _, _, takesUp (p := 0) (op := 2) (by decide +kernel), by decide +kernel⟩,
    ⟨_, _, _, takesUp (p := 0) (op := 3) (by decide +kernel), crcOk (by decide +kernel)⟩,
    ⟨_, _, _, takesUp (p := 16) (op := 4) (by decide +kernel), by decide +kernel⟩,
    ⟨_, _, _, takesUp (p := 20) (op := 5) (by decide +kernel)⟩, ⟨_, _, _, takesUp (p := 20) (op := 6) (by decide +kernel)⟩⟩

theorem chunkOk {x : Dev × Except Fail Cmd} (h : (match x.2 with
    | .ok _ => true
    | .error _ => false) = true) : ∃ c, x = (x.1, .ok c) := by
  obtain ⟨d, r⟩ := x
  cases r with
  | ok v => exact ⟨v, rfl⟩
  | error e => cases h

/-- A memory command of few bytes; `n` chunks, of which none has run. -/
def memCmd (op n : Nat) : Cmd :=
  { cmd op [(0, 8, 0x1000), (8, 8, if op = 0x0202 ∨ op = 0x0205 then 64 else 0x2000), (0x10, 4, if op = 0x0201 then 64 else if op = 0x0204 then 1 else 2),
      (0x14, 4, if op = 0x0201 then 0 else if op = 0x0204 then 2 else 32), (0x18, 4, 64), (0x1C, 4, if op = 0x0204 then 64 else 0)] with
    total := n }

theorem memRuns {op n : Nat} (h : ((upC [memCmd op n]).cmd? 0 == some (memCmd op n) && (upC [memCmd op n]).live
    && (memCmd op n).phase == .running && (memCmd op n).opcode == op && (memCmd op n).fin == none && (memCmd op n).stop == none
    && (memCmd op n).parked == false && (upC [memCmd op n]).coreHeld (memCmd op n) == false) = true) :
    (upC [memCmd op n]).RoutineRuns 0 op (memCmd op n) := runsR h ⟨.inl rfl, rfl, rfl⟩

/-- Each of the five commands with one chunk under way, and with none begun. -/
theorem witness_MemoryCommandsComplete :
    (∀ op ∈ ([0x0201, 0x0202, 0x0203, 0x0204, 0x0205] : List Nat), (upC [memCmd op 1]).RoutineRuns 0 op (memCmd op 1)
      ∧ (memCmd op 1).total ≠ 0 ∧ (memCmd op 1).done < (memCmd op 1).total
      ∧ ∃ c', (upC [memCmd op 1]).memChunkRun (memCmd op 1) = (((upC [memCmd op 1]).memChunkRun (memCmd op 1)).1, .ok c'))
    ∧ (∃ (s d : Dev) (c₀ c : Cmd), s.RoutineRuns 0 0x0202 c₀ ∧ c₀.total = 0 ∧ cdiv (memBytes c₀) s.memChunk ≤ 1
      ∧ d = (s.assign 0 [s.pickCore 2]).updCmd 0 (fun c => { c with total := cdiv (memBytes c₀) s.memChunk })
      ∧ d.cmd? 0 = some c ∧ c.done < c.total ∧ ∃ c', d.memChunkRun c = ((d.memChunkRun c).1, .ok c')) := by
  refine ⟨?_, ?_⟩
  · intro op h
    simp only [List.mem_cons, List.not_mem_nil, or_false] at h
    rcases h with rfl | rfl | rfl | rfl | rfl <;>
      exact ⟨memRuns (by decide +kernel), by decide +kernel, by decide +kernel, chunkOk (by decide +kernel)⟩
  · exact ⟨upC [memCmd 0x0202 0], _, _, { memCmd 0x0202 1 with cores := [(upC [memCmd 0x0202 0]).pickCore 2] }, memRuns (by decide +kernel),
      by decide +kernel, by decide +kernel, rfl, by decide +kernel, by decide +kernel, chunkOk (by decide +kernel)⟩
/-- The array of a core as a descriptor of its command takes it. -/
def arrTaken (d : Dev) (t : Td) : Dev := (d.tdStart t).setArr t.core { (d.tdStart t).arrOf t.core with owner := some t.cmd }

/-- A load of one element of block 0, and a pass of one row over no block. -/
def load1 : Td := td 0x10 [(0x18, 8, spmBase 0), (0x26, 2, 1), (0x2A, 2, 1), (0x2C, 4, 128)]
def pass1 : Td := td 0x11 [(0x18, 8, spmBase 0)]

/-- An ARRAY_RUN of one product of one element on core 0. -/
def arrRun1 : Cmd := cmd 0x0302 [(8, 8, 0x1000), (0x10, 8, 0x2000), (0x20, 4, 1), (0x28, 4, 128), (0x2C, 4, 128), (0x30, 4, 128)]

theorem witness_ArrayCommandsComplete :
    (∃ (d : Dev) (t : Td), d.TdStarts 0 0x10 t ∧ (d.arrOpenTo t.core t.cmd = true ∧ (d.tdStart t).arrRefusal t.core = none
        ∧ t.f 0x18 8 % 128 = 0 ∧ t.f 0x2C 4 % 128 = 0 ∧ t.f 0x28 2 + t.f 0x2A 2 ≤ (arrTaken d t).rd (Reg.ARR_COLS.COLS t.core))
      ∧ ∃ d' rows, (arrTaken d t).loadRows t.core t.ctx (t.f 0x2A 2)
        ((List.range (t.f 0x26 2)).map fun i => (t.f 0x24 2 + i, t.f 0x18 8 + i * t.f 0x2C 4)) = (d', .ok rows))
    ∧ (∃ t, (upT [{ load1 with started := true }]).switchDue 0 false = some t)
    ∧ (∃ t, (upT [{ td 0x10 [(0x20, 1, 1)] with started := true }]).switchDue 0 true = some t)
    ∧ (∃ (d : Dev) (t : Td), d.TdStarts 0 0x11 t ∧ t.started = false
      ∧ ((d.earlierOfCmd t).any fun u => tdKind u.td == 0x10 && !u.finished && (u.f 0x20 1 != 0 || u.f 0x21 1 != 0)) = false
      ∧ d.arrOpenTo t.core t.cmd = true ∧ (d.tdStart t).arrRefusal t.core = none ∧ (arrTaken d t).passCheck t = none)
    ∧ (∃ (d : Dev) (t : Td), d.td? 0 = some t ∧ tdKind t.td = 0x11 ∧ t.started = true ∧ t.finished = false ∧ d.live = true)
    ∧ (up.coreClocks = true ∧ up.arrayRunOn 0 = none ∧ (up.arrOf 0).owner = none ∧ (up.seq.tds.filter fun t =>
      t.core == 0 && t.started && !t.finished && (tdKind t.td == 0x10 || tdKind t.td == 0x11)) = [])
    ∧ (∃ (d : Dev) (c : Cmd), d.coreClocks = true ∧ d.arrayRunOn 0 = some c ∧ (d.arrOf 0).owner = none ∧ (d.seq.tds.filter fun t =>
      t.core == 0 && t.started && !t.finished && (tdKind t.td == 0x10 || tdKind t.td == 0x11)) = [])
    ∧ (∃ (d : Dev) (c : Cmd), d.RoutineRuns 0 0x0302 c ∧ (c.total = 0 ∧ (d.arrOf (d.arrCore (c.par 0x37 1))).owner = none
        ∧ d.runRefusal (d.arrCore (c.par 0x37 1)) = none)
      ∧ ∃ d', ((d.assign 0 [d.arrCore (c.par 0x37 1)]).updCmd 0 fun c => { c with total := 1 }).runStage c (d.arrCore (c.par 0x37 1)) c.done
        = ⟨d', none⟩)
    ∧ (∃ (d : Dev) (c : Cmd), d.RoutineRuns 0 0x0801 c ∧ (d.arrOf (c.par 0 1 % 2)).owner = none ∧ d.arrRefusal (c.par 0 1 % 2) = none) :=
  ⟨⟨_, _, starts (d := upT [load1]) (t := load1) (by decide +kernel), by decide +kernel, okOf (by decide +kernel)⟩,
    ⟨{ load1 with started := true }, by decide +kernel⟩, ⟨{ td 0x10 [(0x20, 1, 1)] with started := true }, by decide +kernel⟩,
    ⟨_, _, starts (d := upT [pass1]) (t := pass1) (by decide +kernel), by decide +kernel⟩,
    ⟨upT [{ pass1 with started := true }], { pass1 with started := true }, by decide +kernel⟩, by decide +kernel,
    ⟨upC [{ cmd 0x0302 with cores := [0], total := 2 }], { cmd 0x0302 with cores := [0], total := 2 }, by decide +kernel⟩,
    ⟨_, _, runsR (d := upC [arrRun1]) (c := arrRun1) (by decide +kernel) (by decide +kernel), by decide +kernel, putOk (by decide +kernel)⟩,
    ⟨_, _, runsR (d := upC [cmd 0x0801]) (c := cmd 0x0801) (by decide +kernel) (by decide +kernel), by decide +kernel⟩⟩

/-- A SFU table of MODE 0 on [0, 1) whose 256 entries are 0. -/
def tab1 : List Byte := leBytes 1088 (setBits (setBits (setBits 0x100 64 32 one32) 96 32 one32) 0 8 0)

/-- `up` with the table at 0. -/
def upTab (f : List (Nat × Nat × Nat)) : Dev := (upC [cmd 0x0A01 f]).poke 0 tab1

/-- A reduction of one row of one element to its sum. -/
def red1 : Td := td 0x21 [(0x18, 8, spmBase 0), (0x20, 8, spmBase 0 + 64), (0x28, 4, 1), (0x2C, 2, 1), (0x2E, 1, 1)]

theorem witness_TableReductionTestComplete :
    (∃ (d : Dev) (c : Cmd), d.CmdRuns 0 0x0A01 c ∧ (d.unitBlocked ((coresOf (c.par 0x09 1)).map domSfu) 0x0913 = none ∧ c.par 0x0A 1 = 0
        ∧ c.aux = [] ∧ (coresOf (c.par 0x09 1)).all (fun k => (d.sfuOwner k (c.par 0x08 1 % 16)).isNone) = true)
      ∧ ∃ d' t, d.read byCp c.ctx (c.par 0 8) 1088 = ⟨d', .ok t⟩ ∧ tableFault t = none)
    ∧ (∃ (d : Dev) (c : Cmd), d.CmdRuns 0 0x0A01 c ∧ d.unitBlocked ((coresOf (c.par 0x09 1)).map domSfu) 0x0913 = none ∧ c.par 0x0A 1 = 1)
    ∧ (∃ (d : Dev) (c : Cmd), d.CmdRuns 0 0x0A01 c ∧ (d.unitBlocked ((coresOf (c.par 0x09 1)).map domSfu) 0x0913 = none ∧ c.par 0x0A 1 = 2
        ∧ d.sfuOwner (sfuReadCore (c.par 0x09 1)) (c.par 0x08 1 % 16) = none
        ∧ d.on (Reg.SFU_SLOT.LOADED (sfuReadCore (c.par 0x09 1)) (c.par 0x08 1 % 16)) = true)
      ∧ ∃ d', d.write byCp c.ctx (c.par 0 8) (d.sfuTable (sfuReadCore (c.par 0x09 1)) (c.par 0x08 1 % 16)) = ⟨d', none⟩)
    ∧ (∃ (d e : Dev) (t : Td), d.TdStarts 0 0x21 t ∧ e = (d.tdStart t).wr (Reg.RU_STATUS.CTX0 0) t.ctx
      ∧ (t.f 0x2F 1 = 0 ∧ t.core = 0 ∧ e.unitBlocked [domRu 0] 0x0A12 = none ∧ t.f 0x18 8 % 4 = 0 ∧ t.f 0x20 8 % 4 = 0
        ∧ inSpm 0 (t.f 0x18 8) (4 * t.f 0x2C 2 * t.f 0x28 4) = true ∧ inSpm 0 (t.f 0x20 8) (4 * t.f 0x28 4 * 1) = true
        ∧ overlap (t.f 0x18 8) (4 * t.f 0x2C 2 * t.f 0x28 4) (t.f 0x20 8) (4 * t.f 0x28 4 * 1) = false
        ∧ ((List.range 6).filter fun k => bitAt (t.f 0x2E 1) k) = [0])
      ∧ ∃ d' xs, e.ruRows 0 t.ctx (t.f 0x18 8) (t.f 0x2C 2) (List.range (t.f 0x28 4)) = (d', .ok xs)
        ∧ ∃ d₂, ((d'.incMod (Reg.RU_ROWS.COUNT 0) (t.f 0x28 4)).incMod (Reg.RU_NONFINITE.COUNT 0) 0).ruPlanes 0 t.ctx
          [(t.f 0x20 8, xs.flatMap fun r => leBytes 4 (ruValue 0 r))] = ⟨d₂, none⟩)
    ∧ (∃ (d : Dev) (c : Cmd), d.RoutineRuns 0 0x0802 c ∧ (c.total ≠ 0 ∧ c.done < c.total) ∧ ∃ d' c', Dev.memTestChunk [] c d = (d', .ok c')) := by
  refine ⟨⟨_, _, runs (d := upTab []) (c := cmd 0x0A01) (by decide +kernel), by decide +kernel, _, _, got (by decide +kernel), by decide +kernel⟩,
    ⟨_, _, runs (d := upC [cmd 0x0A01 [(0xA, 1, 1)]]) (c := cmd 0x0A01 [(0xA, 1, 1)]) (by decide +kernel), by decide +kernel⟩,
    ⟨_, _, runs (d := (upC [cmd 0x0A01 [(0xA, 1, 2)]]).wr (Reg.SFU_SLOT.LOADED 0 0) 1) (c := cmd 0x0A01 [(0xA, 1, 2)]) (by decide +kernel),
      by decide +kernel, putOk (by decide +kernel)⟩,
    ⟨_, _, _, starts (d := upT [red1]) (t := red1) (by decide +kernel), rfl, by decide +kernel, _, _,
      Prod.ext rfl (?_ : _ = Except.ok [[0]]), putOk (by decide +kernel)⟩,
    ⟨_, _, runsR (d := upC [{ cmd 0x0802 [(8, 8, 64)] with total := 2 }]) (c := { cmd 0x0802 [(8, 8, 64)] with total := 2 })
      (by decide +kernel) (by decide +kernel), by decide +kernel, okOf (by decide +kernel)⟩⟩
  decide +kernel
theorem veAt {d : Dev} {core op : Nat} {r : VeRun} (h : (kvGet core d.ve == some r && d.live && r.pos != 0 && decide (r.pos ≤ r.len)
    && veOp r.word == op) = true) : d.VeAt core op r := by
  simp only [Bool.and_eq_true, beq_iff_eq, bne_iff_ne, decide_eq_true_eq] at h
  exact ⟨h.1.1.1.1, h.1.1.1.2, h.1.1.2, h.1.2, h.2⟩

/-- A stream table whose S0, the driver, and O0 hold one binary32 element each. -/
def tblV : List Byte :=
  [(0x10, 1, 0x11), (0x80, 8, spmBase 0 + 0x400), (0x88, 4, 1), (0x8C, 4, 1), (0x90, 4, 4), (0x100, 8, spmBase 0 + 0x800), (0x108, 4, 1),
    (0x10C, 4, 1), (0x110, 4, 4)].foldl (fun bs (o, n, v) => bs.take o ++ leBytes n v ++ bs.drop (o + n)) (zeros 320)

/-- A run of one element that has come to an instruction of opcode `op` with operands A = R0 and output O0. -/
def runV (op pos : Nat) : VeRun :=
  { td := 0, cmd := 0, ctx := 0, source := 0, tbl := tblV, body := [2 ^ 26 + 8 * 2 ^ 21, op * 2 ^ 26 + 2 ^ 9 + 8], total := 1, done := 0, pos := pos
    vl := if pos = 0 then 0 else 1, row := 0, col := 0, ins := [[one32], [], [], [], [0]], acc := [], res := [], seed := 0 }

def upV (r : VeRun) : Dev := { upT [] with ve := [(0, r)] }

/-- The run has come to the instruction, and what it stores, the lane function's result, is written. -/
def meetsV (x : Nat × (Dev → Nat → VeRun → Nat → Lane → Nat)) : Bool :=
  let r := runV x.1 1
  (kvGet 0 (upV r).ve == some r && (upV r).live && r.pos != 0 && decide (r.pos ≤ r.len) && veOp r.word == x.1)
    && ((upV r).veWrite 0 0 (r.writes r.word ((r.lanes r.word).map (x.2 (upV r) 0 r r.word)) fun _ => true)).err.isNone

theorem meetsV_sound {x : Nat × (Dev → Nat → VeRun → Nat → Lane → Nat)} (h : meetsV x = true) :
    ∃ (d : Dev) (r : VeRun), d.VeAt 0 x.1 r ∧ ∃ d', d.veWrite 0 r.ctx (r.writes r.word ((r.lanes r.word).map (x.2 d 0 r r.word)) fun _ => true)
      = ⟨d', none⟩ := by
  rw [meetsV, Bool.and_eq_true] at h
  exact ⟨_, _, veAt h.1, putOk h.2⟩

theorem witness_VeArithmeticComplete : ∀ x ∈ ([
        (0x00, fun _ _ _ _ _ => 0), (0x03, fun _ _ _ _ l => l.a), (0x08, fun _ _ _ _ l => add32 l.a l.b),
        (0x09, fun _ _ _ _ l => sub32 l.a l.b), (0x0A, fun _ _ _ _ l => mul32 l.a l.b),
        (0x0B, fun _ _ _ _ l => fma32 l.a l.b l.c), (0x0C, fun _ _ _ _ l => fms32 l.a l.b l.c),
        (0x0D, fun _ _ _ _ l => fnma32 l.a l.b l.c), (0x0E, fun _ _ _ _ l => min32 false l.a l.b),
        (0x0F, fun _ _ _ _ l => max32 false l.a l.b), (0x10, fun _ _ _ _ l => min32 true l.a l.b),
        (0x11, fun _ _ _ _ l => max32 true l.a l.b), (0x12, fun _ _ _ _ l => l.a % signBit32),
        (0x13, fun _ _ _ _ l => neg32 l.a), (0x14, fun _ _ _ _ l => l.a % signBit32 + l.b / signBit32 * signBit32),
        (0x15, fun _ _ _ _ l => min32 false (max32 false l.a l.b) l.c),
        (0x16, fun _ _ _ _ l => fma32 l.c (sub32 l.b l.a) l.a), (0x17, fun _ _ _ w l => mulp2 (toSigned 9 (veMod w)) l.a),
        (0x18, fun _ _ _ _ l => nrrcp l.a l.b), (0x19, fun _ _ _ _ l => nrrsq l.a l.b),
        (0x1A, fun _ _ _ w l => rint32 (veMod w % 4) l.a)] : List (Nat × (Dev → Nat → VeRun → Nat → Lane → Nat))),
    ∃ (d : Dev) (r : VeRun), d.VeAt 0 x.1 r ∧ ∃ d', d.veWrite 0 r.ctx (r.writes r.word ((r.lanes r.word).map (x.2 d 0 r r.word)) fun _ => true)
      = ⟨d', none⟩ := by
  exact fun x hx => meetsV_sound (List.all_eq_true.1 (by decide +kernel) x hx)

theorem witness_VeLogicAndConversionsComplete : ∀ x ∈ ([
        (0x20, fun _ _ _ w l => mask32 (cmp32 (veMod w % 8) l.a l.b)),
        (0x21, fun _ _ _ _ l => if bitAt l.a 31 then l.b else l.c),
        (0x22, fun _ _ _ w l => mask32 (bitAt (veMod w) (fclass32 l.a))), (0x24, fun _ _ _ _ l => l.a &&& l.b),
        (0x25, fun _ _ _ _ l => l.a ||| l.b), (0x26, fun _ _ _ _ l => l.a ^^^ l.b),
        (0x27, fun _ _ _ _ l => l.a &&& (0xFFFFFFFF - l.b)),
        (0x28, fun _ _ _ w l => l.a * 2 ^ (veMod w % 32) % 2 ^ 32), (0x29, fun _ _ _ w l => l.a / 2 ^ (veMod w % 32)),
        (0x2A, fun _ _ _ w l => shra32 (veMod w % 32) l.a), (0x2B, fun _ _ _ _ l => (l.a + l.b) % 2 ^ 32),
        (0x2C, fun _ _ _ _ l => (l.a + (2 ^ 32 - l.b)) % 2 ^ 32), (0x2D, fun _ _ _ _ l => l.a * l.b % 2 ^ 32),
        (0x2E, fun _ _ _ w l => mask32 (icmp32 (veMod w) l.a l.b)), (0x30, fun _ _ _ _ l => int32 (toSigned 32 l.a)),
        (0x32, fun _ _ _ _ l => bf16to32 (to16 l.a)), (0x33, fun _ _ r _ l => srbf16 l.a (r.draw l.i)),
        (0x38, fun d core _ w l => sfuEval (d.sfuTable core (veMod w % 16)) l.a),
        (0x39, fun d core _ w l => mul32 (sfuEval (d.sfuTable core (veMod w % 16)) (add32 l.a l.b)) l.c),
        (0x3A, fun d core _ w l => mul32 l.a (sfuEval (d.sfuTable core (veMod w % 16)) l.b)),
        (0x3B, fun _ _ r _ l => mask32 (decide (l.b ≤ r.draw l.i % 2 ^ 32)))] : List (Nat × (Dev → Nat → VeRun → Nat → Lane → Nat))),
    ∃ (d : Dev) (r : VeRun), d.VeAt 0 x.1 r ∧ ∃ d', d.veWrite 0 r.ctx (r.writes r.word ((r.lanes r.word).map (x.2 d 0 r r.word)) fun _ => true)
      = ⟨d', none⟩ := by
  exact fun x hx => meetsV_sound (List.all_eq_true.1 (by decide +kernel) x hx)

/-- A VE_RUN descriptor of PC 0 over the table at the scratchpad's start, and the store with its body: SETVL, a copy to O0, LOOP. -/
def descV : Td := td 0x20 [(0x18, 8, spmBase 0), (0x24, 4, 1)]
def upStore (d : Dev) : Dev :=
  { (d.poke (spmBase 0) tblV).wr (Reg.VE_PAGES.USED 0) 1 with
    veStore := [(0, 2 ^ 26 + 8 * 2 ^ 21), (1, 3 * 2 ^ 26 + 8 * 2 ^ 21 + 2 ^ 9), (2, 2 * 2 ^ 26)] }

/-- The device as the descriptor starts, and once it has read its stream table. -/
def veBegun : Dev := let d := (upStore (upT [descV])).tdStart descV
  ((d.setArr 0 (d.arrOf 0)).wr (Reg.VE_STATUS.SOURCE 0) 0).wr (Reg.VE_STATUS.CTX 0) 0
def veRead : Dev := (veBegun.coreRead 0 0 (spmBase 0) 320).dev

theorem witness_VeControlComplete :
    ((upStore (upT [descV])).TdStarts 0 0x20 descV ∧ descV.f 0x28 1 = 0 ∧ (upStore (upT [descV])).sfuHolds descV = false
      ∧ veBegun.unitBlocked [domVe 0] 0x0913 = none ∧ veBegun.coreRead 0 0 (descV.f 0x18 8) 320 = ⟨veRead, .ok tblV⟩
      ∧ ∃ ws, veRead.findBody 0 0 (veRead.tdOpcode descV) (descV.f 0x20 2) = .body ws
        ∧ bodyFault tblV 0 (descV.f 0x20 2) (ws.headD 0) ws.tail = none ∧ veRead.bodySfuFault 0 0 ws.tail = none
        ∧ streamFault 0 (veRead.rd (Reg.ARR_COLS.COLS 0)) 0 (veA (ws.headD 0)) tblV = none)
    ∧ (∃ (d : Dev) (r : VeRun), (kvGet 0 d.ve = some r ∧ d.live = true ∧ r.pos = 0 ∧ r.done < r.total
        ∧ ((veEnabled r.tbl).any fun n => (veStream r.tbl n).stride != 0 && decide ((veStream r.tbl n).rows ≤ r.row)) = false
        ∧ d.veWaiting 0 = false ∧ r.source = 0)
      ∧ ∃ d' ins, d.veInputs 0 r (min r.cap (r.elems - r.col)) [0, 1, 2, 3] = (d', .ok ins))
    ∧ (∃ (d : Dev) (r : VeRun), kvGet 0 d.ve = some r ∧ d.live = true ∧ r.pos = r.len + 1 ∧ r.done + 1 < r.total)
    ∧ (∃ (d : Dev) (r : VeRun), kvGet 0 d.ve = some r ∧ d.live = true ∧ r.pos = r.len + 1 ∧ r.total ≤ r.done + 1)
    ∧ (∃ (d : Dev) (r : VeRun), d.VeAt 0 0x04 r ∧ ∃ d', d.veWrite 0 r.ctx (r.writes r.word ((r.lanes r.word).map fun l => l.b)
      fun i => ((r.lanes r.word).map fun l => bitAt l.a 31).getD i true) = ⟨d', none⟩)
    ∧ (∃ (d : Dev) (r : VeRun), d.VeAt 0 0x31 r
      ∧ ∃ d', (d.inc (Reg.VE_SAT.COUNT 0) ((r.operand (veA r.word)).filter fun a => (cvtfi (veMod r.word % 4) a).2).length).veWrite 0 r.ctx
        (r.writes r.word ((r.lanes r.word).map fun l => (cvtfi (veMod r.word % 4) l.a).1) fun _ => true) = ⟨d', none⟩)
    ∧ (∃ (d : Dev) (c : Cmd), d.CmdRuns 0 0x0A02 c ∧ d.unitBlocked ((coresOf (c.par 0x0C 1)).map domVe) 0x0913 = none ∧ c.par 0x0D 1 = 1
      ∧ ((coresOf (c.par 0x0C 1)).any fun k =>
        d.pagesInUse k ((pagesOf (c.par 8 2) (c.par 0x0A 2)).filter fun p => d.pageOwner k p == some c.ctx)) = false)
    ∧ (∃ (d : Dev) (c : Cmd), d.CmdRuns 0 0x0A02 c ∧ (d.unitBlocked ((coresOf (c.par 0x0C 1)).map domVe) 0x0913 = none ∧ c.par 0x0D 1 ≠ 1
        ∧ (∀ k ∈ coresOf (c.par 0x0C 1), ∀ p ∈ pagesOf (c.par 8 2) (c.par 0x0A 2), d.pageOwner k p = none)
        ∧ ((coresOf (c.par 0x0C 1)).any fun k => d.pagesInUse k (pagesOf (c.par 8 2) (c.par 0x0A 2))) = false)
      ∧ ∃ d' bs, d.read byCp c.ctx (c.par 0 8) (4 * c.par 0x0A 2) = ⟨d', .ok bs⟩)
    ∧ (∃ (d : Dev) (c : Cmd), d.RoutineRuns 0 0x0305 c ∧ c.todo = [] ∧ d.cmdTds 0 = [] ∧ c.total ≠ 0)
    ∧ (∃ (d : Dev) (c : Cmd), d.RoutineRuns 0 0x0305 c ∧ c.todo = [] ∧ d.cmdTds 0 = [] ∧ c.total = 0
      ∧ ∃ ws, d.findBody (c.par 0x0E 1 % 2) c.ctx 0x0305 (c.par 0x0C 2) = .body ws ∧ 1 < ws.length) :=
  ⟨⟨starts (by decide +kernel), by decide +kernel, by decide +kernel, by decide +kernel, gotIs (by decide +kernel),
      [2 ^ 26 + 8 * 2 ^ 21, 3 * 2 ^ 26 + 8 * 2 ^ 21 + 2 ^ 9], by decide +kernel⟩,
    ⟨upV (runV 3 0), runV 3 0, by decide +kernel, okOf (by decide +kernel)⟩,
    ⟨upV { runV 3 2 with total := 2 }, { runV 3 2 with total := 2 }, by decide +kernel⟩, ⟨upV (runV 3 2), runV 3 2, by decide +kernel⟩,
    ⟨_, _, veAt (d := upV (runV 4 1)) (r := runV 4 1) (by decide +kernel), putOk (by decide +kernel)⟩,
    ⟨_, _, veAt (d := upV (runV 0x31 1)) (r := runV 0x31 1) (by decide +kernel), putOk (by decide +kernel)⟩,
    ⟨_, _, runs (d := upC [cmd 0x0A02 [(0xA, 2, 1), (0xD, 1, 1)]]) (c := cmd 0x0A02 [(0xA, 2, 1), (0xD, 1, 1)]) (by decide +kernel), by decide +kernel⟩,
    ⟨_, _, runs (d := upC [cmd 0x0A02 [(0xA, 2, 1)]]) (c := cmd 0x0A02 [(0xA, 2, 1)]) (by decide +kernel), by decide +kernel, gotOk (by decide +kernel)⟩,
    ⟨_, _, runsR (d := upC [{ cmd 0x0305 with total := 2, cores := [0] }]) (c := { cmd 0x0305 with total := 2, cores := [0] }) (by decide +kernel)
      ⟨.inl rfl, rfl, rfl⟩, by decide +kernel⟩,
    ⟨_, _, runsR (d := upStore (upC [cmd 0x0305 [(8, 4, 1)]])) (c := cmd 0x0305 [(8, 4, 1)]) (by decide +kernel) (by decide +kernel),
      by decide +kernel, by decide +kernel, by decide +kernel, [2 ^ 26 + 8 * 2 ^ 21, 3 * 2 ^ 26 + 8 * 2 ^ 21 + 2 ^ 9], by decide +kernel⟩⟩
/-- A scan parameter block: one step of one lane; a, b and h in the scratchpad of core 0. -/
def blkS : List Byte :=
  [(0, 8, spmBase 0 + 0x1000), (8, 8, spmBase 0 + 0x2000), (0x10, 8, spmBase 0 + 0x4000), (0x20, 4, 1536), (0x24, 4, 1536), (0x28, 4, 1536),
    (0x2C, 2, 1), (0x2E, 2, 16)].foldl (fun bs (o, n, v) => bs.take o ++ leBytes n v ++ bs.drop (o + n)) (zeros 64)
def descS (op : Nat) : Td := td 0x30 [(0x18, 8, spmBase 0), (0x20, 1, op), (0x24, 4, 1)]
def upS (op : Nat) : Dev := (upT [descS op]).poke (spmBase 0) blkS
def parS (op : Nat) : ScanParam := scanParam (descS op) blkS

/-- The device once a descriptor has started with a parameter block. -/
def begun (d : Dev) (op : Nat) (t : Td) (p : ScanParam) : Dev :=
  (((((d.tdStart t).coreRead t.core t.ctx (t.f 0x18 8) 64).dev.wr (Reg.SU_STATUS.OP t.core) op).wr (Reg.SU_STATUS.COMPLEX t.core)
    (b2n p.cplx)).wr (Reg.SU_STATUS.SPLIT t.core) (b2n (p.split && op != 1 && op != 2))).wr (Reg.SU_STATUS.CTX t.core) t.ctx
def begunS (op : Nat) : Dev := begun (upS op) op (descS op) (parS op)

theorem scanStarts {d : Dev} {op : Nat} {t : Td} {bs : List Byte} (h : (d.td? 0 == some t && tdKind t.td == 0x30 && d.tdMayStart t) = true)
    (g : t.f 0x20 1 = op ∧ (d.tdStart t).unitBlocked [domSu t.core] 0x0B10 = none ∧ scanFault t.core (scanParam t bs) = none)
    (r : (match ((d.tdStart t).coreRead t.core t.ctx (t.f 0x18 8) 64).res with
      | .ok b => b == bs
      | .error _ => false) = true) : d.ScanStarts 0 op t (scanParam t bs) (begun d op t (scanParam t bs)) :=
  ⟨starts h, g.1, g.2.1, _, bs, gotIs r, rfl, g.2.2, rfl⟩

theorem startsS {op : Nat} (h : ((upS op).td? 0 == some (descS op) && tdKind (descS op).td == 0x30 && (upS op).tdMayStart (descS op)) = true)
    (g : (descS op).f 0x20 1 = op ∧ ((upS op).tdStart (descS op)).unitBlocked [domSu (descS op).core] 0x0B10 = none
      ∧ scanFault (descS op).core (scanParam (descS op) blkS) = none)
    (r : (match (((upS op).tdStart (descS op)).coreRead (descS op).core (descS op).ctx ((descS op).f 0x18 8) 64).res with
      | .ok b => b == blkS
      | .error _ => false) = true) : (upS op).ScanStarts 0 op (descS op) (parS op) (begunS op) := scanStarts h g r

theorem witness_ScanDescriptorsComplete :
    ((upS 0).ScanStarts 0 0 (descS 0) (parS 0) (begunS 0) ∧ ∃ d, (begunS 0).scanStates (descS 0) (parS 0) false = ⟨d, none⟩)
    ∧ ((upS 3).ScanStarts 0 3 (descS 3) (parS 3) (begunS 3) ∧ ∃ d, (begunS 3).scanStates (descS 3) (parS 3) true = ⟨d, none⟩)
    ∧ ((upS 1).ScanStarts 0 1 (descS 1) (parS 1) (begunS 1)
      ∧ ∃ d, (begunS 1).scanSummaries (descS 1) (parS 1) 0 (stepChunks (parS 1).steps (parS 1).chunk false) = ⟨d, none⟩)
    ∧ ((upS 2).ScanStarts 0 2 (descS 2) (parS 2) (begunS 2)
      ∧ (begunS 2).scanCarry 0 0 (parS 2) = (begunS 2, .ok (zeroVec 1))
      ∧ ∃ d, (begunS 2).scanCombine (descS 2) (parS 2) (zeroVec 1) (List.range (parS 2).steps) = ⟨d, none⟩) :=
  ⟨⟨startsS (by decide +kernel) (by decide +kernel) (by decide +kernel), putOk (by decide +kernel)⟩,
    ⟨startsS (by decide +kernel) (by decide +kernel) (by decide +kernel), putOk (by decide +kernel)⟩,
    ⟨startsS (by decide +kernel) (by decide +kernel) (by decide +kernel), putOk (by decide +kernel)⟩,
    ⟨startsS (by decide +kernel) (by decide +kernel) (by decide +kernel), by decide +kernel, putOk (by decide +kernel)⟩⟩
/-- A SCAN_RUN of one segment of one chunk on core 0, its run, and its share in a walk. -/
def scanCmd : Cmd := { cmd 0x0303 [(0x20, 8, 0x4000), (0x3C, 4, 16), (0x40, 2, 16), (0x42, 2, 1), (0x47, 1, 1)] with cores := [0], total := 1 }
def share1 (w : Option Walk) : ScanShare := ⟨0, 0, 1, 1, 0, [], w⟩
def scanR (w : Option Walk) : ScanRun := ⟨[⟨0, 0, 5, 5, 0, 1⟩], [share1 w]⟩
def upScan (w : Option Walk) : Dev := { upC [scanCmd] with scans := [(0, scanR w)] }

/-- A walk that waits on the segment's sync object, one that has asked another device, and the packets that serve them. -/
def walk1 : Walk := ⟨0, [], 0, false, true⟩
def walk2 : Walk := ⟨0, [], 0, true, false⟩
def carryPkt : FabPkt := { pkt ptCarryRead with data := leBytes 8 0 ++ leBytes 8 1 }
def upCarry : Dev :=
  let d := upPkt (pkt ptCarryData)
  { d with cp0 := { d.cp0 with cmds := [scanCmd] }, scans := [(0, scanR (some walk2))]
           fab := { d.fab with txns := [⟨5, ptCarryRead, 7, .carry 0, 0, 0, 0, 0⟩] } }

theorem witness_ScanRunCommandsComplete :
    (∃ (d : Dev) (c : Cmd), (d.RoutineRuns 0 0x0303 c ∧ d.scan? 0 = none)
      ∧ (∃ d₁ bs, d.readAll byCp c.ctx [(c.runScan.map, 32 * c.runScan.segs)] = (d₁, .ok [bs]))
      ∧ ((d.readAll byCp c.ctx [(c.runScan.map, 32 * c.runScan.segs)]).1.bindCarry c c.runScan.chunks).2 = true)
    ∧ (∃ (d : Dev) (c : Cmd) (r : ScanRun) (sh : ScanShare), d.RoutineRuns 0 0x0303 c ∧ d.scan? 0 = some r
      ∧ (r.shares.findIdx? fun y => decide (y.phase ≤ 3) && y.walk.isNone && !c.preempt.contains y.core && !c.suspended.contains y.core
        && (c.runScan.mode != 2 || (d.arrOf y.core).owner.isNone)) = some 0 ∧ r.shares[0]? = some sh)
    ∧ (∃ (d : Dev) (c : Cmd) (r : ScanRun) (sh : ScanShare) (w : Walk), d.WalkOf 0 0 c r sh w ∧ d.soKind (walkSo r w) ≠ 3
      ∧ w.waiting = true ∧ w.seen < d.soValue (walkSo r w))
    ∧ (∃ (k : FabPkt) (d d' : Dev), d.PktTaken ptCarryRead k d' ∧ k.data.length = 16 ∧ 1 ≤ fieldAt k.data 8 2 ∧ fieldAt k.data 8 2 ≤ 64
      ∧ d'.on (Reg.CTX_FAB.ACCEPT k.dctx) = true ∧ kvGet (k.addr % 16) d'.carry = none)
    ∧ (∃ (k : FabPkt) (d d' : Dev) (t : Txn) (c : Cmd) (r : ScanRun) (sh : ScanShare) (w : Walk), d.PktTaken ptCarryData k d'
      ∧ (d'.fab.txns.find? fun t => t.tag == k.tag && t.typ == ptCarryRead) = some t ∧ t.who = .carry 0
      ∧ ({ d' with fab := { d'.fab with txns := d'.fab.txns.filter fun u => u.tag != k.tag } } : Dev).WalkOf 0 0 c r sh w
      ∧ w.asked = true ∧ w.j = k.arg) := by
  refine ⟨⟨upC [scanCmd], scanCmd, ⟨runsR (by decide +kernel) (by decide +kernel), by decide +kernel⟩, ?_⟩,
    ⟨upScan none, scanCmd, scanR none, share1 none, runsR (by decide +kernel) (by decide +kernel), by decide +kernel⟩,
    ⟨(upScan (some walk1)).wr (Reg.SO_VALUE.VALUE 5) 1, scanCmd, scanR (some walk1), share1 (some walk1), walk1, ?_, by decide +kernel⟩,
    ⟨_, _, _, takenPkt (k := carryPkt) rfl, by decide +kernel⟩, ?_⟩
  · exact ⟨okOf₁ (by decide +kernel), by decide +kernel⟩
  · exact ⟨by decide +kernel, by decide +kernel, by decide +kernel, by decide +kernel, by decide +kernel, by decide +kernel,
      by decide +kernel, by decide +kernel⟩
  · exact ⟨pkt ptCarryData, upCarry, _, ⟨5, ptCarryRead, 7, .carry 0, 0, 0, 0, 0⟩, scanCmd, scanR (some walk2), share1 (some walk2), walk2,
      takenOf (by decide +kernel), by decide +kernel, rfl, ⟨by decide +kernel, by decide +kernel, by decide +kernel, by decide +kernel,
        by decide +kernel, by decide +kernel, by decide +kernel, by decide +kernel⟩, by decide +kernel⟩
/-- A control block of one problem, or one element, of 1.0, for a routine and an operation. -/
def blkL (r op : Nat) : List Byte :=
  [(0, 8, spmBase 0 + 0x1000), (8, 8, spmBase 0 + 0x2000), (0x10, 8, spmBase 0 + 0x3000), (0x18, 8, spmBase 0 + 0x4000),
    (0x20, 8, spmBase 0 + 0x8000), (0x28, 8, one64), (0x30, 4, 1), (0x34, 2, op), (0x36, 1, if r < 2 then 2 else 0)].foldl
    (fun bs (o, n, v) => bs.take o ++ leBytes n v ++ bs.drop (o + n)) (zeros 64)
def descL (r : Nat) : Td := td 0x40 [(0x18, 8, spmBase 0), (0x20, 1, r), (0x22, 2, 1)]
def upL (r op : Nat) : Dev :=
  (((upT [descL r]).poke (spmBase 0) (blkL r op)).poke (spmBase 0 + 0x1000) (leBytes 8 one64)).poke (spmBase 0 + 0x2000) (leBytes 8 one64)

/-- The descriptor's work. -/
def ranL (r op : Nat) : SlvRan :=
  let d := (((upL r op).tdStart (descL r)).coreRead 0 0 (spmBase 0) 64).dev
  let y : Slv := ⟨0, 0, r, 1, blkL r op⟩
  if r = 3 then d.slvRun y 0 y.count
  else d.slvRun y y.stepFirst (if y.stepCount = 0 then y.count * y.steps.length - y.stepFirst else
    min y.stepCount (y.count * y.steps.length - y.stepFirst))

def meetsL (r op : Nat) : Bool :=
  ((upL r op).td? 0 == some (descL r) && tdKind (descL r).td == 0x40 && (upL r op).tdMayStart (descL r))
    && (descL r).f 0x20 1 == r && (upL r op).peekNat ((descL r).f 0x18 8 + 0x34) 2 == op
    && ((upL r op).tdStart (descL r)).unitBlocked [domSlv 0] 0x0C10 == none
    && (match (((upL r op).tdStart (descL r)).coreRead 0 0 ((descL r).f 0x18 8) 64).res with
      | .ok b => b == blkL r op
      | .error _ => false)
    && (ranL r op).err == none

theorem meetsL_sound {r op : Nat} (h : meetsL r op = true) :
    (upL r op).TdStarts 0 0x40 (descL r) ∧ (descL r).f 0x20 1 = r ∧ (upL r op).peekNat ((descL r).f 0x18 8 + 0x34) 2 = op
    ∧ ((upL r op).tdStart (descL r)).unitBlocked [domSlv 0] 0x0C10 = none
    ∧ (∃ d, ((upL r op).tdStart (descL r)).coreRead 0 0 ((descL r).f 0x18 8) 64 = ⟨d, .ok (blkL r op)⟩) ∧ (ranL r op).err = none := by
  simp only [meetsL, Bool.and_eq_true, beq_iff_eq] at h
  obtain ⟨⟨⟨⟨⟨h1, h2⟩, h3⟩, h4⟩, h5⟩, h6⟩ := h
  exact ⟨starts (by simpa [and_assoc] using h1), h2, h3, h4, ⟨_, gotIs h5⟩, h6⟩

/-- Each routine, and each stream operation. -/
theorem witness_SolveDescriptorsComplete (r op : Nat) (h : (r, op) ∈ ([(0, 1), (1, 1), (2, 0), (3, 0), (3, 1), (3, 2), (3, 3), (3, 4), (3, 5),
      (3, 6), (3, 7), (3, 8), (3, 9), (3, 10)] : List (Nat × Nat))) :
    (upL r op).TdStarts 0 0x40 (descL r) ∧ (descL r).f 0x20 1 = r ∧ (upL r op).peekNat ((descL r).f 0x18 8 + 0x34) 2 = op
    ∧ ((upL r op).tdStart (descL r)).unitBlocked [domSlv 0] 0x0C10 = none
    ∧ (∃ d, ((upL r op).tdStart (descL r)).coreRead 0 0 ((descL r).f 0x18 8) 64 = ⟨d, .ok (blkL r op)⟩) ∧ (ranL r op).err = none :=
  meetsL_sound (List.all_eq_true.1 (show List.all _ (fun x : Nat × Nat => meetsL x.1 x.2) = true by decide +kernel) (r, op) h)

/-- A SOLVE of routine 1 on one matrix of one element: before its first stage, and in its first of two. -/
def solve1 (n : Nat) : Cmd :=
  { cmd 0x0304 [(0, 8, spmBase 0), (8, 1, 1), (0xA, 2, 1)] with total := n, cores := if n = 0 then [] else [0], aux := [leNat (blkL 1 1)] }
def upSolve (n one : Nat) : Dev := ((upC [solve1 n]).poke (spmBase 0) (blkL 1 1)).poke (spmBase 0 + 0x1000) (leBytes 8 one)

/-- Minus 1, which the block's 1.0 on the diagonal turns into a zero matrix. -/
def neg1 : Nat := 2 ^ 63 + one64

/-- The first stage, when the block has been read. -/
def slv1 : Slv := ⟨0, 0, 1, 1, blkKey (blkL 1 1)⟩
def solveStage (n one : Nat) : SlvRan :=
  let d := upSolve n one
  (if n = 0 then ((d.coreRead 0 0 (spmBase 0) 64).dev.assign 0 [0]).updCmd 0 fun c =>
    { c with total := slv1.stages.length, aux := [leNat slv1.blk] } else d).slvRun slv1 (slv1.stages.getD 0 (0, 0)).1 (slv1.stages.getD 0 (0, 0)).2
def solvePast (n one : Nat) : Dev := ((solveStage n one).dev.pieceDone 0).updCmd 0 fun c => { c with hits := c.hits + (solveStage n one).flagged }

theorem witness_SolveCommandCompletes :
    ((upSolve 0 one64).RoutineRuns 0 0x0304 (solve1 0) ∧ (solve1 0).total = 0
      ∧ (∃ d, (upSolve 0 one64).coreRead 0 0 ((solve1 0).par 0 8) 64 = ⟨d, .ok (blkL 1 1)⟩)
      ∧ slv1.refusal = none ∧ (solveStage 0 one64).err = none
      ∧ ∃ c', (solvePast 0 one64).cmd? 0 = some c' ∧ c'.total ≤ c'.done ∧ c'.hits = 0)
    ∧ ((upSolve 0 neg1).RoutineRuns 0 0x0304 (solve1 0) ∧ (solve1 0).total = 0
      ∧ (∃ d, (upSolve 0 neg1).coreRead 0 0 ((solve1 0).par 0 8) 64 = ⟨d, .ok (blkL 1 1)⟩)
      ∧ slv1.refusal = none ∧ (solveStage 0 neg1).err = none ∧ ∃ c', (solvePast 0 neg1).cmd? 0 = some c' ∧ c'.total ≤ c'.done ∧ c'.hits ≠ 0)
    ∧ ((upSolve 2 one64).RoutineRuns 0 0x0304 (solve1 2) ∧ (solve1 2).total ≠ 0 ∧ blkKey (leBytes 64 ((solve1 2).aux.headD 0)) = slv1.blk
      ∧ slv1.refusal = none ∧ (solveStage 2 one64).err = none ∧ ∃ c', (solvePast 2 one64).cmd? 0 = some c' ∧ c'.done < c'.total) :=
  ⟨⟨runsR (by decide +kernel) (by decide +kernel), by decide +kernel, ⟨_, gotIs (by decide +kernel)⟩, by decide +kernel, by decide +kernel,
      someOf (by decide +kernel)⟩,
    ⟨runsR (by decide +kernel) (by decide +kernel), by decide +kernel, ⟨_, gotIs (by decide +kernel)⟩, by decide +kernel, by decide +kernel,
      someOf (by decide +kernel)⟩,
    ⟨runsR (by decide +kernel) (by decide +kernel), by decide +kernel, by decide +kernel, by decide +kernel, by decide +kernel,
      someOf (by decide +kernel)⟩⟩
/-- A COLL_RUN of an ALL_REDUCE NORM in group 0, which this device forms alone, and the collective it has started. -/
def collCmd (n : Nat) : Cmd := { cmd 0x0602 [(0x14, 1, 3), (0x28, 8, 5)] with total := n }
def coll1 (stages : Nat) : Coll := { (collCmd 0).collOf with stages := stages }
def upColl (n : Nat) (cs : List Coll) : Dev :=
  let d := upC [collCmd n]
  { d with fab := { d.fab with groups := [(0, ⟨0, 1, [[0]]⟩)], colls := cs } }

/-- A COLL_DATA packet of collective 5 that has come in. -/
def upCollPkt (cs : List Coll) : Dev := { upColl 2 cs with fab := { (upColl 2 cs).fab with inbox := [pkt ptCollData] } }

theorem witness_CollectiveCommandsComplete :
    (∃ (d : Dev) (c : Cmd) (g : Group), (d.RoutineRuns 0 0x0602 c ∧ c.total = 0 ∧ d.group? c.collOf.slot = some g)
      ∧ ∃ d', (d.updCmd 0 fun x => { x with total := collStages g c.collOf.op c.collOf.count c.collOf.inSize }).collStart c.collOf = some d')
    ∧ (∃ (d : Dev) (c : Cmd) (x : Coll), d.RoutineRuns 0 0x0602 c ∧ c.total ≠ 0 ∧ d.coll? 0 0 = some x ∧ x.busy = false
      ∧ ∃ d', (d.pieceDone 0).collNext 0 0 = (d', false))
    ∧ (∃ (d : Dev) (c : Cmd) (x : Coll), d.RoutineRuns 0 0x0602 c ∧ c.total ≠ 0 ∧ d.coll? 0 0 = some x ∧ x.busy = false
      ∧ (∃ d', (d.pieceDone 0).collNext 0 0 = (d', true)) ∧ ∃ c', ((d.pieceDone 0).collNext 0 0).1.cmd? 0 = some c')
    ∧ (∃ (d : Dev) (k : FabPkt) (c : Coll), d.fabClocks = true ∧ (d.fab.inbox.find? fun k => k.typ == ptCollData) = some k
      ∧ d.collMatch k = some c ∧ ∃ x, d.nextIn ptCollData = some x)
    ∧ (∃ (d : Dev) (k : FabPkt), d.fabClocks = true ∧ (d.fab.inbox.find? fun k => k.typ == ptCollData) = some k ∧ d.collMatch k = none)
    ∧ (∃ (d : Dev) (x : FabPkt × Nat), d.fab.early = [x])
    ∧ (∃ (d : Dev) (c : Coll), d.coll? 0 0 = some c ∧ c.busy = true) :=
  ⟨⟨upColl 0 [], collCmd 0, ⟨0, 1, [[0]]⟩, ⟨runsR (by decide +kernel) (by decide +kernel), by decide +kernel⟩, isSomeOf (by decide +kernel)⟩,
    ⟨upColl 2 [coll1 2], collCmd 2, coll1 2, runsR (by decide +kernel) (by decide +kernel), by decide +kernel, by decide +kernel,
      by decide +kernel, pairOf (by decide +kernel)⟩,
    ⟨upColl 2 [coll1 1], collCmd 2, coll1 1, runsR (by decide +kernel) (by decide +kernel), by decide +kernel, by decide +kernel,
      by decide +kernel, pairOf (by decide +kernel), isSomeOf (by decide +kernel)⟩,
    ⟨upCollPkt [coll1 1], pkt ptCollData, coll1 1, by decide +kernel, by decide +kernel, by decide +kernel, isSomeOf (by decide +kernel)⟩,
    ⟨upCollPkt [], pkt ptCollData, by decide +kernel⟩,
    ⟨{ up with fab := { up.fab with early := [(pkt ptCollData, 0)] } }, (pkt ptCollData, 0), rfl⟩,
    ⟨upColl 2 [{ coll1 1 with busy := true }], { coll1 1 with busy := true }, by decide +kernel⟩⟩

/-- A packet that context 0 accepts, and the open transactions it meets. -/
def upTxn (k : FabPkt) (ts : List Txn) : Dev := { upPkt k with fab := { (upPkt k).fab with txns := ts } }
def txn1 (w : TxnWho) : Txn := ⟨5, ptMemRead, 7, w, 0, 0x1000, 8, 0⟩
def upRead : Dev :=
  { upPkt (pkt ptReadData 0 0 (zeros 8)) with fab := { (upPkt (pkt ptReadData 0 0 (zeros 8))).fab with txns := [txn1 (.td 0)] }, porters := [(3, run1)] }

theorem witness_RemoteTransactionsComplete :
    (∃ (k : FabPkt) (d d' : Dev), d.PktTaken ptMemWrite k d' ∧ d'.remoteRefused k true k.data.length = none ∧ d'.epochDiffers k = false
      ∧ ∃ d₂, d'.writeRaw byFabric (some k.dctx) (k.addr % 2 ^ 48) k.data = ⟨d₂, none⟩)
    ∧ (∃ (k : FabPkt) (d d' : Dev), d.PktTaken ptMemRead k d' ∧ d'.remoteRefused k false k.arg = none ∧ d'.epochDiffers k = false
      ∧ ∃ d₂ bs, d'.readRaw byFabric (some k.dctx) (k.addr % 2 ^ 48) k.arg = ⟨d₂, .ok bs⟩)
    ∧ (∃ (k : FabPkt) (d d' : Dev), d.PktTaken ptSoOp k d' ∧ d'.soRemoteDetail k = 0 ∧ d'.epochDiffers k = false
      ∧ ∃ d₂, d'.soOp .none k.dctx (k.addr % 4096) (bitAt k.arg 0) (leNat k.data) = ⟨d₂, .done⟩)
    ∧ (∃ (k : FabPkt) (d d' : Dev) (t : Txn), d.PktTaken ptAck k d' ∧ (d'.fab.txns.find? fun t => t.tag == k.tag) = some t ∧ k.status = 0)
    ∧ (∃ (k : FabPkt) (d d' : Dev) (t : Txn), d.PktTaken ptAck k d' ∧ (d'.fab.txns.find? fun t => t.tag == k.tag) = some t ∧ k.status ≠ 0
      ∧ t.who = .cmd 0)
    ∧ (∃ (k : FabPkt) (d d' : Dev), d.PktTaken ptAck k d' ∧ (d'.fab.txns.find? fun t => t.tag == k.tag) = none)
    ∧ (∃ (k : FabPkt) (d d' : Dev) (t : Txn), d.PktTaken ptReadData k d' ∧ (d'.fab.txns.find? fun t => t.tag == k.tag) = some t
      ∧ t.who = .cmd 0 ∧ ∃ d₂, d'.write (byPorter t.group) t.ctx t.dst (k.data.take t.len) = ⟨d₂, none⟩)
    ∧ (∃ (k : FabPkt) (d d' : Dev) (t : Txn) (r : PorterRun), d.PktTaken ptReadData k d' ∧ (d'.fab.txns.find? fun t => t.tag == k.tag) = some t
      ∧ t.who = .td 0 ∧ d'.porterOf 0 = some (3, r) ∧ ∃ d₂, d'.write (byPorter 3) t.ctx t.dst (k.data.take t.len) = ⟨d₂, none⟩)
    ∧ (∃ (d : Dev) (t : Txn), (d.fab.txns.find? fun t => t.tag == 5
      && ([ptMemWrite, ptMemRead, ptSoOp, ptWayWrite] : List Nat).contains t.typ) = some t) :=
  ⟨⟨_, upPkt (pkt ptMemWrite 0x1000 0 (leBytes 2 1)), _, takenOf (k := pkt ptMemWrite 0x1000 0 (leBytes 2 1)) (by decide +kernel),
      by decide +kernel, by decide +kernel, putOk (by decide +kernel)⟩,
    ⟨_, upPkt (pkt ptMemRead 0x1000 2), _, takenOf (k := pkt ptMemRead 0x1000 2) (by decide +kernel), by decide +kernel, by decide +kernel,
      gotOk (by decide +kernel)⟩,
    ⟨_, upPkt (pkt ptSoOp 4095), _, takenOf (k := pkt ptSoOp 4095) (by decide +kernel), by decide +kernel, by decide +kernel,
      doneOk (by decide +kernel)⟩,
    ⟨_, upTxn (pkt ptAck) [txn1 (.cmd 0)], _, txn1 (.cmd 0), takenOf (k := pkt ptAck) (by decide +kernel), by decide +kernel, rfl⟩,
    ⟨_, upTxn { pkt ptAck with status := 1 } [txn1 (.cmd 0)], _, txn1 (.cmd 0), takenOf (k := { pkt ptAck with status := 1 }) (by decide +kernel),
      by decide +kernel, by decide +kernel, rfl⟩,
    ⟨_, upTxn (pkt ptAck) [], _, takenOf (k := pkt ptAck) (by decide +kernel), by decide +kernel⟩,
    ⟨_, upTxn (pkt ptReadData 0 0 (zeros 8)) [txn1 (.cmd 0)], _, txn1 (.cmd 0), takenOf (k := pkt ptReadData 0 0 (zeros 8)) (by decide +kernel),
      by decide +kernel, rfl, putOk (by decide +kernel)⟩,
    ⟨_, upRead, _, txn1 (.td 0), run1, takenOf (k := pkt ptReadData 0 0 (zeros 8)) (by decide +kernel), by decide +kernel, rfl,
      by decide +kernel, putOk (by decide +kernel)⟩,
    ⟨{ up with fab := { up.fab with txns := [txn1 (.cmd 0)] } }, txn1 (.cmd 0), by decide +kernel⟩⟩
/-- A group table of one ring of one device, device 0. -/
def grp1 : List Byte :=
  let h := leBytes 4 0 ++ leBytes 2 1 ++ leBytes 1 1 ++ zeros 49
  h ++ leBytes 8 (crc64 (h ++ zeros 2)) ++ zeros 2
def upGrp (f : List (Nat × Nat × Nat)) : Dev := (upC [cmd 0x0601 f]).poke 0 grp1

/-- A REMOTE_COPY of 64 bytes to device 7 with one chunk, which fabric port 0 reaches. -/
def copyCmd (n : Nat) : Cmd := { cmd 0x0603 [(8, 8, 0x1000), (0x10, 8, 64), (0x18, 2, 7)] with total := n }
def upCopy (n : Nat) : Dev :=
  let d := (upC [copyCmd n]).wr (Reg.FAB_PORT_STATUS.STATE 0) psUp
  { d with fab := { d.fab with routes := [(7, (1, true))] } }

/-- A port in a state, with a FAB_PORT_CTL, a DIAG_LOOPBACK or a loopback packet. -/
def upCtl (c : Cmd) (state : Nat) (retry : List Flit) : Dev :=
  ((upC [c]).wr (Reg.FAB_PORT_STATUS.STATE 0) state).setPort 0 { port0 with retry := retry }
def loopCmd (mode n : Nat) : Cmd := { cmd 0x0803 [(1, 1, mode), (4, 4, 9)] with total := n, aux := [0] }
def upLoop (cs : List Cmd) (k : FabPkt) : Dev := { upPkt k with cp0 := { (upPkt k).cp0 with cmds := cs } }
def loopPkt : FabPkt := { pkt ptLoopback with tag := 0, port := 0 }

theorem witness_FabricCommandsComplete :
    (∃ (d : Dev) (c : Cmd), d.CmdRuns 0 0x0601 c ∧ c.par 0x0A 1 = 1 ∧ d.groupBusy (c.par 9 1) = false)
    ∧ (∃ (d : Dev) (c : Cmd), (d.CmdRuns 0 0x0601 c ∧ c.par 0x0A 1 ≠ 1)
      ∧ d.read byCp c.ctx (c.par 0 8) (c.par 0x0C 4) = ⟨(d.read byCp c.ctx (c.par 0 8) (c.par 0x0C 4)).dev, .ok grp1⟩
      ∧ c.par 8 1 = 1 ∧ (∃ g, groupOf (d.read byCp c.ctx (c.par 0 8) (c.par 0x0C 4)).dev.myId grp1 = some g)
      ∧ (d.read byCp c.ctx (c.par 0 8) (c.par 0x0C 4)).dev.groupBusy (c.par 9 1) = false)
    ∧ (∃ (d : Dev) (c : Cmd), (d.CmdRuns 0 0x0601 c ∧ c.par 0x0A 1 ≠ 1)
      ∧ (∃ d' bs, d.read byCp c.ctx (c.par 0 8) (c.par 0x0C 4) = ⟨d', .ok bs⟩) ∧ c.par 8 1 ≠ 1)
    ∧ (∃ (d : Dev) (c : Cmd), d.CmdRuns 0 0x0604 c ∧ c.par 1 1 = 0 ∧ ¬((d.portState (c.par 0 1) = psUp ∨ d.portState (c.par 0 1) = psRetrain)
      ∧ (d.port (c.par 0 1)).retry ≠ []))
    ∧ (∃ (d : Dev) (c : Cmd), d.CmdRuns 0 0x0604 c ∧ c.par 1 1 = 0 ∧ d.portState (c.par 0 1) = psUp ∧ (d.port (c.par 0 1)).retry ≠ [])
    ∧ (∃ (d : Dev) (c : Cmd), d.CmdRuns 0 0x0604 c ∧ c.par 1 1 = 1 ∧ d.domOn (domPort (c.par 0 1)) = true)
    ∧ (∃ (d : Dev) (c : Cmd), d.CmdRuns 0 0x0604 c ∧ c.par 1 1 = 2)
    ∧ (∃ (d d₀ : Dev) (c₀ c : Cmd), (d₀.RoutineRuns 0 0x0603 c₀ ∧ c₀.total = 0 ∧ cdiv (c₀.par 0x10 8) d₀.memChunk ≤ 1
        ∧ d = (d₀.assign 0 [d₀.pickCore (c₀.par 0x1C 1)]).updCmd 0 fun c => { c with total := cdiv (c₀.par 0x10 8) d₀.memChunk })
      ∧ (d.cmd? 0 = some c ∧ c.done < c.total ∧ d.unitBlocked [domPorters (c.cores.headD 0)] 0x0D21 = none)
      ∧ (20 + 2 * c.cores.headD 0 + c.done % min 2 d.memPorters = 20 ∧ (burstsOf 0x1000 64).map (fun b => (0 + b.1, b.2)) = [(0, 64)])
      ∧ d.remoteIssue c 20 [(0, 64)] 0 = ((d.remoteIssue c 20 [(0, 64)] 0).1, .ok 1) ∧ (d.remoteIssue c 20 [(0, 64)] 0).1.cmdTxns 0 ≠ 0)
    ∧ (∃ (d : Dev) (c : Cmd), d.RoutineRuns 0 0x0603 c ∧ c.total ≠ 0 ∧ c.done < c.total ∧ d.unitBlocked [domPorters (c.cores.headD 0)] 0x0D21 = none
      ∧ 20 + 2 * c.cores.headD 0 + c.done % min 2 d.memPorters = 20
      ∧ d.remoteIssue c 20 [] (c.aux.headD 0) = (d, .ok 1) ∧ d.cmdTxns 0 = 0)
    ∧ (∃ (d : Dev) (c : Cmd), d.RoutineRuns 0 0x0803 c ∧ c.par 1 1 = 0 ∧ d.portState (c.par 0 1) = psDisabled)
    ∧ (∃ (d : Dev) (c : Cmd), d.RoutineRuns 0 0x0803 c ∧ c.par 1 1 ≠ 0 ∧ c.total = 0 ∧ d.portState (c.par 0 1) = psUp)
    ∧ (∃ (k : FabPkt) (d d' : Dev) (c : Cmd), d.PktTaken ptLoopback k d' ∧ (d'.cp0.cmds.find? fun c =>
      c.slot == k.tag && c.opcode == 0x0803 && c.phase == .running && c.par 0 1 == k.port) = some c)
    ∧ (∃ (k : FabPkt) (d d' : Dev), d.PktTaken ptLoopback k d' ∧ (d'.cp0.cmds.find? fun c =>
      c.slot == k.tag && c.opcode == 0x0803 && c.phase == .running && c.par 0 1 == k.port) = none ∧ k.port < 32) := by
  have ctl (f : List (Nat × Nat × Nat)) (state : Nat) (retry : List Flit) (h : _ = true) :
      (upCtl (cmd 0x0604 f) state retry).CmdRuns 0 0x0604 (cmd 0x0604 f) := runs h
  exact ⟨⟨_, _, runs (d := upC [cmd 0x0601 [(0xA, 1, 1)]]) (c := cmd 0x0601 [(0xA, 1, 1)]) (by decide +kernel), by decide +kernel⟩,
    ⟨_, _, ⟨runs (d := upGrp [(8, 1, 1), (0xC, 4, 66)]) (c := cmd 0x0601 [(8, 1, 1), (0xC, 4, 66)]) (by decide +kernel), by decide +kernel⟩,
      gotIs (by decide +kernel), by decide +kernel, isSomeOf (by decide +kernel), by decide +kernel⟩,
    ⟨_, _, ⟨runs (d := upC [cmd 0x0601 [(0xC, 4, 32)]]) (c := cmd 0x0601 [(0xC, 4, 32)]) (by decide +kernel), by decide +kernel⟩,
      gotOk (by decide +kernel), by decide +kernel⟩,
    ⟨_, _, ctl [] psUp [] (by decide +kernel), by decide +kernel⟩, ⟨_, _, ctl [] psUp [flit1] (by decide +kernel), by decide +kernel⟩,
    ⟨_, _, ctl [(1, 1, 1)] psDisabled [] (by decide +kernel), by decide +kernel⟩, ⟨_, _, ctl [(1, 1, 2)] psUp [] (by decide +kernel), by decide +kernel⟩,
    ⟨_, upCopy 0, copyCmd 0, { copyCmd 1 with cores := [0] }, ⟨runsR (by decide +kernel) (by decide +kernel), by decide +kernel, by decide +kernel, rfl⟩,
      by decide +kernel, by decide +kernel, okIs (by decide +kernel), by decide +kernel⟩,
    ⟨{ upCopy 1 with cp0 := { cp00 with cmds := [{ copyCmd 1 with aux := [1] }] } }, { copyCmd 1 with aux := [1] },
      runsR (by decide +kernel) (by decide +kernel), by decide +kernel, by decide +kernel, by decide +kernel, by decide +kernel, rfl,
      by decide +kernel⟩,
    ⟨upCtl (loopCmd 0 0) psDisabled [], loopCmd 0 0, runsR (by decide +kernel) (by decide +kernel), by decide +kernel⟩,
    ⟨upCtl (loopCmd 1 0) psUp [], loopCmd 1 0, runsR (by decide +kernel) (by decide +kernel), by decide +kernel⟩,
    ⟨_, upLoop [loopCmd 1 1] loopPkt, _, loopCmd 1 1, takenOf (k := loopPkt) (by decide +kernel), by decide +kernel⟩,
    ⟨_, upLoop [] loopPkt, _, takenOf (k := loopPkt) (by decide +kernel), by decide +kernel⟩⟩
/-- A device with class 3 of context 0, of 512-byte rooms, and guest 1 lodged in a state. -/
def room1 (st : RoomState) : Room :=
  { cls := 3, guest := 1, state := st, bad := false, step := 0, epoch := 0, addr := hallBase, slot := 0x60000000
    lock := if st = .locked then some 0 else none, expired := none, resv := none, staged := none, prev := none, pinned := false
    clamped := false, lastMs := 0 }
def inRoom (d : Dev) (rs : List Room) : Dev :=
  { d.setReg (Reg.INN_CLASS.EXISTS 3).reg (1 + 9 * 2 + 4 * 2 ^ 32) with
    inn := { classes := [(3, ⟨0x60000000, []⟩)], rooms := rs.map fun r => (r.key, r) } }
def upInn (c : Cmd) (rs : List Room) : Dev := inRoom (upC [c]) rs

theorem classRuns {d : Dev} {slot op k : Nat} {c : Cmd} (h : (d.cmd? slot == some c && d.live && c.phase == .running && c.opcode == op
    && c.fin == none && c.stop == none && c.parked == false && d.coreHeld c == false) = true) (g : d.classRefusal c.ctx k = none) :
    d.ClassRuns slot op c k := ⟨runs h, g⟩

theorem witness_InnClassCommandsComplete :
    (∃ (d : Dev) (c : Cmd), d.CmdRuns 0 0x0401 c ∧ (c.par 1 1 = 0 ∧ d.classOn (c.par 0 1) = false
        ∧ d.capacitySum + c.par 4 4 ≤ 16777216) ∧ (∃ a, d.backingFit (c.par 4 4 * 2 ^ c.par 2 1) = some a)
      ∧ bitAt (c.par 3 1) 1 = true ∧ ∀ q < 16, d.classOn q = true → d.classCtx q = c.ctx → d.on (Reg.INN_CLASS.DEFAULT q) = false)
    ∧ (∃ (d : Dev) (c : Cmd), d.ClassRuns 0 0x0401 c (c.par 0 1) ∧ c.par 1 1 ≠ 0
      ∧ (d.roomsOf fun r => r.cls == c.par 0 1) = [room1 .idle])
    ∧ (∃ (d : Dev) (c : Cmd) (x : InnClass), d.ClassRuns 0 0x0402 c (c.par 8 1) ∧ c.par 9 1 = 0 ∧ kvGet (c.par 8 1) d.inn.classes = some x)
    ∧ (∃ (d : Dev) (c : Cmd) (x : InnClass), d.ClassRuns 0 0x0402 c (c.par 8 1) ∧ c.par 9 1 ≠ 0
      ∧ (∃ d' bs, d.read byInn c.ctx (c.par 0 8) (d.roomSize (c.par 8 1) - 32) = ⟨d', .ok bs⟩)
      ∧ kvGet (c.par 8 1) (d.read byInn c.ctx (c.par 0 8) (d.roomSize (c.par 8 1) - 32)).dev.inn.classes = some x)
    ∧ (∃ (d : Dev) (c : Cmd), d.ClassRuns 0 0x0403 c (c.par 0x0B 1 % 16)
      ∧ (∃ d' bs, d.read byInn c.ctx (c.par 0 8) (d.roomSize (c.par 0x0B 1 % 16) - 32) = ⟨d', .ok bs⟩) ∧ c.par 0 8 ≠ 0
      ∧ d.room? (c.par 0x0B 1 % 16) (c.par 8 3) = none ∧ d.classFull (c.par 0x0B 1 % 16) = false)
    ∧ (∃ (d : Dev) (c : Cmd) (r : Room), d.ClassRuns 0 0x0403 c (c.par 0x0B 1 % 16) ∧ c.par 0 8 = 0
      ∧ d.room? (c.par 0x0B 1 % 16) (c.par 8 3) = some r ∧ roomBusy r.state = none ∧ bitAt (c.par 0x0C 1) 0 = true) :=
  ⟨⟨_, _, runs (d := (upInn (cmd 0x0401 [(2, 1, 9), (3, 1, 2), (4, 4, 4)]) []).wr Reg.INN_BACKING.SIZE 1)
      (c := cmd 0x0401 [(2, 1, 9), (3, 1, 2), (4, 4, 4)]) (by decide +kernel), by decide +kernel, isSomeOf (by decide +kernel), by decide +kernel⟩,
    ⟨_, _, classRuns (d := upInn (cmd 0x0401 [(0, 1, 3), (1, 1, 1)]) [room1 .idle]) (c := cmd 0x0401 [(0, 1, 3), (1, 1, 1)]) (by decide +kernel)
      (by decide +kernel), by decide +kernel⟩,
    ⟨upInn (cmd 0x0402 [(8, 1, 3)]) [], cmd 0x0402 [(8, 1, 3)], ⟨0x60000000, []⟩, classRuns (by decide +kernel) (by decide +kernel),
      by decide +kernel⟩,
    ⟨upInn (cmd 0x0402 [(8, 1, 3), (9, 1, 1)]) [], cmd 0x0402 [(8, 1, 3), (9, 1, 1)], ⟨0x60000000, []⟩,
      classRuns (by decide +kernel) (by decide +kernel), by decide +kernel, gotOk (by decide +kernel), by decide +kernel⟩,
    ⟨upInn (cmd 0x0403 [(0, 8, 512), (8, 3, 2), (0xB, 1, 3)]) [], cmd 0x0403 [(0, 8, 512), (8, 3, 2), (0xB, 1, 3)],
      classRuns (by decide +kernel) (by decide +kernel), gotOk (by decide +kernel), by decide +kernel⟩,
    ⟨upInn (cmd 0x0403 [(8, 3, 1), (0xB, 1, 3), (0xC, 1, 1)]) [room1 .idle], cmd 0x0403 [(8, 3, 1), (0xB, 1, 3), (0xC, 1, 1)], room1 .idle,
      classRuns (by decide +kernel) (by decide +kernel), by decide +kernel⟩⟩

/-- A command on guest 1 of class 3, whose room is in a state. -/
def roomCmd (op : Nat) (f : List (Nat × Nat × Nat)) : Cmd := cmd op ((0, 3, 1) :: (3, 1, 3) :: f)

theorem roomRuns {d : Dev} {slot op : Nat} {c : Cmd} {r : Room} (h : (d.cmd? slot == some c && d.live && c.phase == .running && c.opcode == op
    && c.fin == none && c.stop == none && c.parked == false && d.coreHeld c == false) = true)
    (g : d.classRefusal c.ctx (c.par 3 1 % 16) = none ∧ d.room? (c.par 3 1 % 16) (c.par 0 3) = some r) : d.RoomRuns slot op c r :=
  ⟨⟨runs h, g.1⟩, g.2⟩

/-- The image that an INN_READ_ROOM of guest 1 reads, in the backing store. -/
def away : Room := { room1 .idle with addr := 0x60000000 }
def readRoom : Dev := upInn (roomCmd 0x0407 [(8, 8, 0x1000)]) [away]

theorem imageOf {x : Dev × ImageRes} (h : (match x.2 with
    | .ok _ => true
    | _ => false) = true) : ∃ d bs, x = (d, .ok bs) := by
  obtain ⟨d, r⟩ := x
  match r, h with
  | .ok v, _ => exact ⟨d, v, rfl⟩

def imageBytes : ImageRes → List Byte
  | .ok bs => bs
  | _ => []

theorem imageIs {x : Dev × ImageRes} (h : (match x.2 with
    | .ok _ => true
    | _ => false) = true) : x = (x.1, .ok (imageBytes x.2)) := by
  obtain ⟨d, bs, rfl⟩ := imageOf h
  rfl

theorem witness_InnRoomCommandsComplete :
    (∃ (d : Dev) (c : Cmd) (r : Room), d.RoomRuns 0 0x0404 c r ∧ roomBusy r.state = none)
    ∧ (∃ (d : Dev) (c : Cmd) (r : Room), d.RoomRuns 0 0x0405 c r ∧ r.state ≠ .busy ∧ r.state ≠ .poisoned ∧ r.bad = false ∧ r.pinned = true)
    ∧ (∃ (d : Dev) (c : Cmd) (r : Room), d.RoomRuns 0 0x0405 c r ∧ r.state ≠ .busy ∧ r.state ≠ .poisoned ∧ r.bad = false ∧ r.pinned = false
      ∧ d.pinnedBytes c.ctx + d.roomSize r.cls ≤ d.rd (Reg.INN_PIN_QUOTA.QUOTA c.ctx) * 0x10000)
    ∧ (∃ (d : Dev) (c : Cmd) (r : Room), d.RoomRuns 0 0x0406 c r)
    ∧ (∃ (d : Dev) (c : Cmd) (r : Room), d.RoomRuns 0 0x0407 c r ∧ (r.state ≠ .busy ∧ r.state ≠ .poisoned ∧ r.bad = false)
      ∧ ∃ bs, (d.sprout []).innRead c.ctx r.addr (d.roomSize r.cls) = (((d.sprout []).innRead c.ctx r.addr (d.roomSize r.cls)).1, .ok bs)
        ∧ ∃ d', ((d.sprout []).innRead c.ctx r.addr (d.roomSize r.cls)).1.write byInn c.ctx (c.par 8 8) bs = ⟨d', none⟩)
    ∧ (∃ (d : Dev) (c : Cmd), d.ClassRuns 0 0x0408 c (c.par 3 1 % 16) ∧ c.par 4 1 = 0 ∧ d.room? (c.par 3 1 % 16) (c.par 0 3) = none)
    ∧ (∃ (d : Dev) (c : Cmd) (r : Room), d.ClassRuns 0 0x0408 c (c.par 3 1 % 16) ∧ c.par 4 1 = 0
      ∧ d.room? (c.par 3 1 % 16) (c.par 0 3) = some r)
    ∧ (∃ (d : Dev) (c : Cmd), d.ClassRuns 0 0x0408 c (c.par 3 1 % 16) ∧ c.par 4 1 ≠ 0) :=
  ⟨⟨upInn (roomCmd 0x0404 []) [room1 .idle], roomCmd 0x0404 [], room1 .idle, roomRuns (by decide +kernel) (by decide +kernel), by decide +kernel⟩,
    ⟨upInn (roomCmd 0x0405 []) [{ room1 .idle with pinned := true }], roomCmd 0x0405 [], { room1 .idle with pinned := true },
      roomRuns (by decide +kernel) (by decide +kernel), by decide +kernel⟩,
    ⟨(upInn (roomCmd 0x0405 []) [room1 .idle]).wr (Reg.INN_PIN_QUOTA.QUOTA 0) 1, roomCmd 0x0405 [], room1 .idle,
      roomRuns (by decide +kernel) (by decide +kernel), by decide +kernel⟩,
    ⟨upInn (roomCmd 0x0406 []) [room1 .idle], roomCmd 0x0406 [], room1 .idle, roomRuns (by decide +kernel) (by decide +kernel)⟩,
    ⟨readRoom, roomCmd 0x0407 [(8, 8, 0x1000)], away, roomRuns (by decide +kernel) (by decide +kernel), by decide +kernel, _,
      imageIs (by decide +kernel), putOk (by decide +kernel)⟩,
    ⟨upInn (roomCmd 0x0408 []) [], roomCmd 0x0408 [], classRuns (by decide +kernel) (by decide +kernel), by decide +kernel⟩,
    ⟨upInn (roomCmd 0x0408 []) [room1 .idle], roomCmd 0x0408 [], room1 .idle, classRuns (by decide +kernel) (by decide +kernel),
      by decide +kernel⟩,
    ⟨upInn (roomCmd 0x0408 [(4, 1, 1)]) [], roomCmd 0x0408 [(4, 1, 1)], classRuns (by decide +kernel) (by decide +kernel), by decide +kernel⟩⟩
/-- An INN_OP on one guest, guest 1 of class 3: its list, and its room area, in the scratchpad. Its rooms are small. -/
def innTd (op : Nat) : Td := td 0x50 [(0x18, 8, spmBase 0), (0x20, 8, spmBase 0 + 0x1000), (0x28, 2, 1), (0x2A, 1, op), (0x2B, 1, 3)]
def upInnTd (op : Nat) (rs : List Room) : Dev := { inRoom ((upT [innTd op]).poke (spmBase 0) (leBytes 4 1)) rs with
  regs := (inRoom ((upT [innTd op]).poke (spmBase 0) (leBytes 4 1)) rs |>.wr (Reg.INN_CLASS.SIZE_LOG2 3) 6).regs }

/-- The device once the INN_OP has read its list. -/
def opGot (d : Dev) (t : Td) : Got :=
  ((d.tdStart t).innWindows t.innOp).dev.readRaw byInn (some t.innOp.ctx) t.innOp.list (4 * t.innOp.count)

theorem innStarts {d : Dev} {op : Nat} {t : Td} {bs : List Byte} (h : (d.td? 0 == some t && tdKind t.td == 0x50 && d.tdMayStart t) = true)
    (g : t.innOp.op = op ∧ (d.tdStart t).innRefusal t.innOp = none) (w : ((d.tdStart t).innWindows t.innOp).err.isNone = true)
    (r : (match (opGot d t).res with
      | .ok b => b == bs
      | .error _ => false) = true) : d.InnOpStarts 0 op t ((chunksOf 4 bs).map fun b => fieldAt b 0 3) (opGot d t).dev :=
  ⟨starts h, g.1, g.2, _, bs, done w, gotIs r, rfl⟩

/-- What each operation leaves, before it writes its list. -/
def wentIn : Dev × Except Fail (List Nat) := (opGot (upInnTd 0 [away]) (innTd 0)).dev.checkInGo (innTd 0).innOp [(0, 1, ocDone)] []
def lockedRoom : Room := { away with state := .locked, lock := some 0 }

theorem witness_InnDescriptorsAndEventsComplete :
    ((∃ gs, (upInnTd 0 [away]).InnOpStarts 0 0 (innTd 0) gs (opGot (upInnTd 0 [away]) (innTd 0)).dev ∧ gs = [1])
      ∧ (upInnTd 0 [away]).checkInFits (innTd 0).innOp [(upInnTd 0 [away]).peekNat (innTd 0).innOp.list 3] = true
      ∧ (opGot (upInnTd 0 [away]) (innTd 0)).dev.checkInPlan (innTd 0).innOp [1] [] ((opGot (upInnTd 0 [away]) (innTd 0)).dev.classLeft 3) = [ocDone]
      ∧ (∃ d ocs, wentIn = (d, .ok ocs))
      ∧ ∃ d, wentIn.1.innStatus.writeRaw byInn (some 0) (innTd 0).innOp.list (leBytes 3 1 ++ leBytes 1 ocDone) = ⟨d, none⟩)
    ∧ ((∃ gs, (upInnTd 1 [lockedRoom]).InnOpStarts 0 1 (innTd 1) gs (opGot (upInnTd 1 [lockedRoom]) (innTd 1)).dev ∧ gs = [1])
      ∧ ∃ d, ((((opGot (upInnTd 1 [lockedRoom]) (innTd 1)).dev.checkOutRoom (innTd 1).innOp 0 1).1.innCeil 0 2).srvWake.innStatus.writeRaw byInn (some 0)
        (innTd 1).innOp.list (leBytes 3 1 ++ leBytes 1 ((opGot (upInnTd 1 [lockedRoom]) (innTd 1)).dev.checkOutRoom (innTd 1).innOp 0 1).2)) = ⟨d, none⟩)
    ∧ ((∃ gs, (upInnTd 2 [lockedRoom]).InnOpStarts 0 2 (innTd 2) gs (opGot (upInnTd 2 [lockedRoom]) (innTd 2)).dev ∧ gs = [1])
      ∧ ∃ d, (((opGot (upInnTd 2 [lockedRoom]) (innTd 2)).dev.trace 3 0 (some 0) none (some 1) (some 2) (some 0)).unlock lockedRoom none).srvWake.innStatus.writeRaw
        byInn (some 0) (innTd 2).innOp.list (leBytes 3 1 ++ leBytes 1 ocDone) = ⟨d, none⟩)
    ∧ (∃ (d : Dev) (r : Room), d.room? 3 1 = some r ∧ r.state = .locked)
    ∧ (∃ (d : Dev) (r : Room), d.room? 3 1 = some r ∧ d.victim (fun _ => true) = some r)
    ∧ (∃ (d : Dev) (r : Room), (d.room? 3 1 = some r ∧ r.pinned = true ∧ inHall r.addr = false ∧ r.state = .idle)
      ∧ (∃ a, d.hallSlotFor (d.roomSize 3) = ((d.hallSlotFor (d.roomSize 3)).1, some a))
      ∧ ∃ d' bs, (d.hallSlotFor (d.roomSize 3)).1.innRead ((d.hallSlotFor (d.roomSize 3)).1.classCtx 3) r.addr
        ((d.hallSlotFor (d.roomSize 3)).1.roomSize 3) = (d', .ok bs))
    ∧ (0x1000 < up.hbmTop ∧ up.stackOf 0x1000 = 2 ∧ up.stackReady 2 = true ∧ up.ue.contains (0x1000 / 8 * 8) = false
      ∧ (up.sprout [(0x1000 / 8 * 8, true)]).ue.contains (0x1000 / 8 * 8) = true) :=
  ⟨⟨⟨_, innStarts (bs := leBytes 4 1) (by decide +kernel) (by decide +kernel) (by decide +kernel) (by decide +kernel), by decide +kernel⟩, by decide +kernel,
      by decide +kernel, okOf (by decide +kernel), putOk (by decide +kernel)⟩,
    ⟨⟨_, innStarts (bs := leBytes 4 1) (by decide +kernel) (by decide +kernel) (by decide +kernel) (by decide +kernel), by decide +kernel⟩, putOk (by decide +kernel)⟩,
    ⟨⟨_, innStarts (bs := leBytes 4 1) (by decide +kernel) (by decide +kernel) (by decide +kernel) (by decide +kernel), by decide +kernel⟩, putOk (by decide +kernel)⟩,
    ⟨inRoom up [lockedRoom], lockedRoom, by decide +kernel⟩, ⟨inRoom up [room1 .idle], room1 .idle, by decide +kernel⟩,
    ⟨inRoom up [{ away with pinned := true }], { away with pinned := true }, by decide +kernel, ⟨hallBase, Prod.ext rfl (by decide +kernel)⟩,
      imageOf (by decide +kernel)⟩,
    by decide +kernel⟩
/-- A device that serves context 0: its default class, its result ring, a serving list at 0x4000 of two descriptors that do nothing, and
a batch area of six units. -/
def ring1 : SrvRing := ⟨0x200000000000, 0x200000001000, 4, 0, 64⟩
def upSrv (d : Dev) (srv : Srv) : Dev :=
  let d := ((inRoom d []).wr (Reg.INN_CLASS.DEFAULT 3) 1).poke 0x4000 (leBytes 64 (tdMake 1 0 []).toNat ++ leBytes 64 (tdMake 1 0 []).toNat)
  { ((d.wr (Reg.SRV_LIST.ADDR 0) 0x4000).wr (Reg.SRV_LIST_INFO.COUNT 0) 1).wr (Reg.SRV_SPM.SIZE_U 0) 6 with srv := { srv with rings := [(0, ring1)] } }
def list1 : SrvList := ⟨([], []), [0], 0, 3, 3, 64, 64⟩
def batch1 (step : Nat) (layout : Option SrvList) : Batch := ⟨32, 0, [], false, false, layout, 0, 0, step, [], [], 0⟩
def withLists (bs : List Batch) : Srv := { srv0 with lists := [(0, list1)], batches := bs }

/-- A guest whose next frame, SEQ 7, is held behind a gap. -/
def gapped : Srv :=
  { srv0 with guests := [(0, [(1, ⟨some (4, 0), [⟨7, 7, 0, 1, [], false, false, none, none⟩], none, none⟩)])] }

/-- A SAMPLE_BATCH that finds no snapshot of the list, and what it snaps. -/
def upSnap : Dev := upSrv (upC [cmd 0x0410 [(8, 4, 1)]]) srv0
def list2 : SrvList := ⟨([tdMake 1 0 []], [tdMake 1 0 []]), [0, 1], 0, 3, 3, 64, 64⟩
def snapped : Dev × Except Fail SrvList := upSnap.srvSnap 0 (upSnap.rd (Reg.SRV_LIST.ADDR 0)) (upSnap.rd (Reg.SRV_LIST_INFO.COUNT 0)) 3 ring1.size

/-- A batch between two of its steps, and its command. -/
def batchCmd : Cmd := { cmd 0x0302 with slot := 32 }
def upBatch (step : Nat) : Dev := upSrv (upC [batchCmd]) (withLists [batch1 step (some list1)])

theorem witness_ServingCommandsComplete :
    (up.hostRegsServed = true)
    ∧ (∃ (d : Dev) (c : Cmd), d.CmdRuns 0 0x0104 c ∧ d.srvFrames c.ctx = [])
    ∧ (∃ (d : Dev) (c : Cmd) (k : Nat) (r : SrvRing), (d.CmdRuns 0 0x0410 c ∧ c.ofBatch = false ∧ c.aux.headD 0 = 0
        ∧ d.defaultClass c.ctx = some k ∧ kvGet c.ctx d.srv.rings = some r ∧ (kvGet c.ctx d.srv.lists).isSome = true)
      ∧ ∃ d' t, d.read byCp c.ctx (c.par 0 8) (32 * c.par 8 4) = ⟨d', .ok t⟩)
    ∧ (∃ c : Cmd, upSnap.CmdRuns 0 0x0410 c ∧ (c.ofBatch = false ∧ c.aux.headD 0 = 0 ∧ upSnap.defaultClass c.ctx = some 3
        ∧ kvGet c.ctx upSnap.srv.rings = some ring1 ∧ (kvGet c.ctx upSnap.srv.lists).isSome = false ∧ c.ctx = 0)
      ∧ snapped = (snapped.1, .ok list2)
      ∧ ∃ d t, ({ snapped.1 with srv := { snapped.1.srv with lists := kvPut 0 list2 snapped.1.srv.lists } } : Dev).read byCp c.ctx (c.par 0 8)
        (32 * c.par 8 4) = ⟨d, .ok t⟩)
    ∧ (∃ d : Dev, d.live = true ∧ (d.srvGap 0 1 (d.srvGuest 0 1)).isSome = true)
    ∧ (∃ (d : Dev) (b : Batch), d.live = true ∧ (d.srv.batches.find? fun b => b.ctx == 0 && b.layout.isNone && !b.due) = some b)
    ∧ (∃ (d : Dev) (b : Batch) (l : SrvList) (r : SrvRing), (d.srv.batches.find? fun b => b.tag == 32) = some b ∧ b.layout = some l
      ∧ kvGet b.ctx d.srv.rings = some r ∧ d.live = true ∧ b.step = 0 ∧ ∃ x, d.placeBatch b l = some x)
    ∧ (∃ (d : Dev) (b : Batch) (l : SrvList) (r : SrvRing), (d.srv.batches.find? fun b => b.tag == 32) = some b ∧ b.layout = some l
      ∧ kvGet b.ctx d.srv.rings = some r ∧ d.live = true ∧ b.step = 4)
    ∧ (∀ step ∈ ([1, 2, 3] : List Nat), ∃ (b : Batch) (l : SrvList) (r : SrvRing) (c : Cmd),
      ((upBatch step).srv.batches.find? fun b => b.tag == 32) = some b ∧ b.layout = some l ∧ kvGet b.ctx (upBatch step).srv.rings = some r
      ∧ (upBatch step).live = true ∧ (upBatch step).cmd? 32 = some c ∧ c.phase = .running ∧ c.stop = none ∧ c.todo = []
      ∧ (upBatch step).cmdTds 32 = [] ∧ b.step = step) := by
  refine ⟨by decide +kernel, ⟨_, _, runs (d := upC [cmd 0x0104]) (c := cmd 0x0104) (by decide +kernel), by decide +kernel⟩,
    ⟨upSrv (upC [cmd 0x0410 [(8, 4, 1)]]) (withLists []), cmd 0x0410 [(8, 4, 1)], 3, ring1, ⟨runs (by decide +kernel), by decide +kernel⟩,
      gotOk (by decide +kernel)⟩,
    ⟨cmd 0x0410 [(8, 4, 1)], runs (by decide +kernel), by decide +kernel, okIs (by decide +kernel), gotOk (by decide +kernel)⟩,
    ⟨upSrv up gapped, by decide +kernel⟩, ⟨upSrv up (withLists [batch1 0 none]), batch1 0 none, by decide +kernel⟩,
    ⟨upSrv up (withLists [batch1 0 (some list1)]), batch1 0 (some list1), list1, ring1, by decide +kernel, by decide +kernel, by decide +kernel,
      by decide +kernel, by decide +kernel, isSomeOf (by decide +kernel)⟩,
    ⟨upSrv up (withLists [batch1 4 (some list1)]), batch1 4 (some list1), list1, ring1, by decide +kernel⟩, ?_⟩
  intro step h
  simp only [List.mem_cons, List.not_mem_nil, or_false] at h
  rcases h with rfl | rfl | rfl
  · exact ⟨batch1 1 (some list1), list1, ring1, batchCmd, by decide +kernel⟩
  · exact ⟨batch1 2 (some list1), list1, ring1, batchCmd, by decide +kernel⟩
  · exact ⟨batch1 3 (some list1), list1, ring1, batchCmd, by decide +kernel⟩
/-- A RESHARD with a plan of one item of a kind, and the plan. -/
def plan1 (kind : Nat) : List Byte :=
  leBytes 1 kind ++ leBytes 1 3 ++ zeros 2 ++ leBytes 4 1 ++ leBytes 8 (if kind = 0 then 0x1000 else 1) ++ leBytes 8 (if kind = 0 then 0x2000 else 0)
    ++ leBytes 8 64
def shardCmd (done : Nat) : Cmd := { cmd 0x0206 [(0xC, 1, 3)] with cores := [0], total := 1, done := done }
def upShard (done : Nat) (plan : List Byte) (rs : List Room) : Dev :=
  let d := inRoom (upC [shardCmd done]) rs
  { d with srv := { d.srv with reshards := [⟨0, plan, 0, []⟩] } }

/-- What holds of a RESHARD under way in `upShard`. -/
theorem shardRuns {done : Nat} {plan : List Byte} {rs : List Room} (h : ((upShard done plan rs).cmd? 0 == some (shardCmd done)
    && (upShard done plan rs).live && (shardCmd done).phase == .running && (shardCmd done).opcode == 0x0206 && (shardCmd done).fin == none
    && (shardCmd done).stop == none && (shardCmd done).parked == false && (upShard done plan rs).coreHeld (shardCmd done) == false) = true)
    (g : (upShard done plan rs).reshard? 0 = some ⟨0, plan, 0, []⟩) :
    (upShard done plan rs).RoutineRuns 0 0x0206 (shardCmd done)
    ∧ upShard done plan rs = (if ((upShard done plan rs).reshard? 0).isSome then upShard done plan rs else
      (upShard done plan rs).reshardStart 0 (shardCmd done))
    ∧ (upShard done plan rs).reshard? 0 = some ⟨0, plan, 0, []⟩ ∧ (upShard done plan rs).cmd? 0 = some (shardCmd done) :=
  ⟨runsR h ⟨.inl rfl, rfl, rfl⟩, by rw [g]; rfl, g, (runs h).found⟩

theorem witness_ListCommandsComplete :
    (∃ (d : Dev) (c : Cmd), d.RoutineRuns 0 0x0301 c ∧ (c.total = 0 ∧ d.seq.snapshots.length < 64)
      ∧ ∃ bs, d.read byCp c.ctx (c.par 0 8) (64 * c.par 8 4) = ⟨(d.read byCp c.ctx (c.par 0 8) (64 * c.par 8 4)).dev, .ok bs⟩
        ∧ ∃ d', (d.read byCp c.ctx (c.par 0 8) (64 * c.par 8 4)).dev.listBad c.ctx
          ((d.read byCp c.ctx (c.par 0 8) (64 * c.par 8 4)).dev.listCols (c.par 0x0C 1)) (if c.par 0x0C 1 = 1 then 1 else 0)
          (indexed 0 (listWords bs)) = (d', none))
    ∧ (∃ (d : Dev) (c : Cmd) (x : Reshard), (d.RoutineRuns 0 0x0206 c ∧ d = (if (d.reshard? 0).isSome then d else d.reshardStart 0 c)
      ∧ d.reshard? 0 = some x ∧ d.cmd? 0 = some c) ∧ (d.planChunk (c.par 0x0C 1) (planItems x.plan) x.next).isNone = true)
    ∧ (∃ (d : Dev) (c : Cmd) (x : Reshard), (d.RoutineRuns 0 0x0206 c ∧ d = (if (d.reshard? 0).isSome then d else d.reshardStart 0 c)
      ∧ d.reshard? 0 = some x ∧ d.cmd? 0 = some c)
      ∧ ∃ i, d.planChunk (c.par 0x0C 1) (planItems x.plan) x.next = some i ∧ i.1.kind = 0 ∧ x.next < c.done)
    ∧ (∃ (d : Dev) (c : Cmd) (x : Reshard), (d.RoutineRuns 0 0x0206 c ∧ d = (if (d.reshard? 0).isSome then d else d.reshardStart 0 c)
      ∧ d.reshard? 0 = some x ∧ d.cmd? 0 = some c)
      ∧ ∃ i, d.planChunk (c.par 0x0C 1) (planItems x.plan) x.next = some i ∧ i.1.kind = 0 ∧ c.done ≤ x.next
        ∧ (d.movePieces (byPorter (d.memPorter 0x0201 (c.cores.headD 0) x.next)) c.ctx
          (rowPieces 1 (min d.memChunk (i.1.length - i.2 * d.memChunk)) (i.1.src + i.2 * d.memChunk) 0 (i.1.dst + i.2 * d.memChunk) 0) 0).err = none)
    ∧ (∀ b : Bool, ∃ (d : Dev) (c : Cmd) (x : Reshard), (d.RoutineRuns 0 0x0206 c ∧ d = (if (d.reshard? 0).isSome then d else d.reshardStart 0 c)
      ∧ d.reshard? 0 = some x ∧ d.cmd? 0 = some c)
      ∧ ∃ i, d.planChunk (c.par 0x0C 1) (planItems x.plan) x.next = some i ∧ i.1.kind ≠ 0
        ∧ (match (d.roomsChunk 0 c.ctx (c.par 0x0C 1) i.1 i.2).2 with
          | .ok a => a == b
          | .error _ => false) = true) := by
  refine ⟨⟨(upC [cmd 0x0301 [(8, 4, 1)]]).poke 0 (leBytes 64 (tdMake 1 0 []).toNat), cmd 0x0301 [(8, 4, 1)], runsR (by decide +kernel)
      (by decide +kernel), by decide +kernel, leBytes 64 (tdMake 1 0 []).toNat, gotIs (by decide +kernel), pairOf (by decide +kernel)⟩,
    ⟨upShard 0 [] [], shardCmd 0, ⟨0, [], 0, []⟩, shardRuns (by decide +kernel) (by decide +kernel), by decide +kernel⟩,
    ⟨upShard 1 (plan1 0) [], shardCmd 1, ⟨0, plan1 0, 0, []⟩, shardRuns (by decide +kernel) (by decide +kernel), someOf (by decide +kernel)⟩,
    ⟨upShard 0 (plan1 0) [], shardCmd 0, ⟨0, plan1 0, 0, []⟩, shardRuns (by decide +kernel) (by decide +kernel), someOf (by decide +kernel)⟩, ?_⟩
  intro b
  cases b
  · exact ⟨upShard 0 (plan1 1) [lockedRoom], shardCmd 0, ⟨0, plan1 1, 0, []⟩, shardRuns (by decide +kernel) (by decide +kernel),
      someOf (by decide +kernel)⟩
  · exact ⟨upShard 0 (plan1 1) [], shardCmd 0, ⟨0, plan1 1, 0, []⟩, shardRuns (by decide +kernel) (by decide +kernel),
      someOf (by decide +kernel)⟩
/-- A transfer that a command drives, a hosted checkpoint's header, and devices with a waystation. -/
def head1 : WayHead :=
  { state := wsValid, kind := 0, owner := 7, seq := 1, epoch := 0, step := 0, scaleE := 0, cur := 0, entries := 0, body := 64, ledger := zeros 64
    shardCrc := 0, roomsCrc := 0, shardOff := 0, recordsOff := 0, roomsOff := 0 }
def job1 : WayJob :=
  { cmd := some 0, slot := 0, dev := 7, ctx := 0, head := head1, segs := [], tail := [], sent := 0, upto := 0, phase := 0, crc := 0 }
def upWay (c : Cmd) (w : Way) : Dev := { upC [c] with way := w }
def wayCmd (op : Nat) (f : List (Nat × Nat × Nat)) : Cmd := cmd 0x0901 ((0xB, 1, op) :: f)

/-- A device that hosts a VALID checkpoint in slot 0. -/
def upHost : Dev :=
  let d := upWay (cmd 0x0903 [(0, 1, 0xFF)]) { way0 with host := true, slotGib := 1 }
  d.poke (d.waySlot 0) head1.bytes

theorem witness_WaystationCommandsComplete :
    (∃ (d : Dev) (c : Cmd), d.CmdRuns 0 0x0901 c ∧ d.way.acceptCmd ≠ some 0 ∧ c.par 0x0B 1 = 1 ∧ 2 * c.par 0x10 2 ≤ d.wayGib)
    ∧ (∃ (d : Dev) (c : Cmd), d.CmdRuns 0 0x0901 c ∧ d.way.acceptCmd ≠ some 0 ∧ c.par 0x0B 1 = 2)
    ∧ (∃ (d : Dev) (c : Cmd), d.CmdRuns 0 0x0901 c ∧ d.way.acceptCmd ≠ some 0 ∧ c.par 0x0B 1 = 0
      ∧ ∃ d' bs, d.wayDropTabs.read byCp c.ctx (c.par 0 8) (64 + 64 * c.par 0x0C 2) = ⟨d', .ok bs⟩)
    ∧ (∃ (d : Dev) (c : Cmd), d.CmdRuns 0 0x0901 c ∧ d.way.acceptCmd ≠ some 0 ∧ c.par 0x0B 1 = 3
      ∧ (∃ d' bs, d.wayDropTabs.read byCp c.ctx (c.par 0 8) (64 + 64 * c.par 0x0C 2) = ⟨d', .ok bs⟩) ∧ d.wayDropTabs.ledRec.state = lsFree)
    ∧ (∃ (d : Dev) (n : Nat) (t : ShardTab), d.way.due = some n ∧ d.way.sender = some t ∧ d.way.job = none ∧ d.live = true)
    ∧ (∃ (d : Dev) (c : Cmd) (j : WayJob), d.RoutineRuns 0 0x0902 c ∧ d.way.job = some j ∧ j.cmd = some 0)
    ∧ (∃ (d : Dev) (c : Cmd) (t : ShardTab), d.RoutineRuns 0 0x0902 c ∧ d.way.job = none ∧ c.total = 0 ∧ d.way.sender = some t)
    ∧ (∃ (d : Dev) (c : Cmd) (j : WayJob), d.RoutineRuns 0 0x0903 c ∧ d.way.rjob = some j ∧ j.cmd = some 0)
    ∧ (∃ (d : Dev) (c : Cmd), d.RoutineRuns 0 0x0903 c ∧ d.way.rjob = none ∧ c.total = 0 ∧ d.way.host = true
      ∧ ∃ h, d.hostedHead (if c.par 0 1 = 0xFF then d.newestHosted else c.par 0 1) = some h ∧ h.state = wsValid)
    ∧ (∃ (k : FabPkt) (d d' : Dev), d.PktTaken ptWayWrite k d' ∧ d'.epochDiffers k = false ∧ bitAt k.arg 0 = true)
    ∧ (∃ (k : FabPkt) (d d' : Dev), d.PktTaken ptWayWrite k d' ∧ d'.epochDiffers k = false ∧ bitAt k.arg 0 = false) :=
  ⟨⟨_, _, runs (d := (upWay (wayCmd 1 [(0x10, 2, 1)]) way0).wr Reg.MEM_RESV_BASE.BASE 400) (c := wayCmd 1 [(0x10, 2, 1)]) (by decide +kernel), by decide +kernel⟩,
    ⟨_, _, runs (d := upWay (wayCmd 2 []) way0) (c := wayCmd 2 []) (by decide +kernel), by decide +kernel⟩,
    ⟨_, _, runs (d := upWay (wayCmd 0 []) way0) (c := wayCmd 0 []) (by decide +kernel), by decide +kernel, by decide +kernel,
      gotOk (by decide +kernel)⟩,
    ⟨_, _, runs (d := upWay (wayCmd 3 []) way0) (c := wayCmd 3 []) (by decide +kernel), by decide +kernel, by decide +kernel,
      gotOk (by decide +kernel), by decide +kernel⟩,
    ⟨{ up with way := { way0 with due := some 3, sender := some ⟨[], 0, false⟩ } }, 3, ⟨[], 0, false⟩, by decide +kernel⟩,
    ⟨upWay { cmd 0x0902 with total := 1 } { way0 with job := some job1 }, { cmd 0x0902 with total := 1 }, job1,
      runsR (by decide +kernel) (by decide +kernel), rfl, rfl⟩,
    ⟨upWay (cmd 0x0902) { way0 with sender := some ⟨[], 0, false⟩ }, cmd 0x0902, ⟨[], 0, false⟩, runsR (by decide +kernel) (by decide +kernel),
      by decide +kernel⟩,
    ⟨upWay { cmd 0x0903 with total := 1 } { way0 with rjob := some job1 }, { cmd 0x0903 with total := 1 }, job1,
      runsR (by decide +kernel) (by decide +kernel), rfl, rfl⟩,
    ⟨upHost, cmd 0x0903 [(0, 1, 0xFF)], runsR (by decide +kernel) (by decide +kernel), by decide +kernel, by decide +kernel, by decide +kernel,
      someOf (by decide +kernel)⟩,
    ⟨_, upPkt (pkt ptWayWrite 0 1), _, takenOf (k := pkt ptWayWrite 0 1) (by decide +kernel), by decide +kernel⟩,
    ⟨_, upPkt (pkt ptWayWrite 0 0), _, takenOf (k := pkt ptWayWrite 0 0) (by decide +kernel), by decide +kernel⟩⟩
/-- A ledger record of context 0 in a state, a step record of step 0 with its exchange done, group 0 of this device alone, and a command. -/
def ledOf (state : Nat) : LedRec := { ledRec0 with state := state, gen := 1, retain := true, revertible := true, epoch := 1 }
def recOf : List Byte := zeros 7 ++ leBytes 1 2 ++ zeros 248
def upLed (c : Cmd) (r : LedRec) (b : Option Ballot := none) : Dev :=
  let d := upC [c]
  { d with led := { led0 with recA := r, steps := [(0, recOf)], ballot := b }, fab := { d.fab with groups := [(0, ⟨0, 1, [[0]]⟩)] } }
def ledCmd (op : Nat) (f : List (Nat × Nat × Nat)) (aux : List Nat := []) : Cmd := { cmd 0x0504 ((0, 1, op) :: f) with aux := aux }
def ballot1 : Ballot := ⟨none, 0, 0, []⟩
def upVote (b : Option Ballot) : Dev :=
  let d := upLed (cmd 0x0101) (ledOf lsOpen) b
  { d with fab := { d.fab with inbox := [pkt ptVote 0 0 (zeros 24)] } }

theorem ledgerRuns {d : Dev} {slot op : Nat} {c : Cmd} (h : (d.cmd? slot == some c && d.live && c.phase == .running && c.opcode == 0x0504
    && c.fin == none && c.stop == none && c.parked == false && d.coreHeld c == false) = true)
    (g : c.par 0 1 = op ∧ d.ledRefusal c.ctx = none) : d.LedgerRuns slot op c := ⟨runs h, g.1, g.2⟩

theorem witness_LedgerCommandsComplete :
    (∃ (d : Dev) (c : Cmd), d.CmdRuns 0 0x0504 c ∧ c.par 0 1 = 1 ∧ d.ledRec.state = lsFree)
    ∧ (∃ (d : Dev) (c : Cmd), d.LedgerRuns 0 3 c ∧ d.ledRec.state = lsReady)
    ∧ (∃ (d : Dev) (c : Cmd), d.CmdRuns 0 0x0507 c ∧ d.ledRefusal c.ctx = none)
    ∧ (∃ (d : Dev) (c : Cmd), d.CmdRuns 0 0x0505 c ∧ c.par 0 1 = 0) ∧ (∃ (d : Dev) (c : Cmd), d.CmdRuns 0 0x0505 c ∧ c.par 0 1 = 1)
    ∧ (∃ (d : Dev) (c : Cmd), d.CmdRuns 0 0x0505 c ∧ c.par 0 1 = 2 ∧ (d.stepRec (c.par 4 4)).isSome = true)
    ∧ (∃ (d : Dev) (c : Cmd), d.CmdRuns 0 0x0505 c ∧ c.par 0 1 = 3 ∧ (d.stepRec (c.par 4 4)).isSome = true)
    ∧ (∃ (d : Dev) (c : Cmd) (g : Group), d.LedgerRuns 0 0 c ∧ d.ledRec.state = lsOpen ∧ c.aux = [] ∧ d.group? (c.par 1 1) = some g
      ∧ (g.rings.headD []).contains d.myId = true)
    ∧ (∃ (d : Dev) (c : Cmd), d.LedgerRuns 0 0 c ∧ d.ledRec.state = lsOpen ∧ c.aux = [1] ∧ d.trainBusy c.ctx = false
      ∧ ∃ v, d.ownVote false = some v)
    ∧ (∃ (d : Dev) (k : FabPkt), d.fabClocks = true ∧ (d.fab.inbox.find? fun k => k.typ == ptVote) = some k
      ∧ (∃ bg, d.voteMatch k = some bg) ∧ ∃ x, d.nextIn ptVote = some x)
    ∧ (∃ (d : Dev) (k : FabPkt), d.fabClocks = true ∧ (d.fab.inbox.find? fun k => k.typ == ptVote) = some k ∧ d.voteMatch k = none)
    ∧ (∃ (d : Dev) (x : Ballot × Group), d.ballotGroup = some x)
    ∧ (∃ (d : Dev) (c : Cmd), d.LedgerRuns 0 2 c ∧ d.ledRec.state = lsReady ∧ d.ledRec.last = voAbort ∧ d.ledRec.retain = true
      ∧ c.par 8 8 = d.ledRec.epoch ∧ c.par 4 4 = d.ledRec.step ∧ c.par 1 1 = voCommit ∧ d.recHas d.ledRec.step 1 = true)
    ∧ (∃ (d : Dev) (c : Cmd), d.LedgerRuns 0 2 c ∧ d.ledRec.state = lsReady ∧ d.ledRec.last = voAbort ∧ d.ledRec.retain = true
      ∧ c.par 8 8 = d.ledRec.epoch ∧ c.par 4 4 = d.ledRec.step ∧ c.par 1 1 = voSkip)
    ∧ (∃ (d : Dev) (c : Cmd), d.LedgerRuns 0 4 c ∧ d.ledRec.state = lsReady ∧ d.ledRec.last = voCommit ∧ d.ledRec.revertible = true
      ∧ c.par 8 8 = d.ledRec.epoch ∧ c.par 4 4 = d.ledRec.step) := by
  have q (op : Nat) (c : Cmd) (r : LedRec) (h : _ = true) : (upLed c r).CmdRuns 0 op c := runs h
  have l (op : Nat) (c : Cmd) (r : LedRec) (h : _ = true) (g : _ ∧ _) : (upLed c r).LedgerRuns 0 op c := ledgerRuns h g
  exact ⟨⟨_, _, q _ (ledCmd 1 []) (ledOf lsFree) (by decide +kernel), by decide +kernel⟩,
    ⟨_, _, l 3 (ledCmd 3 []) (ledOf lsReady) (by decide +kernel) (by decide +kernel), by decide +kernel⟩,
    ⟨_, _, q _ (cmd 0x0507 [(0, 1, 3)]) (ledOf lsReady) (by decide +kernel), by decide +kernel⟩,
    ⟨_, _, q _ (cmd 0x0505) (ledOf lsReady) (by decide +kernel), by decide +kernel⟩,
    ⟨_, _, q _ (cmd 0x0505 [(0, 1, 1)]) (ledOf lsReady) (by decide +kernel), by decide +kernel⟩,
    ⟨_, _, q _ (cmd 0x0505 [(0, 1, 2)]) (ledOf lsReady) (by decide +kernel), by decide +kernel⟩,
    ⟨_, _, q _ (cmd 0x0505 [(0, 1, 3)]) (ledOf lsReady) (by decide +kernel), by decide +kernel⟩,
    ⟨_, _, ⟨0, 1, [[0]]⟩, l 0 (ledCmd 0 []) (ledOf lsOpen) (by decide +kernel) (by decide +kernel), by decide +kernel⟩,
    ⟨_, _, l 0 (ledCmd 0 [] [1]) (ledOf lsOpen) (by decide +kernel) (by decide +kernel), by decide +kernel, by decide +kernel, by decide +kernel,
      isSomeOf (by decide +kernel)⟩,
    ⟨upVote (some ballot1), pkt ptVote 0 0 (zeros 24), by decide +kernel, by decide +kernel, isSomeOf (by decide +kernel),
      isSomeOf (by decide +kernel)⟩,
    ⟨upVote none, pkt ptVote 0 0 (zeros 24), by decide +kernel⟩, ⟨upVote (some ballot1), isSomeOf (by decide +kernel)⟩,
    ⟨_, _, l 2 (ledCmd 2 [(8, 8, 1)]) { ledOf lsReady with last := voAbort } (by decide +kernel) (by decide +kernel), by decide +kernel⟩,
    ⟨_, _, l 2 (ledCmd 2 [(8, 8, 1), (1, 1, voSkip)]) { ledOf lsReady with last := voAbort } (by decide +kernel) (by decide +kernel),
      by decide +kernel⟩,
    ⟨_, _, l 4 (ledCmd 4 [(8, 8, 1)]) { ledOf lsReady with last := voCommit } (by decide +kernel) (by decide +kernel), by decide +kernel⟩⟩
/-- A timetable of one micro-batch for stage `k` of `n`: a forward entry, with rooms or without, and a backward one. -/
def tt1 (n k : Nat) (rooms : Bool) : List Byte :=
  let b := fill 192 [(0, 2, 1), (2, 2, 2), (4, 2, 1), (6, 2, n), (8, 2, k), (0x41, 1, if rooms then 2 else 0), (0x44, 4, 1), (0x48, 8, 0x4000),
    (0x80, 1, 1), (0x84, 4, 1), (0x88, 8, 0x4000)]
  b.take 0x38 ++ leBytes 8 (crc64 (b.take 0x38 ++ b.drop 64)) ++ b.drop 64

/-- A device with a ledger of context 0, timetable `tt` in slot 0, group 0 of this device alone and a training command that has come to
phase and part. -/
def ledT : LedRec := { ledRec0 with state := lsReady, gen := 1 }
def runT (phase part : Nat) : TrainRun := { trainRun0 0 0 with train := zeros 32, phase := phase, part := part, buckets := zeros 32 }
def upT1 (c : Cmd) (tt : List Byte) (rs : List TrainRun) : Dev :=
  let d := (upC [c]).wr (Reg.TRN_TT.LOADED 0) 1
  { d with led := { led0 with recA := ledT }, trn := { slots := [(0, ⟨tt, []⟩)], runs := rs, norms := [] }
           fab := { d.fab with groups := [(0, ⟨0, 1, [[0]]⟩)] } }
def stepCmd (op : Nat) : Cmd := { cmd op with cores := [0], total := 4 }

theorem stepRuns {d : Dev} {slot : Nat} {c : Cmd} {r : TrainRun} (h : (d.cmd? slot == some c && d.live && c.phase == .running
    && c.opcode == c.opcode && c.fin == none && c.stop == none && c.parked == false && d.coreHeld c == false) = true)
    (g : ((c.tab = none ∨ c.done ≤ c.saved) ∧ c.preempt = [] ∧ c.suspended = []) ∧ d.run? slot = some r) : d.StepRuns slot c r :=
  ⟨runsR h g.1, g.2⟩

theorem witness_TimetableCommandsComplete :
    (∃ (d : Dev) (c : Cmd), d.CmdRuns 0 0x0501 c ∧ d.ttForeign c.ctx (c.par 0x0C 1) = false ∧ d.on (Reg.TRN_TT.RUNNING (c.par 0x0C 1)) = false
      ∧ c.par 0x0D 1 = 1)
    ∧ (∃ (d : Dev) (c : Cmd), d.CmdRuns 0 0x0501 c ∧ (d.ttForeign c.ctx (c.par 0x0C 1) = false
        ∧ d.on (Reg.TRN_TT.RUNNING (c.par 0x0C 1)) = false ∧ c.par 0x0D 1 = 0)
      ∧ ∃ t, d.read byCp c.ctx (c.par 0 8) (c.par 8 4) = ⟨(d.read byCp c.ctx (c.par 0 8) (c.par 8 4)).dev, .ok t⟩
        ∧ ∃ d' m, (d.read byCp c.ctx (c.par 0 8) (c.par 8 4)).dev.ttCheck c.ctx (c.par 8 4) t = (d', .ok m))
    ∧ (∃ (d : Dev) (c : Cmd), d.CmdRuns 0 0x0506 c ∧ d.trainBusy c.ctx = false)
    ∧ (∃ (d : Dev) (c : Cmd) (r : TrainRun) (x : Bucket), (d.StepRuns 0 c r ∧ r.phase ≤ 2) ∧ (bucketsOf r.buckets).drop r.started = [x]
      ∧ d.soArrived x.so x.value = .ok true
      ∧ ∃ d', (d.updRun 0 fun r => { r with started := r.started + 1 }).collStart (r.coll r.started x) = some d')
    ∧ (∃ (d : Dev) (c : Cmd) (r : TrainRun), d.StepRuns 0 c r ∧ (r.phase = 1 ∧ r.part = 0)
      ∧ ∃ a, r.arrival (d.runTt r).bytes (ttEntry (d.runTt r).bytes r.entry) = some a ∧ d.soValue a.1 < a.2)
    ∧ (∃ (d : Dev) (c : Cmd) (r : TrainRun), d.StepRuns 0 c r ∧ r.phase = 1 ∧ d.cmdTds 0 = [] ∧ c.todo = [] ∧ r.part = 0
      ∧ r.arrival (d.runTt r).bytes (ttEntry (d.runTt r).bytes r.entry) = none)
    ∧ (∃ (d : Dev) (c : Cmd) (r : TrainRun), d.StepRuns 0 c r ∧ r.phase = 1 ∧ d.cmdTds 0 = [] ∧ c.todo = [] ∧ r.part = 0
      ∧ r.arrival (d.runTt r).bytes (ttEntry (d.runTt r).bytes r.entry) = some (0, 1) ∧ d.soArrived 0 1 = .ok true)
    ∧ (∀ part ∈ ([1, 3] : List Nat), ∃ (d : Dev) (c : Cmd) (r : TrainRun), d.StepRuns 0 c r ∧ r.phase = 1 ∧ d.cmdTds 0 = [] ∧ c.todo = []
      ∧ r.part = part ∧ d.roomFailed (ttEntry (d.runTt r).bytes r.entry) = none)
    ∧ (∀ b : Bool, ∃ (d : Dev) (c : Cmd) (r : TrainRun), d.StepRuns 0 c r ∧ r.phase = 1 ∧ d.cmdTds 0 = [] ∧ c.todo = []
      ∧ r.part = 2 ∧ (ttEntry (d.runTt r).bytes r.entry).rooms = b) := by
  have st (tt : List Byte) (r : TrainRun) (h : _ = true) (g : _ ∧ _) : (upT1 (stepCmd 0x0502) tt [r]).StepRuns 0 (stepCmd 0x0502) r :=
    stepRuns h g
  refine ⟨⟨_, _, runs (d := upT1 (cmd 0x0501 [(0xD, 1, 1)]) [] []) (c := cmd 0x0501 [(0xD, 1, 1)]) (by decide +kernel), by decide +kernel⟩,
    ⟨(upT1 (cmd 0x0501 [(8, 4, 192)]) [] []).poke 0 (tt1 1 0 false), cmd 0x0501 [(8, 4, 192)], runs (by decide +kernel), by decide +kernel,
      tt1 1 0 false, gotIs (by decide +kernel), okOf (by decide +kernel)⟩,
    ⟨_, _, runs (d := upC [cmd 0x0506]) (c := cmd 0x0506) (by decide +kernel), by decide +kernel⟩,
    ⟨_, _, runT 1 0, ⟨0, 0, 0, 0, 0, 0⟩, ⟨st (tt1 1 0 false) (runT 1 0) (by decide +kernel) (by decide +kernel), by decide +kernel⟩, by decide +kernel,
      okTrue (by decide +kernel), isSomeOf (by decide +kernel)⟩,
    ⟨_, _, _, st (tt1 2 1 false) (runT 1 0) (by decide +kernel) (by decide +kernel), by decide +kernel, someOf (by decide +kernel)⟩,
    ⟨_, _, _, st (tt1 1 0 false) (runT 1 0) (by decide +kernel) (by decide +kernel), by decide +kernel⟩, ?_, ?_, ?_⟩
  · exact ⟨(upT1 (stepCmd 0x0502) (tt1 2 1 false) [runT 1 0]).wr (Reg.SO_VALUE.VALUE 0) 1, stepCmd 0x0502, runT 1 0,
      stepRuns (by decide +kernel) (by decide +kernel), by decide +kernel, by decide +kernel, by decide +kernel, by decide +kernel,
      by decide +kernel, okTrue (by decide +kernel)⟩
  · intro part h
    simp only [List.mem_cons, List.not_mem_nil, or_false] at h
    rcases h with rfl | rfl
    · exact ⟨_, _, _, st (tt1 1 0 true) (runT 1 1) (by decide +kernel) (by decide +kernel), by decide +kernel⟩
    · exact ⟨_, _, _, st (tt1 1 0 true) (runT 1 3) (by decide +kernel) (by decide +kernel), by decide +kernel⟩
  · intro b
    cases b
    · exact ⟨_, _, _, st (tt1 1 0 false) (runT 1 2) (by decide +kernel) (by decide +kernel), by decide +kernel⟩
    · exact ⟨_, _, _, st (tt1 1 0 true) (runT 1 2) (by decide +kernel) (by decide +kernel), by decide +kernel⟩
/-- A TRAIN_STEP of one bucket, the run it starts; an OPT_STEP of one shard; a REPLAY_STEP of step 0 with its record. -/
def trainCmd : Cmd := cmd 0x0502 [(4, 2, 1), (8, 8, 0x4000)]
def upTrain : Dev := (upT1 trainCmd (tt1 1 0 false) []).poke 0x4000 (fill 32 [(0, 8, 0x1000), (8, 8, 0x2000), (0x10, 4, 8), (0x14, 2, 5)])
def trainRun1 : TrainRun :=
  { trainRun0 0 0 with train := trainCmd.parBytes 0 32, step := ledT.step, epoch := ledT.epoch, scaleE := ledT.scaleE, seed := 0 }

def optCmd : Cmd := cmd 0x0503 [(0, 8, 0x4000), (8, 2, 1)]
def shard1 : List Byte := fill 128 [(4, 4, optWork), (0x40, 8, 0x1000), (0x48, 8, 0x1100), (0x50, 8, 0x1200), (0x58, 8, 0x1300), (0x70, 8, 0x1400),
  (0x78, 4, 1)]
def upOpt (bad : Nat) : Dev :=
  let d := (((upT1 optCmd [] []).poke 0x4000 shard1).wr (Reg.TRN_NORM.VALID 0) 1).wr (Reg.TRN_NORM.NONFINITE 0) bad
  { d with trn := { d.trn with norms := [(0, 0)] } }
def optRun1 : TrainRun :=
  { trainRun0 0 0 with opt := optCmd.parBytes 0 48, shards := shard1, step := ledT.step, epoch := ledT.epoch, scaleE := ledT.scaleE, seed := 0 }

def replayRec : List Byte :=
  let t := tt1 1 0 false
  fill 256 [(4, 1, voNone), (0x24, 2, 0), (0x70, 8, ttCrc t), (0x88, 8, (upT1 (cmd 0x0904) t []).groupCrc 0 0)]
def upReplay : Dev := let d := upT1 (cmd 0x0904) (tt1 1 0 false) []
  { d with led := { d.led with steps := [(0, replayRec)] } }
def replayRun1 : TrainRun :=
  { trainRun0 0 0 with
    train := (replayRec.drop 0x20).take 32, opt := (replayRec.drop 0x40).take 48, replay := true, step := upReplay.ledRec.step
    epoch := upReplay.ledRec.epoch, scaleE := fieldAt replayRec 6 1, seed := fieldAt replayRec 0x10 8 }

theorem witness_TrainingStepsComplete :
    (∃ (d : Dev) (c : Cmd) (r : TrainRun), d.RoutineRuns 0 0x0502 c ∧ d.run? 0 = some r)
    ∧ ((upTrain.RoutineRuns 0 0x0502 trainCmd ∧ upTrain.run? 0 = none ∧ trainCmd.total = 0 ∧ upTrain.trainRefusal 0 (trainCmd.par 0 1) = none
        ∧ upTrain.ledRec = ledT ∧ upTrain.rd (Reg.TRN_SEED.SEED 0) = 0)
      ∧ ∃ d bs, upTrain.trainChecks trainRun1 = (d, .ok bs))
    ∧ (∃ (d : Dev) (c : Cmd) (r : TrainRun), d.RoutineRuns 0 0x0503 c ∧ d.run? 0 = some r)
    ∧ ((upOpt 1).RoutineRuns 0 0x0503 optCmd ∧ (upOpt 1).run? 0 = none ∧ optCmd.total = 0 ∧ (upOpt 1).trainBusy 0 = false
      ∧ (upOpt 1).ledRefusal 0 = none ∧ (upOpt 1).ledRec.revertible = false ∧ (upOpt 1).wayReads (1 - (upOpt 1).ledRec.cur) = false
      ∧ (upOpt 1).hasNorm 0 = true ∧ (upOpt 1).on (Reg.TRN_NORM.NONFINITE 0) = true)
    ∧ (((upOpt 0).RoutineRuns 0 0x0503 optCmd ∧ (upOpt 0).run? 0 = none ∧ optCmd.total = 0 ∧ (upOpt 0).trainBusy 0 = false
        ∧ (upOpt 0).ledRefusal 0 = none ∧ (upOpt 0).ledRec = ledT ∧ ledT.revertible = false ∧ (upOpt 0).wayReads (1 - ledT.cur) = false
        ∧ (upOpt 0).hasNorm 0 = true ∧ (upOpt 0).on (Reg.TRN_NORM.NONFINITE 0) = false)
      ∧ (upOpt 0).read byCp 0 (optCmd.par 0 8) (64 + 64 * optCmd.par 8 2) = ⟨((upOpt 0).read byCp 0 (optCmd.par 0 8)
        (64 + 64 * optCmd.par 8 2)).dev, .ok shard1⟩
      ∧ ((upOpt 0).read byCp 0 (optCmd.par 0 8) (64 + 64 * optCmd.par 8 2)).dev.rd (Reg.TRN_SEED.SEED 0) = 0
      ∧ ∃ d, ((upOpt 0).read byCp 0 (optCmd.par 0 8) (64 + 64 * optCmd.par 8 2)).dev.shardChecks optRun1 = ⟨d, none⟩)
    ∧ (∀ phase ∈ ([1, 4, 5] : List Nat), ∃ (d : Dev) (c : Cmd) (r : TrainRun), d.RoutineRuns 0 0x0904 c ∧ d.run? 0 = some r ∧ r.phase = phase)
    ∧ ((upReplay.RoutineRuns 0 0x0904 (cmd 0x0904) ∧ upReplay.run? 0 = none ∧ (cmd 0x0904).total = 0
        ∧ upReplay.replayRefusal 0 ((cmd 0x0904).par 0 4) = none ∧ upReplay.stepRec ((cmd 0x0904).par 0 4) = some replayRec)
      ∧ ∃ d bs, upReplay.trainChecks replayRun1 = (d, .ok bs)) := by
  have st (op : Nat) (r : TrainRun) (h : _ = true) (g : _ ∧ _) : (upT1 (stepCmd op) [] [r]).RoutineRuns 0 op (stepCmd op) := runsR h g
  refine ⟨⟨_, _, runT 1 0, st 0x0502 (runT 1 0) (by decide +kernel) (by decide +kernel), by decide +kernel⟩,
    ⟨⟨runsR (by decide +kernel) (by decide +kernel), by decide +kernel⟩, okOf (by decide +kernel)⟩,
    ⟨_, _, runT 4 0, st 0x0503 (runT 4 0) (by decide +kernel) (by decide +kernel), by decide +kernel⟩,
    ⟨runsR (by decide +kernel) (by decide +kernel), by decide +kernel⟩,
    ⟨⟨runsR (by decide +kernel) (by decide +kernel), by decide +kernel⟩, gotIs (by decide +kernel), by decide +kernel,
      putOk (by decide +kernel)⟩, ?_,
    ⟨⟨runsR (by decide +kernel) (by decide +kernel), by decide +kernel⟩, okOf (by decide +kernel)⟩⟩
  intro phase h
  simp only [List.mem_cons, List.not_mem_nil, or_false] at h
  rcases h with rfl | rfl | rfl
  · exact ⟨_, _, runT 1 0, st 0x0904 (runT 1 0) (by decide +kernel) (by decide +kernel), by decide +kernel⟩
  · exact ⟨_, _, runT 4 0, st 0x0904 (runT 4 0) (by decide +kernel) (by decide +kernel), by decide +kernel⟩
  · exact ⟨_, _, runT 5 0, st 0x0904 (runT 5 0) (by decide +kernel) (by decide +kernel), by decide +kernel⟩
/-- A PWR_DOMAIN_SET of domain 42 to OFF, and the domain in a state. -/
def pwrCmd (wait : Nat) : Cmd := cmd 0x0702 [(0, 1, 42), (1, 1, 2), (2, 1, wait)]

theorem witness_PowerDomainsComplete :
    (∀ wait ∈ ([0, 1] : List Nat), ∃ c : Cmd, (upC [c]).CmdRuns 0 0x0702 c ∧ ((upC [c]).pwr.waiting.any fun x => x.1 == 0) = false
      ∧ (upC [c]).domRefusal (c.par 0 1) (c.par 1 1) = none
      ∧ (((upC [c]).domsOf (c.par 0 1)).any fun x => (upC [c]).on (Reg.MGT_UNIT.PWR_BY_MGMT x)
        && decide (c.par 1 1 < (upC [c]).rd (Reg.MGT_UNIT.PWR_TARGET x))) = false
      ∧ bitAt (c.par 2 1) 0 = (wait == 1))
    ∧ (∀ dom ∈ ([2, 42] : List Nat), ∃ d d' : Dev, d.domState dom = stDraining
      ∧ d' = (if domClass dom = .inn then (d.hallVacate (dom - 42)).1 else d) ∧ d'.drained dom = true)
    ∧ (∃ d : Dev, d.domState 2 = stIsolated)
    ∧ (∀ st ∈ [stRetention, stOff], ∃ d : Dev, d.domState 2 = st ∧ d.pwr.dwell.contains 2 = false)
    ∧ (∃ d : Dev, d.domState 2 = stWaking ∧ d.wakeReady 2 = true) := by
  refine ⟨?_, ?_, ⟨up.setDom 2 stIsolated, by decide +kernel⟩, ?_, ⟨up.setDom 2 stWaking, by decide +kernel⟩⟩
  · intro wait h
    simp only [List.mem_cons, List.not_mem_nil, or_false] at h
    rcases h with rfl | rfl
    · exact ⟨pwrCmd 0, runs (by decide +kernel), by decide +kernel⟩
    · exact ⟨pwrCmd 1, runs (by decide +kernel), by decide +kernel⟩
  · intro dom h
    simp only [List.mem_cons, List.not_mem_nil, or_false] at h
    rcases h with rfl | rfl
    · exact ⟨up.setDom 2 stDraining, _, by decide +kernel, rfl, by decide +kernel⟩
    · exact ⟨up.setDom 42 stDraining, _, by decide +kernel, rfl, by decide +kernel⟩
  · intro st h
    simp only [List.mem_cons, List.not_mem_nil, or_false] at h
    rcases h with rfl | rfl
    · exact ⟨up.setDom 2 stRetention, by decide +kernel⟩
    · exact ⟨up.setDom 2 stOff, by decide +kernel⟩

theorem witness_GovernorsComplete :
    (∃ (d : Dev) (c : Cmd), d.CmdRuns 0 0x0701 c ∧ (d.pwr.policy.any fun x => x.1 == 0) = false)
    ∧ (up.governs = true ∧ 11 < up.stacks ∧ 31 < up.ports) ∧ (∃ d : Dev, d.pwr.avsOpen = true)
    ∧ (up.on (Reg.MEM_STATUS.BW_CAPPED 11) = false) ∧ up.rd Reg.PWR_AVS.MARGIN ≤ up.marginHeld up.cclkTop :=
  ⟨⟨_, _, runs (d := upC [cmd 0x0701]) (c := cmd 0x0701) (by decide +kernel), by decide +kernel⟩, by decide +kernel,
    ⟨{ up with pwr := { pwr0 with avsOpen := true } }, rfl⟩, by decide +kernel,
    (show up.rd Reg.PWR_AVS.MARGIN = 0 by decide +kernel) ▸ Nat.zero_le _⟩

/-- A sensor that is unavailable. -/
def upSensor (id : Nat) : Dev := { up with mgt := { up.mgt with sensors := [(id, ⟨0, 3, true⟩)] } }

theorem witness_SensorsAndUnitsComplete :
    (up.sensorFitted 0x10 = true ∧ sensorPlausible 0x10 1500 = true ∧ sensorPlausible 0x10 1501 = false)
    ∧ (∀ id ∈ ([0x10, 0x1B] : List Nat), ∃ (d : Dev) (x : Sensor), kvGet id d.mgt.sensors = some x ∧ x.unavailable = true
      ∧ 2 + d.ioDies ≤ id ∧ 0x10 ≤ id ∧ id < 0x10 + d.stacks)
    ∧ (∀ id ∈ ([2, 5] : List Nat), ∃ (d : Dev) (x : Sensor), kvGet id d.mgt.sensors = some x ∧ x.unavailable = true ∧ 2 ≤ id
      ∧ id < 2 + d.ioDies)
    ∧ (∃ d : Dev, (d.sensorRead (0x40 + 8) true 900).mgt.regFault.contains 8 = false)
    ∧ (∀ f ∈ ([0, 1] : List Nat), ∃ (d : Dev) (c : Cmd), d.CmdRuns 0 0x0703 c ∧ d.unitPresent (c.par 0 1) = true ∧ unitFixed (c.par 0 1) = false
      ∧ bitAt (c.par 2 1) 0 = (f == 1) ∧ c.par 4 4 = d.rd (Reg.MGT_UNIT.GEN (c.par 0 1)))
    ∧ (∃ (d : Dev) (c : Cmd), d.CmdRuns 0 0x0704 c ∧ d.unitPresent (c.par 0 1) = true) := by
  refine ⟨by decide +kernel, ?_, ?_, ⟨up, by decide +kernel⟩, ?_,
    ⟨_, _, runs (d := upC [cmd 0x0704 [(0, 1, 95)]]) (c := cmd 0x0704 [(0, 1, 95)]) (by decide +kernel), by decide +kernel⟩⟩
  · intro id h
    simp only [List.mem_cons, List.not_mem_nil, or_false] at h
    rcases h with rfl | rfl
    · exact ⟨upSensor 0x10, ⟨0, 3, true⟩, by decide +kernel⟩
    · exact ⟨upSensor 0x1B, ⟨0, 3, true⟩, by decide +kernel⟩
  · intro id h
    simp only [List.mem_cons, List.not_mem_nil, or_false] at h
    rcases h with rfl | rfl
    · exact ⟨upSensor 2, ⟨0, 3, true⟩, by decide +kernel⟩
    · exact ⟨upSensor 5, ⟨0, 3, true⟩, by decide +kernel⟩
  · intro f h
    simp only [List.mem_cons, List.not_mem_nil, or_false] at h
    rcases h with rfl | rfl
    · exact ⟨_, _, runs (d := upC [cmd 0x0703 [(0, 1, 2)]]) (c := cmd 0x0703 [(0, 1, 2)]) (by decide +kernel), by decide +kernel⟩
    · exact ⟨_, _, runs (d := upC [cmd 0x0703 [(0, 1, 2), (2, 1, 1)]]) (c := cmd 0x0703 [(0, 1, 2), (2, 1, 1)]) (by decide +kernel),
        by decide +kernel⟩
theorem witness_HostAccessesComplete :
    up.hostAnswers = true ∧ formBad 0x60003C 1 = false ∧ formBad 0x60003C 2 = true ∧ wideAt 0x600008 = some false ∧ wideAt 0x60000C = some true
    ∧ up.board.domHeld = false ∧ up.ready = true ∧ up.bar2Len (2 ^ 30 - 8) 64 = 8 := by decide +kernel

/-- `up` in a CORE, a context or a function-level reset. -/
def inCore : Dev := up.wr Reg.RST_BUSY.CORE 2
def inCtx : Dev := up.wr Reg.RST_BUSY.CONTEXT 0x8000
def inFlr : Dev := { up with boot := { up.boot with flr := true } }

theorem witness_ResetsComplete :
    (up.hostAnswers = true ∧ up.resetCovered .warm 0 = false ∧ up.resetCovered .cold 0 = false ∧ up.resetCovered .core 1 = false
      ∧ up.resetCovered .context 15 = false ∧ up.pci.link ≠ .down ∧ up.resetCovered .flr 0 = false)
    ∧ (∃ d : Dev, d.board.tripped = false ∧ d.coldRuns = false ∧ d.dbg.pinsTaken = false ∧ fieldAt d.dlDown.cfgLatched 0x18 1 = 1)
    ∧ (up.board.tripped = false ∧ up.coldRuns = false ∧ up.dbg.pinsTaken = false ∧ fieldAt up.dlDown.cfgLatched 0x18 1 ≠ 1
      ∧ up.board.bootFailed = false)
    ∧ (inCore.coreResets 1 = true ∧ inCore.coreClocks = true ∧ inCore.onCore 1 = [] ∧ (inCore.seq.tds.any fun t => t.core == 1) = false)
    ∧ (inFlr.boot.flr = true ∧ (inFlr.cp0.cmds.any fun c => c.phase != .ended) = false)
    ∧ (bitAt (inCtx.rd Reg.RST_BUSY.CONTEXT) 15 = true ∧ inCtx.coreClocks = true
      ∧ (inCtx.cp0.cmds.any fun c => c.ctx == 15 && !(c.ofBatch && c.phase == .ended)) = false) :=
  ⟨by decide +kernel, ⟨{ up with boot := { up.boot with coldCfg := fill 256 [(0x18, 1, 1)] } }, by decide +kernel⟩, by decide +kernel,
    by decide +kernel, by decide +kernel, by decide +kernel⟩

/-- A COLD reset of an assembly at a boot stage; a trial of slot A. -/
def upBoot (st asm : Nat) : Dev :=
  { rst.wr Reg.RST_STATUS.STAGE st with
    boot := { rst.boot with running := some .cold, selA := sealCopy 64 (bytesPut selDefault [(1, 1, 0)]) }
    board := { rst.board with coldHeld := false, assembly := asm } }

theorem witness_BootCompletes :
    ((List.range 9).filter ([] : List Nat).contains = [] ∧ (List.range 9).filter ([8] : List Nat).contains ≠ [])
    ∧ (∃ d : Dev, d.board.coldHeld = true ∧ d.board.pwrgd = true ∧ d.board.railsOut = [])
    ∧ (∃ d : Dev, d.boot.running.isSome = true ∧ d.ready = false ∧ 2 ≤ d.rd Reg.RST_STATUS.STAGE ∧ d.fwTrial < 2)
    ∧ (∀ st ∈ List.range 10, ∃ d : Dev, d.boot.running = some .cold ∧ d.board.coldHeld = false ∧ d.board.refMissing.contains 0 = false
      ∧ d.board.domHeld = false ∧ d.board.tripped = false ∧ d.rd Reg.RST_STATUS.STAGE = st ∧ assemblies.contains d.board.assembly = true)
    ∧ (∃ d : Dev, d.boot.running = some .cold ∧ d.board.coldHeld = false ∧ d.board.refMissing.contains 0 = false
      ∧ d.board.domHeld = false ∧ d.board.tripped = false ∧ d.rd Reg.RST_STATUS.STAGE = 1 ∧ assemblies.contains d.board.assembly = false) := by
  refine ⟨by decide, ⟨{ rst with board := { rst.board with coldHeld := true, pwrgd := true, railsOut := [] } }, by decide +kernel⟩,
    ⟨upBoot 2 0, by decide +kernel⟩, ?_, ⟨upBoot 1 0, by decide +kernel⟩⟩
  intro st h
  refine ⟨upBoot st 0x037004C1, ?_⟩
  revert st
  decide +kernel

theorem witness_RingTraceFirmwareComplete :
    (∃ (d : Dev) (c : Cmd), d.CmdRuns 0 0x0105 c ∧ c.par 9 1 = 1) ∧ (∃ (d : Dev) (c : Cmd), d.CmdRuns 0 0x0105 c ∧ c.par 9 1 = 0)
    ∧ (up.board.tripped = false)
    ∧ (∀ op ∈ ([0, 1, 2] : List Nat), ∃ c : Cmd, (upC [c]).CmdRuns 0 0x0804 c ∧ (upC [c]).rd Reg.DBG_STATUS.OWNER ≠ 2 ∧ c.par 0 1 = op
      ∧ (upC [c]).unitBlocked [domDebug] 0x1703 = none)
    ∧ (∃ (d : Dev) (c : Cmd), d.CmdRuns 0 0x0804 c ∧ (c.par 0 1 = 3 ∧ d.unitBlocked [domDebug] 0x1703 = none)
      ∧ ∃ d', d.write byCp c.ctx (c.par 8 8) (d.traceNewest (c.par 4 4)).flatten = ⟨d', none⟩)
    ∧ (∃ (d : Dev) (c : Cmd), d.RoutineRuns 0 0x0A03 c ∧ (c.total ≠ 0 ∧ c.done < c.total) ∧ ∃ d' c', d.fwChunk c true = (d', .ok c'))
    ∧ (∃ (d : Dev) (c : Cmd), d.CmdRuns 0 0x0A04 c)
    ∧ (∃ (d : Dev) (c : Cmd), d.CmdRuns 0 0x0A05 c ∧ c.par 8 1 = 1
      ∧ ∃ d', d.write byCp c.ctx (c.par 0 8) (d.cfgStored.getD d.cfgDefault) = ⟨d', none⟩)
    ∧ (∃ (d : Dev) (c : Cmd), d.CmdRuns 0 0x0A05 c ∧ c.par 8 1 = 0
      ∧ ∃ b, d.read byCp c.ctx (c.par 0 8) 256 = ⟨(d.read byCp c.ctx (c.par 0 8) 256).dev, .ok b⟩
        ∧ (d.read byCp c.ctx (c.par 0 8) 256).dev.cfgBad b = false) := by
  have q (op : Nat) (c : Cmd) (h : _ = true) : (upC [c]).CmdRuns 0 op c := runs h
  refine ⟨⟨_, _, q _ (cmd 0x0105 [(9, 1, 1)]) (by decide +kernel), by decide +kernel⟩,
    ⟨_, _, q _ (cmd 0x0105 [(0, 8, 0x200000000000)]) (by decide +kernel), by decide +kernel⟩, by decide +kernel, ?_,
    ⟨{ upC [cmd 0x0804 [(0, 1, 3), (4, 4, 1)]] with dbg := { up.dbg with trace := [zeros 32] } }, cmd 0x0804 [(0, 1, 3), (4, 4, 1)],
      runs (by decide +kernel), by decide +kernel, putOk (by decide +kernel)⟩,
    ⟨upC [{ cmd 0x0A03 [(8, 4, 0x10040)] with total := 2, done := 1 }], { cmd 0x0A03 [(8, 4, 0x10040)] with total := 2, done := 1 },
      runsR (by decide +kernel) (by decide +kernel), by decide +kernel, okOf (by decide +kernel)⟩,
    ⟨_, _, q _ (cmd 0x0A04) (by decide +kernel)⟩,
    ⟨_, _, q _ (cmd 0x0A05 [(8, 1, 1)]) (by decide +kernel), by decide +kernel, putOk (by decide +kernel)⟩,
    ⟨(upC [cmd 0x0A05]).poke 0 up.cfgDefault, cmd 0x0A05, runs (by decide +kernel), by decide +kernel, up.cfgDefault, gotIs (by decide +kernel),
      by decide +kernel⟩⟩
  intro op h
  simp only [List.mem_cons, List.not_mem_nil, or_false] at h
  rcases h with rfl | rfl | rfl
  · exact ⟨cmd 0x0804 [(0, 1, 0)], q _ _ (by decide +kernel), by decide +kernel⟩
  · exact ⟨cmd 0x0804 [(0, 1, 1)], q _ _ (by decide +kernel), by decide +kernel⟩
  · exact ⟨cmd 0x0804 [(0, 1, 2)], q _ _ (by decide +kernel), by decide +kernel⟩

/-! ### Management -/

/-- `up` with the endpoint and the event queue as given. -/
def upM (m : Mgt) (es : List Event := []) : Dev := { up with mgt := m, evt := { up.evt with mgmt := es } }

theorem serves {d : Dev} {vdm : Bool} (typ : Nat) (early : Bool) (h : (d.reached vdm && d.booted) = true) :
    d.Serves vdm typ early (d.requestTaken typ) := by
  simp only [Bool.and_eq_true] at h
  exact ⟨h.1, .inl h.2, rfl⟩

theorem witness_EndpointRequestsComplete :
    (∃ (d : Dev) (old : List Byte), d.reached true = true ∧ 5 ∈ ([0, 1, 5] : List Nat) ∧ 0 = d.rd Reg.MGT_STATUS.EID
      ∧ (zeros 64).length ≤ 64 ∧ kvGet (2 * 5 + b2n true) d.mgt.asm = some old ∧ (old ++ zeros 64).length < 4096)
    ∧ (∃ d, up.Serves true mtControl true d ∧ 0xFE ≠ 0 ∧ 0xFE ≠ 0xFF)
    ∧ (∃ d, rst.Serves false mtControl true d) ∧ (∃ d, up.Serves false mtPldm true d ∧ 5 ∈ ([0, 2, 5] : List Nat)) :=
  ⟨⟨upM { up.mgt with asm := [(11, zeros 4031)] }, zeros 4031, by decide +kernel⟩,
    ⟨_, serves _ _ (by decide +kernel), by decide⟩, ⟨_, by decide +kernel, .inr ⟨rfl, rfl⟩, rfl⟩, ⟨_, serves _ _ (by decide +kernel), by decide⟩⟩

/-- A full event. -/
def evt1 : Event := ⟨0x0D03, 1, none, 0, 0, 0, 0, 0, 0, none⟩

theorem witness_PlatformRequestsComplete :
    (∃ (s d : Dev), s.Serves false mtPldm false d ∧ d.mgt.mode = 2 ∧ d.evt.mgmt = [evt1] ∧ 0 < d.pdrCount
      ∧ d.unitPresent (0x15F - 0x100) = true ∧ d.domPresent (0x300 - 0x300) = true ∧ 2 < 3 ∧ ¬ (2 = 1 ∧ false = false))
    ∧ (∀ id ∈ ([0x30, 0x31] : List Nat), ∃ (s d : Dev), s.Serves false mtPldm (s.sensorEarly id) d ∧ d.sensorFitted id = true)
    ∧ (∃ (s d : Dev) (x : Sensor), s.Serves false mtPldm (s.sensorEarly 1) d ∧ d.sensorFitted 1 = true ∧ ¬ (0x30 ≤ 1 ∧ 1 < 0x40)
      ∧ kvGet 1 d.mgt.sensors = some x)
    ∧ (∃ d, rst.Serves false mtPldm (0x200 == 0x200 || decide (5 < rst.rd Reg.RST_STATUS.STAGE)) d)
    ∧ (∃ d, up.Serves false mtPldm (0x100 == 0x200 || decide (5 < up.rd Reg.RST_STATUS.STAGE)) d ∧ d.unitPresent (0x100 - 0x100) = true)
    ∧ (∃ d : Dev, d.evt.mgmt = [evt1] ∧ d.mgt.mode = 1 ∧ d.reached true = true) := by
  refine ⟨⟨upM { up.mgt with mode := 2 } [evt1], _, serves _ _ (by decide +kernel), by decide +kernel⟩, ?_,
    ⟨upM { up.mgt with sensors := [(1, ⟨70, 0, false⟩)] }, _, ⟨70, 0, false⟩, serves _ _ (by decide +kernel), by decide +kernel⟩,
    ⟨_, by decide +kernel, .inr ⟨rfl, rfl⟩, rfl⟩, ⟨_, serves _ _ (by decide +kernel), by decide +kernel⟩,
    ⟨upM { up.mgt with mode := 1 } [evt1], by decide +kernel⟩⟩
  intro id h
  simp only [List.mem_cons, List.not_mem_nil, or_false] at h
  rcases h with rfl | rfl
  · exact ⟨up, _, serves _ _ (by decide +kernel), by decide +kernel⟩
  · exact ⟨up, _, serves _ _ (by decide +kernel), by decide +kernel⟩

/-- A state of the update. -/
def upd1 (state : Nat) (verified : Bool := false) : Update := ⟨true, state, 0, 4096, 1024, [], verified⟩

/-- The device serves PLDM with an update in the given state; or it waits in its boot ROM for one. -/
def upFw (u : Update) : Dev := upM { up.mgt with upd := u }
def upRom (u : Update) : Dev :=
  { (rst.wr Reg.RST_STATUS.FAIL 4) with board := { rst.board with bootFailed := true }, mgt := { rst.mgt with upd := u } }

theorem witness_FirmwareUpdateComplete :
    (∃ d, up.Serves false mtPldm true d ∧ d.mgt.upd.active = false ∧ d.updRefused = false)
    ∧ (∃ (s d : Dev), s.Serves false mtPldm true d ∧ d.updBad [1] = none ∧ d.updBad [1, 2, 3, 4, 5] = none)
    ∧ (∃ (s d : Dev), s.Serves false mtPldm true d ∧ d.updBad [2] = none ∧ d.mgt.upd.verified = true ∧ d.romUpdate = false)
    ∧ (∃ (s d : Dev), s.Serves false mtPldm true d ∧ d.updBad [2] = none ∧ d.mgt.upd.verified = true ∧ d.romUpdate = true)
    ∧ (∃ (s d : Dev), s.Serves false mtPldm true d ∧ d.updBad [3, 4, 5] = none)
    ∧ (∀ last ∈ [false, true], ∃ d : Dev, d.board.tripped = false ∧ d.mgt.upd.state = 3 ∧ d.romUpdate = false
      ∧ (zeros 1024).length = min d.mgt.upd.piece (d.mgt.upd.total - d.mgt.upd.offset) ∧ zeros 1024 ≠ []
      ∧ (decide (d.mgt.upd.offset + (zeros 1024).length = d.mgt.upd.total)) = last)
    ∧ (∃ d : Dev, d.board.tripped = false ∧ d.mgt.upd.state = 3 ∧ d.mgt.upd.offset = d.mgt.upd.total)
    ∧ (∃ d : Dev, d.board.tripped = false ∧ d.mgt.upd.state = 4)
    ∧ (∃ d : Dev, d.board.tripped = false ∧ d.mgt.upd.state = 5 ∧ d.romUpdate = false ∧ d.mgt.upd.active = true ∧ d.mgt.upd.state ≠ 6) := by
  refine ⟨⟨_, serves _ _ (by decide +kernel), by decide +kernel⟩, ⟨upFw (upd1 1), _, serves _ _ (by decide +kernel), by decide +kernel⟩,
    ⟨upFw (upd1 2 true), _, serves _ _ (by decide +kernel), by decide +kernel⟩,
    ⟨upRom (upd1 2 true), _, ⟨by decide +kernel, .inr ⟨rfl, rfl⟩, rfl⟩, by decide +kernel⟩,
    ⟨upFw (upd1 3), _, serves _ _ (by decide +kernel), by decide +kernel⟩, ?_,
    ⟨upFw { upd1 3 with offset := 4096 }, by decide +kernel⟩, ⟨upFw (upd1 4), by decide +kernel⟩, ⟨upFw (upd1 5), by decide +kernel⟩⟩
  intro last h
  cases last
  · exact ⟨upFw (upd1 3), by decide +kernel⟩
  · exact ⟨upFw { upd1 3 with offset := 3072 }, by decide +kernel⟩

theorem witness_AttestationRequestsComplete :
    (∃ (s d : Dev), s.Serves true mtSpdm true d ∧ 3 ≤ d.mgt.spdm ∧ bitAt 0x80 7 = true ∧ bitAt 2 1 = true ∧ bitAt 1 0 = true
      ∧ 5 ∈ ([1, 2, 3, 4, 5] : List Nat).filter fun i => (d.measurement i).isSome)
    ∧ (∃ (s d : Dev), s.Serves true mtSpdm false d ∧ 3 ≤ d.mgt.spdm) :=
  ⟨⟨upM { up.mgt with spdm := 3 }, _, serves _ _ (by decide +kernel), by decide +kernel, by decide +kernel, by decide +kernel,
      by decide +kernel, by simp [Dev.measurement]⟩,
    ⟨upM { up.mgt with spdm := 3 }, _, serves _ _ (by decide +kernel), by decide +kernel⟩⟩

/-! ### Debug -/

/-- `up` at an unlock level, with registers and trace domain as they are. -/
def upH (level : Nat) (d : Dev := up) : Dev := d.wr Reg.DBG_STATUS.LEVEL level

theorem hehus {d : Dev} {level : Nat} (h : (d.hIdle && decide (level ≤ d.rd Reg.DBG_STATUS.LEVEL)) = true) : d.HehusTakes true level := by
  simp only [Bool.and_eq_true, decide_eq_true_eq] at h
  exact ⟨h.1, rfl, h.2⟩

/-- A lodged room, a dump that runs. -/
def upHRoom : Dev := upH 1 (inRoom up [room1 .idle])
def upDump : Dev := { up with dbg := { up.dbg with dump := some ⟨false, 0, 64, []⟩ } }

theorem imageOk {p : Dev × ImageRes} (h : (match p.2 with
    | .ok _ => true
    | _ => false) = true) : ∃ d b, p = (d, .ok b) := by
  obtain ⟨d, r⟩ := p
  cases r with
  | ok b => exact ⟨d, b, rfl⟩
  | bad => cases h
  | fail e => cases h

theorem witness_MonitorCommandsComplete :
    (up.HehusTakes true 0 ∧ (zeros 96).length = 96 ∧ bauds.contains (bauds.getD 0 0) = true
      ∧ ∃ d' n, up.askNonce 1 = (d', .ok n))
    ∧ ((upH 1).HehusTakes true 1 ∧ (0x14 % 4 = 0 ∧ 1 ≤ 1 ∧ 256 ≤ 256) ∧ 4095 < 4096 ∧ (upH 1).dbgHeld soBase = false
      ∧ (upH 1).so.ue.contains 4095 = false ∧ 95 < 96)
    ∧ (∃ d : Dev, d.HehusTakes true 1 ∧ d.dbgHeld soBase = false ∧ d.so.ue.contains 4095 = true)
    ∧ (∃ (d : Dev) (r : Room), d.HehusTakes true 1 ∧ d.innArgs 3 1 = true ∧ d.coreClocks = true ∧ d.room? 3 1 = some r)
    ∧ (∃ (d e : Dev) (r : Room), d.room? 3 1 = some r
      ∧ e = d.sprout (([] : List (Nat × Bool)).filter fun x => touchesWord r.addr (d.roomSize 3) (x.1 / 8 * 8)) ∧ e.HehusTakes true 1
      ∧ e.innArgs 3 1 = true ∧ e.coreClocks = true ∧ e.room? 3 1 = some r ∧ r.state ≠ .busy ∧ r.state ≠ .poisoned ∧ r.bad = false
      ∧ ∃ d' bs, e.innRead (e.classCtx 3) r.addr (e.roomSize 3) = (d', .ok bs))
    ∧ ((upH 2).HehusTakes true 2 ∧ (2 ^ 32 - 4) % 4 = 0 ∧ 0x100000 % 8 = 0 ∧ 8 ≤ 0x100000 ∧ 0x100000 ≤ 0x100000
      ∧ (upH 2).dbgHeld soBase = false ∧ (upH 2).so.ue.contains 4095 = false ∧ 63 < 64 ∧ (upH 2).live = true ∧ 95 < 96
      ∧ (upH 2).rd Reg.DBG_STATUS.OWNER ≠ 1 ∧ 255 < 256 ∧ (upH 2).domOn domDebug = true ∧ (resetOf 0x1F).isSome = true
      ∧ (upH 2).board.tripped = false ∧ (upH 2).board.bootFailed = false) := by
  refine ⟨⟨hehus (by decide +kernel), by decide, by decide, _, _, Prod.ext (by rfl) (by rfl)⟩, ⟨hehus (by decide +kernel), by decide +kernel⟩,
    ⟨{ upH 1 with so := { up.so with ue := [4095] } }, hehus (by decide +kernel), by decide +kernel⟩,
    ⟨upHRoom, room1 .idle, hehus (by decide +kernel), by decide +kernel⟩, ⟨upHRoom, upHRoom, room1 .idle, by decide +kernel, rfl, hehus (by decide +kernel), by decide +kernel, by decide +kernel,
      by decide +kernel, by decide, by decide, by decide, imageOk (by decide +kernel)⟩, ⟨hehus (by decide +kernel), by decide +kernel⟩⟩

theorem witness_MonitorLinesComplete :
    (up.dbg.pinsTaken = false ∧ up.dbg.dump = none) ∧ (upDump.dbg.pinsTaken = false ∧ upDump.dbg.dump ≠ none)
    ∧ ((upH 1).dbg.pinsTaken = false ∧ (upH 1).HehusTakes true 1 ∧ (1 ≤ 0x100000 ∧ 0x100000 ≤ 0x100000) ∧ traceSize ≤ traceSize
      ∧ (upH 1).domOn domDebug = true)
    ∧ (∃ d : Dev, d.dbg.baudNext = some 1) ∧ (∃ d : Dev, d.on Reg.DBG_UNLOCK.BACKOFF = true) :=
  ⟨by decide +kernel, by decide +kernel, ⟨by decide +kernel, hehus (by decide +kernel), by decide +kernel⟩,
    ⟨{ up with dbg := { up.dbg with baudNext := some 1 } }, by decide +kernel⟩, ⟨up.wr Reg.DBG_UNLOCK.BACKOFF 1, by decide +kernel⟩⟩

theorem witness_TapInstructionsComplete :
    (∃ e e' : Dev, ∃ n, e = up.tapSelect 8 ∧ (2 = 1 ∨ 2 = 2) ∧ e.askNonce 2 = (e', .ok n) ∧ e.board.debugDisable = false
      ∧ (zeros 96).length = 96)
    ∧ (∃ e : Dev, e = (upH 2).tapSelect 9 ∧ (2 ^ 32 - 4) % 4 = 0 ∧ 2 ^ 32 - 1 < 2 ^ 32 ∧ 1 ≤ e.rd Reg.DBG_STATUS.LEVEL
      ∧ 2 ≤ e.rd Reg.DBG_STATUS.LEVEL) :=
  ⟨⟨_, _, _, rfl, by decide, Prod.ext (by rfl) (by rfl), by decide +kernel, by decide⟩, ⟨_, rfl, by decide +kernel⟩⟩

/-! ### The whole machine -/

theorem witness_StepKeepsConsistent : ∀ q ∈ ([[], [.idcode]] : List (List Instr)), ∃ t : State,
    (State.mk q rst).Consistent ∧ step ⟨q, rst⟩ = .next t := by
  have h0 : (State.mk [] rst).Consistent :=
    ⟨by unfold Dev.AlertAgrees; decide +kernel, by unfold Dev.PendingAgrees; decide +kernel, by unfold Dev.HoldAgrees; decide +kernel,
      by unfold Dev.WaitersAgree; decide +kernel, by unfold Dev.QueuesAgree; decide +kernel⟩
  have h (q : List Instr) : (State.mk q rst).Consistent := ⟨h0.1, h0.2, h0.3, h0.4, h0.5⟩
  intro q hq
  simp only [List.mem_cons, List.not_mem_nil, or_false] at hq
  rcases hq with rfl | rfl
  · exact ⟨_, h _, rfl⟩
  · exact ⟨_, h _, rfl⟩

theorem witness_InterleavePlacesEachByteOnce : up.stacks ≠ 0 ∧ up.rd Reg.MEM_GLOBAL_CFG.INTERLEAVE ≤ 2
    ∧ 36 * 2 ^ 30 * up.stacks - 1 < 36 * 2 ^ 30 * up.stacks := by decide +kernel

theorem witness_SyncObjectOperations :
    (2 ^ 64 - 1 < 2 ^ 64 ∧ 4095 < 4096) ∧ ∃ d : Dev, (∀ e ∈ d.so.pushes, e.home ≠ 4095) ∧ d.on Reg.DBG_STATUS.TRACING = false :=
  ⟨by decide, ⟨rst, by decide +kernel⟩⟩

theorem witness_TwoCopiesSurviveTearing : ∃ a new : List Byte,
    copyInForce 64 8 a (zeros 64) = some a ∧ copyValid 64 new = true ∧ fieldAt a 8 4 < fieldAt new 8 4 ∧ copyValid 64 (zeros 64) = false :=
  ⟨sealCopy 64 (zeros 64), sealCopy 64 (fill 64 [(8, 4, 1)]), by decide +kernel⟩

theorem witness_StoresReadBack : rst.undef = [] ∧ 8 + 8 ≤ 16 ∧ Memory.wf rst.mem
    ∧ Reg.INN_CE.COUNT.lo + Reg.INN_CE.COUNT.len ≤ 64
    ∧ Reg.RST_STATUS.STAGE.lo + Reg.RST_STATUS.STAGE.len ≤ 64 ∧ Reg.INN_CE.COUNT.reg ≠ Reg.RST_STATUS.STAGE.reg := by
  decide +kernel

theorem witness_HostWindowReachesTheHost : 0 < 64 ∧ 0xFFFC0 + 64 ≤ up.hostWinSize 0 ∧ hostBase + 0xFFFC0 + 64 ≤ hostEnd
    ∧ up.hostReadable = true := by decide +kernel

theorem witness_SettlingTouchesNoData : ∃ d : Dev, d.evt.pending = [] ∧ d.evt.lost = 0 ∧ d.ve = []
    ∧ (∀ c ∈ d.cp0.cmds, c.fin = none) ∧ (∀ p ∈ d.porters, p.1 < 64) :=
  ⟨{ upC [cmd 0x0804] with porters := [(63, run1)] }, by decide +kernel⟩

theorem witness_AlertWriteClearsEnded : 0 < 7 ∧ 6 < 7 := by decide

/-- A unit whose two views are as given. -/
def upUnit (work safety : Nat) : Dev := (up.wr (Reg.MGT_UNIT.WORK 95) work).wr (Reg.MGT_UNIT.SAFETY 95) safety

theorem witness_UnitStateFollowsItsViews : ∀ w < 2, ∀ s < 2,
    (upUnit w s).on (Reg.MGT_UNIT.WORK 95) = (w == 1) ∧ (upUnit w s).on (Reg.MGT_UNIT.SAFETY 95) = (s == 1) := by
  decide +kernel

/-! ### An ill-formed command for each check of Sys2Proof/WellFormed.lean -/

theorem test_ill_formed_1 : (([
    .railOutOfRange 9 0, .railHold 9, .hbmTempRead 12 0, .clkRefLost 3, .clkRefOk 3, .cclkTargetReached 2,
    .clockGovernorEval 2 0 0 false, .policyReleased 5 0, .policyReleased 0 64, .laneWidthEval 32 0 false, .pmbusPoll 9 0 0 false false,
    .sensorUpdate 65536 false 0, .sensorFence 65536, .reg64LowWrite 6 0 0, .reg64HighWrite 6 0 0, .reg64LowRead 6 0, .rcRead 6 0 false,
    .bar2Resize 64, .ctxWindowWrite 16 0 0, .ctxCfgWrite 16 0, .qpConfigWrite 256 0 0, .qpEnable 256 0, .qpDisable 256,
    .sqTailDoorbell 256 0, .cqHeadDoorbell 256 0, .sqFetch 256 0, .msixHoldoffExpiry 64, .msixUnmask 64, .linkUp 7 0 false,
    .linkUp 0 17 false, .poisonedWriteReceived 5 0, .soValueWrite 4096 0 false, .soAddWrite 4096 0 false, .soCfgWrite 4096 0 false,
    .soHeartbeat 4096 0 0, .soHeartbeat 0 4096 0, .soHeartbeat 0 0 4096, .mirrorStale 4096, .broadcastFlip 2, .relayFrontEnter 2
  ] : List Instr).all fun i => !wellFormed i) = true := by decide +kernel

theorem test_ill_formed_2 : (([
    .arrayColumnFault 2 0, .arrayColumnFault 0 192, .veNop 2, .setvl 2, .veLoop 2, .veCopy 2, .vePut 2, .veAdd 2, .veSub 2, .veMul 2,
    .veFma 2, .veFms 2, .veFnma 2, .veMin 2, .veMax 2, .veMinnum 2, .veMaxnum 2, .veAbs 2, .veNeg 2, .copysign 2, .veClamp 2, .lerp 2,
    .mulp2 2, .nrrcp 2, .nrrsq 2, .rint 2, .veCmp 2, .veSel 2, .fclass 2, .veAnd 2, .veOr 2, .veXor 2, .veAndn 2, .veShl 2, .veShr 2,
    .veShra 2, .iadd 2, .isub 2, .imul 2, .icmp 2
  ] : List Instr).all fun i => !wellFormed i) = true := by decide +kernel

theorem test_ill_formed_3 : (([
    .cvtif 2, .cvtfi 2, .rbf16 2, .srbf16 2, .veSfu 2, .sfubas 2, .sfugate 2, .dropm 2, .porterNop 24, .prtCopy 24, .prtFill 24,
    .prtCheck 24, .prtTranspose 24, .remoteWrite 24, .remoteRead 24, .scrubRead 12 0 .clean, .lockExpiry 16 0, .innEviction 16 0 [],
    .pinMoveToHall 16 0, .lookbackStep 0 2, .carryTimeout 0 2, .portSignalDetect 32, .equalizeDone 32 0, .equalizeTimeout 32,
    .alignDone 32 0, .initFlit 32 0 0 [], .initFlit 0 4096 0 [], .initFlit 0 0 32 [], .downRetry 32, .retrainTimeout 32,
    .laneSignalLoss 32 0, .laneSignalLoss 0 16, .fecErrorBurst 32, .flitReceive 32 flit1, .nakReceive 32 0, .nakReceive 0 65536,
    .replayTimer 32, .widthFlit 32 0, .widthFlit 0 5, .fabCreditStall 32 0
  ] : List Instr).all fun i => !wellFormed i) = true := by decide +kernel

theorem test_ill_formed_4 : (([
    .fabCreditStall 0 4, .gapTimeout 16 0, .batchWindowExpiry 16, .srvRegisterWrite 16 0 0, .srvRingHeadWrite 16 0, .domainDrainDone 64,
    .domainPowerDownDone 64, .domainDwellEnd 64, .domainWakeDone 64, .rstCore 16, .rstContext 16, .coreResetForceStop 2,
    .mctpPacket false false 256 0 false false [], .mctpPacket false false 0 128 false false [], .setEndpointId false 256,
    .getPldmVersion false 64, .getPldmCommands false 64, .getSensorReading false 65536, .getStateSensorReadings false 65536,
    .setStateEffecterStates false 65536 0, .setStateEffecterStates false 0 256, .getStateEffecterStates false 65536,
    .setEventReceiver false false 256, .passComponentTable false 65536 0, .passComponentTable false 0 65536,
    .updateComponent false 65536 0 0, .updateComponent false 0 65536 0, .getMeasurements false 256 false, .dbgAuth 4 0 [],
    .dbgAuth 0 4 [], .resetComplete 3 0 [], .resetComplete 0 16 [], .portFlushTimeout 32
  ] : List Instr).all fun i => !wellFormed i) = true := by decide +kernel

/-! ### The worked examples of spec/ -/

/-- 16 R436, test vectors 1 and 2. -/
theorem test_mask_generator : maskGen 0 0 0 0 0 = 0xB5DA3E0DA723BF8B ∧ maskGen 0 0 0 0 1 = 0x89BA050D87B67FE6 := by decide +kernel

/-- 16 R437, the example: SRBF16 rounds down, then up. -/
theorem test_srbf16 : srbf16 0x3F80C000 0xB5DA3E0DA723BF8B = 0x3F800000 ∧ srbf16 0x3F80C200 0xB5DA3E0DA723BF8B = 0x3F810000 := by
  decide +kernel

/-- 06 R168 and 15 R394: the check values over the ASCII bytes 123456789. -/
theorem test_crc : crc64 [0x31, 0x32, 0x33, 0x34, 0x35, 0x36, 0x37, 0x38, 0x39] = 0x995DC9BBDF1939FA
    ∧ crc32 [0x31, 0x32, 0x33, 0x34, 0x35, 0x36, 0x37, 0x38, 0x39] = 0xCBF43926 := by decide +kernel

/-- 03 R63, the example: three assemblies and granules. -/
theorem test_interleave :
    (up.stackOf 0x45800 = 7 ∧ up.withinStack 0x45800 = 0x5800)
    ∧ ((up.wr Reg.MEM_GLOBAL_CFG.INTERLEAVE 2).stackOf 0x45800 = 10 ∧ (up.wr Reg.MEM_GLOBAL_CFG.INTERLEAVE 2).withinStack 0x45800 = 0x5800)
    ∧ ((up.wr Reg.CTL_ASSEMBLY.STACKS 6).stackOf 0x45800 = 1 ∧ (up.wr Reg.CTL_ASSEMBLY.STACKS 6).withinStack 0x45800 = 0xB800) := by
  decide +kernel

/-- 07 R191, the example: a BARRIER of 3 that holds generation 5 and 2 arrivals. -/
theorem test_barrier : soResult 1 3 false 0x500000002 1 false = (0x600000000, false)
    ∧ soResult 1 3 false 0x500000002 2 false = (0x600000001, false) := by decide

/-- 16 R428: stage 1 of 3 with 3 micro-batches runs F0, F1, B0, F2, B1, B2. -/
theorem test_one_forward_one_backward :
    ttOrder 3 1 3 = [(false, 0), (false, 1), (true, 0), (false, 2), (true, 1), (true, 2)] := by decide

/-- 08 R237, the example: K of 512 allows 2,048 rows. -/
theorem test_run_rows : runRows 512 = 2048 := by decide

/-- 09, the fused epilogue: SETVL, SFUBAS with its operands ACC, S0, K0, output O0 and slot 2, LOOP. -/
theorem test_ve_words : veOp 0x05800000 = 0x01 ∧ veOp 0x08000000 = 0x02
    ∧ (veOp 0xE5888202, veA 0xE5888202, veB 0xE5888202, veC 0xE5888202, veOut 0xE5888202, veMod 0xE5888202) = (0x39, 12, 8, 16, 1, 2) := by
  decide

/-- 12, the example after R327: the CCLK of a problem. -/
theorem test_solver_cclk :
    (((⟨0, 0, 0, 16, fill 64 [(0x34, 2, 4), (0x36, 1, 4)]⟩ : Slv).steps.map SlvStep.cclk).sum = 13560)
    ∧ (((⟨0, 0, 2, 256, fill 64 [(0x34, 2, 32)]⟩ : Slv).steps.map SlvStep.cclk).sum = 659904) := by
  decide +kernel

/-- 17 R462, the example: the 1,000th clean FLIP raises E from 13 to 14; the SKIP after it takes it back. -/
theorem test_scale_exponent :
    let r := { ledRec0 with scaleE := 13, clean := 999 }
    let d := (rst.wr Reg.LEDG_SCALE_CFG.MAX 24)
    (d.ledAfter voCommit r).scaleE = 14 ∧ (d.ledAfter voCommit r).clean = 0
      ∧ (d.ledAfter voSkip (d.ledAfter voCommit r)).scaleE = 13 := by decide +kernel

/-- 22, the worked example: the entry of SEQ 9,120. -/
theorem test_event_entry :
    let b := eventBytes ⟨0x0D01, 3, none, 9120, 0, 0, 0, 0, 0, none⟩ true false false 3 7 0 0x45800
    b.length = 32 ∧ b.take 4 = [0x01, 0x0D, 0x03, 0x01]
      ∧ b.drop 16 = [0x03, 0x07, 0, 0, 0, 0, 0, 0, 0x00, 0x58, 0x04, 0, 0, 0, 0, 0] := by decide +kernel

/-- 23, the worked example: RST_STATUS 0x50C is READY 0, STAGE 6, FAIL 5; the revision is 1. -/
theorem test_boot_status :
    let d := rst.setReg Reg.RST_STATUS.READY.reg 0x50C
    d.ready = false ∧ d.rd Reg.RST_STATUS.STAGE = 6 ∧ d.rd Reg.RST_STATUS.FAIL = 5 ∧ revisionId = 1 ∧ tapIdcode = 0x10880567 := by
  decide +kernel

/-- 03, the example after R85: context 3 with a read-only window 0 and a window 1 to write. -/
def up3 : Dev :=
  (((up.setReg (Reg.CTX_HBM_WIN_LO.EN 3 0).reg 0x1000000003).setReg (Reg.CTX_HBM_WIN_HI.LAST 3 0).reg 0x107FFF0000).setReg
    (Reg.CTX_HBM_WIN_LO.EN 3 1).reg 0x1100000007).setReg (Reg.CTX_HBM_WIN_HI.LAST 3 1).reg 0x113FFF0000

theorem test_window_example :
    up3.firstRefused 3 false 0x107FE00000 0x400000 = some (0x1080000000, 0x0301)
    ∧ (up3.violation 3 byCp 0x1080000000 0x0301).reg (Reg.CTX_WIN_LAST.ADDR 3).reg = 0x0301001080000000
    ∧ up3.firstRefused 3 true 0x1000000000 0x1000 = some (0x1000000000, 0x0302)
    ∧ up3.firstRefused 3 false 0x107FE00000 0x200000 = none ∧ up3.firstRefused 3 true 0x1100000000 0x200000 = none := by decide +kernel

/-- 02 R33: the code of the assembly says 12 stacks and 4 I/O dies. -/
theorem test_assembly_code : up.stacks = 12 ∧ up.ioDies = 4 ∧ up.ports = 32 := by decide +kernel

end Sys2Proof.Tests
end

