-- ==== Sys2Proof/Proofs/StoredData.lean ====
section
/-!
PROOFS. What is stored in device memory and in register fields reads back, and nothing else changes.
-/
namespace Sys2Proof.Machine

/-! ### Device memory without undefined ranges -/

/-- Where no range has undefined contents, a read gives what memory holds. -/
theorem Dev.peek_of_defined {d : Dev} (h : d.undef = []) (a n : Nat) : d.peek a n = memGetList d.mem a n := by
  simp [Dev.peek, h]

/-- A store leaves no range with undefined contents where there was none. -/
theorem Dev.poke_undef_of_defined {d : Dev} (h : d.undef = []) (a : Nat) (bs : List Byte) : (d.poke a bs).undef = [] := by
  simp [Dev.poke, h]

/-- What a store writes, a read of the same place gives. -/
theorem Dev.peek_poke_self {d : Dev} (h : d.undef = []) (a : Nat) (bs : List Byte) : (d.poke a bs).peek a bs.length = bs := by
  rw [Dev.peek_of_defined (Dev.poke_undef_of_defined h a bs)]
  exact memGetList_memPutList d.mem a bs

/-- A store leaves the bytes outside it alone. -/
theorem Dev.peek_poke_out {d : Dev} (h : d.undef = []) {a x n : Nat} {bs : List Byte} (hx : x + n ≤ a ∨ a + bs.length ≤ x) :
    (d.poke a bs).peek x n = d.peek x n := by
  rw [Dev.peek_of_defined (Dev.poke_undef_of_defined h a bs), Dev.peek_of_defined h]
  exact memGetList_memPutList_out hx

/-- Settles O9: the laws of device memory and of register fields, put together. -/
theorem storesReadBack : Obligations.StoresReadBack := by
  refine ⟨fun d a bs hd => ⟨?same, ?outside, Dev.poke_wf a bs⟩, fun d f v hf => ⟨Dev.rd_wr_self hf d v, ?beside⟩⟩
  case same => exact Dev.peek_poke_self hd a bs
  case outside => exact fun x n hx => Dev.peek_poke_out hd hx
  case beside => exact fun g hg hne => Dev.rd_wr_disjoint hg hne d v

end Sys2Proof.Machine
end

