-- ==== Sys2Proof/Proofs/HostAccesses.lean ====
section
/-!
PROOFS. The rows of BAR0 and BAR2: what each does on a device that answers the host, once its own guard lets it through.
-/
namespace Sys2Proof.Machine

/-! ### The meaning of each row -/

theorem exec_bar0Write (off : Nat) (dwords : List (Word × Bool)) (s : State) :
    exec (.bar0Write off dwords) s = execBar0Write off dwords s := by rfl

theorem exec_reg64LowWrite (issuer off : Nat) (v : Word) (s : State) :
    exec (.reg64LowWrite issuer off v) s = execReg64LowWrite issuer off v s := by rfl

theorem exec_reg64LowRead (issuer off : Nat) (s : State) :
    exec (.reg64LowRead issuer off) s = execReg64LowRead issuer off s := by rfl

theorem exec_reg64HighWrite (issuer off : Nat) (v : Word) (s : State) :
    exec (.reg64HighWrite issuer off v) s = execReg64HighWrite issuer off v s := by rfl

theorem exec_rcRead (issuer off : Nat) (wide : Bool) (s : State) :
    exec (.rcRead issuer off wide) s = execRcRead issuer off wide s := by rfl

theorem exec_ctxWindowWrite (ctx off : Nat) (v : QWord) (s : State) :
    exec (.ctxWindowWrite ctx off v) s = execCtxWindowWrite ctx off v s := by rfl

theorem exec_bar2Read (off len : Nat) (s : State) : exec (.bar2Read off len) s = execBar2Read off len s := by rfl

theorem exec_bar2Write (off : Nat) (data : List Byte) (s : State) :
    exec (.bar2Write off data) s = execBar2Write off data s := by rfl

/-! ### Guards -/

/-- A meaning whose effect on the device is known answers the state after that effect. -/
theorem State.run_of_effect {s : State} {f : Dev → Dev} {d : Dev} (h : f s.dev = d) : s.run f = .next (s.after d) := by
  rw [State.run_after, h]

/-- A device that answers, with no clock held, serves its registers once it is READY or under an FLR. -/
theorem Dev.hostRegsServed_of_answers {d : Dev} (ha : d.hostAnswers = true) (hc : d.board.domHeld = false)
    (hr : d.ready = true ∨ d.boot.flr = true) : d.hostRegsServed = true := by
  rcases hr with hr | hr <;> simp [Dev.hostRegsServed, ha, hc, hr]

/-! ### The rows on a device that answers -/

section Answers
variable {s : State} (ha : s.dev.hostAnswers = true)
include ha

/-- A well-formed BAR0_WRITE writes its full dwords in ascending order and counts the partial ones (R68). -/
theorem exec_bar0Write_of_wellFormed {off : Nat} {dwords : List (Word × Bool)} (hf : formBad off dwords.length = false) :
    exec (.bar0Write off dwords) s = .next (s.after (s.dev.forEach dwords.zipIdx fun ((v, full), i) d =>
      if full then d.dwordWrite 0 (off + 4 * i) v.toNat else d.barError Reg.HOST_BAR_ERR.PARTIAL 0 (off + 4 * i))) := by
  have hok : ¬ formBad off dwords.length = true := by simp [hf]
  exact (exec_bar0Write ..).trans <| State.run_of_effect ((if_neg (by simp [ha])).trans (if_neg hok))

/-- An ill-formed BAR0_WRITE is refused whole, counted, and reported through AER as a Completer Abort (R68). -/
theorem exec_bar0Write_of_formBad {off : Nat} {dwords : List (Word × Bool)} (hf : formBad off dwords.length = true) :
    exec (.bar0Write off dwords) s = .next (s.after ((s.dev.barError Reg.HOST_BAR_ERR.FORM 0 off).emit (.aer 0))) :=
  (exec_bar0Write ..).trans <| State.run_of_effect ((if_neg (by simp [ha])).trans (if_pos hf))

theorem exec_reg64LowWrite_of_low (issuer : Nat) {off : Nat} (v : Word) (hw : wideAt off = some false) :
    exec (.reg64LowWrite issuer off v) s = .next (s.after (s.dev.dwordWrite issuer off v.toNat)) :=
  (exec_reg64LowWrite ..).trans <| State.run_of_effect (if_pos (by simp [ha, hw]))

theorem exec_reg64LowRead_of_low (issuer : Nat) {off : Nat} (hw : wideAt off = some false) :
    exec (.reg64LowRead issuer off) s = .next (s.after (s.dev.readOut issuer off false)) :=
  (exec_reg64LowRead ..).trans <| State.run_of_effect (if_pos (by simp [ha, hw]))

theorem exec_reg64HighWrite_of_high (issuer : Nat) {off : Nat} (v : Word) (hw : wideAt off = some true) :
    exec (.reg64HighWrite issuer off v) s = .next (s.after (s.dev.dwordWrite issuer off v.toNat)) :=
  (exec_reg64HighWrite ..).trans <| State.run_of_effect (if_pos (by simp [ha, hw]))

/-- Only the host's own reads are held to the form of R68. -/
theorem exec_rcRead_of_wellFormed {issuer off : Nat} {wide : Bool} (hf : issuer ≠ 0 ∨ formBad off (if wide then 2 else 1) = false) :
    exec (.rcRead issuer off wide) s = .next (s.after (s.dev.readOut issuer off wide)) := by
  have hok : ¬ (issuer = 0 ∧ formBad off (if wide then 2 else 1) = true) := by
    rintro ⟨hi, hbad⟩
    rcases hf with hf | hf
    · exact hf hi
    · simp [hf] at hbad
  exact (exec_rcRead ..).trans <| State.run_of_effect ((if_neg (by simp [ha])).trans (if_neg hok))

theorem exec_ctxWindowWrite_of_served (ctx off : Nat) (v : QWord) (hc : s.dev.board.domHeld = false)
    (hr : s.dev.ready = true ∨ s.dev.boot.flr = true) :
    exec (.ctxWindowWrite ctx off v) s = .next (s.after (s.dev.windowWrite ctx off v.toNat)) :=
  (exec_ctxWindowWrite ..).trans <| State.run_of_effect (if_pos (Dev.hostRegsServed_of_answers ha hc hr))

/-- A BAR2_READ that the BAR decodes at least a byte of is cut to what it decodes (R71). -/
theorem exec_bar2Read_of_decoded {off len : Nat} (hl : s.dev.bar2Len off len ≠ 0) :
    exec (.bar2Read off len) s = .next (s.after (s.dev.bar2Read off (s.dev.bar2Len off len))) :=
  (exec_bar2Read ..).trans <| State.run_of_effect (if_neg (by simp [ha, hl]))

theorem exec_bar2Write_of_decoded {off : Nat} {data : List Byte} (hl : s.dev.bar2Len off data.length ≠ 0) :
    exec (.bar2Write off data) s = .next (s.after (s.dev.bar2Write off (s.dev.bar2Len off data.length) data)) :=
  (exec_bar2Write ..).trans <| State.run_of_effect (if_neg (by simp [ha, hl]))

end Answers

/-- Settles O50, row by row. -/
theorem hostAccessesComplete : Obligations.HostAccessesComplete := by
  intro s ha
  refine ⟨?bar0, ?bar0Bad, ?low, ?high, ?read, ?window, ?bar2Read, ?bar2Write⟩
  case bar0 => exact fun _ _ hf => exec_bar0Write_of_wellFormed ha hf
  case bar0Bad => exact fun _ _ hf => exec_bar0Write_of_formBad ha hf
  case low => exact fun issuer _ v hw => ⟨exec_reg64LowWrite_of_low ha issuer v hw, exec_reg64LowRead_of_low ha issuer hw⟩
  case high => exact fun issuer _ v hw => exec_reg64HighWrite_of_high ha issuer v hw
  case read => exact fun _ _ _ hf => exec_rcRead_of_wellFormed ha hf
  case window => exact fun ctx off v hc hr => exec_ctxWindowWrite_of_served ha ctx off v hc hr
  case bar2Read => exact fun _ _ hl => exec_bar2Read_of_decoded ha hl
  case bar2Write => exact fun _ _ hl => exec_bar2Write_of_decoded ha hl

end Sys2Proof.Machine
end

