-- ==== Sys2Proof/Proofs/BootSequence.lean ====
section
/-!
PROOFS. The boot: SYS_PWRGD and the junction, the trial of an image, and how each boot stage ends once nothing holds it.
-/
namespace Sys2Proof.Machine

/-! ### The meaning of each row -/

theorem exec_sysPwrgdRise (missing : List Nat) (cold : Bool) (s : State) :
    exec (.sysPwrgdRise missing cold) s = execSysPwrgdRise missing cold s := by rfl

theorem exec_junctionWarmRelease (s : State) : exec .junctionWarmRelease s = execJunctionWarmRelease s := by rfl

theorem exec_trialTimeout (s : State) : exec .trialTimeout s = execTrialTimeout s := by rfl

theorem exec_bootStageDone (bad0 bad1 : List Nat) (s : State) :
    exec (.bootStageDone bad0 bad1) s = execBootStageDone bad0 bad1 s := by rfl

/-! ### SYS_PWRGD, the junction and the trial -/

/-- With every rail there, the junction alone decides whether the COLD reset waits (02 R42). -/
theorem Dev.powerGood_of_railsPresent {missing : List Nat} (h : (List.range 9).filter missing.contains = []) (d : Dev) (cold : Bool) :
    d.powerGood missing cold = { d with board := { d.board with coldHeld := cold } } :=
  if_pos (List.isEmpty_iff.mpr h)

/-- A rail that is missing stops the boot: the device is held in COLD reset with FAIL 1, RAIL_MISSING (02 R40; 20 R541). -/
theorem Dev.powerGood_of_railMissing {missing : List Nat} (h : (List.range 9).filter missing.contains ≠ []) (d : Dev) (cold : Bool) :
    let rails := (List.range 9).filter missing.contains
    let e : Dev := { d with board := { d.board with coldHeld := true, railsOut := rails } }
    d.powerGood missing cold = ((e.forEach rails fun r d => d.reportRail r).alert Reg.MGT_ALERT_STATUS.RAIL).bootFail 1 :=
  if_neg (mt List.isEmpty_iff.mp h)

/-- SYS_PWRGD begins a COLD reset, whatever runs, before the rails and the junction are judged. -/
theorem exec_sysPwrgdRise_powerGood (missing : List Nat) (cold : Bool) (s : State) :
    exec (.sysPwrgdRise missing cold) s = .next (s.after ((s.dev.coldReset 1).powerGood missing cold)) :=
  (exec_sysPwrgdRise ..).trans (State.run_after ..)

theorem exec_junctionWarmRelease_of_coldHeld {s : State} (hheld : s.dev.board.coldHeld = true) (hgood : s.dev.board.pwrgd = true)
    (hrails : s.dev.board.railsOut = []) :
    exec .junctionWarmRelease s = .next (s.after { s.dev with board := { s.dev.board with coldHeld := false } }) :=
  (exec_junctionWarmRelease s).trans <| State.run_of_effect (if_pos (by simp [hheld, hgood, hrails]))

theorem exec_trialTimeout_of_late {s : State} (hboot : s.dev.boot.running.isSome = true ∨ s.dev.board.bootFailed = true)
    (hready : s.dev.ready = false) (hstage : 2 ≤ s.dev.rd Reg.RST_STATUS.STAGE) (htrial : s.dev.fwTrial < 2) :
    exec .trialTimeout s = .next (s.after (s.dev.trialFail s.dev.fwTrial)) :=
  (exec_trialTimeout s).trans <| State.run_of_effect (if_pos (by simp [hboot, hready, hstage, htrial]))

/-! ### The boot stages (20 R539) -/

/-- A reset boots and neither the junction, a missing REFCLK_CORE, a held clock nor a thermal trip holds it. -/
structure Dev.BootProceeds (d : Dev) (kind : ResetKind) : Prop where
  running : d.boot.running = some kind
  warm    : d.board.coldHeld = false
  refclk  : d.board.refMissing.contains 0 = false
  clocked : d.board.domHeld = false
  noTrip  : d.board.tripped = false

/-- What the end of stage `st` does when nothing holds the boot: BOOT_STAGE_DONE past its guards. -/
def Dev.bootStageEnd (d : Dev) (kind : ResetKind) (bad0 bad1 : List Nat) (st : Nat) : Dev :=
  match st with
  | 0 => d.wr Reg.RST_STATUS.STAGE 1
  | 1 => if assemblies.contains d.board.assembly then d.wr Reg.RST_STATUS.STAGE 2 else d.bootFail 2
  | 2 => if bad0.isEmpty then d.wr Reg.RST_STATUS.STAGE 3 else d.bootFail 3
  | 3 => d.bootSelect
  | 4 => d.bootConfig.wr Reg.RST_STATUS.STAGE 5
  | 5 => if bad0.isEmpty then d.wr Reg.RST_STATUS.STAGE 6 else d.bootFail 6
  | 6 =>
    if (List.range d.stacks).all fun k => !bad0.contains k then (d.bootHbm bad0).wr Reg.RST_STATUS.STAGE 7
    else (d.bootHbm bad0).bootFail 5
  | 7 => ((d.columnTest 0 bad0).columnTest 1 bad1).wr Reg.RST_STATUS.STAGE 8
  | 8 => d.bootUnits.wr Reg.RST_STATUS.STAGE 9
  | _ => d.bootFabric.bootReady kind

/-- The device of a boot that proceeds changes as the stage in progress ends. -/
theorem exec_bootStageDone_of_stageEnd {s : State} {kind : ResetKind} (h : s.dev.BootProceeds kind)
    {bad0 bad1 : List Nat} {st : Nat} {d : Dev} (hst : s.dev.rd Reg.RST_STATUS.STAGE = st) (hd : s.dev.bootStageEnd kind bad0 bad1 st = d) :
    exec (.bootStageDone bad0 bad1) s = .next (s.after d) := by
  have effect : execBootStageDone bad0 bad1 s = .next (s.after (s.dev.bootStageEnd kind bad0 bad1 (s.dev.rd Reg.RST_STATUS.STAGE))) := by
    refine State.run_of_effect ?_
    simp only [h.running, h.warm, h.refclk, h.clocked, h.noTrip, Bool.or_self, Bool.false_eq_true, if_false]
    rfl
  rw [exec_bootStageDone, effect, hst, hd]

section StageEnds
variable {d : Dev} {kind : ResetKind} {bad0 bad1 : List Nat}

/-- Stage FUSES goes on with a fused value of 02 R33. -/
theorem Dev.bootStageEnd_fuses (ha : assemblies.contains d.board.assembly = true) :
    d.bootStageEnd kind bad0 bad1 1 = d.wr Reg.RST_STATUS.STAGE 2 :=
  if_pos ha

/-- Stage FUSES fails with ASSEMBLY on any other value. -/
theorem Dev.bootStageEnd_fuses_of_unknown (ha : assemblies.contains d.board.assembly = false) :
    d.bootStageEnd kind bad0 bad1 1 = d.bootFail 2 :=
  if_neg (ne_true_of_eq_false ha)

/-- Stage FLASH fails with FLASH_ABSENT when the part lacks a feature. -/
theorem Dev.bootStageEnd_flash_of_lacking (hbad : bad0 ≠ []) : d.bootStageEnd kind bad0 bad1 2 = d.bootFail 3 :=
  if_neg (mt List.isEmpty_iff.mp hbad)

/-- Stage HBM goes on when no stack fails its training. -/
theorem Dev.bootStageEnd_hbm : d.bootStageEnd kind [] bad1 6 = (d.bootHbm []).wr Reg.RST_STATUS.STAGE 7 :=
  if_pos (List.all_eq_true.mpr fun _ _ => rfl)

/-- Stage FABRIC, the last, ends in READY. -/
theorem Dev.bootStageEnd_fabric {st : Nat} (hst : 9 ≤ st) : d.bootStageEnd kind bad0 bad1 st = d.bootFabric.bootReady kind := by
  obtain ⟨n, rfl⟩ := Nat.exists_eq_add_of_le' hst
  rfl

end StageEnds

/-- Settles O52: SYS_PWRGD, the junction, the late trial, and the boot stage by stage. -/
theorem bootCompletes : Obligations.BootCompletes := by
  refine ⟨?powerGood, ?junction, ?trial, ?stages⟩
  case powerGood =>
    rintro s missing cold d rfl
    exact ⟨fun hr => by rw [exec_sysPwrgdRise_powerGood, Dev.powerGood_of_railsPresent hr],
      fun hr => by rw [exec_sysPwrgdRise_powerGood, Dev.powerGood_of_railMissing hr]⟩
  case junction => exact fun _ hheld hgood hrails => exec_junctionWarmRelease_of_coldHeld hheld hgood hrails
  case trial => exact fun _ hboot hready hstage htrial => exec_trialTimeout_of_late hboot hready hstage htrial
  case stages =>
    intro s kind bad0 bad1 hrun hwarm href hclk htrip
    have h : s.dev.BootProceeds kind := ⟨hrun, hwarm, href, hclk, htrip⟩
    refine ⟨?power, ?fuses, ?fusesBad, ?flash, ?flashBad, ?signature, ?bootCfg, ?cpStart, ?hbm, ?columnTest, ?units, ?fabric⟩
    case fuses => exact fun hst ha => exec_bootStageDone_of_stageEnd h hst (Dev.bootStageEnd_fuses ha)
    case fusesBad => exact fun hst ha => exec_bootStageDone_of_stageEnd h hst (Dev.bootStageEnd_fuses_of_unknown ha)
    case flashBad => exact fun hst hbad => exec_bootStageDone_of_stageEnd h hst (Dev.bootStageEnd_flash_of_lacking hbad)
    case hbm => exact fun hst => exec_bootStageDone_of_stageEnd h hst Dev.bootStageEnd_hbm
    case fabric => exact fun hst => exec_bootStageDone_of_stageEnd h rfl (Dev.bootStageEnd_fabric hst)
    case power | flash | signature | bootCfg | cpStart | columnTest | units =>
      exact fun hst => exec_bootStageDone_of_stageEnd h hst rfl

end Sys2Proof.Machine
end

