-- ==== Sys2Proof/Proofs/ContextWindows.lean ====
section
/-!
PROOFS. The window registers of the contexts: every page is laid out like the first, and at reset all of it is 0 and every window closed.
-/
namespace Sys2Proof.Machine

/-! ### Finding a register by its offset -/

/-- How far `x` lies past the start of the element of an array that it falls in: `n` elements, `s` apart. -/
def pastElement (n s x : Nat) : Nat := x - min (x / s) (n - 1) * s

theorem pastElement_of_stride_zero (n x : Nat) : pastElement n 0 x = x := by simp [pastElement]

/-- Inside one of the elements, the distance from its start. -/
theorem pastElement_of_index {n s i y : Nat} (hi : i < n) (hy : y < s) : pastElement n s (i * s + y) = y := by
  have hdiv : (i * s + y) / s = i := by
    rw [Nat.mul_comm, Nat.mul_add_div (Nat.zero_lt_of_lt hy), Nat.div_eq_of_lt hy, Nat.add_zero]
  rw [pastElement, hdiv, Nat.min_eq_left (Nat.le_sub_one_of_lt hi), Nat.add_sub_cancel_left]

/-- No element starts later than the last one. -/
theorem le_pastElement_add (n s x : Nat) : x ≤ pastElement n s x + (n - 1) * s := by
  have := Nat.mul_le_mul_right s (Nat.min_le_right (x / s) (n - 1))
  unfold pastElement
  omega

/-- How far an offset lies past the start of the register that it falls in. -/
def RegDesc.past (r : RegDesc) (off : Nat) : Nat := pastElement r.n2 r.s2 (pastElement r.n1 r.s1 (off - r.base))

/-- An array of registers holds the offsets that fall inside the bytes of one of them. -/
theorem RegDesc.isSome_hit (r : RegDesc) (off : Nat) :
    (r.hit off).isSome = decide (r.base ≤ off ∧ r.past off < if r.wide then 8 else 4) := by
  have hindex (x s n : Nat) : x - (if s = 0 then 0 else min (x / s) (n - 1)) * s = pastElement n s x := by
    unfold pastElement
    split <;> simp [*]
  unfold RegDesc.hit RegDesc.past
  simp only [hindex]
  by_cases hb : off < r.base
  · simp [hb]
  · simp [hb, Nat.le_of_not_lt hb, apply_ite Option.isSome]

theorem RegDesc.width_le (r : RegDesc) : (if r.wide then 8 else 4) ≤ 8 := by split <;> decide

/-- Nothing that starts after the last register of an array is the array's. -/
theorem RegDesc.hit_eq_none_of_beyond {r : RegDesc} {off : Nat}
    (h : r.base + (r.n1 - 1) * r.s1 + (r.n2 - 1) * r.s2 + 8 ≤ off) : r.hit off = none := by
  have hpast : 8 ≤ r.past off := by
    have hrow := le_pastElement_add r.n1 r.s1 (off - r.base)
    have helem := le_pastElement_add r.n2 r.s2 (pastElement r.n1 r.s1 (off - r.base))
    unfold RegDesc.past
    omega
  have hwidth := r.width_le
  rw [← Option.isNone_iff_eq_none, ← Option.not_isSome, RegDesc.isSome_hit, Bool.not_eq_true', decide_eq_false_iff_not]
  omega

/-- The search passes over the registers that an offset misses. -/
theorem findReg_append_of_miss {off : Nat} {l : List RegDesc} (h : ∀ r ∈ l, r.hit off = none) (l' : List RegDesc) :
    findReg off (l ++ l') = findReg off l' := by
  induction l with
  | nil => rfl
  | cons r l ih =>
    obtain ⟨hr, hl⟩ := List.forall_mem_cons.1 h
    simp only [List.cons_append, findReg, hr, ih hl]

/-- The search finds the first register that holds the offset. -/
theorem findReg_map_fst (off : Nat) (l : List RegDesc) :
    (findReg off l).map Prod.fst = l.find? fun r => (r.hit off).isSome := by
  induction l with
  | nil => rfl
  | cons r l ih => cases h : r.hit off <;> simp [findReg, h, ih]

/-! ### The window registers (03 R78) -/

/-- Where the window registers begin: the page of context 0. -/
def windowBase : Nat := 0x600000

/-- The HOST registers from `windowBase` on. -/
def windowRegs : List RegDesc := regTableHost.drop 31

/-- From the first page to the end of the HOST block only window registers are found. -/
theorem regAt_eq_findReg_windowRegs {off : Nat} (hlo : windowBase ≤ off) (hhi : off < 0x800000) :
    regAt off = findReg off windowRegs := by
  have hbefore : ∀ r ∈ regTableHost.take 31, r.base + (r.n1 - 1) * r.s1 + (r.n2 - 1) * r.s2 + 8 ≤ windowBase := by decide
  have hblock : regTableOf off = regTableHost := by
    unfold windowBase at hlo
    unfold regTableOf
    rw [if_neg, if_neg, if_neg, if_neg, if_pos hhi] <;> omega
  rw [regAt, hblock, ← List.take_append_drop 31 regTableHost]
  exact findReg_append_of_miss (fun r hr => RegDesc.hit_eq_none_of_beyond ((hbefore r hr).trans hlo)) _

/-- The window registers have one element per context, 4 KiB apart and inside the context's page; some have an index of their own in
the page, the others use the second index of the table for the context. -/
def RegDesc.InPages (r : RegDesc) : Prop :=
  windowBase ≤ r.base ∧
    (r.n1 = 16 ∧ r.s1 = 0x1000 ∧ r.base + (r.n2 - 1) * r.s2 + 8 ≤ windowBase + 0x1000
      ∨ r.s1 = 0 ∧ r.n2 = 16 ∧ r.s2 = 0x1000 ∧ r.base + 8 ≤ windowBase + 0x1000)

theorem windowRegs_inPages : ∀ r ∈ windowRegs, r.InPages := by
  unfold RegDesc.InPages
  decide

/-- What begins in the first page and stays in it, repeated by page, is met at the same offsets of every page. -/
theorem page_repeats {p b w c o : Nat} {g : Nat → Nat} (hb : p ≤ b) (hb' : b ≤ p + 0x1000)
    (hg : ∀ y, p + 0x1000 ≤ b + y → w ≤ g y) (hc : c < 16) (ho : o < 0x1000) :
    (b ≤ p + c * 0x1000 + o ∧ g (pastElement 16 0x1000 (p + c * 0x1000 + o - b)) < w)
      ↔ (b ≤ p + o ∧ g (pastElement 16 0x1000 (p + o - b)) < w) := by
  by_cases hin : b ≤ p + o
  · have hpage : p + c * 0x1000 + o - b = c * 0x1000 + (p + o - b) := by omega
    have hsame := pastElement_of_index (n := 16) hc (show p + o - b < 0x1000 by omega)
    have hfirst := pastElement_of_index (n := 16) (i := 0) (by decide) (show p + o - b < 0x1000 by omega)
    rw [Nat.zero_mul, Nat.zero_add] at hfirst
    rw [hpage, hsame, hfirst]
    omega
  · refine iff_of_false (fun ⟨hle, hlt⟩ => ?_) (fun h => hin h.1)
    have hpage : p + c * 0x1000 + o - b = (c - 1) * 0x1000 + (p + 0x1000 + o - b) := by omega
    have hbeyond : w ≤ g (p + 0x1000 + o - b) := hg _ (by omega)
    rw [hpage, pastElement_of_index (by omega) (by omega)] at hlt
    exact absurd hlt (Nat.not_lt.2 hbeyond)

/-- A window register holds an offset of a context's page exactly when it holds that offset of the first page. -/
theorem RegDesc.InPages.isSome_hit {r : RegDesc} (h : r.InPages) {c o : Nat} (hc : c < 16) (ho : o < 0x1000) :
    (r.hit (windowBase + c * 0x1000 + o)).isSome = (r.hit (windowBase + o)).isSome := by
  obtain ⟨hb, ⟨hn, hs, hfit⟩ | ⟨hs, hn, hs2, hfit⟩⟩ := h
  · have hpast (y : Nat) (hy : windowBase + 0x1000 ≤ r.base + y) : (if r.wide then 8 else 4) ≤ pastElement r.n2 r.s2 y := by
      have := le_pastElement_add r.n2 r.s2 y
      have := r.width_le
      omega
    simp only [RegDesc.isSome_hit, RegDesc.past, hn, hs, decide_eq_decide]
    exact page_repeats (g := pastElement r.n2 r.s2) hb (by omega) hpast hc ho
  · have hpast (y : Nat) (hy : windowBase + 0x1000 ≤ r.base + y) : (if r.wide then 8 else 4) ≤ y := by
      have := r.width_le
      omega
    simp only [RegDesc.isSome_hit, RegDesc.past, hs, hn, hs2, pastElement_of_stride_zero, decide_eq_decide]
    exact page_repeats (g := id) hb (by omega) hpast hc ho

/-- Every context's page holds the registers of the first page, at the same offsets. -/
theorem regAt_page {c o : Nat} (hc : c < 16) (ho : o < 0x1000) :
    (regAt (windowBase + c * 0x1000 + o)).map Prod.fst = (regAt (windowBase + o)).map Prod.fst := by
  have hhi : windowBase + c * 0x1000 + o < 0x800000 := by unfold windowBase; omega
  rw [regAt_eq_findReg_windowRegs (by omega) hhi, regAt_eq_findReg_windowRegs (by omega) (by omega)]
  rw [findReg_map_fst, findReg_map_fst]
  exact List.find?_congr fun r hr => (windowRegs_inPages r hr).isSome_hit hc ho

/-! ### The windows at reset -/

/-- No register from the first page to the end of the HOST block has a reset value other than 0. -/
theorem regReset_window {off : Nat} (hlo : windowBase ≤ off) (hhi : off < 0x800000) : regReset off = 0 := by
  have hbefore : ∀ r ∈ regResetHost, r.base + (r.n1 - 1) * r.s1 + (r.n2 - 1) * r.s2 + 8 ≤ windowBase := by decide
  have hmiss : findReg off regResetHost = none := by
    rw [← List.append_nil regResetHost]
    exact findReg_append_of_miss (fun r hr => RegDesc.hit_eq_none_of_beyond ((hbefore r hr).trans hlo)) []
  unfold windowBase at hlo
  have hblock : regResetOf off = regResetHost := by
    unfold regResetOf
    rw [if_neg (by omega), if_pos hhi]
  unfold regReset
  rw [if_neg (by omega), if_neg (by omega), if_neg (by omega), hblock, hmiss]

theorem reset_reg_window {off : Nat} (hlo : windowBase ≤ off) (hhi : off < 0x800000) : State.reset.dev.reg off = 0 := by
  have hfused : kvGet off State.reset.dev.regs = none := by
    unfold windowBase at hlo
    have h (k : Nat) (hk : k < 0x600000 ∨ 0x800000 ≤ k) : off ≠ k := by omega
    simp [State.reset, devReset, kvGet, h]
  rw [Dev.reg, hfused]
  exact regReset_window hlo hhi

/-- Every field of a window register reads 0 at reset. -/
theorem reset_rd_window {f : Fld} (h : windowBase ≤ f.reg ∧ f.reg < 0x800000) : State.reset.dev.rd f = 0 := by
  rw [Dev.rd, reset_reg_window h.1 h.2, bits, Nat.zero_div, Nat.zero_mod]

section Closed
variable {c : Nat} (hc : c < 16)
include hc

theorem reset_hbmWin {w : Nat} (hw : w < 16) : State.reset.dev.hbmWin c w = none := by
  have hen : State.reset.dev.rd (Reg.CTX_HBM_WIN_LO.EN c w) = 0 :=
    reset_rd_window (by simp only [Reg.CTX_HBM_WIN_LO.EN, windowBase]; omega)
  simp [Dev.hbmWin, Dev.on, hen]

theorem reset_spmWin {core : Nat} (hcore : core < 2) : State.reset.dev.spmWin c core = none := by
  have hsize : State.reset.dev.rd (Reg.CTX_SPM.SIZE_U c core) = 0 :=
    reset_rd_window (by simp only [Reg.CTX_SPM.SIZE_U, windowBase]; omega)
  simp [Dev.spmWin, hsize]

theorem reset_soAllowed (n : Nat) : State.reset.dev.soAllowed c n = false := by
  have hcount : State.reset.dev.rd (Reg.CTX_SO.COUNT c) = 0 :=
    reset_rd_window (by simp only [Reg.CTX_SO.COUNT, windowBase]; omega)
  simp [Dev.soAllowed, hcount]

theorem reset_hostWinSize : State.reset.dev.hostWinSize c = 0 := by
  have hsize : State.reset.dev.rd (Reg.CTX_HOST_SIZE.SIZE c) = 0 :=
    reset_rd_window (by simp only [Reg.CTX_HOST_SIZE.SIZE, windowBase]; omega)
  simp [Dev.hostWinSize, hsize]

/-- A register of the first page stands in every context's page, and is 0 there at reset. -/
theorem windowRegister_of_firstPage {o : Nat} {wide : Bool} {flds : List FieldDesc} (ho : o < 0x1000)
    (h : ((regAt (windowBase + o)).map Prod.fst).map (fun r => (r.wide, r.flds)) = some (wide, flds)) :
    ((regAt (windowBase + c * 0x1000 + o)).map fun x => (x.1.wide, x.1.flds)) = some (wide, flds)
      ∧ State.reset.dev.reg (windowBase + c * 0x1000 + o) = 0 := by
  rw [← regAt_page hc ho, Option.map_map] at h
  exact ⟨h, reset_reg_window (by omega) (by unfold windowBase; omega)⟩

end Closed

/-- Settles O3: the table of R78 is read off the page of context 0, which the other contexts repeat. -/
theorem contextWindowRegisters : Obligations.ContextWindowRegisters := by
  intro c hc page reads0
  have hreads {o : Nat} {wide : Bool} {flds : List FieldDesc} (ho : o < 0x1000)
      (h : ((regAt (windowBase + o)).map Prod.fst).map (fun r => (r.wide, r.flds)) = some (wide, flds)) : reads0 o wide flds :=
    windowRegister_of_firstPage hc ho h
  refine ⟨fun w hw => ⟨?hbmLo, ?hbmHi, reset_hbmWin hc hw⟩, fun core hcore => ⟨?spm, reset_spmWin hc hcore⟩,
    ?so, reset_soAllowed hc, ?fab, ?hostBase, ?hostSize, reset_hostWinSize hc, ?winStatus, ?winLast⟩
  case hbmLo => exact hreads (by omega) (by decide +revert)
  case hbmHi => exact hreads (by omega) (by decide +revert)
  case spm => exact hreads (by omega) (by decide +revert)
  case so | fab | hostBase | hostSize | winStatus | winLast => exact hreads (by decide) (by decide)

end Sys2Proof.Machine
end

