-- ==== Sys2Proof/Proofs/HostWindow.lean ====
section
/-!
PROOFS. The host window of the address map: a granted access of a context goes to host memory.
-/
namespace Sys2Proof.Machine

/-! ### The host window (03 R60, R80) -/

/-- CTL_ASSEMBLY counts the stacks in four bits, so HBM ends below the host window. -/
theorem Dev.hbmTop_le_hostBase (d : Dev) : d.hbmTop ≤ hostBase := by
  have hstacks : d.stacks < 16 := Nat.mod_lt _ (by decide)
  unfold Dev.hbmTop gib hostBase
  omega

theorem Dev.region_of_hostWindow {a : Nat} (hlo : hostBase ≤ a) (hhi : a < hostEnd) (d : Dev) : d.region a = .host := by
  have hhbm := d.hbmTop_le_hostBase
  have hpast {lo hi : Nat} (h : hi ≤ hostBase) : ¬ (lo ≤ a ∧ a < hi) := by omega
  rw [Dev.region, if_neg (by omega), if_neg (hpast (by decide)), if_neg (hpast (by decide)), if_neg (hpast (by decide)),
    if_neg (hpast (by decide)), if_neg (hpast (by decide)), if_pos ⟨hlo, hhi⟩]

/-- A byte of the host window below CTX_HOST_SIZE is granted, to a read and to a write. -/
theorem Dev.byteVerdict_of_hostWindow {d : Dev} {c a : Nat} (hlo : hostBase ≤ a) (hhi : a < hostEnd)
    (hwin : a - hostBase < d.hostWinSize c) (wr : Bool) : d.byteVerdict c wr a = 0 := by
  simp [Dev.byteVerdict, Dev.region_of_hostWindow hlo hhi, hwin]

/-- A range whose bytes are all granted has no refused byte. -/
theorem Dev.firstRefused_of_granted {d : Dev} {c a n : Nat} {wr : Bool} (hn : 0 < n)
    (h : ∀ b, a ≤ b → b < a + n → d.byteVerdict c wr b = 0) : d.firstRefused c wr a n = none := by
  have hnone : (a :: (d.winBreaks c).filter fun b => decide (a < b) && decide (b < a + n)).filter
      (fun b => d.byteVerdict c wr b != 0) = [] := by
    refine List.filter_eq_nil_iff.2 fun b hb => ?_
    have hrange : a ≤ b ∧ b < a + n := by
      rcases List.mem_cons.1 hb with rfl | hb
      · omega
      · have := (List.mem_filter.1 hb).2
        simp at this
        omega
    simp [h b hrange.1 hrange.2]
  unfold Dev.firstRefused
  simp only [hnone]

theorem Dev.windowCheck_of_granted {d : Dev} {c a n : Nat} {wr : Bool} (hn : 0 < n)
    (h : ∀ b, a ≤ b → b < a + n → d.byteVerdict c wr b = 0) (who : Issuer) : d.windowCheck who c wr a n = ⟨d, none⟩ := by
  rw [Dev.windowCheck, Dev.firstRefused_of_granted hn h]

section HostAccess
variable {d : Dev} {c x n : Nat} (hn : 0 < n) (hwin : x + n ≤ d.hostWinSize c) (hend : hostBase + x + n ≤ hostEnd)
include hn hwin hend

theorem Dev.windowCheck_of_hostWindow (who : Issuer) (wr : Bool) : d.windowCheck who c wr (hostBase + x) n = ⟨d, none⟩ :=
  Dev.windowCheck_of_granted hn (fun _ _ _ => Dev.byteVerdict_of_hostWindow (by omega) (by omega) (by omega) wr) who

/-- A granted read of the host window answers host memory from CTX_HOST_BASE + x on. -/
theorem Dev.read_of_hostWindow (hpath : d.hostReadable = true) (who : Issuer) :
    d.read who c (hostBase + x) n = ⟨d, .ok (memGetList d.hostMem (d.hostAddr c (hostBase + x)) n)⟩ := by
  have hregion : d.region (hostBase + x) = .host := Dev.region_of_hostWindow (by omega) (by omega) d
  rw [Dev.read, if_neg (by omega), Dev.windowCheck_of_hostWindow hn hwin hend]
  simp [hregion, hpath]

/-- A granted write to the host window stores at CTX_HOST_BASE + x. -/
theorem Dev.write_of_hostWindow (hpath : d.hostReadable = true) (who : Issuer) {bs : List Byte} (hbs : bs.length = n) :
    d.write who c (hostBase + x) bs = ⟨d.hostWrite .output (d.hostAddr c (hostBase + x)) bs none, none⟩ := by
  have hregion : d.region (hostBase + x) = .host := Dev.region_of_hostWindow (by omega) (by omega) d
  have hne : ¬ bs.isEmpty = true := by
    rw [List.isEmpty_iff_length_eq_zero]
    omega
  rw [Dev.write, if_neg hne, hbs, Dev.windowCheck_of_hostWindow hn hwin hend]
  simp [hregion, hpath]

end HostAccess

theorem Dev.hostAddr_hostBase_add (d : Dev) (c x : Nat) :
    d.hostAddr c (hostBase + x) = d.rd (Reg.CTX_HOST_BASE.BASE c) * 0x1000 + x := by
  rw [Dev.hostAddr, Nat.add_sub_cancel_left]

/-- Settles O10: the window grants the range, and the access goes to the host address. -/
theorem hostWindowReachesTheHost : Obligations.HostWindowReachesTheHost := by
  intro d who c x n h hn hwin hend hpath haddr
  rw [haddr, ← Dev.hostAddr_hostBase_add]
  exact ⟨Dev.read_of_hostWindow hn hwin hend hpath who, fun bs hbs => Dev.write_of_hostWindow hn hwin hend hpath who hbs⟩

end Sys2Proof.Machine
end

