-- ==== Sys2Proof/Proofs/HostSignals.lean ====
section
/-!
PROOFS. What the host side signals to the device: MSI-X, failed host reads, poisoned writes, the size of BAR2.
-/
namespace Sys2Proof.Machine

/-! ### The meaning of each row -/

theorem exec_msixHoldoffExpiry (v : Nat) (s : State) : exec (.msixHoldoffExpiry v) s = execMsixHoldoffExpiry v s := by rfl

theorem exec_msixUnmask (v : Nat) (s : State) : exec (.msixUnmask v) s = execMsixUnmask v s := by rfl

theorem exec_hostReadTimeout (slot : Nat) (s : State) : exec (.hostReadTimeout slot) s = execHostReadTimeout slot s := by rfl

theorem exec_hostReadError (slot : Nat) (poisoned : Bool) (s : State) :
    exec (.hostReadError slot poisoned) s = execHostReadError slot poisoned s := by rfl

theorem exec_poisonedWriteReceived (bar off : Nat) (s : State) :
    exec (.poisonedWriteReceived bar off) s = execPoisonedWriteReceived bar off s := by rfl

theorem exec_bar2Resize (log2 : Nat) (s : State) : exec (.bar2Resize log2) s = execBar2Resize log2 s := by rfl

/-! ### Failed host reads (04 R105) -/

section FailRunning
variable {d : Dev} {slot : Nat} {c : Cmd} (hcmd : d.cmd? slot = some c) (hphase : c.phase = .running) (hbatch : c.ofBatch = false)
  (hop : c.opcode ≠ 0x0410)
include hcmd hphase hbatch hop

/-- A failure of a running command that has no descriptor at work ends the command. -/
theorem Dev.failRunning_of_noTd (htd : ((d.cmdTds slot).find? fun t => t.started && !t.finished) = none) (f : Fail) :
    d.failRunning slot f = d.endCmd slot f.major f.detail c.stopResult := by
  unfold Dev.failRunning
  simp [hcmd, hphase, hbatch, hop, htd]

/-- A failure of a running command that has a descriptor at work fails the descriptor. -/
theorem Dev.failRunning_of_td {t : Td} (htd : ((d.cmdTds slot).find? fun t => t.started && !t.finished) = some t) (f : Fail) :
    d.failRunning slot f = d.failTd t.id f := by
  unfold Dev.failRunning
  simp [hcmd, hphase, hbatch, hop, htd]

end FailRunning

/-- The failures of a host read, each by its detail: a timeout, poisoned data, an unsupported request or completer abort. -/
theorem exec_hostRead_of_failRunning {s : State} {slot : Nat} {e : Nat → Dev}
    (h : ∀ detail, s.dev.failRunning slot ⟨0x0E, detail, 0⟩ = e detail) :
    exec (.hostReadTimeout slot) s = .next (s.after (e 0x0401))
      ∧ exec (.hostReadError slot true) s = .next (s.after (e 0x0402))
      ∧ exec (.hostReadError slot false) s = .next (s.after (e 0x0403)) :=
  ⟨(exec_hostReadTimeout ..).trans <| State.run_of_effect (h _), (exec_hostReadError ..).trans <| State.run_of_effect (h _),
    (exec_hostReadError ..).trans <| State.run_of_effect (h _)⟩

/-! ### The rows without a command -/

theorem exec_msixHoldoffExpiry_of_unsignalled {s : State} {v n : Nat} (h : kvGet v s.dev.pci.unsignalled = some n) :
    exec (.msixHoldoffExpiry v) s = .next (s.after (s.dev.messageDue v)) :=
  (exec_msixHoldoffExpiry ..).trans <| State.run_of_effect (if_pos (by simp [h]))

theorem exec_msixUnmask_of_notTripped {s : State} (h : s.dev.board.tripped = false) (v : Nat) :
    exec (.msixUnmask v) s = .next (s.after (s.dev.wr (Reg.MSIX_CTL.MASK v) 0).sendPending) :=
  (exec_msixUnmask ..).trans <| State.run_of_effect (if_neg (by simp [h]))

theorem exec_bar2Resize_of_legal {s : State} {log2 : Nat} (hlo : 30 ≤ log2) (hhi : log2 ≤ 39) (hlink : s.dev.pci.link ≠ .down) :
    exec (.bar2Resize log2) s = .next (s.after { s.dev with pci := { s.dev.pci with bar2Log2 := log2 } }) :=
  (exec_bar2Resize ..).trans <| State.run_of_effect (if_pos ⟨hlo, hhi, hlink⟩)

/-- Settles O15, row by row. -/
theorem hostSignalCommandsComplete : Obligations.HostSignalCommandsComplete := by
  refine ⟨?holdoff, ?unmask, ?readCmd, ?readTd, ?poisoned, ?resize⟩
  case holdoff => exact fun _ _ _ h => exec_msixHoldoffExpiry_of_unsignalled h
  case unmask => exact fun _ v h => exec_msixUnmask_of_notTripped h v
  case readCmd =>
    intro s slot c hcmd hphase hbatch hop htd
    exact exec_hostRead_of_failRunning (e := fun detail => s.dev.endCmd slot 0x0E detail c.stopResult)
      fun _ => Dev.failRunning_of_noTd hcmd hphase hbatch hop htd _
  case readTd =>
    intro s slot c t hcmd hphase hbatch hop htd
    exact exec_hostRead_of_failRunning (e := fun detail => s.dev.failTd t.id ⟨0x0E, detail, 0⟩)
      fun _ => Dev.failRunning_of_td hcmd hphase hbatch hop htd _
  case poisoned => exact fun s _ _ => (exec_poisonedWriteReceived ..).trans (State.run_after s _)
  case resize => exact fun _ _ hlo hhi hlink => exec_bar2Resize_of_legal hlo hhi hlink

end Sys2Proof.Machine
end

