-- ==== Sys2Proof/Proofs/DerivedStatus.lean ====
section
/-!
PROOFS. The status that follows from other state agrees with it after every command, and while the block idles.
-/
namespace Sys2Proof.Machine

/-! ### Loops over a list whose members are known -/

/-- What every round of a loop keeps for the members of its list, the loop keeps. -/
theorem Dev.forEach_keeps_of_mem {α : Type} (P : Dev → Prop) {f : α → Dev → Dev} {l : List α} (hf : ∀ a ∈ l, ∀ d, P d → P (f a d))
    {d : Dev} (h : P d) : P (d.forEach l f) := by
  induction l generalizing d with
  | nil => exact h
  | cons a l ih => exact ih (fun b hb => hf b (List.mem_cons_of_mem a hb)) (hf a List.mem_cons_self d h)

/-- What one round of a loop brings about and every round keeps, holds after the loop. -/
theorem Dev.forEach_reaches {α : Type} (P : Dev → Prop) {f : α → Dev → Dev} {l : List α} {a : α} (ha : a ∈ l) (hset : ∀ d, P (f a d))
    (hkeep : ∀ b ∈ l, ∀ d, P d → P (f b d)) (d : Dev) : P (d.forEach l f) := by
  obtain ⟨l₁, l₂, rfl⟩ := List.append_of_mem ha
  unfold Dev.forEach
  rw [List.foldl_append, List.foldl_cons]
  exact Dev.forEach_keeps_of_mem P (fun b hb => hkeep b (by simp [hb])) (hset _)

/-! ### The task queues (06 R172) -/

/-- SEQ_TQ_STATUS.DEPTH of one queue counts its descriptors. -/
def Dev.DepthAgrees (core q : Nat) (d : Dev) : Prop :=
  d.rd (Reg.SEQ_TQ_STATUS.DEPTH core q) = (d.queueTds core q).length % 2 ^ (Reg.SEQ_TQ_STATUS.DEPTH core q).len

/-- The queues agree when each does. -/
theorem Dev.queuesAgree_iff (d : Dev) : d.QueuesAgree ↔ ∀ core < 2, ∀ q < 4, d.DepthAgrees core q := Iff.rfl

theorem Dev.settleQueue_depthAgrees (core q : Nat) (d : Dev) : (d.settleQueue core q).DepthAgrees core q := by
  rw [Dev.DepthAgrees, Dev.settleQueue_depth, Dev.queueTds_sameButRegs (d.settleQueue_sameButRegs core q)]

/-- The status registers of the four queues of a core do not overlap, nor with those of the other core. -/
theorem depth_reg_injective {core core' q q' : Nat} (hq : q < 4) (hq' : q' < 4)
    (h : (Reg.SEQ_TQ_STATUS.DEPTH core q).reg = (Reg.SEQ_TQ_STATUS.DEPTH core' q').reg) : core = core' ∧ q = q' := by
  simp only [Reg.SEQ_TQ_STATUS.DEPTH] at h
  omega

/-- Bringing one queue up to date leaves every queue that agrees in agreement. -/
theorem Dev.DepthAgrees.settleQueue {core core' q q' : Nat} (hq : q < 4) (hq' : q' < 4) {d : Dev} (h : d.DepthAgrees core q) :
    (d.settleQueue core' q').DepthAgrees core q := by
  by_cases hreg : (Reg.SEQ_TQ_STATUS.DEPTH core q).reg = (Reg.SEQ_TQ_STATUS.DEPTH core' q').reg
  · obtain ⟨rfl, rfl⟩ := depth_reg_injective hq hq' hreg
    exact d.settleQueue_depthAgrees core q
  · rw [Dev.DepthAgrees, Dev.settleQueue_rd_ne hreg, Dev.queueTds_sameButRegs (d.settleQueue_sameButRegs core' q')]
    exact h

theorem Dev.settleQueues_agree (d : Dev) : d.settleQueues.QueuesAgree := by
  rw [Dev.queuesAgree_iff]
  intro core hcore q hq
  have hcore' : core ∈ [0, 1] := by simp; omega
  have hq' : q ∈ [0, 1, 2, 3] := by simp; omega
  have hlt : ∀ q' ∈ [0, 1, 2, 3], q' < 4 := by decide
  have hkeep (core' : Nat) : ∀ q' ∈ [0, 1, 2, 3], ∀ d : Dev, d.DepthAgrees core q → (d.settleQueue core' q').DepthAgrees core q :=
    fun q' hmem _ h => h.settleQueue hq (hlt q' hmem)
  refine Dev.forEach_reaches (Dev.DepthAgrees core q) hcore' ?set ?keep d
  case set => exact Dev.forEach_reaches _ hq' (Dev.settleQueue_depthAgrees core q) (hkeep core)
  case keep => exact fun core' _ _ h => Dev.forEach_keeps_of_mem _ (hkeep core') h

/-! ### Waits, events, held writes, ALERT_N (07 R204; 22 R590; 04 R109; 21 R563) -/

theorem Dev.settleWaiters_agree (d : Dev) : d.settleWaiters.WaitersAgree := Dev.rd_wr_self (by decide) d _

theorem Dev.settleEvents_agree (d : Dev) : d.settleEvents.PendingAgrees := Dev.rd_wr_self (by decide) d _

theorem Dev.settleHold_agree (d : Dev) : d.settleHold.HoldAgrees := by
  refine ⟨?holding, ?used, ?full⟩
  case holding => exact Dev.on_wr_self (by decide) (by decide) _ _
  case used =>
    exact calc d.settleHold.rd Reg.HOST_HOLD_STATUS.USED
      _ = _ := Dev.rd_wr_ne (by decide) _ _
      _ = _ := Dev.rd_wr_disjoint (by decide) (by decide) _ _
      _ = _ := Dev.rd_wr_self (by decide) _ _
  case full =>
    exact calc d.settleHold.on Reg.HOST_HOLD_STATUS.FULL
      _ = _ := congrArg (· != 0) (Dev.rd_wr_ne (by decide) _ _)
      _ = _ := Dev.on_wr_self (by decide) (by decide) _ _

theorem Dev.settlePin_agree (d : Dev) : d.settlePin.AlertAgrees := d.settlePin_alertLow.trans d.settlePin_alertWanted.symm

/-! ### Later writes keep an agreement -/

theorem Dev.QueuesAgree.wr {d : Dev} (h : d.QueuesAgree) {f : Fld} (hne : f.reg < 0x800000 ∨ 0x1000000 ≤ f.reg) (v : Nat) :
    (d.wr f v).QueuesAgree := by
  intro core hcore q hq
  have hdepth : (Reg.SEQ_TQ_STATUS.DEPTH core q).reg ≠ f.reg := by
    simp only [Reg.SEQ_TQ_STATUS.DEPTH]
    omega
  exact (Dev.rd_wr_ne hdepth d v).trans (h core hcore q hq)

theorem Dev.WaitersAgree.wr {d : Dev} (h : d.WaitersAgree) {f : Fld} (hne : Reg.SO_STATUS.WAITERS.reg ≠ f.reg) (v : Nat) :
    (d.wr f v).WaitersAgree := (Dev.rd_wr_ne hne d v).trans h

theorem Dev.PendingAgrees.wr {d : Dev} (h : d.PendingAgrees) {f : Fld} (hne : Reg.ERR_EVT_PENDING.COUNT.reg ≠ f.reg) (v : Nat) :
    (d.wr f v).PendingAgrees := (Dev.rd_wr_ne hne d v).trans h

theorem Dev.QueuesAgree.settleHold {d : Dev} (h : d.QueuesAgree) : d.settleHold.QueuesAgree :=
  ((h.wr (by decide) _).wr (by decide) _).wr (by decide) _

theorem Dev.WaitersAgree.settleHold {d : Dev} (h : d.WaitersAgree) : d.settleHold.WaitersAgree :=
  ((h.wr (by decide) _).wr (by decide) _).wr (by decide) _

theorem Dev.PendingAgrees.settleHold {d : Dev} (h : d.PendingAgrees) : d.settleHold.PendingAgrees :=
  ((h.wr (by decide) _).wr (by decide) _).wr (by decide) _

theorem Dev.QueuesAgree.settlePin {d : Dev} (h : d.QueuesAgree) : d.settlePin.QueuesAgree := h

theorem Dev.WaitersAgree.settlePin {d : Dev} (h : d.WaitersAgree) : d.settlePin.WaitersAgree := h

theorem Dev.PendingAgrees.settlePin {d : Dev} (h : d.PendingAgrees) : d.settlePin.PendingAgrees := h

theorem Dev.HoldAgrees.settlePin {d : Dev} (h : d.HoldAgrees) : d.settlePin.HoldAgrees := h

/-! ### All of them -/

theorem Dev.settleStatus_queuesAgree (d : Dev) : d.settleStatus.QueuesAgree := by
  have hwaiters : d.settleQueues.settleWaiters.QueuesAgree := d.settleQueues_agree.wr (by decide) _
  have hevents : d.settleQueues.settleWaiters.settleEvents.QueuesAgree := hwaiters.wr (by decide) _
  exact hevents.settleHold.settlePin

theorem Dev.settleStatus_waitersAgree (d : Dev) : d.settleStatus.WaitersAgree := by
  have hevents : d.settleQueues.settleWaiters.settleEvents.WaitersAgree := (Dev.settleWaiters_agree _).wr (by decide) _
  exact hevents.settleHold.settlePin

theorem Dev.settleStatus_pendingAgrees (d : Dev) : d.settleStatus.PendingAgrees := (Dev.settleEvents_agree _).settleHold.settlePin

/-- A device whose status has been brought up to date makes a consistent state. -/
theorem State.consistent_of_settled {s : State} {d : Dev} (h : s.dev = d.settle) : s.Consistent := by
  obtain ⟨e, he⟩ : ∃ e : Dev, s.dev = e.settleStatus := ⟨_, h⟩
  constructor <;> rw [he]
  case alert => exact Dev.settlePin_agree _
  case pending => exact e.settleStatus_pendingAgrees
  case hold => exact (Dev.settleHold_agree _).settlePin
  case waiters => exact e.settleStatus_waitersAgree
  case queues => exact e.settleStatus_queuesAgree

/-- Device time takes part in no derived status. -/
theorem State.Consistent.idle {s : State} (h : s.Consistent) : State.Consistent { s with dev := s.dev.idle } :=
  ⟨h.alert, h.pending, h.hold, h.waiters, h.queues⟩

/-! ### What a step can do -/

/-- Every command runs an effect on the device. -/
theorem exec_eq_run (c : Instr) (s : State) : ∃ f : Dev → Dev, exec c s = s.run f := by
  unfold exec
  split <;> exact ⟨_, rfl⟩

/-- A step passes time on an empty queue, and else takes the oldest command and settles what its effect leaves. -/
theorem step_cases {s t : State} (h : step s = .next t) :
    t = { s with dev := s.dev.idle } ∨ ∃ (c : Instr) (rest : List Instr) (d : Dev),
      s.pending = c :: rest ∧ t = { s with pending := rest, dev := d.settle } := by
  unfold step at h
  split at h
  case h_1 => exact .inl (Host.Outcome.next.inj h).symm
  case h_2 c rest hq =>
    obtain ⟨f, hf⟩ := exec_eq_run c { s with pending := rest }
    exact .inr ⟨c, rest, f s.dev, hq, (Host.Outcome.next.inj (hf.symm.trans h)).symm⟩

/-- Settles O4: an idle step leaves what the derived status depends on, and every command settles it. -/
theorem stepKeepsConsistent : Obligations.StepKeepsConsistent := by
  intro s t hs h
  rcases step_cases h with rfl | ⟨_, _, _, _, rfl⟩
  · exact hs.idle
  · exact State.consistent_of_settled rfl

end Sys2Proof.Machine
end

