-- ==== Sys2Proof/Proofs/SettledData.lean ====
section
/-!
PROOFS. Bringing derived status up to date leaves data alone: it writes status registers, pins, and what the units keep of work that
is gone.
-/
namespace Sys2Proof.Machine

/-! ### The same data -/

/-- The device differs at most in registers, pins, waits for sync objects and what porters, arrays and VE runs keep, and the values of
sync objects are the same. -/
structure Dev.SameData (d e : Dev) : Prop where
  stores  : { d with regs := e.regs, board := e.board, so := e.so, porters := e.porters, arr := e.arr, ve := e.ve } = e
  soValue : ∀ n < 4096, e.soValue n = d.soValue n

theorem Dev.SameData.refl (d : Dev) : d.SameData d := ⟨rfl, fun _ _ => rfl⟩

theorem Dev.SameData.trans {a b c : Dev} (h : a.SameData b) (g : b.SameData c) : a.SameData c := by
  refine ⟨?stores, fun n hn => (g.soValue n hn).trans (h.soValue n hn)⟩
  case stores => rw [← g.stores, ← h.stores]

section Keeps
variable {d e : Dev} (h : d.SameData e)
include h

/-- A write of a register that is no object's value. -/
theorem Dev.SameData.setReg {off : Nat} (hoff : off < 0x1C00000 ∨ 0x1C10000 ≤ off) (v : Nat) : d.SameData (e.setReg off v) := by
  refine h.trans ⟨rfl, fun n hn => ?_⟩
  have hvalue : (Reg.SO_VALUE.VALUE n).reg ≠ off := by
    simp only [Reg.SO_VALUE.VALUE]
    omega
  rw [Dev.soValue, Dev.rd, Dev.reg_setReg_ne hvalue, ← Dev.rd, ← Dev.soValue]

theorem Dev.SameData.wr {f : Fld} (hf : f.reg < 0x1C00000 ∨ 0x1C10000 ≤ f.reg) (v : Nat) : d.SameData (e.wr f v) := h.setReg hf _

/-- The registers of a core stand 0x400000 above those of the core before. -/
theorem Dev.SameData.wrOfCore {core base : Nat} {f : Fld} (hcore : core < 2) (hf : f.reg = base + 0x400000 * core)
    (hbase : base < 0x1000000) (v : Nat) : d.SameData (e.wr f v) := h.wr (.inl (by omega)) v

theorem Dev.SameData.setArr (core : Nat) (a : Arr) : d.SameData (e.setArr core a) := h.trans ⟨rfl, fun _ _ => rfl⟩

theorem Dev.SameData.dropWaits (p : WaitWho → Bool) : d.SameData (e.dropWaits p) := h.trans ⟨rfl, fun _ _ => rfl⟩

theorem Dev.SameData.withPorters (l : KV PorterRun) : d.SameData { e with porters := l } := h.trans ⟨rfl, fun _ _ => rfl⟩

theorem Dev.SameData.withVe (l : KV VeRun) : d.SameData { e with ve := l } := h.trans ⟨rfl, fun _ _ => rfl⟩

theorem Dev.SameData.settlePin : d.SameData e.settlePin := h.trans ⟨rfl, fun _ _ => rfl⟩

/-! ### What settling runs -/

theorem Dev.SameData.arrRelease {core : Nat} (hcore : core < 2) : d.SameData (e.arrRelease core) := by
  refine Dev.forEach_keeps_of_mem d.SameData (fun b hb x hx => ?_) (h.setArr core _)
  have hblock : 0x810100 + 0x400000 * core + 0x8 * b < 0x1C00000 := by
    have := List.mem_range.1 hb
    omega
  exact (hx.wr (.inl hblock) 0).wr (.inl hblock) 0

theorem Dev.SameData.settleQueue {core q : Nat} (hcore : core < 2) (hq : q < 4) : d.SameData (e.settleQueue core q) := by
  have hreg : (Reg.SEQ_TQ_STATUS.DEPTH core q).reg < 0x1C00000 := by
    simp only [Reg.SEQ_TQ_STATUS.DEPTH]
    omega
  unfold Dev.settleQueue
  split
  · exact h
  · exact h.setReg (.inl hreg) _

theorem Dev.SameData.settleQueues : d.SameData e.settleQueues := by
  have hcores : ∀ core ∈ [0, 1], core < 2 := by decide
  have hqueues : ∀ q ∈ [0, 1, 2, 3], q < 4 := by decide
  exact Dev.forEach_keeps_of_mem d.SameData (fun core hcore _ hx =>
    Dev.forEach_keeps_of_mem d.SameData (fun q hq _ hy => hy.settleQueue (hcores core hcore) (hqueues q hq)) hx) h

theorem Dev.SameData.settleHold : d.SameData e.settleHold :=
  ((h.wr (by decide) _).wr (by decide) _).wr (by decide) _

theorem Dev.SameData.settleStatus : d.SameData e.settleStatus := by
  have hwaiters : d.SameData e.settleQueues.settleWaiters := h.settleQueues.wr (by decide) _
  have hevents : d.SameData e.settleQueues.settleWaiters.settleEvents := hwaiters.wr (by decide) _
  exact hevents.settleHold.settlePin

end Keeps

/-! ### What settling leaves out -/

/-- A loop whose rounds each leave the device alone leaves it alone. -/
theorem Dev.forEach_eq_self {α : Type} {d : Dev} {f : α → Dev → Dev} {l : List α} (hf : ∀ a ∈ l, f a d = d) : d.forEach l f = d :=
  Dev.forEach_keeps_of_mem (· = d) (fun a ha x hx => by rw [hx, hf a ha]) rfl

/-- Without a VE run no hand-off fails. -/
theorem Dev.settleHandoff_of_noVe {d : Dev} (h : d.ve = []) : d.settleHandoff = d :=
  Dev.forEach_eq_self fun _ _ => by simp [h, kvGet]

/-- Without a command being stopped none is stuck. -/
theorem Dev.settleStuck_of_noFin {d : Dev} (h : ∀ c ∈ d.cp0.cmds, c.fin = none) : d.settleStuck = d :=
  Dev.forEach_eq_self fun c hc => by simp [h c hc]

/-- Without events held back or lost none is written. -/
theorem Dev.flushEvents_of_none {d : Dev} (hpending : d.evt.pending = []) (hlost : d.evt.lost = 0) : d.flushEvents = d := by
  simp [Dev.flushEvents, Dev.flushPending, hpending, hlost]

/-- The units drop work that is gone, and their status registers follow. -/
theorem Dev.settleUnits_sameData {d : Dev} (hporters : ∀ p ∈ d.porters, p.1 < 64) : d.SameData d.settleUnits := by
  unfold Dev.settleUnits
  extract_lets d₁ d₂
  have h₁ : d.SameData d₁ := by
    refine Dev.forEach_keeps_of_mem d.SameData (fun x hx e he => ?_) (.refl d)
    have hstatus : 0x1400000 + 0x40 * x.1 < 0x1C00000 := by
      have := hporters x hx
      omega
    split
    · exact he
    · exact (((he.withPorters _).wr (.inl hstatus) 0).wr (.inl hstatus) 0).dropWaits _
  have h₂ : d.SameData d₂ := h₁.withVe _
  split
  · exact h₂
  · refine Dev.forEach_keeps_of_mem d.SameData (fun core hmem e he => ?_) h₂
    have hcore : core < 2 := by
      simp only [List.mem_cons, List.not_mem_nil, or_false] at hmem
      omega
    extract_lets a alive e₁ a₁ e₂ a₂ busy waits e₃ e₄ e₅ e₆ e₇
    have h₁ : d.SameData e₁ := by
      unfold e₁
      split
      · exact he
      · exact he.arrRelease hcore
    have h₂ : d.SameData e₂ := by
      unfold e₂
      split
      · split
        · exact h₁
        · exact h₁.setArr core _
      · exact h₁
    have h₃ : d.SameData e₃ := (h₂.wrOfCore hcore rfl (by decide) _).wrOfCore hcore rfl (by decide) _
    have h₄ : d.SameData e₄ := (h₃.wrOfCore hcore rfl (by decide) _).wrOfCore hcore rfl (by decide) _
    have h₅ : d.SameData e₅ := h₄.wrOfCore hcore rfl (by decide) _
    have h₆ : d.SameData e₆ := (h₅.wrOfCore hcore rfl (by decide) _).wrOfCore hcore rfl (by decide) _
    have h₇ : d.SameData e₇ := (h₆.wrOfCore hcore rfl (by decide) _).wrOfCore hcore rfl (by decide) _
    exact (h₇.wrOfCore hcore rfl (by decide) _).wrOfCore hcore rfl (by decide) _

/-- Settles O11: what fails hand-offs, ends stuck commands and writes events finds nothing to do, and the rest writes status only. -/
theorem settlingTouchesNoData : Obligations.SettlingTouchesNoData := by
  rintro d e hpending hlost hve hfin hporters rfl
  have hunits := Dev.settleUnits_sameData hporters
  have hevt : d.settleUnits.evt = d.evt := by rw [← hunits.stores]
  have hflush : d.settleUnits.flushEvents = d.settleUnits :=
    Dev.flushEvents_of_none (by rw [hevt, hpending]) (by rw [hevt, hlost])
  have hsettle : d.settle = d.settleUnits.settleStatus := by
    rw [Dev.settle, Dev.settleHandoff_of_noVe hve, Dev.settleStuck_of_noFin hfin, hflush]
  have h : d.SameData d.settle := hsettle ▸ hunits.settleStatus
  refine ⟨?stores, h.soValue⟩
  rw [← h.stores]
  simp only [and_self]

end Sys2Proof.Machine
end

