-- ==== Sys2Proof/Proofs/HostLink.lean ====
section
/-!
PROOFS. The rows of the PCIe link and of its power states: what each does when the condition its meaning asks for holds.
-/
namespace Sys2Proof.Machine

/-! ### The meaning of each row -/

theorem exec_linkUp (speed width : Nat) (flit : Bool) (s : State) : exec (.linkUp speed width flit) s = execLinkUp speed width flit s := by
  rfl

theorem exec_linkRecovery (s : State) : exec .linkRecovery s = execLinkRecovery s := by rfl

theorem exec_dlDown (s : State) : exec .dlDown s = execDlDown s := by rfl

theorem exec_busMasterEnable (msix fmask l1 : Bool) (s : State) :
    exec (.busMasterEnable msix fmask l1) s = execBusMasterEnable msix fmask l1 s := by rfl

theorem exec_d3hotEntry (s : State) : exec .d3hotEntry s = execD3hotEntry s := by rfl

theorem exec_d0Entry (s : State) : exec .d0Entry s = execD0Entry s := by rfl

theorem exec_aspmL1Request (s : State) : exec .aspmL1Request s = execAspmL1Request s := by rfl

theorem exec_aspmL1Exit (s : State) : exec .aspmL1Exit s = execAspmL1Exit s := by rfl

theorem exec_heldWriteExpiry (s : State) : exec .heldWriteExpiry s = execHeldWriteExpiry s := by rfl

theorem exec_hostPathReturn (s : State) : exec .hostPathReturn s = execHostPathReturn s := by rfl

/-! ### The link recovers, the host enables it (04 R102) -/

section Link
variable {s : State}

theorem exec_linkRecovery_of_active (hlink : s.dev.pci.link = .active) :
    exec .linkRecovery s = .next (s.after { s.dev with pci := { s.dev.pci with link := .recovery } }) :=
  (exec_linkRecovery ..).trans <| State.run_of_effect (if_pos (by simp [hlink]))

theorem exec_busMasterEnable_of_link (msix fmask l1 : Bool) (hlink : s.dev.pci.link ≠ .down) (htrip : s.dev.board.tripped = false) :
    exec (.busMasterEnable msix fmask l1) s = .next (s.after
      ({ s.dev with pci := { s.dev.pci with busMaster := true, msixEnable := msix, funcMask := fmask, l1Enable := l1 } } :
        Dev).hostPathDeliver) :=
  (exec_busMasterEnable ..).trans <| State.run_of_effect (if_neg (by simp [hlink, htrip]))

/-! ### Power states (04 R98, R99) -/

theorem exec_d3hotEntry_of_link (hlink : s.dev.pci.link ≠ .down) :
    exec .d3hotEntry s = .next (s.after { s.dev with pci := { s.dev.pci with d3hot := true } }) :=
  (exec_d3hotEntry ..).trans <| State.run_of_effect (if_neg (by simp [hlink]))

theorem exec_d0Entry_of_d3hot (hd3 : s.dev.pci.d3hot = true) :
    exec .d0Entry s = .next (s.after ({ s.dev with pci := { s.dev.pci with d3hot := false } } : Dev).hostPathDeliver) :=
  (exec_d0Entry ..).trans <| State.run_of_effect (if_pos hd3)

/-- L1 is asked for when the host has enabled it and nothing is under way on the link. -/
theorem exec_aspmL1Request_of_quiet (hl1 : s.dev.pci.l1Enable = true) (hlink : s.dev.pci.link = .active) (hhold : s.dev.pci.hold = [])
    (hqueue : s.dev.deadlineQueue = false) (hfetch : ∀ c ∈ s.dev.cp0.cmds, c.phase ≠ .fetching) :
    exec .aspmL1Request s = .next (s.after ((s.dev.wr Reg.HOST_LINK_STATUS.IN_L1 1).emit .requestL1)) :=
  (exec_aspmL1Request ..).trans <| State.run_of_effect (if_pos (by simpa [hl1, hlink, hhold, hqueue] using hfetch))

/-! ### The hold buffer (04 R104) -/

/-- The oldest held write expires; an event of two entries goes whole. -/
theorem exec_heldWriteExpiry_of_held {h : Held} {rest : List Held} (hdown : s.dev.pci.wasDown = true) (hpath : s.dev.pathUp = false)
    (hhold : s.dev.pci.hold = h :: rest) :
    exec .heldWriteExpiry s = .next (s.after
      (if h.kind == .event && bitAt (fieldAt h.data 3 1) 2 then s.dev.dropHeld.dropHeld else s.dev.dropHeld)) :=
  (exec_heldWriteExpiry ..).trans <| State.run_of_effect ((if_pos (by simp [hdown, hpath])).trans (by rw [hhold]))

end Link

/-- Settles O14, row by row. -/
theorem hostLinkCommandsComplete : Obligations.HostLinkCommandsComplete := by
  refine ⟨?linkUp, ?recovery, ?down, ?busMaster, ?d3hot, ?d0, ?l1Request, ?l1Exit, ?expiry, ?pathReturn⟩
  case linkUp =>
    intro s speed width flit hclk htrip hlink
    exact (exec_linkUp ..).trans <| State.run_of_effect (if_neg (by simp [hclk, htrip, hlink]))
  case recovery => exact fun _ hlink => exec_linkRecovery_of_active hlink
  case down =>
    intro s hlink
    exact (exec_dlDown s).trans <| State.run_of_effect (if_neg (by simp [hlink]))
  case busMaster => exact fun _ msix fmask l1 hlink htrip => exec_busMasterEnable_of_link msix fmask l1 hlink htrip
  case d3hot => exact fun _ hlink => exec_d3hotEntry_of_link hlink
  case d0 => exact fun _ hd3 => exec_d0Entry_of_d3hot hd3
  case l1Request => exact fun _ hl1 hlink hhold hqueue hfetch => exec_aspmL1Request_of_quiet hl1 hlink hhold hqueue hfetch
  case l1Exit => exact fun s => (exec_aspmL1Exit s).trans (State.run_after s _)
  case expiry => exact fun _ _ _ hdown hpath hhold => exec_heldWriteExpiry_of_held hdown hpath hhold
  case pathReturn =>
    intro s hpath hdown
    exact (exec_hostPathReturn s).trans <| State.run_of_effect (if_pos (by simp [hpath, hdown]))

end Sys2Proof.Machine
end

