-- ==== Sys2Proof/Proofs/QueuePairs.lean ====
section
/-!
PROOFS. Queue pairs and contexts as the host writes them: what a write of QP_CFG does in each state, and each row on a device that serves
the host.
-/
namespace Sys2Proof.Machine

/-! ### Bits of a register value -/

theorem bitAt_eq_testBit (x i : Nat) : bitAt x i = x.testBit i := by
  rw [bitAt, Nat.testBit_eq_decide_div_mod_eq]
  rfl

/-- A field written with 0 leaves a value inside a mask that it was inside of. -/
theorem setBits_zero_land_of_land {x m : Nat} (h : x &&& m = x) (lo len : Nat) : setBits x lo len 0 &&& m = setBits x lo len 0 := by
  apply Nat.eq_of_testBit_eq
  intro i
  rw [Nat.testBit_and, testBit_setBits]
  split
  · rw [Nat.zero_testBit, Bool.false_and]
  · rw [← Nat.testBit_and, h]

/-- QP_CFG stores its EN bit. -/
theorem bitAt_setBits_en (v : Nat) : bitAt (setBits v 31 1 1 &&& qpCfgMask) 31 = true := by
  have hen : (setBits v 31 1 1).testBit 31 = true := by
    rw [testBit_setBits]
    rfl
  rw [bitAt_eq_testBit, Nat.testBit_and, hen]
  rfl

/-! ### Writes of QP_CFG (05 R115, R117) -/

/-- A queue pair that has passed its enable checks: its rings start empty, its context counts it (05 R117). -/
def Dev.qpStarted (d : Dev) (q : Nat) : Dev :=
  let d := (d.wr (Reg.QP_STATUS.STATE q) qsActive).wr (Reg.QP_STATUS.FAULT q) 0
  let d := (d.setReg (Reg.QP_SQ_PTRS.HEAD q).reg 0).setReg (Reg.QP_CQ_PTRS.TAIL q).reg 0x2000
  let d := d.setReg (Reg.QP_DONE.COUNT q).reg 0
  let d : Dev := { d with cp0 := { d.cp0 with bells := kvDel q d.cp0.bells } }
  let c := d.qpCtx q
  (d.wr (Reg.CTX_STATE.QUEUES c) (d.rd (Reg.CTX_STATE.QUEUES c) + 1)).wr (Reg.CTX_STATE.STATE c) csActive

/-- The fields are stored before the checks, which look at them. -/
theorem Dev.qpEnable_of_passed {d : Dev} {q v : Nat} (h : (d.setReg (Reg.QP_CFG.CTX q).reg (v &&& qpCfgMask)).enableFault q = 0) :
    d.qpEnable q v = (d.setReg (Reg.QP_CFG.CTX q).reg (v &&& qpCfgMask)).qpStarted q := by
  unfold Dev.qpEnable
  dsimp only
  rw [h]
  rfl

section Writes
variable {d : Dev} {q : Nat}

/-- On a DISABLED queue pair a write without EN stores the fields. -/
theorem Dev.qpCfgWrite_of_disabled {v : Nat} (hstate : d.qpState q = qsDisabled) (hen : bitAt (v &&& qpCfgMask) 31 = false) :
    d.qpCfgWrite q v = d.setReg (Reg.QP_CFG.CTX q).reg (v &&& qpCfgMask) :=
  (if_pos hstate).trans (if_neg (by simp [hen]))

/-- On a DISABLED queue pair a write of EN that passes the enable checks starts it. -/
theorem Dev.qpCfgWrite_of_enabled {v : Nat} (hstate : d.qpState q = qsDisabled)
    (hpassed : (d.setReg (Reg.QP_CFG.CTX q).reg (setBits v 31 1 1 &&& qpCfgMask)).enableFault q = 0) :
    d.qpCfgWrite q (setBits v 31 1 1) = (d.setReg (Reg.QP_CFG.CTX q).reg (setBits v 31 1 1 &&& qpCfgMask)).qpStarted q := by
  have hmask : setBits v 31 1 1 &&& qpCfgMask &&& qpCfgMask = setBits v 31 1 1 &&& qpCfgMask := by rw [Nat.and_assoc, Nat.and_self]
  have henable : d.qpCfgWrite q (setBits v 31 1 1) = d.qpEnable q (setBits v 31 1 1 &&& qpCfgMask) :=
    (if_pos hstate).trans (if_pos (bitAt_setBits_en v))
  rw [henable, Dev.qpEnable_of_passed (by rwa [hmask]), hmask]

/-- On any other queue pair a write that changes EN alone, to 0, disables it. -/
theorem Dev.qpCfgWrite_of_disable (hstate : d.qpState q ≠ qsDisabled)
    (hstored : d.reg (Reg.QP_CFG.CTX q).reg &&& qpCfgMask = d.reg (Reg.QP_CFG.CTX q).reg) :
    d.qpCfgWrite q (setBits (d.reg (Reg.QP_CFG.CTX q).reg) 31 1 0) = d.qpDisable q :=
  (if_neg hstate).trans (if_pos (setBits_zero_land_of_land hstored 31 1))

end Writes

/-! ### The meaning of each row -/

theorem exec_ctxCfgWrite (ctx : Nat) (v : Word) (s : State) : exec (.ctxCfgWrite ctx v) s = execCtxCfgWrite ctx v s := by rfl

theorem exec_qpConfigWrite (qp off : Nat) (v : QWord) (s : State) :
    exec (.qpConfigWrite qp off v) s = execQpConfigWrite qp off v s := by rfl

theorem exec_qpEnable (qp : Nat) (v : Word) (s : State) : exec (.qpEnable qp v) s = execQpEnable qp v s := by rfl

theorem exec_qpDisable (qp : Nat) (s : State) : exec (.qpDisable qp) s = execQpDisable qp s := by rfl

theorem exec_sqTailDoorbell (qp : Nat) (v : Word) (s : State) : exec (.sqTailDoorbell qp v) s = execSqTailDoorbell qp v s := by rfl

theorem exec_cqHeadDoorbell (qp : Nat) (v : Word) (s : State) : exec (.cqHeadDoorbell qp v) s = execCqHeadDoorbell qp v s := by rfl

/-! ### Registers of a context and of a queue pair -/

section Served
variable {s : State} (hserved : s.dev.hostRegsServed = true)
include hserved

theorem exec_ctxCfgWrite_of_served (ctx : Nat) (v : Word) :
    exec (.ctxCfgWrite ctx v) s = .next (s.after (s.dev.ctxCfgWrite ctx v.toNat)) :=
  (exec_ctxCfgWrite ..).trans <| State.run_of_effect (if_pos hserved)

theorem exec_qpConfigWrite_sqBase {q : Nat} (v : QWord) (hstate : s.dev.qpState q = qsDisabled) :
    exec (.qpConfigWrite q 0x00 v) s = .next (s.after (s.dev.wr (Reg.QP_SQ_BASE.BASE q) (bits v.toNat 12 36))) :=
  (exec_qpConfigWrite ..).trans <| State.run_of_effect <| (if_neg (by simp [hserved])).trans <| (if_pos rfl).trans (if_pos hstate)

theorem exec_qpConfigWrite_cqBase {q : Nat} (v : QWord) (hstate : s.dev.qpState q = qsDisabled) :
    exec (.qpConfigWrite q 0x08 v) s = .next (s.after (s.dev.wr (Reg.QP_CQ_BASE.BASE q) (bits v.toNat 12 36))) :=
  (exec_qpConfigWrite ..).trans <| State.run_of_effect <|
    (if_neg (by simp [hserved])).trans <| (if_neg (by decide)).trans <| (if_pos rfl).trans (if_pos hstate)

/-- QP_CFG is 32 bits wide. -/
theorem exec_qpConfigWrite_cfg (q : Nat) (v : QWord) :
    exec (.qpConfigWrite q 0x10 v) s = .next (s.after (s.dev.qpCfgWrite q (v.toNat % 2 ^ 32))) :=
  (exec_qpConfigWrite ..).trans <| State.run_of_effect <|
    (if_neg (by simp [hserved])).trans <| (if_neg (by decide)).trans <| (if_neg (by decide)).trans (if_pos rfl)

theorem exec_qpDisable_of_served (q : Nat) : exec (.qpDisable q) s =
    .next (s.after (s.dev.qpCfgWrite q (setBits (s.dev.reg (Reg.QP_CFG.CTX q).reg) 31 1 0))) :=
  (exec_qpDisable ..).trans <| State.run_of_effect (if_pos hserved)

end Served

/-- QP_ENABLE does not wait for READY: its checks refuse it before (20 R540). -/
theorem exec_qpEnable_of_answers {s : State} (hanswers : s.dev.hostAnswers = true) (hheld : s.dev.board.domHeld = false) (q : Nat)
    (v : Word) : exec (.qpEnable q v) s = .next (s.after (s.dev.qpCfgWrite q (setBits v.toNat 31 1 1))) :=
  (exec_qpEnable ..).trans <| State.run_of_effect (if_pos (by simp [hanswers, hheld]))

/-- An ACTIVE or FAULTED queue pair is not DISABLED. -/
theorem Dev.qpState_ne_disabled {d : Dev} {q : Nat} (h : d.qpState q = qsActive ∨ d.qpState q = qsFaulted) :
    d.qpState q ≠ qsDisabled := by
  rcases h with h | h <;> rw [h] <;> decide

/-- Settles O19, row by row. -/
theorem queuePairCommandsComplete : Obligations.QueuePairCommandsComplete := by
  refine ⟨?cfg, ?cfgRefused, ?config, ?enable, ?disable, ?tail, ?head⟩
  case cfg =>
    intro s ctx v hserved hidle hclass
    rw [exec_ctxCfgWrite_of_served hserved, Dev.ctxCfgWrite, if_pos ⟨hidle, hclass⟩]
  case cfgRefused =>
    intro s ctx v hserved hrefused
    have hbad : ¬(s.dev.ctxState ctx = csIdle ∧ bits v.toNat 0 2 ≠ 3) := by
      rintro ⟨hidle, hclass⟩
      exact hrefused.elim (· hidle) hclass
    rw [exec_ctxCfgWrite_of_served hserved, Dev.ctxCfgWrite, if_neg hbad]
  case config =>
    intro s q v hserved hstate
    refine ⟨exec_qpConfigWrite_sqBase hserved v hstate, exec_qpConfigWrite_cqBase hserved v hstate, fun hen => ?_⟩
    rw [exec_qpConfigWrite_cfg hserved, Dev.qpCfgWrite_of_disabled hstate hen]
  case enable =>
    intro s q v hanswers hheld hstate _ _ _ _ _ _ hpassed
    rw [exec_qpEnable_of_answers hanswers hheld, Dev.qpCfgWrite_of_enabled hstate hpassed]
    rfl
  case disable =>
    intro s q hserved hstate hstored
    rw [exec_qpDisable_of_served hserved, Dev.qpCfgWrite_of_disable (Dev.qpState_ne_disabled hstate) hstored]
  case tail =>
    intro s q v hclk hstate hlt
    exact (exec_sqTailDoorbell ..).trans <| State.run_of_effect <|
      (if_neg (by simp [hclk])).trans <| (if_neg (not_not.2 hstate)).trans (if_neg (Nat.not_le.2 hlt))
  case head =>
    intro s q v hclk hstate hlt harc
    have hon : ¬(s.dev.qpState q = qsDisabled ∨ s.dev.qpState q = qsFaulted) := by
      rw [hstate]
      decide
    exact (exec_cqHeadDoorbell ..).trans <| State.run_of_effect <|
      (if_neg (by simp [hclk])).trans <| (if_neg hon).trans (if_pos ⟨hlt, harc⟩)

end Sys2Proof.Machine
end

