-- ==== Sys2Proof/Proofs/CommandLife.lean ====
section
/-!
PROOFS. The life of a command at CP0, from the fetch of its entry to its completion: what each row does when its conditions hold.
-/
namespace Sys2Proof.Machine

/-! ### Stopping a command (05 R134, R138) -/

section Stop
variable {d : Dev} {slot : Nat} {c : Cmd} (hcmd : d.cmd? slot = some c)
include hcmd

/-- A command that waits on its header SO ends at once, its waits with it. -/
theorem Dev.stopCmd_of_waiting (hphase : c.phase = .waiting) (mj dt : Nat) :
    d.stopCmd slot mj dt = (d.dropWaits (d.waitOf slot)).endCmd slot mj dt 0 := by
  simp only [Dev.stopCmd, hcmd, hphase]

/-- A command that runs on a core is asked to stop. -/
theorem Dev.stopCmd_of_running (hphase : c.phase = .running) (hparked : c.parked = false) (mj dt : Nat) :
    d.stopCmd slot mj dt = d.askStop slot mj dt := by
  simp [Dev.stopCmd, hcmd, hphase, hparked]

end Stop

/-- None of a list of tags is left exactly when each has gone. -/
theorem isEmpty_filter_isSome {α β : Type} (f : α → Option β) (l : List α) :
    (l.filter fun t => (f t).isSome).isEmpty = l.all fun t => (f t).isNone := by
  rw [Bool.eq_iff_iff]
  simp

/-! ### The meaning of each row -/

theorem exec_sqFetch (qp count : Nat) (s : State) : exec (.sqFetch qp count) s = execSqFetch qp count s := by rfl

theorem exec_sqFetchData (slot : Nat) (o : HostRead) (s : State) : exec (.sqFetchData slot o) s = execSqFetchData slot o s := by rfl

theorem exec_cmdDispatch (s : State) : exec .cmdDispatch s = execCmdDispatch s := by rfl

theorem exec_headerWaitSatisfied (slot : Nat) (s : State) :
    exec (.headerWaitSatisfied slot) s = execHeaderWaitSatisfied slot s := by rfl

theorem exec_cmdTimeout (slot : Nat) (s : State) : exec (.cmdTimeout slot) s = execCmdTimeout slot s := by rfl

theorem exec_cmdEnd (slot : Nat) (s : State) : exec (.cmdEnd slot) s = execCmdEnd slot s := by rfl

theorem exec_nop (slot : Nat) (s : State) : exec (.nop slot) s = execNop slot s := by rfl

theorem exec_timestamp (slot : Nat) (s : State) : exec (.timestamp slot) s = execTimestamp slot s := by rfl

theorem exec_abort (slot : Nat) (s : State) : exec (.abort slot) s = execAbort slot s := by rfl

/-! ### A command in flight -/

section Flight
variable {s : State} {slot : Nat} {c : Cmd} (hcmd : s.dev.cmd? slot = some c)
include hcmd

/-- An entry whose data come while the host path stands is checked (05 R118, R135). -/
theorem exec_sqFetchData_of_arrived (hphase : c.phase = .fetching) (hclk : s.dev.coreClocks = true) (hpath : s.dev.hostReadable = true) :
    exec (.sqFetchData slot .ok) s = .next (s.after (s.dev.accept c)) :=
  (exec_sqFetchData ..).trans <| State.run_of_effect <| by simp [hcmd, hphase, hclk, hpath]

/-- An entry whose read fails is not accepted (05 R119). -/
theorem exec_sqFetchData_of_failed (hphase : c.phase = .fetching) (hclk : s.dev.coreClocks = true) {o : HostRead} (ho : o ≠ .ok) :
    exec (.sqFetchData slot o) s = .next (s.after (s.dev.fetchFailed c)) :=
  (exec_sqFetchData ..).trans <| State.run_of_effect <| by simp [hcmd, hphase, hclk, ho]

theorem exec_headerWaitSatisfied_of_woken (hphase : c.phase = .waiting) (hwoken : s.dev.isWoken (.cmd slot) = true)
    (hlive : s.dev.live = true) : exec (.headerWaitSatisfied slot) s =
      .next (s.after ((s.dev.takeWake (.cmd slot)).updCmd slot fun c => { c with phase := .running })) :=
  (exec_headerWaitSatisfied ..).trans <| State.run_of_effect <| by simp [hcmd, hphase, hwoken, hlive]

section Timer
variable (hop : c.opcode ≠ 0x0102) (hqp : c.ofBatch = false)
include hop hqp

/-- The timer of a command that waits on its header SO (05 R138). -/
theorem exec_cmdTimeout_of_waiting (hphase : c.phase = .waiting) :
    exec (.cmdTimeout slot) s = .next (s.after (s.dev.stopCmd slot 0x05 0x0531)) :=
  (exec_cmdTimeout ..).trans <| State.run_of_effect <| by simp [hcmd, hop, hqp, hphase]

/-- The timer of a command that runs (05 R138). -/
theorem exec_cmdTimeout_of_running (hphase : c.phase = .running) :
    exec (.cmdTimeout slot) s = .next (s.after (s.dev.stopCmd slot 0x05 0x0530)) :=
  (exec_cmdTimeout ..).trans <| State.run_of_effect <| by simp [hcmd, hop, hqp, hphase]

end Timer

/-- A command that has ended, with no signal due and none unanswered, is completed (05 R139, R140). -/
theorem exec_cmdEnd_of_ended {f : Finish} (hphase : c.phase = .ended) (hfin : c.fin = some f) (hqp : c.ofBatch = false)
    (hactivates : c.activates = false) (hclk : s.dev.coreClocks = true) (htxns : s.dev.cmdTxns slot = 0) (hflr : s.dev.boot.flr = false)
    (hsignal : c.signalDue f.major = false) : exec (.cmdEnd slot) s = .next (s.after (s.dev.complete c f)) :=
  (exec_cmdEnd ..).trans <| State.run_of_effect <| by
    simp [hcmd, hphase, hfin, hqp, hactivates, hclk, htxns, hflr, hsignal]

end Flight

/-! ### Direct commands (05 R132, R134) -/

theorem exec_nop_of_runs {s : State} {slot : Nat} {c : Cmd} (h : s.dev.CmdRuns slot 0x0101 c) :
    exec (.nop slot) s = .next (s.after (s.dev.endCmd slot 0 0 0)) :=
  (exec_nop ..).trans <| State.run_of_effect (Dev.onCmd_runs h _)

theorem exec_timestamp_of_runs {s : State} {slot : Nat} {c : Cmd} (h : s.dev.CmdRuns slot 0x0103 c) :
    exec (.timestamp slot) s = .next (s.after (s.dev.endCmd slot 0 0 s.dev.timeNs)) :=
  (exec_timestamp ..).trans <| State.run_of_effect (Dev.onCmd_runs h _)

/-- The targets of an ABORT are stopped, once: its `aux` says that it has. -/
def Dev.abortStop (d : Dev) (slot : Nat) (c : Cmd) : Dev :=
  (d.forEach c.targets fun t d => d.stopCmd t 0x06 0x0540).updCmd slot fun c => { c with aux := [1] }

/-- An ABORT ends once every target has gone. -/
def Dev.abortSettle (d : Dev) (slot : Nat) (c : Cmd) : Dev :=
  if c.targets.all fun t => (d.cmd? t).isNone then d.endCmd slot 0 0 c.hits else d

theorem Dev.abortSettle_of_gone {d : Dev} {c : Cmd} (h : ∀ t ∈ c.targets, d.cmd? t = none) (slot : Nat) :
    d.abortSettle slot c = d.endCmd slot 0 0 c.hits :=
  if_pos (List.all_eq_true.2 fun t ht => Option.isNone_iff_eq_none.2 (h t ht))

theorem exec_abort_of_runs {s : State} {slot : Nat} {c : Cmd} (h : s.dev.CmdRuns slot 0x0102 c) : exec (.abort slot) s =
    .next (s.after ((if c.aux.isEmpty then s.dev.abortStop slot c else s.dev).abortSettle slot c)) :=
  (exec_abort ..).trans <| State.run_of_effect <| (Dev.onCmd_runs h _).trans <| by
    rw [Dev.abortSettle, ← isEmpty_filter_isSome]
    rfl

/-- Settles O20, row by row. -/
theorem commandLifeComplete : Obligations.CommandLifeComplete := by
  refine ⟨?fetch, ?data, ?dispatch, ?headerWait, ?timeout, ?finish, ?nop, ?timestamp, ?abort, ?abortAgain⟩
  case fetch => exact fun s q count => (exec_sqFetch q count s).trans (State.run_after s _)
  case data =>
    exact fun _ _ _ hcmd hphase hclk =>
      ⟨exec_sqFetchData_of_arrived hcmd hphase hclk, fun _ ho => exec_sqFetchData_of_failed hcmd hphase hclk ho⟩
  case dispatch =>
    intro s k c q aged d cmd hlive hclass hctx hqp hnext
    refine (exec_cmdDispatch s).trans (State.run_of_effect ((if_neg (by simp [hlive])).trans ?_))
    simp only [hclass, hctx, hqp, hnext]
  case headerWait => exact fun _ _ _ hcmd hphase hwoken hlive => exec_headerWaitSatisfied_of_woken hcmd hphase hwoken hlive
  case timeout =>
    intro s slot c hcmd hop hqp
    refine ⟨fun hphase => ?waiting, fun hphase hparked => ?running⟩
    case waiting => rw [exec_cmdTimeout_of_waiting hcmd hop hqp hphase, Dev.stopCmd_of_waiting hcmd hphase]
    case running => rw [exec_cmdTimeout_of_running hcmd hop hqp hphase, Dev.stopCmd_of_running hcmd hphase hparked]
  case finish =>
    exact fun _ _ _ _ hcmd hphase hfin hqp hactivates hclk htxns hflr hsignal =>
      exec_cmdEnd_of_ended hcmd hphase hfin hqp hactivates hclk htxns hflr hsignal
  case nop => exact fun _ _ _ h => exec_nop_of_runs h
  case timestamp => exact fun _ _ _ h => exec_timestamp_of_runs h
  case abort =>
    intro s slot c h haux
    rw [exec_abort_of_runs h, haux]
    rfl
  case abortAgain =>
    intro s slot c h haux hgone
    rw [exec_abort_of_runs h, if_neg (by simpa using haux), Dev.abortSettle_of_gone hgone]

end Sys2Proof.Machine
end

