-- ==== Sys2Proof/Proofs/TwoCopies.lean ====
section
/-!
PROOFS. Records kept in two copies (06 R169; 20 R537): which copy is in force, and which one a writer overwrites.
-/
namespace Sys2Proof.Machine

section Copies
variable {n g : Nat} {a b x o : List Byte}

/-! ### The copy in force -/

/-- A copy that is not valid leaves the other one in force. -/
theorem copyInForce_of_invalid_left (hx : copyValid n x = false) (hb : copyValid n b = true) : copyInForce n g x b = some b := by
  simp [copyInForce, hx, hb]

theorem copyInForce_of_invalid_right (ha : copyValid n a = true) (hx : copyValid n x = false) : copyInForce n g a x = some a := by
  simp [copyInForce, ha, hx]

/-- Of two valid copies the one with the higher GEN is in force. -/
theorem copyInForce_of_newer_left (hx : copyValid n x = true) (hb : copyValid n b = true) (hgen : fieldAt b g 4 < fieldAt x g 4) :
    copyInForce n g x b = some x := by
  simp [copyInForce, hx, hb, Nat.not_lt.2 hgen.le]

theorem copyInForce_of_newer_right (ha : copyValid n a = true) (hx : copyValid n x = true) (hgen : fieldAt a g 4 < fieldAt x g 4) :
    copyInForce n g a x = some x := by
  simp [copyInForce, ha, hx, hgen]

/-! ### The copy to write -/

/-- The copy in force is valid, and it is the one that a writer leaves alone. -/
theorem writesA_of_inForce (h : copyInForce n g a b = some o) :
    writesA n g a b = true ∧ o = b ∧ copyValid n b = true ∨ writesA n g a b = false ∧ o = a ∧ copyValid n a = true := by
  cases ha : copyValid n a <;> cases hb : copyValid n b <;> simp only [copyInForce, ha, hb, Option.some.injEq, reduceCtorEq] at h
  case false.true => exact .inl ⟨by simp [writesA, ha], h.symm, rfl⟩
  case true.false => exact .inr ⟨by simp [writesA, ha, hb], h.symm, rfl⟩
  case true.true =>
    by_cases hgen : fieldAt a g 4 < fieldAt b g 4
    · exact .inl ⟨by simp [writesA, hb, hgen], by rw [← h, if_pos hgen], rfl⟩
    · exact .inr ⟨by simp [writesA, ha, hgen], by rw [← h, if_neg hgen], rfl⟩

end Copies

/-- Settles O8: the writer overwrites the copy that is not in force, so the valid old copy stands beside what was written. -/
theorem twoCopiesSurviveTearing : Obligations.TwoCopiesSurviveTearing := by
  intro n g a b o new hforce hnew hgen put
  obtain ⟨hwrites, rfl, hvalid⟩ | ⟨hwrites, rfl, hvalid⟩ := writesA_of_inForce hforce
  · have hput (x : List Byte) : put x = (x, o) := if_pos hwrites
    simp only [hput]
    exact ⟨copyInForce_of_newer_left hnew hvalid hgen, fun _ htorn => copyInForce_of_invalid_left htorn hvalid⟩
  · have hput (x : List Byte) : put x = (o, x) := if_neg (by simp [hwrites])
    simp only [hput]
    exact ⟨copyInForce_of_newer_right hvalid hnew hgen, fun _ htorn => copyInForce_of_invalid_right hvalid htorn⟩

end Sys2Proof.Machine
end

