-- ==== Sys2Proof/Proofs/ListCommands.lean ====
section
/-!
PROOFS. EXEC_LIST and RESHARD (06 R154–R156; 18 R495–R497): what a routine that runs does with its list, and with each chunk of its plan.
-/
namespace Sys2Proof.Machine

/-! ### The meaning of each row -/

theorem exec_execList (slot : Nat) (s : State) : exec (.execList slot) s = execExecList slot s := by rfl

theorem exec_reshard (slot : Nat) (s : State) : exec (.reshard slot) s = execReshard slot s := by rfl

/-! ### EXEC_LIST (06 R154–R156) -/

/-- What EXEC_LIST leaves once its list is copied and has passed its checks: the command is on its core, holds its copy, and its
descriptors wait to be written (R155, R156). -/
def Dev.listQueued (d : Dev) (slot want : Nat) (ws : List TdWord) : Dev :=
  let core := d.pickCore want
  let ws := if want = 2 ∧ core = 1 then ws.map tdOnSc1 else ws
  let d := (d.assign slot [core]).updCmd slot fun c => { c with total := listStages ws }
  ({ d with seq := { d.seq with snapshots := d.seq.snapshots ++ [slot] } } : Dev).addTodo slot ((stageStart ws).map fun w => (core, w))

/-- The first run of EXEC_LIST, where a copy is free, the list can be read and every descriptor passes. -/
theorem exec_execList_of_passed {s : State} {slot : Nat} {c : Cmd} {d d' : Dev} {bs : List Byte} (h : s.dev.RoutineRuns slot 0x0301 c)
    (htotal : c.total = 0) (hfree : s.dev.seq.snapshots.length < 64) (hread : s.dev.read byCp c.ctx (c.par 0 8) (64 * c.par 8 4) = ⟨d, .ok bs⟩)
    (hpassed : d.listBad c.ctx (d.listCols (c.par 0x0C 1)) (if c.par 0x0C 1 = 1 then 1 else 0) (indexed 0 (listWords bs)) = (d', none)) :
    exec (.execList slot) s = .next (s.after (d'.listQueued slot (c.par 0x0C 1) (listWords bs))) := by
  have hfirst : ¬ (c.total ≠ 0 ∨ 64 ≤ s.dev.seq.snapshots.length) := by omega
  refine (exec_execList ..).trans <| State.run_of_effect <| (Dev.onRoutine_runs h _).trans <| (if_neg hfirst).trans ?_
  simp only [hread, hpassed]
  rfl

/-! ### RESHARD (18 R495–R497) -/

/-- The plan goes on to its next chunk; a chunk that the command's tab does not record yet counts as done. -/
def Dev.reshardNext (d : Dev) (slot : Nat) (c : Cmd) (x : Reshard) : Dev :=
  let d := d.updReshard slot fun x => { x with next := x.next + 1 }
  if c.done ≤ x.next then d.updCmd slot fun c => { c with done := x.next + 1, rested := false } else d

/-- The pieces of a COPY item's chunk `k` (R496). -/
def Dev.copyPieces (d : Dev) (i : PlanItem) (k : Nat) : List (Nat × Nat × Nat) :=
  rowPieces 1 (min d.memChunk (i.length - k * d.memChunk)) (i.src + k * d.memChunk) 0 (i.dst + k * d.memChunk) 0

/-- The piece of a RESHARD whose plan is under way: chunk `x.next`, or the switch where the plan has no such chunk. -/
def Dev.reshardPiece (d : Dev) (slot dst : Nat) (c : Cmd) (x : Reshard) : Dev :=
  match d.planChunk dst (planItems x.plan) x.next with
  | none => d.reshardSwitch slot c x
  | some (i, k) =>
    if i.kind = 0 then
      if x.next < c.done then d.reshardNext slot c x
      else
        match d.movePieces (byPorter (d.memPorter 0x0201 (c.cores.headD 0) x.next)) c.ctx (d.copyPieces i k) 0 with
        | ⟨d, some e, _⟩ => d.failStaged slot e
        | ⟨d, none, _⟩ => d.reshardNext slot c x
    else
      match d.roomsChunk slot c.ctx dst i k with
      | (d, .error e) => d.failStaged slot e
      | (d, .ok false) => d
      | (d, .ok true) => d.reshardNext slot c x

/-- A RESHARD that runs has its next piece, on the device that its first run has read and checked the plan on. -/
theorem exec_reshard_of_piece {s : State} {slot : Nat} {c₀ c : Cmd} {x : Reshard} {d e : Dev} (h : s.dev.RoutineRuns slot 0x0206 c₀)
    (hopened : d = if (s.dev.reshard? slot).isSome then s.dev else s.dev.reshardStart slot c₀)
    (hplan : d.reshard? slot = some x) (hcmd : d.cmd? slot = some c) (hpiece : d.reshardPiece slot (c₀.par 0x0C 1) c x = e) :
    exec (.reshard slot) s = .next (s.after e) := by
  refine (exec_reshard ..).trans <| State.run_of_effect <| (Dev.onRoutine_runs h _).trans <| Eq.trans ?_ hpiece
  simp only [← hopened, hplan, hcmd]
  rfl

section Piece
variable {d e : Dev} {slot dst k n : Nat} {c : Cmd} {x : Reshard} {i : PlanItem}

/-- After the last chunk RESHARD switches (R497). -/
theorem Dev.reshardPiece_of_planDone (hdone : d.planChunk dst (planItems x.plan) x.next = none) :
    d.reshardPiece slot dst c x = d.reshardSwitch slot c x := by
  simp only [Dev.reshardPiece, hdone]

section Chunk
variable (hchunk : d.planChunk dst (planItems x.plan) x.next = some (i, k))
include hchunk

/-- A COPY chunk that the tab records as done is passed over. -/
theorem Dev.reshardPiece_of_copyDone (hkind : i.kind = 0) (hdone : x.next < c.done) :
    d.reshardPiece slot dst c x = d.reshardNext slot c x := by
  simp only [Dev.reshardPiece, hchunk, if_pos hkind, if_pos hdone]

theorem Dev.reshardPiece_of_copied (hkind : i.kind = 0) (hdone : c.done ≤ x.next)
    (hmoved : d.movePieces (byPorter (d.memPorter 0x0201 (c.cores.headD 0) x.next)) c.ctx (d.copyPieces i k) 0 = ⟨e, none, n⟩) :
    d.reshardPiece slot dst c x = e.reshardNext slot c x := by
  simp only [Dev.reshardPiece, hchunk, if_pos hkind, if_neg (Nat.not_lt.2 hdone), hmoved]

/-- A ROOMS chunk whose rooms have all moved is complete (R496). -/
theorem Dev.reshardPiece_of_roomsMoved (hkind : i.kind ≠ 0) (hrooms : d.roomsChunk slot c.ctx dst i k = (e, .ok true)) :
    d.reshardPiece slot dst c x = e.reshardNext slot c x := by
  simp only [Dev.reshardPiece, hchunk, if_neg hkind, hrooms]

/-- A ROOMS chunk with a source room that is LOCKED or STAGED stays the next one (R496). -/
theorem Dev.reshardPiece_of_roomsWait (hkind : i.kind ≠ 0) (hrooms : d.roomsChunk slot c.ctx dst i k = (e, .ok false)) :
    d.reshardPiece slot dst c x = e := by
  simp only [Dev.reshardPiece, hchunk, if_neg hkind, hrooms]

end Chunk
end Piece

/-- Settles O42: EXEC_LIST by its first run, RESHARD by the kind of the plan's next chunk. -/
theorem listCommandsComplete : Obligations.ListCommandsComplete := by
  refine ⟨fun _ _ _ _ _ _ h htotal hfree hread hpassed => exec_execList_of_passed h htotal hfree hread hpassed, ?reshard⟩
  intro s slot c₀ c x d h hopened hplan hcmd dst next
  have heffect {e : Dev} := exec_reshard_of_piece (e := e) h hopened hplan hcmd
  refine ⟨fun hdone => ?switch, fun i k hchunk hkind hdone => ?copyDone, fun i k e n hchunk hkind hdone hmoved => ?copied,
    fun i k e hchunk hkind => ⟨fun hrooms => ?roomsMoved, fun hrooms => ?roomsWait⟩⟩
  case switch => exact heffect (Dev.reshardPiece_of_planDone hdone)
  case copyDone => exact heffect (Dev.reshardPiece_of_copyDone hchunk hkind hdone)
  case copied => exact heffect (Dev.reshardPiece_of_copied hchunk hkind hdone hmoved)
  case roomsMoved => exact heffect (Dev.reshardPiece_of_roomsMoved hchunk hkind hrooms)
  case roomsWait => exact heffect (Dev.reshardPiece_of_roomsWait hchunk hkind hrooms)

end Sys2Proof.Machine
end

