-- ==== Sys2Proof/Proofs/SyncObjects.lean ====
section
/-!
PROOFS. Sync objects (07 R190, R191): what an operation makes of a value, kind by kind, and what it leaves in the object's registers.
-/
namespace Sys2Proof.Machine

/-! ### What an operation makes of a value (07 R191) -/

theorem soResult_set (kind target old v : Nat) (w : Bool) : soResult kind target true old v w = (v % 2 ^ 64, w) := rfl

theorem soResult_counter (target old v : Nat) (w : Bool) :
    soResult 0 target false old v w = ((old + v) % 2 ^ 64, w || decide (2 ^ 64 ≤ old + v)) := rfl

/-- The arrivals of a BARRIER are its low 32 bits, its generation the high 32; each TARGET arrivals close a generation. -/
theorem soResult_barrier (target old v : Nat) (w : Bool) : soResult 1 target false old v w =
    ((old / 2 ^ 32 + (old % 2 ^ 32 + v) / max target 1) % 2 ^ 32 * 2 ^ 32 + (old % 2 ^ 32 + v) % max target 1, w) := rfl

theorem soResult_event {v : Nat} (hv : v < 2 ^ 64) (target old : Nat) (w : Bool) :
    soResult 2 target false old v w = (old ||| v, w) := by
  change (old ||| v % 2 ^ 64, w) = _
  rw [Nat.mod_eq_of_lt hv]

/-- A generation and a number of arrivals that fit their halves are read back from the value they make. -/
theorem barrier_halves {g a : Nat} (hg : g < 2 ^ 32) (ha : a < 2 ^ 32) :
    g * 2 ^ 32 + a < 2 ^ 64 ∧ (g * 2 ^ 32 + a) % 2 ^ 32 = a ∧ (g * 2 ^ 32 + a) / 2 ^ 32 = g := by
  omega

/-! ### What an operation leaves in the bank -/

/-- Where the trace unit does not capture, a happening leaves nothing. -/
theorem Dev.trace_of_off {d : Dev} (h : d.on Reg.DBG_STATUS.TRACING = false) (src unit : Nat) (ctx kind tag a0 a1 : Option Nat) :
    d.trace src unit ctx kind tag a0 a1 = d := by
  simp [Dev.trace, Dev.tracing, h]

/-- An object without a mirror is pushed nowhere (R199). -/
theorem Dev.soPushAll_of_noMirror {d : Dev} {n : Nat} (h : ∀ e ∈ d.so.pushes, e.home ≠ n) : d.soPushAll n = d := by
  have hnone : (d.so.pushes.filter fun e => e.home == n) = [] := List.filter_eq_nil_iff.2 fun e he => by simp [h e he]
  simp [Dev.soPushAll, hnone]

/-- The registers of object `n` and the count of operations after an operation with result `r`. -/
def Dev.soStore (d : Dev) (n : Nat) (r : Nat × Bool) : Dev :=
  ((d.wr (Reg.SO_VALUE.VALUE n) r.1).wr (Reg.SO_CFG.WRAPPED n) (b2n r.2)).incMod Reg.SO_OPS.COUNT

/-- A field outside the object and the count of operations. -/
theorem Dev.rd_soStore_ne {n : Nat} {f : Fld} (hvalue : f.reg ≠ (Reg.SO_VALUE.VALUE n).reg) (hcfg : f.reg ≠ (Reg.SO_CFG.WRAPPED n).reg)
    (hops : f.reg ≠ Reg.SO_OPS.COUNT.reg) (d : Dev) (r : Nat × Bool) : (d.soStore n r).rd f = d.rd f := by
  rw [Dev.soStore, Dev.incMod, Dev.rd_wr_ne hops, Dev.rd_wr_ne hcfg, Dev.rd_wr_ne hvalue]

section Store
variable {n : Nat} (hn : n < 4096) (d : Dev) (r : Nat × Bool)
include hn

/-- The objects' registers lie below the count of operations. -/
theorem soReg_ne_ops : (Reg.SO_VALUE.VALUE n).reg ≠ Reg.SO_OPS.COUNT.reg ∧ (Reg.SO_CFG.WRAPPED n).reg ≠ Reg.SO_OPS.COUNT.reg := by
  simp only [Reg.SO_VALUE.VALUE, Reg.SO_CFG.WRAPPED, Reg.SO_OPS.COUNT]
  omega

theorem Dev.soValue_soStore : (d.soStore n r).soValue n = r.1 % 2 ^ 64 := by
  have hcfg : (Reg.SO_VALUE.VALUE n).reg ≠ (Reg.SO_CFG.WRAPPED n).reg := by
    simp only [Reg.SO_VALUE.VALUE, Reg.SO_CFG.WRAPPED]
    omega
  rw [Dev.soValue, Dev.soStore, Dev.incMod, Dev.rd_wr_ne (soReg_ne_ops hn).1, Dev.rd_wr_ne hcfg,
    Dev.rd_wr_self (by simp [Reg.SO_VALUE.VALUE])]
  rfl

theorem Dev.wrapped_soStore : (d.soStore n r).on (Reg.SO_CFG.WRAPPED n) = r.2 := by
  rw [Dev.on, Dev.soStore, Dev.incMod, Dev.rd_wr_ne (soReg_ne_ops hn).2]
  exact Dev.on_wr_self (by simp [Reg.SO_CFG.WRAPPED]) (by simp [Reg.SO_CFG.WRAPPED]) _ _

theorem Dev.tracing_soStore : (d.soStore n r).on Reg.DBG_STATUS.TRACING = d.on Reg.DBG_STATUS.TRACING := by
  have hobject : Reg.DBG_STATUS.TRACING.reg ≠ (Reg.SO_VALUE.VALUE n).reg ∧ Reg.DBG_STATUS.TRACING.reg ≠ (Reg.SO_CFG.WRAPPED n).reg := by
    simp only [Reg.DBG_STATUS.TRACING, Reg.SO_VALUE.VALUE, Reg.SO_CFG.WRAPPED]
    omega
  rw [Dev.on, Dev.rd_soStore_ne hobject.1 hobject.2 (by decide), ← Dev.on]

end Store

/-- An operation on an object without mirrors, untraced, stores its result and wakes the waits that it satisfies. -/
theorem Dev.soPerform_of_quiet {d : Dev} {n : Nat} (hn : n < 4096) (hmirror : ∀ e ∈ d.so.pushes, e.home ≠ n)
    (htrace : d.on Reg.DBG_STATUS.TRACING = false) (set : Bool) (v : Nat) : d.soPerform n set v = (d.soStore n
      (soResult (d.soKind n) (d.rd (Reg.SO_CFG.ARG n)) set (d.soValue n) v (d.on (Reg.SO_CFG.WRAPPED n)))).soWake n := by
  rw [Dev.soPerform]
  generalize soResult .. = r
  have hoff : (d.soStore n r).on Reg.DBG_STATUS.TRACING = false := (Dev.tracing_soStore hn d r).trans htrace
  calc
    _ = (((d.soStore n r).trace 2 255 none none (some n) (some r.1) none).soWake n).soPushAll n := rfl
    _ = ((d.soStore n r).soWake n).soPushAll n := by rw [Dev.trace_of_off hoff]
    _ = (d.soStore n r).soWake n := Dev.soPushAll_of_noMirror hmirror

/-- Settles O7: the equations of the kinds, and what the registers hold after an operation. -/
theorem syncObjectOperations : Obligations.SyncObjectOperations := by
  refine ⟨soResult_set, ?counterAndEvent, ?barrier, ?bank⟩
  case counterAndEvent =>
    intro target old v w _ hv
    rw [soResult_counter, soResult_event hv]
    exact ⟨rfl, rfl, rfl⟩
  case barrier =>
    intro target old v w htarget _ t r
    have harrived : (old % 2 ^ 32 + v) % t < t := Nat.mod_lt _ (by omega)
    obtain ⟨hlt, hlow, hhigh⟩ := barrier_halves (Nat.mod_lt (old / 2 ^ 32 + (old % 2 ^ 32 + v) / t) (Nat.two_pow_pos 32))
      (show (old % 2 ^ 32 + v) % t < 2 ^ 32 by omega)
    have hr : r = _ := congrArg Prod.fst (soResult_barrier target old v w)
    rw [hr]
    exact ⟨hlt, hlow.trans_lt harrived, hlow, hhigh⟩
  case bank =>
    intro d n v set hn hmirror htrace r
    rw [Dev.soPerform_of_quiet hn hmirror htrace]
    exact ⟨Dev.soValue_soStore hn d r, Dev.wrapped_soStore hn d r⟩

end Sys2Proof.Machine
end

