-- ==== Sys2Proof/Proofs/Mirrors.lean ====
section
/-!
PROOFS. Mirrors of sync objects (07 R197–R202): what each row does, on the bound side and on the home side, when its conditions hold.
A push names the mirror's object in TAG, and goes by `Dev.soPushTo` (the model's choice, notes/assumptions/14.md).
-/
namespace Sys2Proof.Machine

/-! ### The meaning of each row -/

theorem exec_soMirrorBind (slot : Nat) (s : State) : exec (.soMirrorBind slot) s = execSoMirrorBind slot s := by rfl

theorem exec_soMirrorUnbind (slot : Nat) (s : State) : exec (.soMirrorUnbind slot) s = execSoMirrorUnbind slot s := by rfl

theorem exec_mirrorBindTimeout (slot : Nat) (s : State) :
    exec (.mirrorBindTimeout slot) s = execMirrorBindTimeout slot s := by rfl

theorem exec_mirrorStale (n : Nat) (s : State) : exec (.mirrorStale n) s = execMirrorStale n s := by rfl

theorem exec_soPush (s : State) : exec .soPush s = execSoPush s := by rfl

theorem exec_mirrorBind (s : State) : exec .mirrorBind s = execMirrorBind s := by rfl

theorem exec_mirrorUnbind (s : State) : exec .mirrorUnbind s = execMirrorUnbind s := by rfl

theorem exec_soHeartbeat (n dev mirror : Nat) (s : State) :
    exec (.soHeartbeat n dev mirror) s = execSoHeartbeat n dev mirror s := by rfl

/-! ### The bound side (07 R198, R201, R202) -/

section BoundCommand
variable {s : State} {slot : Nat} {c : Cmd} (hrun : s.dev.CmdRuns slot 0x0605 c)
include hrun

/-- The bind of an object that may be bound is kept until its first push, once the request to its home is sent (R198). -/
theorem exec_soMirrorBind_of_sent {d : Dev} {tag : Nat} (hop : c.par 7 1 = 0)
    (hfirst : (s.dev.so.binds.any fun b => b.cmd == slot) = false)
    (hallowed : s.dev.soAllowed c.ctx (c.par 0 2 % 4096) = true) (hidle : s.dev.soWaited (c.par 0 2 % 4096) = false)
    (hkind : s.dev.soKind (c.par 0 2 % 4096) ≠ 3) (hfree : (s.dev.so.binds.any fun b => b.so == c.par 0 2 % 4096) = false)
    (hsent : s.dev.request { s.dev.newPkt ptMirrorBind (c.par 2 2 % 4096) (c.par 6 1 % 16) c.ctx (c.par 4 2 % 4096) with
      arg := c.par 0 2 % 4096 } (.bind slot) c.ctx 0 0 0 = (d, some tag)) :
    exec (.soMirrorBind slot) s = .next (s.after { d with so := { d.so with
      binds := d.so.binds ++ [⟨slot, c.par 0 2 % 4096, c.par 2 2 % 4096, c.par 4 2 % 4096, c.par 6 1 % 16,
        if c.par 8 2 = 0 then 2 else c.par 8 2⟩] } }) :=
  (exec_soMirrorBind ..).trans <| State.run_of_effect <| (Dev.onCmd_runs hrun _).trans <|
    (if_neg (by simp [hop, hfirst])).trans <| (if_neg (by simp [hallowed])).trans <|
    (if_neg (by simp [hidle, hkind, hfree])).trans <| by simp only [hsent]

/-- A mirror becomes a COUNTER again and is no longer one of the mirrors, whose status follows (R202). -/
def Dev.mirrorCleared (d : Dev) (n : Nat) : Dev :=
  let d := d.setReg (Reg.SO_CFG.KIND n).reg (b2n (d.on (Reg.SO_CFG.WRAPPED n)) * 4)
  let d : Dev := { d with so := { d.so with mirrors := kvDel n d.so.mirrors } }
  d.wr Reg.SO_STATUS.MIRRORS d.so.mirrors.length

/-- The unbind of a mirror clears it, tells its home and completes (R202). -/
theorem exec_soMirrorUnbind_of_mirror {n : Nat} {m : Mirror} (hn : c.par 0 2 % 4096 = n) (hop : c.par 7 1 = 1)
    (hallowed : s.dev.soAllowed c.ctx n = true) (hidle : s.dev.soWaited n = false)
    (hfree : (s.dev.so.binds.any fun b => b.so == n) = false) (hkind : s.dev.soKind n = 3)
    (hmirror : kvGet n s.dev.so.mirrors = some m) :
    exec (.soMirrorUnbind slot) s = .next (s.after (((s.dev.mirrorCleared n).sendUnbind (s.dev.rd (Reg.SO_CFG.HOME_DEV n))
      m.homeCtx c.ctx (s.dev.rd (Reg.SO_CFG.ARG n)) n).endCmd slot 0 0 0)) := by
  subst hn
  refine (exec_soMirrorUnbind ..).trans <| State.run_of_effect <| (Dev.onCmd_runs hrun _).trans <|
    (if_neg (by simp [hop])).trans <| (if_neg (by simp [hallowed])).trans <| (if_neg (by simp [hidle, hfree])).trans <|
    (if_neg (by simp [hkind])).trans ?_
  simp only [hmirror]
  rfl

end BoundCommand

/-- A bind without its first push in time ends, and its home is told (R198). -/
theorem exec_mirrorBindTimeout_of_bind {s : State} {slot : Nat} {b : Bind} {c : Cmd}
    (hbind : (s.dev.so.binds.find? fun b => b.cmd == slot) = some b) (hcmd : s.dev.cmd? slot = some c) :
    exec (.mirrorBindTimeout slot) s = .next (s.after ((s.dev.endBind b true c.ctx).endCmd slot 0x05 0x0702 0)) :=
  (exec_mirrorBindTimeout ..).trans <| State.run_of_effect <| by simp only [hbind, hcmd]

/-- A live mirror that no push has reached in time becomes STALE (R201). -/
theorem exec_mirrorStale_of_live {s : State} {n : Nat} (hkind : s.dev.soKind n = 3) (hlive : s.dev.soStale n = false)
    (hclk : s.dev.coreClocks = true) :
    let d := (s.dev.wr (Reg.SO_CFG.STALE n) 1).inc Reg.SO_ERR.STALE
    exec (.mirrorStale n) s = .next (s.after ((d.raise 0x0701 clsContained none 0 n
      (d.rd (Reg.SO_CFG.HOME_DEV n) * 65536 + d.rd (Reg.SO_CFG.ARG n)) 0).soFailWaits n 0x05 0x0701)) :=
  (exec_mirrorStale ..).trans <| State.run_of_effect <| if_pos (by simp [hkind, hlive, hclk])

/-- The mirrors here of the object that a push is about (R199). -/
def Dev.mirrorsOf (d : Dev) (k : FabPkt) : List Nat :=
  (d.so.mirrors.map fun m => m.1).filter fun n => d.rd (Reg.SO_CFG.HOME_DEV n) == k.src && d.rd (Reg.SO_CFG.ARG n) == k.addr % 4096

/-- Those of them that are not STALE. -/
def Dev.liveMirrorsOf (d : Dev) (k : FabPkt) : List Nat := (d.mirrorsOf k).filter fun n => !d.soStale n

/-- The bind under way of the object that a push is about (R198). -/
def Dev.bindOf? (d : Dev) (k : FabPkt) : Option Bind := d.so.binds.find? fun b => b.dev == k.src && b.home == k.addr % 4096

section Push
variable {s : State} {k : FabPkt} {d : Dev} (htaken : s.dev.PktTaken ptSoPush k d)
include htaken

/-- A push for a bind under way reaches the live mirrors and ends the bind. -/
theorem exec_soPush_of_bind {b : Bind} (hbind : d.bindOf? k = some b) :
    exec .soPush s = .next (s.after ((d.forEach (d.liveMirrorsOf k) (Dev.mirrorPush k)).bindPush b k)) := by
  rw [Dev.bindOf?] at hbind
  refine (exec_soPush s).trans <| State.run_of_effect <| (Dev.onPkt_taken htaken _).trans ?_
  simp only [hbind]
  rfl

/-- Without a bind a push reaches the live mirrors. -/
theorem exec_soPush_of_live (hbind : d.bindOf? k = none) (hlive : d.liveMirrorsOf k ≠ []) :
    exec .soPush s = .next (s.after (d.forEach (d.liveMirrorsOf k) (Dev.mirrorPush k))) := by
  rw [Dev.bindOf?] at hbind
  refine (exec_soPush s).trans <| State.run_of_effect <| (Dev.onPkt_taken htaken _).trans ?_
  simp only [hbind]
  exact if_pos (by simpa [Dev.liveMirrorsOf, Dev.mirrorsOf] using hlive)

end Push

/-! ### The home side (07 R198, R199, R202) -/

/-- The push entries but the one, if any, for the mirror that a packet is about. -/
def Dev.otherPushes (d : Dev) (k : FabPkt) : List PushEntry :=
  d.so.pushes.filter fun e => !(e.home == k.addr % 4096 && e.dev == k.src && e.mirror == k.arg % 4096)

/-- The push entry that a bind request asks for (R198). -/
def Dev.pushEntry (d : Dev) (k : FabPkt) : PushEntry := ⟨k.addr % 4096, k.src, k.arg % 4096, k.sctx, d.timeNs⟩

/-- Other push entries, whose status follows. -/
def Dev.withPushes (d : Dev) (es : List PushEntry) : Dev :=
  ({ d with so := { d.so with pushes := es } } : Dev).wr Reg.SO_PUSH_STATUS.ENTRIES es.length

/-- An admitted bind request makes its entry the newest, replacing one for the same mirror, and is pushed the present value. -/
theorem exec_mirrorBind_of_admitted {s : State} {k : FabPkt} {d : Dev} (htaken : s.dev.PktTaken ptMirrorBind k d)
    (hadmitted : d.soRemoteDetail k = 0) (hepoch : d.epochDiffers k = false) (hue : d.so.ue.contains (k.addr % 4096) = false)
    (hroom : (d.otherPushes k).length < 4096) (hhome : ((d.otherPushes k).filter fun e => e.home == k.addr % 4096).length < 64) :
    exec .mirrorBind s = .next (s.after (Dev.soPushTo (d.pushEntry k) (d.withPushes (d.otherPushes k ++ [d.pushEntry k])))) := by
  have hfits : ¬ (decide ((d.otherPushes k).length ≥ 4096)
      || decide (((d.otherPushes k).filter fun e => e.home == k.addr % 4096).length ≥ 64)) = true := by
    simp only [Bool.or_eq_true, decide_eq_true_eq]
    omega
  exact (exec_mirrorBind s).trans <| State.run_of_effect <| (Dev.onPkt_taken htaken _).trans <|
    (if_neg (by simp [hadmitted])).trans <| (if_neg (by simp [hepoch])).trans <| (if_neg (by simpa using hue)).trans (if_neg hfits)

/-- The unbind of a mirror removes its entry (R202). -/
theorem exec_mirrorUnbind_of_taken {s : State} {k : FabPkt} {d : Dev} (htaken : s.dev.PktTaken ptMirrorUnbind k d) :
    exec .mirrorUnbind s = .next (s.after (d.withPushes (d.otherPushes k))) :=
  (exec_mirrorUnbind s).trans <| State.run_of_effect (Dev.onPkt_taken htaken _)

/-- The heartbeat of a mirror sends it the present value again (R199). -/
theorem exec_soHeartbeat_of_entry {s : State} {n dev mirror : Nat} {e : PushEntry} (hclk : s.dev.coreClocks = true)
    (hentry : (s.dev.so.pushes.find? fun e => e.home == n && e.dev == dev && e.mirror == mirror) = some e) :
    exec (.soHeartbeat n dev mirror) s = .next (s.after (Dev.soPushTo e s.dev)) :=
  (exec_soHeartbeat ..).trans <| State.run_of_effect <| (if_neg (by simp [hclk])).trans (by simp only [hentry])

/-- Settles O23, row by row. -/
theorem mirrorCommandsComplete : Obligations.MirrorCommandsComplete := by
  refine ⟨?bind, ?unbind, ?timeout, ?stale, ?push, ?homeBind, ?homeUnbind, ?heartbeat⟩
  case bind =>
    exact fun _ _ _ _ _ hrun hop hfirst hallowed hidle hkind hfree hsent =>
      exec_soMirrorBind_of_sent hrun hop hfirst hallowed hidle hkind hfree hsent
  case unbind =>
    exact fun _ _ _ _ hrun hop hallowed hidle hfree hkind hmirror =>
      exec_soMirrorUnbind_of_mirror hrun rfl hop hallowed hidle hfree hkind hmirror
  case timeout => exact fun _ _ _ _ hbind hcmd => exec_mirrorBindTimeout_of_bind hbind hcmd
  case stale => exact fun _ _ hkind hlive hclk => exec_mirrorStale_of_live hkind hlive hclk
  case push =>
    exact fun _ _ _ htaken => ⟨fun _ hbind => exec_soPush_of_bind htaken hbind, exec_soPush_of_live htaken⟩
  case homeBind =>
    exact fun _ _ _ htaken hadmitted hepoch hue hroom hhome =>
      exec_mirrorBind_of_admitted htaken hadmitted hepoch hue hroom hhome
  case homeUnbind => exact fun _ _ _ htaken => exec_mirrorUnbind_of_taken htaken
  case heartbeat => exact fun _ _ _ _ _ hclk hentry => exec_soHeartbeat_of_entry hclk hentry

end Sys2Proof.Machine
end

