-- ==== Sys2Proof/Proofs/MatrixArray.lean ====
section
/-!
PROOFS. The matrix array (chapter 08): what each row does on an array that is in service and powered. The fronts of a flip move in one row
each and a pass starts with its descriptor (the model's choice, notes/assumptions/24.md); the stages of ARRAY_RUN are done directly (the
model's choice, notes/assumptions/18.md).
-/
namespace Sys2Proof.Machine

/-! ### The meaning of each row -/

theorem exec_arrayLoad (id : Nat) (s : State) : exec (.arrayLoad id) s = execArrayLoad id s := by rfl

theorem exec_broadcastFlip (core : Nat) (s : State) : exec (.broadcastFlip core) s = execBroadcastFlip core s := by rfl

theorem exec_relayFrontEnter (core : Nat) (s : State) : exec (.relayFrontEnter core) s = execRelayFrontEnter core s := by rfl

theorem exec_arrayPass (id : Nat) (s : State) : exec (.arrayPass id) s = execArrayPass id s := by rfl

theorem exec_arrayColumnFault (core col : Nat) (s : State) :
    exec (.arrayColumnFault core col) s = execArrayColumnFault core col s := by rfl

theorem exec_arrayRun (slot : Nat) (s : State) : exec (.arrayRun slot) s = execArrayRun slot s := by rfl

theorem exec_diagArrayTest (slot : Nat) (fails : List Nat) (s : State) :
    exec (.diagArrayTest slot fails) s = execDiagArrayTest slot fails s := by rfl

/-! ### Loads and switches (08 R210, R211, R214, R224, R225) -/

/-- The device once an array descriptor has started and its command has taken the array. -/
def Dev.arrTakenBy (d : Dev) (t : Td) : Dev := (d.tdStart t).setArr t.core { (d.tdStart t).arrOf t.core with owner := some t.cmd }

/-- The rows and columns of the tile that an ARRAY_LOAD names. -/
def Td.tileGeo (t : Td) : Geo := ⟨t.f 0x24 2, t.f 0x26 2, t.f 0x28 2, t.f 0x2A 2⟩

/-- Each row of that tile with the address its weights lie at. -/
def Td.tileRows (t : Td) : List (Nat × Nat) :=
  (List.range t.tileGeo.rows).map fun i => (t.tileGeo.row + i, t.f 0x18 8 + i * t.f 0x2C 4)

/-- Rows of weights read for a tile are in the shadow registers, its block PENDING (R210). -/
def Dev.tilePending (d : Dev) (t : Td) (rows : List (Nat × List Nat)) : Dev :=
  let a := d.arrOf t.core
  let b := t.f 0x22 1 % 16
  let tile : KV (KV Nat) := rows.map fun x => (x.1, ((List.range x.2.length).zip x.2).map fun y => (t.tileGeo.col + y.1, y.2))
  (d.setArr t.core { a with shadow := overlay tile a.shadow t.tileGeo, pendGeo := kvPut b t.tileGeo a.pendGeo }).wr
    (Reg.ARR_BLOCK.PENDING t.core b) 1

/-- A load whose addresses are aligned, whose tile fits the columns in service and whose rows are read makes its block PENDING. It is then
complete, unless it waits for a switch. -/
theorem exec_arrayLoad_of_read {s : State} {id : Nat} {t : Td} {d : Dev} {rows : List (Nat × List Nat)}
    (hstart : s.dev.TdStarts id 0x10 t) (hopen : s.dev.arrOpenTo t.core t.cmd = true)
    (hready : (s.dev.tdStart t).arrRefusal t.core = none) (hsrc : t.f 0x18 8 % 128 = 0) (hstride : t.f 0x2C 4 % 128 = 0)
    (hfits : t.tileGeo.col + t.tileGeo.cols ≤ (s.dev.arrTakenBy t).rd (Reg.ARR_COLS.COLS t.core))
    (hread : (s.dev.arrTakenBy t).loadRows t.core t.ctx t.tileGeo.cols t.tileRows = (d, .ok rows)) :
    exec (.arrayLoad id) s = .next (s.after
      (if t.f 0x21 1 = 0 ∧ t.f 0x20 1 = 0 then (d.tilePending t rows).loadDone t else d.tilePending t rows)) := by
  have haligned : ¬ (t.f 0x18 8 % 128 ≠ 0 ∨ t.f 0x2C 4 % 128 ≠ 0) := by omega
  refine (exec_arrayLoad ..).trans <| State.run_of_effect <| (Dev.onArr_starts hstart hopen hready _).trans <|
    (if_neg haligned).trans <| (if_neg (Nat.not_lt.2 hfits)).trans ?_
  rw [Dev.arrTakenBy, Td.tileRows, Td.tileGeo] at hread
  simp only [hread]
  rfl

/-- A switch that is due to a load of a FLIP is of every PENDING block at once (R224). -/
theorem exec_broadcastFlip_of_due {s : State} {core : Nat} {t : Td} (hdue : s.dev.switchDue core false = some t) :
    exec (.broadcastFlip core) s = .next (s.after ((s.dev.switchBlocks core (s.dev.arrOf core).pendGeo).loadDone t)) :=
  (exec_broadcastFlip ..).trans <| State.run_of_effect <| by simp only [hdue]

/-- A switch that is due to a load in relay mode is of the load's own block (R225). -/
theorem exec_relayFrontEnter_of_due {s : State} {core : Nat} {t : Td} (hdue : s.dev.switchDue core true = some t) :
    exec (.relayFrontEnter core) s = .next (s.after
      ((s.dev.switchBlocks core ((s.dev.arrOf core).pendGeo.filter fun x => x.1 == t.f 0x22 1 % 16)).loadDone t)) :=
  (exec_relayFrontEnter ..).trans <| State.run_of_effect <| by simp only [hdue]

/-! ### Passes (08 R215–R219) -/

/-- An earlier load of a descriptor's command has yet to switch the weights that a pass needs (R214). -/
def Dev.switchAwaited (d : Dev) (t : Td) : Bool :=
  (d.earlierOfCmd t).any fun u => tdKind u.td == 0x10 && !u.finished && (u.f 0x20 1 != 0 || u.f 0x21 1 != 0)

/-- A pass that has passed its checks: none of its rows is streamed, and its blocks keep the geometry of this moment. -/
def Dev.passBegun (d : Dev) (id : Nat) (t : Td) : Dev :=
  (d.setArr t.core { d.arrOf t.core with pass := some ⟨id, 0, (passBlocks (t.f 0x2A 2)).map (d.blockGeo t.core), 0⟩ }).wr
    (Reg.ARR_STATUS.MODE t.core) (t.f 0x28 1)

/-- A pass that no switch holds back and that passes its checks begins and streams its rows. -/
theorem exec_arrayPass_of_starts {s : State} {id : Nat} {t : Td} (hstart : s.dev.TdStarts id 0x11 t) (hfirst : t.started = false)
    (hswitched : s.dev.switchAwaited t = false) (hopen : s.dev.arrOpenTo t.core t.cmd = true)
    (hready : (s.dev.tdStart t).arrRefusal t.core = none) (hpassed : (s.dev.arrTakenBy t).passCheck t = none) :
    exec (.arrayPass id) s = .next (s.after (((s.dev.arrTakenBy t).passBegun id t).passRows t (t.f 0x20 4 + 1))) := by
  refine (exec_arrayPass ..).trans <| State.run_of_effect ?_
  simp only [hstart.found]
  refine (if_neg (not_not.2 hstart.kind)).trans <| (if_neg (by simp [hfirst])).trans <|
    (if_neg (Bool.eq_false_iff.1 hswitched)).trans <| (Dev.onArr_starts hstart hopen hready _).trans ?_
  rw [Dev.arrTakenBy] at hpassed
  simp only [hpassed]
  rfl

/-- A pass under way goes on with its rows. -/
theorem exec_arrayPass_of_started {s : State} {id : Nat} {t : Td} (hfound : s.dev.td? id = some t) (hkind : tdKind t.td = 0x11)
    (hstarted : t.started = true) (hopen : t.finished = false) (hlive : s.dev.live = true) :
    exec (.arrayPass id) s = .next (s.after (s.dev.passRows t (t.f 0x20 4 + 1))) := by
  refine (exec_arrayPass ..).trans <| State.run_of_effect ?_
  simp only [hfound]
  exact (if_neg (not_not.2 hkind)).trans <| (if_pos hstarted).trans <| if_pos (by simp [hlive, hopen])

/-! ### Column faults (08 R231) -/

/-- The loads and passes that run on a core. -/
def Dev.arrTdsOn (d : Dev) (core : Nat) : List Td :=
  d.seq.tds.filter fun t => t.core == core && t.started && !t.finished && (tdKind t.td == 0x10 || tdKind t.td == 0x11)

/-- A column fault is reported and counted; it takes the array out of work, and the first one is kept in FAULT_COL. -/
def Dev.columnFaulted (d : Dev) (core col : Nat) (ctx : Option Nat) : Dev :=
  let d := d.raise 0x0801 clsContained ctx core col 0 0 .yes
  let d := if d.rd (Reg.ARR_STATUS.FAULT_COL core) = 0xFF then d.wr (Reg.ARR_STATUS.FAULT_COL core) col else d
  (d.wr (Reg.ARR_STATUS.FAULTED core) 1).inc (Reg.ARR_FAULTS.COLUMN core)

section ColumnFault
variable {s : State} {core : Nat} (hclk : s.dev.coreClocks = true) (howner : (s.dev.arrOf core).owner = none)
  (hnone : s.dev.arrTdsOn core = [])
include hclk howner hnone

/-- A column fault on an array that no descriptor uses fails the ARRAY_RUN on its core, if there is one, which is then who it is
reported against. -/
theorem exec_arrayColumnFault_of_noTds (col : Nat) : exec (.arrayColumnFault core col) s = .next (s.after
    (match s.dev.arrayRunOn core with
      | some c => (s.dev.columnFaulted core col (some c.ctx)).failStaged c.slot ⟨0x0E, 0x0820, 0⟩
      | none => s.dev.columnFaulted core col none)) := by
  rw [Dev.arrTdsOn] at hnone
  refine (exec_arrayColumnFault ..).trans <| State.run_of_effect <| (if_neg (by simp [hclk])).trans ?_
  simp only [hnone, howner, List.map_nil, Dev.forEach_nil, Option.bind_none]
  cases s.dev.arrayRunOn core <;> rfl

theorem exec_arrayColumnFault_of_idle (hrun : s.dev.arrayRunOn core = none) (col : Nat) :
    exec (.arrayColumnFault core col) s = .next (s.after (s.dev.columnFaulted core col none)) := by
  rw [exec_arrayColumnFault_of_noTds hclk howner hnone, hrun]

theorem exec_arrayColumnFault_of_run {c : Cmd} (hrun : s.dev.arrayRunOn core = some c) (col : Nat) :
    exec (.arrayColumnFault core col) s =
      .next (s.after ((s.dev.columnFaulted core col (some c.ctx)).failStaged c.slot ⟨0x0E, 0x0820, 0⟩)) := by
  rw [exec_arrayColumnFault_of_noTds hclk howner hnone, hrun]

end ColumnFault

/-! ### ARRAY_RUN (08 R237) -/

/-- The core of an ARRAY_RUN: chosen at its first stage, then kept. -/
def Dev.runCore (d : Dev) (c : Cmd) : Nat := if c.total = 0 then d.arrCore (c.par 0x37 1) else c.cores.headD 0

/-- The stages of an ARRAY_RUN on a core: its M blocks times its N tiles. -/
def Dev.runTotal (d : Dev) (c : Cmd) (core : Nat) : Nat :=
  cdiv c.runShape.m (runRows c.runShape.k) * cdiv c.runShape.n (max 1 (d.rd (Reg.ARR_COLS.COLS core)))

/-- The first stage assigns the core and counts the stages. -/
def Dev.runAssigned (d : Dev) (slot core : Nat) (c : Cmd) : Dev :=
  if c.total = 0 then (d.assign slot [core]).updCmd slot fun y => { y with total := d.runTotal c core } else d

/-- A stage that succeeds counts as done, and the last one completes the command. -/
theorem exec_arrayRun_of_stage {s : State} {slot : Nat} {c c' : Cmd} {d : Dev} (hrun : s.dev.RoutineRuns slot 0x0302 c)
    (howner : (s.dev.arrOf (s.dev.runCore c)).owner = none) (hready : s.dev.runRefusal (s.dev.runCore c) = none)
    (hstage : (s.dev.runAssigned slot (s.dev.runCore c) c).runStage c (s.dev.runCore c) c.done = ⟨d, none⟩)
    (hcmd : (d.pieceDone slot).cmd? slot = some c') :
    exec (.arrayRun slot) s = .next (s.after
      (if c'.done = c'.total then (d.pieceDone slot).okCmd slot c'.progress else d.pieceDone slot)) := by
  rw [Dev.runCore] at howner hready hstage
  rw [Dev.runAssigned, Dev.runTotal] at hstage
  refine (exec_arrayRun ..).trans <| State.run_of_effect <| (Dev.onRoutine_runs hrun _).trans <|
    (if_neg (by rw [howner]; decide)).trans ?_
  simp only [hready, hstage, hcmd]

/-! ### DIAG_ARRAY_TEST (08 R238) -/

/-- The physical columns that fail the test. -/
def failedColumns (fails : List Nat) : List Nat := (List.range 192).filter fun k => fails.contains k

/-- Those of them that are not bypassed. -/
def Dev.failedInUse (d : Dev) (core : Nat) (fails : List Nat) : List Nat :=
  (failedColumns fails).filter fun k => !d.bypassed core k

/-- The test is the one piece of its command, on its core, whose map shows the columns that failed. -/
def Dev.columnsTested (d : Dev) (slot core : Nat) (fails : List Nat) : Dev :=
  ((d.assign slot [core]).updCmd slot fun c => { c with total := 1, done := 1 }).forEach (List.range 6) fun i d =>
    d.wr (Reg.ARR_TEST_MAP.COLS core i) ((((failedColumns fails).filter fun k => k / 32 == i).map fun k => 2 ^ (k % 32)).sum)

/-- RESULT: how many columns in use failed, how many at all, and the first one in use. -/
def Dev.testResult (d : Dev) (core : Nat) (fails : List Nat) : Nat :=
  (d.failedInUse core fails).length + (failedColumns fails).length * 256 + (d.failedInUse core fails).headD 255 * 65536

/-- The test passes exactly when no column in use failed. -/
theorem exec_diagArrayTest_of_ready {s : State} {slot core : Nat} {c : Cmd} (hrun : s.dev.RoutineRuns slot 0x0801 c)
    (hcore : c.par 0 1 % 2 = core) (howner : (s.dev.arrOf core).owner = none) (hready : s.dev.arrRefusal core = none)
    (fails : List Nat) :
    exec (.diagArrayTest slot fails) s = .next (s.after
      (if (s.dev.failedInUse core fails).isEmpty then
        (s.dev.columnsTested slot core fails).okCmd slot (s.dev.testResult core fails)
      else (s.dev.columnsTested slot core fails).endCmd slot 0x0E 0x0821 (s.dev.testResult core fails))) := by
  subst hcore
  refine (exec_diagArrayTest ..).trans <| State.run_of_effect <| (Dev.onRoutine_runs hrun _).trans <|
    (if_neg (by simp [howner])).trans ?_
  simp only [hready]
  rfl

/-- Settles O26, row by row. -/
theorem arrayCommandsComplete : Obligations.ArrayCommandsComplete := by
  refine ⟨?load, ?flip, ?relay, ?pass, ?passAgain, ?fault, ?faultOfRun, ?run, ?test⟩
  case load =>
    exact fun _ _ _ _ _ hstart hopen hready hsrc hstride hfits hread =>
      exec_arrayLoad_of_read hstart hopen hready hsrc hstride hfits hread
  case flip => exact fun _ _ _ hdue => exec_broadcastFlip_of_due hdue
  case relay => exact fun _ _ _ hdue => exec_relayFrontEnter_of_due hdue
  case pass =>
    exact fun _ _ _ hstart hfirst hswitched hopen hready hpassed =>
      exec_arrayPass_of_starts hstart hfirst hswitched hopen hready hpassed
  case passAgain =>
    exact fun _ _ _ hfound hkind hstarted hopen hlive => exec_arrayPass_of_started hfound hkind hstarted hopen hlive
  case fault => exact fun _ _ col hclk hrun howner hnone => exec_arrayColumnFault_of_idle hclk howner hnone hrun col
  case faultOfRun => exact fun _ _ col _ hclk hrun howner hnone => exec_arrayColumnFault_of_run hclk howner hnone hrun col
  case run => exact fun _ _ _ _ _ hrun howner hready hstage hcmd => exec_arrayRun_of_stage hrun howner hready hstage hcmd
  case test => exact fun _ _ fails _ hrun howner hready => exec_diagArrayTest_of_ready hrun rfl howner hready fails

end Sys2Proof.Machine
end

