-- ==== Sys2Proof/Proofs/VectorLanes.lean ====
section
/-!
PROOFS. The lane instructions of the vector engine (09 R255–R261; 16 R436): each body instruction but PUT and CVTFI is a lane function,
and completes with the results of that function when its output writes succeed. COPY, ABS, NEG and COPYSIGN keep the pattern of a NaN
(the model's choice, notes/assumptions/20.md).
-/
namespace Sys2Proof.Machine

/-! ### What a lane instruction is -/

/-- A row of the table of R259: a body instruction, its opcode, and what it gives a lane of a run on a core. -/
abbrev VeRow := (Nat → Instr) × Nat × (Dev → Nat → VeRun → Nat → Lane → Nat)

/-- The machine gives the instruction of a row the row's opcode and lane function. -/
def VeRow.Means (x : VeRow) : Prop := ∀ core s, exec (x.1 core) s = s.run fun d => d.veDo core x.2.1 (x.2.2 d core)

/-- The run goes on, its new result the newest of the last eight (R257). -/
def VeRun.pushed (r : VeRun) (res : List Nat) : VeRun := { r with pos := r.pos + 1, res := (res :: r.res).take 8 }

/-- The run of a core is replaced. -/
def Dev.veRuns (d : Dev) (core : Nat) (r : VeRun) : Dev := { d with ve := kvPut core r d.ve }

/-- The result that the instruction of a row has for the iteration of a run. -/
def VeRow.result (x : VeRow) (d : Dev) (core : Nat) (r : VeRun) : List Nat := (r.lanes r.word).map (x.2.2 d core r r.word)

/-- An instruction that a run has come to completes with its lane function when its output writes succeed. -/
theorem VeRow.Means.completes {x : VeRow} (hmeans : x.Means) {s : State} {core : Nat} {r : VeRun} {d : Dev}
    (hat : s.dev.VeAt core x.2.1 r)
    (hwrite : s.dev.veWrite core r.ctx (r.writes r.word (x.result s.dev core r) fun _ => true) = ⟨d, none⟩) :
    exec (x.1 core) s = .next (s.after (d.veRuns core (r.pushed (x.result s.dev core r)))) :=
  (hmeans core s).trans <| State.run_of_effect <| Dev.veDo_at hat _ hwrite

/-! ### Arithmetic, opcodes 0x00–0x1A -/

section
variable (core : Nat) (s : State)

theorem exec_veNop : exec (.veNop core) s = s.run fun d => d.veDo core 0x00 fun _ _ _ => 0 := by rfl

theorem exec_veCopy : exec (.veCopy core) s = s.run fun d => d.veDo core 0x03 fun _ _ l => l.a := by rfl

theorem exec_veAdd : exec (.veAdd core) s = s.run fun d => d.veDo core 0x08 fun _ _ l => add32 l.a l.b := by rfl

theorem exec_veSub : exec (.veSub core) s = s.run fun d => d.veDo core 0x09 fun _ _ l => sub32 l.a l.b := by rfl

theorem exec_veMul : exec (.veMul core) s = s.run fun d => d.veDo core 0x0A fun _ _ l => mul32 l.a l.b := by rfl

theorem exec_veFma : exec (.veFma core) s = s.run fun d => d.veDo core 0x0B fun _ _ l => fma32 l.a l.b l.c := by rfl

theorem exec_veFms : exec (.veFms core) s = s.run fun d => d.veDo core 0x0C fun _ _ l => fms32 l.a l.b l.c := by rfl

theorem exec_veFnma : exec (.veFnma core) s = s.run fun d => d.veDo core 0x0D fun _ _ l => fnma32 l.a l.b l.c := by rfl

theorem exec_veMin : exec (.veMin core) s = s.run fun d => d.veDo core 0x0E fun _ _ l => min32 false l.a l.b := by rfl

theorem exec_veMax : exec (.veMax core) s = s.run fun d => d.veDo core 0x0F fun _ _ l => max32 false l.a l.b := by rfl

theorem exec_veMinnum : exec (.veMinnum core) s = s.run fun d => d.veDo core 0x10 fun _ _ l => min32 true l.a l.b := by rfl

theorem exec_veMaxnum : exec (.veMaxnum core) s = s.run fun d => d.veDo core 0x11 fun _ _ l => max32 true l.a l.b := by rfl

theorem exec_veAbs : exec (.veAbs core) s = s.run fun d => d.veDo core 0x12 fun _ _ l => l.a % signBit32 := by rfl

theorem exec_veNeg : exec (.veNeg core) s = s.run fun d => d.veDo core 0x13 fun _ _ l => neg32 l.a := by rfl

theorem exec_copysign : exec (.copysign core) s =
    s.run fun d => d.veDo core 0x14 fun _ _ l => l.a % signBit32 + l.b / signBit32 * signBit32 := by rfl

theorem exec_veClamp : exec (.veClamp core) s =
    s.run fun d => d.veDo core 0x15 fun _ _ l => min32 false (max32 false l.a l.b) l.c := by rfl

theorem exec_lerp : exec (.lerp core) s = s.run fun d => d.veDo core 0x16 fun _ _ l => fma32 l.c (sub32 l.b l.a) l.a := by rfl

theorem exec_mulp2 : exec (.mulp2 core) s = s.run fun d => d.veDo core 0x17 fun _ w l => mulp2 (toSigned 9 (veMod w)) l.a := by rfl

theorem exec_nrrcp : exec (.nrrcp core) s = s.run fun d => d.veDo core 0x18 fun _ _ l => nrrcp l.a l.b := by rfl

theorem exec_nrrsq : exec (.nrrsq core) s = s.run fun d => d.veDo core 0x19 fun _ _ l => nrrsq l.a l.b := by rfl

theorem exec_rint : exec (.rint core) s = s.run fun d => d.veDo core 0x1A fun _ w l => rint32 (veMod w % 4) l.a := by rfl

/-! ### Comparison, logic, integers, conversions, special functions and masks, opcodes 0x20–0x3B -/

theorem exec_veCmp : exec (.veCmp core) s =
    s.run fun d => d.veDo core 0x20 fun _ w l => mask32 (cmp32 (veMod w % 8) l.a l.b) := by rfl

theorem exec_veSel : exec (.veSel core) s = s.run fun d => d.veDo core 0x21 fun _ _ l => if bitAt l.a 31 then l.b else l.c := by rfl

theorem exec_fclass : exec (.fclass core) s =
    s.run fun d => d.veDo core 0x22 fun _ w l => mask32 (bitAt (veMod w) (fclass32 l.a)) := by rfl

theorem exec_veAnd : exec (.veAnd core) s = s.run fun d => d.veDo core 0x24 fun _ _ l => l.a &&& l.b := by rfl

theorem exec_veOr : exec (.veOr core) s = s.run fun d => d.veDo core 0x25 fun _ _ l => l.a ||| l.b := by rfl

theorem exec_veXor : exec (.veXor core) s = s.run fun d => d.veDo core 0x26 fun _ _ l => l.a ^^^ l.b := by rfl

theorem exec_veAndn : exec (.veAndn core) s = s.run fun d => d.veDo core 0x27 fun _ _ l => l.a &&& (0xFFFFFFFF - l.b) := by rfl

theorem exec_veShl : exec (.veShl core) s =
    s.run fun d => d.veDo core 0x28 fun _ w l => l.a * 2 ^ (veMod w % 32) % 2 ^ 32 := by rfl

theorem exec_veShr : exec (.veShr core) s = s.run fun d => d.veDo core 0x29 fun _ w l => l.a / 2 ^ (veMod w % 32) := by rfl

theorem exec_veShra : exec (.veShra core) s = s.run fun d => d.veDo core 0x2A fun _ w l => shra32 (veMod w % 32) l.a := by rfl

theorem exec_iadd : exec (.iadd core) s = s.run fun d => d.veDo core 0x2B fun _ _ l => (l.a + l.b) % 2 ^ 32 := by rfl

theorem exec_isub : exec (.isub core) s = s.run fun d => d.veDo core 0x2C fun _ _ l => (l.a + (2 ^ 32 - l.b)) % 2 ^ 32 := by rfl

theorem exec_imul : exec (.imul core) s = s.run fun d => d.veDo core 0x2D fun _ _ l => l.a * l.b % 2 ^ 32 := by rfl

theorem exec_icmp : exec (.icmp core) s = s.run fun d => d.veDo core 0x2E fun _ w l => mask32 (icmp32 (veMod w) l.a l.b) := by rfl

theorem exec_cvtif : exec (.cvtif core) s = s.run fun d => d.veDo core 0x30 fun _ _ l => int32 (toSigned 32 l.a) := by rfl

theorem exec_rbf16 : exec (.rbf16 core) s = s.run fun d => d.veDo core 0x32 fun _ _ l => bf16to32 (to16 l.a) := by rfl

theorem exec_srbf16 : exec (.srbf16 core) s = s.run fun d => d.veDo core 0x33 fun r _ l => srbf16 l.a (r.draw l.i) := by rfl

theorem exec_veSfu : exec (.veSfu core) s =
    s.run fun d => d.veDo core 0x38 fun _ w l => sfuEval (d.sfuTable core (veMod w % 16)) l.a := by rfl

theorem exec_sfubas : exec (.sfubas core) s =
    s.run fun d => d.veDo core 0x39 fun _ w l => mul32 (sfuEval (d.sfuTable core (veMod w % 16)) (add32 l.a l.b)) l.c := by rfl

theorem exec_sfugate : exec (.sfugate core) s =
    s.run fun d => d.veDo core 0x3A fun _ w l => mul32 l.a (sfuEval (d.sfuTable core (veMod w % 16)) l.b) := by rfl

theorem exec_dropm : exec (.dropm core) s =
    s.run fun d => d.veDo core 0x3B fun r _ l => mask32 (decide (l.b ≤ r.draw l.i % 2 ^ 32)) := by rfl

end

/-! ### The tables of the statements -/

/-- Every instruction of a table whose rows the machine means completes with its lane function. -/
theorem veRows_complete {rows : List VeRow} (hmeans : ∀ x ∈ rows, x.Means) :
    ∀ x ∈ rows, ∀ (s : State) (core : Nat) (r : VeRun) (d : Dev), s.dev.VeAt core x.2.1 r →
      s.dev.veWrite core r.ctx (r.writes r.word (x.result s.dev core r) fun _ => true) = ⟨d, none⟩ →
      exec (x.1 core) s = .next (s.after (d.veRuns core (r.pushed (x.result s.dev core r)))) :=
  fun x hx _ _ _ _ hat hwrite => (hmeans x hx).completes hat hwrite

/-- Settles O28, row by row. -/
theorem veArithmeticComplete : Obligations.VeArithmeticComplete := by
  refine veRows_complete ?_
  simp only [List.forall_mem_cons]
  exact ⟨exec_veNop, exec_veCopy, exec_veAdd, exec_veSub, exec_veMul, exec_veFma, exec_veFms, exec_veFnma, exec_veMin, exec_veMax,
    exec_veMinnum, exec_veMaxnum, exec_veAbs, exec_veNeg, exec_copysign, exec_veClamp, exec_lerp, exec_mulp2, exec_nrrcp, exec_nrrsq,
    exec_rint, List.forall_mem_nil _⟩

/-- Settles O29, row by row. -/
theorem veLogicAndConversionsComplete : Obligations.VeLogicAndConversionsComplete := by
  refine veRows_complete ?_
  simp only [List.forall_mem_cons]
  exact ⟨exec_veCmp, exec_veSel, exec_fclass, exec_veAnd, exec_veOr, exec_veXor, exec_veAndn, exec_veShl, exec_veShr, exec_veShra,
    exec_iadd, exec_isub, exec_imul, exec_icmp, exec_cvtif, exec_rbf16, exec_srbf16, exec_veSfu, exec_sfubas, exec_sfugate, exec_dropm,
    List.forall_mem_nil _⟩

end Sys2Proof.Machine
end

