-- ==== Sys2Proof/Proofs/VectorControl.lean ====
section
/-!
PROOFS. The vector engine beyond its lanes (chapter 09): the run that a descriptor begins, its iterations, PUT and CVTFI, the program
store, the stages of VE_RUN. A tile is released at LOOP, and lanes past ACC_COLS take free values (the model's choices,
notes/assumptions/24.md); the search for a body is DEDUCED in notes/assumptions/20.md.
-/
namespace Sys2Proof.Machine

/-! ### The meaning of each row -/

theorem exec_veRunDesc (id : Nat) (s : State) : exec (.veRunDesc id) s = execVeRunDesc id s := by rfl

theorem exec_setvl (core : Nat) (s : State) : exec (.setvl core) s = execSetvl core s := by rfl

theorem exec_veLoop (core : Nat) (s : State) : exec (.veLoop core) s = execVeLoop core s := by rfl

theorem exec_vePut (core : Nat) (s : State) : exec (.vePut core) s = execVePut core s := by rfl

theorem exec_cvtfi (core : Nat) (s : State) : exec (.cvtfi core) s = execCvtfi core s := by rfl

theorem exec_veProgramLoad (slot : Nat) (s : State) : exec (.veProgramLoad slot) s = execVeProgramLoad slot s := by rfl

theorem exec_veRun (slot : Nat) (s : State) : exec (.veRun slot) s = execVeRun slot s := by rfl

/-- The guard of runs lets a run on a device at work have its effect. -/
theorem Dev.onVe_runs {d : Dev} {core : Nat} {r : VeRun} (hrun : kvGet core d.ve = some r) (hlive : d.live = true)
    (f : VeRun → Dev → Dev) : d.onVe core f = f r d := by
  rw [Dev.onVe, hrun]
  exact if_pos hlive

/-! ### A run begins (R241, R247, R262, R263) -/

/-- The device on which a VE_RUN descriptor that starts reads its stream table. -/
def Dev.veOpened (d : Dev) (t : Td) : Dev :=
  let d := d.tdStart t
  ((d.setArr t.core (d.arrOf t.core)).wr (Reg.VE_STATUS.SOURCE t.core) (t.f 0x28 1)).wr (Reg.VE_STATUS.CTX t.core) t.ctx

/-- The run that a descriptor begins with a stream table and a body. -/
def Dev.veFresh (d : Dev) (t : Td) (id : Nat) (tbl : List Byte) (ws : List Nat) : VeRun :=
  { td := id, cmd := t.cmd, ctx := t.ctx, source := t.f 0x28 1, tbl := tbl, body := ws, total := t.f 0x24 4, done := 0, pos := 0, vl := 0
    row := (d.veStart t).1, col := (d.veStart t).2, ins := [], acc := [], res := [], seed := d.maskSeed t.ctx t.cmd }

/-- The core runs it, and VE_BODY shows where its body stands. -/
def Dev.veBegins (d : Dev) (t : Td) (id : Nat) (tbl : List Byte) (ws : List Nat) : Dev :=
  ((d.veRuns t.core (d.veFresh t id tbl ws)).wr (Reg.VE_BODY.PC t.core) (t.f 0x20 2)).wr (Reg.VE_BODY.L t.core) (ws.length - 1)

/-- A VE_RUN descriptor whose body and streams pass their checks begins its run. -/
theorem exec_veRunDesc_of_passed {s : State} {id : Nat} {t : Td} {d : Dev} {tbl : List Byte} {ws : List Nat}
    (hstart : s.dev.TdStarts id 0x20 t) (hsource : t.f 0x28 1 = 0 ∨ (s.dev.arrOf t.core).owner = some t.cmd)
    (hfree : s.dev.sfuHolds t = false) (hpower : (s.dev.veOpened t).unitBlocked [domVe t.core] 0x0913 = none)
    (hread : (s.dev.veOpened t).coreRead t.core t.ctx (t.f 0x18 8) 320 = ⟨d, .ok tbl⟩)
    (hbody : d.findBody t.core t.ctx (d.tdOpcode t) (t.f 0x20 2) = .body ws)
    (hlegal : bodyFault tbl (t.f 0x28 1) (t.f 0x20 2) (ws.headD 0) ws.tail = none)
    (hsfu : d.bodySfuFault t.core t.ctx ws.tail = none)
    (hstreams : streamFault t.core (d.rd (Reg.ARR_COLS.COLS t.core)) (t.f 0x28 1) (veA (ws.headD 0)) tbl = none) :
    exec (.veRunDesc id) s = .next (s.after (d.veBegins t id tbl ws)) := by
  have hmay : ¬ ((t.f 0x28 1 != 0 && (s.dev.arrOf t.core).owner != some t.cmd) || s.dev.sfuHolds t) = true := by
    rcases hsource with h | h <;> simp [h, hfree]
  refine (exec_veRunDesc ..).trans <| State.run_of_effect ?_
  rw [hstart.found]
  refine (if_neg hmay).trans <| (Dev.onTd_starts hstart (by decide) _).trans ?_
  extract_lets pc _ e
  have hopened : e = s.dev.veOpened t := rfl
  clear_value e
  subst hopened
  -- With the answer a variable, the kernel does not evaluate the read where it compares the branches.
  generalize Dev.coreRead _ _ _ _ _ = answer at hread ⊢
  subst hread
  simp only [hpower, pc, hbody, hlegal, hsfu, hstreams]
  rfl

/-! ### An iteration begins (R250, R252) -/

/-- At the first column of a row, a run that takes array results takes the next one. -/
def Dev.veRowTaken (d : Dev) (core : Nat) (r : VeRun) : Dev × VeRun :=
  if r.source != 0 && r.col == 0 then d.veTake core r else (d, r)

/-- The vector length that SETVL sets. -/
def VeRun.nextVl (r : VeRun) : Nat := min r.cap (r.elems - r.col)

/-- The run with the vectors of its inputs; `free` counts the free values used so far. -/
def VeRun.iterating (r : VeRun) (free vl : Nat) (ins : List (List Nat)) : VeRun :=
  { r with pos := 1, vl := vl, ins := ins ++ [r.accVec free vl], res := [] }

/-- Lanes past ACC_COLS use up free values. -/
def Dev.accDrawn (d : Dev) (r : VeRun) (vl : Nat) : Dev :=
  if r.source != 0 && decide (fieldAt r.tbl 0x12 1 < r.col + vl) then { d with free := d.free + vl } else d

/-- SETVL begins the next iteration of a run that waits for nothing and stands before the last row of its streams. -/
theorem exec_setvl_of_inputs {s : State} {core vl : Nat} {r r' : VeRun} {d d' : Dev} {ins : List (List Nat)}
    (hrun : kvGet core s.dev.ve = some r) (hlive : s.dev.live = true) (hpos : r.pos = 0) (hleft : r.done < r.total)
    (hrows : ((veEnabled r.tbl).any fun n => (veStream r.tbl n).stride != 0 && decide ((veStream r.tbl n).rows ≤ r.row)) = false)
    (hready : s.dev.veWaiting core = false) (htaken : s.dev.veRowTaken core r = (d', r')) (hvl : r'.nextVl = vl)
    (hinputs : d'.veInputs core r' vl [0, 1, 2, 3] = (d, .ok ins)) :
    exec (.setvl core) s = .next (s.after
      (((d.accDrawn r' vl).veRuns core (r'.iterating d.free vl ins)).wr (Reg.VE_STATUS.VL core) vl)) := by
  have hnext : ¬ (r.pos != 0 || decide (r.total ≤ r.done)) = true := by simp [hpos, hleft]
  subst hvl
  rw [Dev.veRowTaken] at htaken
  rw [VeRun.nextVl] at hinputs ⊢
  refine (exec_setvl ..).trans <| State.run_of_effect <| (Dev.onVe_runs hrun hlive _).trans <| (if_neg hnext).trans <|
    (if_neg (by simp [hrows])).trans <| (if_neg (by simp [hready])).trans ?_
  simp only [htaken, hinputs]
  rfl

/-! ### An iteration ends (R252, R257, R259) -/

/-- The iteration of a run is the last one of its row. -/
def VeRun.endsRow (r : VeRun) : Bool := decide (r.elems ≤ r.col + r.vl)

/-- The run after one more iteration. -/
def VeRun.iterated (r : VeRun) : VeRun :=
  { r with done := r.done + 1, pos := 0, row := if r.endsRow then r.row + 1 else r.row, col := if r.endsRow then 0 else r.col + r.vl
           ins := [], res := [] }

/-- LOOP counts the iteration and its instructions, and releases a tile at the end of a row or of the run. -/
def Dev.veLooped (d : Dev) (core : Nat) (r : VeRun) : Dev :=
  let d := (d.incMod (Reg.VE_ITERS.COUNT core)).incMod (Reg.VE_ISSUED.COUNT core) r.len
  if r.source = 2 ∧ (r.endsRow = true ∨ r.total ≤ r.done + 1) then d.veRelease core else d

/-- The run is gone, its descriptor finished; a VE_RUN command keeps the row and column for its next stage (R267). -/
def Dev.veFinished (d : Dev) (core : Nat) (r : VeRun) : Dev :=
  (({ d with ve := kvDel core d.ve } : Dev).updCmd r.cmd fun c =>
    if c.opcode = 0x0305 then { c with aux := [r.row, r.col] ++ c.aux.drop 2 } else c).finishTd r.td

section Loop
variable {s : State} {core : Nat} {r : VeRun} (hrun : kvGet core s.dev.ve = some r) (hlive : s.dev.live = true)
  (hpos : r.pos = r.len + 1)
include hrun hlive hpos

theorem exec_veLoop_of_end : exec (.veLoop core) s = .next (s.after
    (if r.done + 1 < r.total then (s.dev.veLooped core r).veRuns core r.iterated
     else (s.dev.veLooped core r).veFinished core r.iterated)) :=
  (exec_veLoop ..).trans <| State.run_of_effect <| (Dev.onVe_runs hrun hlive _).trans (if_neg (not_not.2 hpos))

/-- LOOP starts the next iteration of a run that has one. -/
theorem exec_veLoop_of_left (hleft : r.done + 1 < r.total) :
    exec (.veLoop core) s = .next (s.after ((s.dev.veLooped core r).veRuns core r.iterated)) := by
  rw [exec_veLoop_of_end hrun hlive hpos, if_pos hleft]

/-- LOOP finishes a run after its last iteration. -/
theorem exec_veLoop_of_last (hlast : r.total ≤ r.done + 1) :
    exec (.veLoop core) s = .next (s.after ((s.dev.veLooped core r).veFinished core r.iterated)) := by
  rw [exec_veLoop_of_end hrun hlive hpos, if_neg (Nat.not_lt.2 hlast)]

end Loop

/-! ### PUT and CVTFI (R257, R259) -/

/-- PUT writes B in the lanes whose A is true, and its result is B in every lane. -/
theorem exec_vePut_of_written {s : State} {core : Nat} {r : VeRun} {d : Dev} (hat : s.dev.VeAt core 0x04 r)
    (hwrite : s.dev.veWrite core r.ctx (r.writes r.word ((r.lanes r.word).map fun l => l.b)
      fun i => ((r.lanes r.word).map fun l => bitAt l.a 31).getD i true) = ⟨d, none⟩) :
    exec (.vePut core) s = .next (s.after (d.veRuns core (r.pushed ((r.lanes r.word).map fun l => l.b)))) := by
  obtain ⟨hrun, hlive, hbegun, hinside, hop⟩ := hat
  have hhere : ¬ (r.pos = 0 ∨ r.len < r.pos ∨ veOp r.word ≠ 0x04) := by omega
  refine (exec_vePut ..).trans <| State.run_of_effect <| (Dev.onVe_runs hrun hlive _).trans <| (if_neg hhere).trans ?_
  simp only [hwrite]
  rfl

/-- How many lanes of a CVTFI saturate or meet a NaN. -/
def VeRun.saturated (r : VeRun) : Nat := ((r.operand (veA r.word)).filter fun a => (cvtfi (veMod r.word % 4) a).2).length

/-- The int32 patterns that a CVTFI gives its lanes. -/
def VeRun.converted (r : VeRun) : List Nat := (r.lanes r.word).map fun l => (cvtfi (veMod r.word % 4) l.a).1

/-- Counting saturations does not move the run of a core. -/
theorem Dev.VeAt.inc_veSat {d : Dev} {core op : Nat} {r : VeRun} (hat : d.VeAt core op r) (n : Nat) :
    (d.inc (Reg.VE_SAT.COUNT core) n).VeAt core op r := by
  have hreg : Reg.RST_STATUS.READY.reg ≠ (Reg.VE_SAT.COUNT core).reg := by
    simp only [Reg.RST_STATUS.READY, Reg.VE_SAT.COUNT]
    omega
  have hready : (d.inc (Reg.VE_SAT.COUNT core) n).ready = d.ready := by
    rw [Dev.ready, Dev.ready, Dev.on, Dev.on, Dev.inc, Dev.rd_wr_ne hreg]
  have hlive : (d.inc (Reg.VE_SAT.COUNT core) n).live = d.live := by rw [Dev.live, Dev.live, hready]; rfl
  exact { hat with live := hlive.trans hat.live }

/-- CVTFI counts its saturations, then completes with the int32 patterns. -/
theorem exec_cvtfi_of_written {s : State} {core : Nat} {r : VeRun} {d : Dev} (hat : s.dev.VeAt core 0x31 r)
    (hwrite : (s.dev.inc (Reg.VE_SAT.COUNT core) r.saturated).veWrite core r.ctx (r.writes r.word r.converted fun _ => true)
      = ⟨d, none⟩) :
    exec (.cvtfi core) s = .next (s.after (d.veRuns core (r.pushed r.converted))) := by
  have hhere : (s.dev.live && r.pos != 0 && decide (r.pos ≤ r.len) && veOp r.word == 0x31) = true := by
    simp [hat.live, hat.begun, hat.inside, hat.opcode]
  refine (exec_cvtfi ..).trans <| State.run_of_effect ?_
  simp only [hat.run, if_pos hhere]
  exact Dev.veDo_at (hat.inc_veSat _) (fun _ w l => (cvtfi (veMod w % 4) l.a).1) hwrite

/-! ### The program store (R263–R265) -/

/-- Those of some pages that a context owns. -/
def Dev.pagesOwned (d : Dev) (ctx core : Nat) (ps : List Nat) : List Nat := ps.filter fun p => d.pageOwner core p == some ctx

/-- A context's pages among some are freed. -/
def Dev.pagesFreed (d : Dev) (ctx : Nat) (cores ps : List Nat) : Dev :=
  d.forEach cores fun k e => e.forEach (d.pagesOwned ctx k ps) fun p e => e.setPage k p none

/-- Words are stored on some cores, and the pages that they cover become the context's. -/
def Dev.programStored (d : Dev) (ctx base : Nat) (cores ps : List Nat) (bs : List Byte) : Dev :=
  d.forEach cores fun k d => (d.storeWords k base ((chunksOf 4 bs).map leNat)).forEach ps fun p d => d.setPage k p (some ctx)

section ProgramLoad
variable {s : State} {slot : Nat} {c : Cmd} {cores ps : List Nat} (hrun : s.dev.CmdRuns slot 0x0A02 c)
  (hps : pagesOf (c.par 8 2) (c.par 0x0A 2) = ps) (hcores : coresOf (c.par 0x0C 1) = cores)
  (hpower : s.dev.unitBlocked (cores.map domVe) 0x0913 = none)
include hrun hps hcores hpower

/-- A release frees the context's pages once no run uses them. -/
theorem exec_veProgramLoad_of_release (hop : c.par 0x0D 1 = 1)
    (hidle : (cores.any fun k => s.dev.pagesInUse k (s.dev.pagesOwned c.ctx k ps)) = false) :
    exec (.veProgramLoad slot) s = .next (s.after ((s.dev.pagesFreed c.ctx cores ps).okCmd slot)) := by
  subst hps hcores
  refine (exec_veProgramLoad ..).trans <| State.run_of_effect <| (Dev.onCmd_runs hrun _).trans ?_
  simp only [hpower]
  exact (if_pos hop).trans (if_neg (Bool.eq_false_iff.1 hidle))

/-- A load stores its words and takes its pages, once they are free or the context's and no run uses them. -/
theorem exec_veProgramLoad_of_load {d : Dev} {bs : List Byte} (hop : c.par 0x0D 1 ≠ 1)
    (howned : ∀ k ∈ cores, ∀ p ∈ ps, ∀ o, s.dev.pageOwner k p = some o → o = c.ctx)
    (hidle : (cores.any fun k => s.dev.pagesInUse k ps) = false)
    (hread : s.dev.read byCp c.ctx (c.par 0 8) (4 * c.par 0x0A 2) = ⟨d, .ok bs⟩) :
    exec (.veProgramLoad slot) s = .next (s.after ((d.programStored c.ctx (c.par 8 2) cores ps bs).okCmd slot)) := by
  subst hps hcores
  refine (exec_veProgramLoad ..).trans <| State.run_of_effect <| (Dev.onCmd_runs hrun _).trans ?_
  simp only [hpower]
  refine (if_neg hop).trans <| (if_neg ?noForeign).trans <| (if_neg (Bool.eq_false_iff.1 hidle)).trans ?_
  case noForeign =>
    simp only [List.any_eq_true, not_exists, not_and]
    intro k hk p hp hforeign
    split at hforeign
    next o howner => simp [howned k hk p hp o howner] at hforeign
    next => cases hforeign
  simp only [hread]
  rfl

end ProgramLoad

/-! ### VE_RUN (R267) -/

/-- The descriptor of the next stage of a VE_RUN with `per` iterations a stage: the last stage takes the rest. -/
def Cmd.veStageTd (c : Cmd) (per : Nat) : TdWord :=
  tdMake 0x20 4 [(0x18, 8, c.par 0 8), (0x20, 2, c.par 0x0C 2), (0x24, 4, min per (c.par 8 4 - c.done * per))]

section Stages
variable {s : State} {slot : Nat} {c : Cmd} (hrun : s.dev.RoutineRuns slot 0x0305 c) (htodo : c.todo = [])
  (htds : s.dev.cmdTds slot = [])
include hrun htodo htds

/-- A VE_RUN that has begun expands its next stage. -/
theorem exec_veRun_of_begun (htotal : c.total ≠ 0) :
    exec (.veRun slot) s = .next (s.after (s.dev.addTodo slot [(c.par 0x0E 1 % 2, c.veStageTd (c.aux.getD 2 1))])) := by
  refine (exec_veRun ..).trans <| State.run_of_effect <| (Dev.onRoutine_runs hrun _).trans <|
    (if_neg (by simp [htodo, htds])).trans ?_
  simp only [if_neg htotal]
  rfl

/-- A VE_RUN whose body is found counts its stages, starts at row 0 and column 0, and expands its first stage. -/
theorem exec_veRun_of_first {ws : List Nat} {core per : Nat} (hcore : c.par 0x0E 1 % 2 = core)
    (hper : veStageIters (ws.length - 1) = per) (htotal : c.total = 0)
    (hbody : s.dev.findBody core c.ctx 0x0305 (c.par 0x0C 2) = .body ws) (hlen : 1 < ws.length) :
    exec (.veRun slot) s = .next (s.after (((s.dev.assign slot [core]).updCmd slot fun y =>
      { y with total := cdiv (c.par 8 4) per, aux := [0, 0, per] }).addTodo slot [(core, c.veStageTd per)])) := by
  subst hcore hper
  refine (exec_veRun ..).trans <| State.run_of_effect <| (Dev.onRoutine_runs hrun _).trans <|
    (if_neg (by simp [htodo, htds])).trans ?_
  simp only [if_pos htotal, hbody, if_neg (Nat.not_le.2 hlen)]
  rfl

end Stages

/-- Settles O30, row by row. -/
theorem veControlComplete : Obligations.VeControlComplete := by
  refine ⟨?begin, ?setvl, ?loop, ?put, ?cvtfi, ?programLoad, ?stages⟩
  case begin =>
    exact fun _ _ _ _ _ _ hstart hsource hfree hpower hread hbody hlegal hsfu hstreams =>
      exec_veRunDesc_of_passed hstart hsource hfree hpower hread hbody hlegal hsfu hstreams
  case setvl =>
    exact fun s core r _ _ hrun hlive hpos hleft hrows hready hinputs =>
      exec_setvl_of_inputs (r' := (s.dev.veRowTaken core r).2) hrun hlive hpos hleft hrows hready rfl rfl hinputs
  case loop => exact fun _ _ _ hrun hlive hpos => ⟨exec_veLoop_of_left hrun hlive hpos, exec_veLoop_of_last hrun hlive hpos⟩
  case put => exact fun _ _ _ _ hat hwrite => exec_vePut_of_written hat hwrite
  case cvtfi => exact fun _ _ _ _ hat hwrite => exec_cvtfi_of_written hat hwrite
  case programLoad =>
    exact fun _ _ _ _ _ hrun hpower => ⟨fun hop hidle => exec_veProgramLoad_of_release hrun rfl rfl hpower hop hidle,
      fun hop howned hidle hread => exec_veProgramLoad_of_load hrun rfl rfl hpower hop howned hidle hread⟩
  case stages =>
    exact fun _ _ _ hrun htodo htds => ⟨fun htotal => exec_veRun_of_begun hrun htodo htds htotal,
      fun htotal _ hbody hlen => exec_veRun_of_first hrun htodo htds rfl rfl htotal hbody hlen⟩

end Sys2Proof.Machine
end

