-- ==== Sys2Proof/Proofs/TablesAndReductions.lean ====
section
/-!
PROOFS. SFU_TABLE_LOAD and RU_RUN (chapter 10), and a chunk of DIAG_MEM_TEST (13 R352). A read-back that names both cores reads SC0 (the
model's choice, notes/assumptions/19.md); a tested chunk is left with free words (the model's choice, notes/assumptions/17.md).
-/
namespace Sys2Proof.Machine

/-! ### The meaning of each row -/

theorem exec_sfuTableLoad (slot : Nat) (s : State) : exec (.sfuTableLoad slot) s = execSfuTableLoad slot s := by rfl

theorem exec_ruRun (id : Nat) (s : State) : exec (.ruRun id) s = execRuRun id s := by rfl

theorem exec_diagMemTest (slot : Nat) (bad : List (Nat × Bool)) (s : State) :
    exec (.diagMemTest slot bad) s = execDiagMemTest slot bad s := by rfl

/-! ### SFU_TABLE_LOAD (R279, R280) -/

/-- A context other than `ctx` owns a user slot. -/
def Dev.sfuForeign (d : Dev) (ctx core slot : Nat) : Bool :=
  match d.sfuOwner core slot with
  | some o => o != ctx
  | none => false

theorem Dev.sfuForeign_eq_false {d : Dev} {ctx core slot : Nat} (howned : ∀ o, d.sfuOwner core slot = some o → o = ctx) :
    d.sfuForeign ctx core slot = false := by
  cases howner : d.sfuOwner core slot with
  | none => simp [Dev.sfuForeign, howner]
  | some o => simp [Dev.sfuForeign, howner, howned o howner]

section SfuTableLoad
variable {s : State} {slot : Nat} {c : Cmd} (hrun : s.dev.CmdRuns slot 0x0A01 c)
  (hpower : s.dev.unitBlocked ((coresOf (c.par 0x09 1)).map domSfu) 0x0913 = none)
include hrun hpower

/-- The first run of a load into slots that no other context owns keeps the table it has read, and writes it where no run uses the slot. -/
theorem exec_sfuTableLoad_of_load {d : Dev} {t : Table} (hop : c.par 0x0A 1 = 0) (hfirst : c.aux = [])
    (howned : ∀ k ∈ coresOf (c.par 0x09 1), ∀ o, s.dev.sfuOwner k (c.par 0x08 1 % 16) = some o → o = c.ctx)
    (hread : s.dev.read byCp c.ctx (c.par 0 8) 1088 = ⟨d, .ok t⟩) (hlegal : tableFault t = none) :
    exec (.sfuTableLoad slot) s =
      .next (s.after ((d.updCmd slot fun c => { c with rstate := t }).sfuWrite c (some t))) := by
  have hmine : ((coresOf (c.par 0x09 1)).any fun k => s.dev.sfuForeign c.ctx k (c.par 0x08 1 % 16)) = false :=
    List.any_eq_false.2 fun k hk => Bool.eq_false_iff.1 (Dev.sfuForeign_eq_false (howned k hk))
  refine (exec_sfuTableLoad ..).trans <| State.run_of_effect <| (Dev.onCmd_runs hrun _).trans ?_
  simp only [hpower]
  refine (if_pos hop).trans <| (if_neg fun h => ?foreign).trans ?_
  case foreign => exact Bool.eq_false_iff.1 hmine (Bool.and_eq_true_iff.1 h).2
  simp only [hfirst, List.isEmpty_nil, if_true, hread, hlegal]

/-- A release frees the slot where the context owns it and no run uses it. -/
theorem exec_sfuTableLoad_of_release (hop : c.par 0x0A 1 = 1) :
    exec (.sfuTableLoad slot) s = .next (s.after (s.dev.sfuWrite c none)) := by
  refine (exec_sfuTableLoad ..).trans <| State.run_of_effect <| (Dev.onCmd_runs hrun _).trans ?_
  simp only [hpower]
  exact (if_neg (by omega)).trans (if_pos hop)

/-- A read-back of a loaded slot that no other context owns writes its table to memory. -/
theorem exec_sfuTableLoad_of_readBack {d : Dev} {core sl : Nat} (hop : c.par 0x0A 1 = 2)
    (hcore : sfuReadCore (c.par 0x09 1) = core) (hsl : c.par 0x08 1 % 16 = sl)
    (howned : ∀ o, s.dev.sfuOwner core sl = some o → o = c.ctx)
    (hloaded : s.dev.on (Reg.SFU_SLOT.LOADED core sl) = true)
    (hwrite : s.dev.write byCp c.ctx (c.par 0 8) (s.dev.sfuTable core sl) = ⟨d, none⟩) :
    exec (.sfuTableLoad slot) s = .next (s.after (d.okCmd slot)) := by
  subst hcore hsl
  refine (exec_sfuTableLoad ..).trans <| State.run_of_effect <| (Dev.onCmd_runs hrun _).trans ?_
  simp only [hpower]
  refine (if_neg (by omega)).trans <| (if_neg (by omega)).trans <|
    (if_neg (Bool.eq_false_iff.1 (Dev.sfuForeign_eq_false howned))).trans <| (if_neg (by simp [hloaded])).trans ?_
  simp only [hwrite]

end SfuTableLoad

/-! ### RU_RUN (R283–R286) -/

/-- The operations that a reduction selects. -/
def Td.ruOps (t : Td) : List Nat := (List.range 6).filter fun k => bitAt (t.f 0x2E 1) k

/-- How many bytes of rows a reduction reads. -/
def Td.ruBytesIn (t : Td) : Nat := 4 * t.f 0x2C 2 * t.f 0x28 4

/-- How many bytes of planes it writes. -/
def Td.ruBytesOut (t : Td) : Nat := 4 * t.f 0x28 4 * t.ruOps.length

/-- The planes of a reduction, one for each selected operation, with the address each is written at (R285). -/
def Td.ruPlanes (t : Td) (xs : List (List Nat)) : List (Nat × List Byte) :=
  ((List.range t.ruOps.length).zip t.ruOps).map fun x =>
    (t.f 0x20 8 + 4 * t.f 0x28 4 * x.1, xs.flatMap fun r => leBytes 4 (ruValue x.2 r))

/-- The device on which a reduction that starts reads its rows: RU_STATUS shows its context at its tree. -/
def Dev.ruOpened (d : Dev) (t : Td) : Dev :=
  (d.tdStart t).wr (if t.f 0x2F 1 = 0 then Reg.RU_STATUS.CTX0 t.core else Reg.RU_STATUS.CTX1 t.core) t.ctx

/-- The rows are counted, and of them those with an element that is not finite where the reduction looks for them. -/
def Dev.ruCounted (d : Dev) (t : Td) (xs : List (List Nat)) : Dev :=
  (d.incMod (Reg.RU_ROWS.COUNT t.core) (t.f 0x28 4)).incMod (Reg.RU_NONFINITE.COUNT t.core)
    (if t.ruOps.contains 5 then (xs.filter fun r => r.any fun x => !finite32 x).length else 0)

/-- A reduction between aligned, disjoint ranges of its core's scratchpad completes when its rows are read and its planes written. -/
theorem exec_ruRun_of_reduced {s : State} {id : Nat} {t : Td} {d d' : Dev} {xs : List (List Nat)} (hstart : s.dev.TdStarts id 0x21 t)
    (hpower : (s.dev.ruOpened t).unitBlocked [domRu t.core] 0x0A12 = none) (hsrc : t.f 0x18 8 % 4 = 0) (hdst : t.f 0x20 8 % 4 = 0)
    (hin : inSpm t.core (t.f 0x18 8) t.ruBytesIn = true) (hout : inSpm t.core (t.f 0x20 8) t.ruBytesOut = true)
    (hapart : overlap (t.f 0x18 8) t.ruBytesIn (t.f 0x20 8) t.ruBytesOut = false)
    (hread : (s.dev.ruOpened t).ruRows t.core t.ctx (t.f 0x18 8) (t.f 0x2C 2) (List.range (t.f 0x28 4)) = (d, .ok xs))
    (hwrite : (d.ruCounted t xs).ruPlanes t.core t.ctx (t.ruPlanes xs) = ⟨d', none⟩) :
    exec (.ruRun id) s = .next (s.after (d'.finishTd id)) := by
  have hlegal : ¬ (t.f 0x18 8 % 4 ≠ 0 ∨ t.f 0x20 8 % 4 ≠ 0 ∨ inSpm t.core (t.f 0x18 8) t.ruBytesIn = false ∨
      inSpm t.core (t.f 0x20 8) t.ruBytesOut = false ∨ overlap (t.f 0x18 8) t.ruBytesIn (t.f 0x20 8) t.ruBytesOut = true) := by
    simp [hsrc, hdst, hin, hout, hapart]
  rw [Dev.ruOpened] at hpower hread
  rw [Dev.ruCounted, Td.ruPlanes, Td.ruOps] at hwrite
  refine (exec_ruRun ..).trans <| State.run_of_effect <| (Dev.onTd_starts hstart (by decide) _).trans ?_
  simp only [hpower]
  refine (if_neg hlegal).trans ?_
  simp only [hread, hwrite]

/-! ### DIAG_MEM_TEST (13 R352) -/

/-- A chunk of the test counts as done, and the command goes on with what the chunk found. -/
def Dev.memTested (d : Dev) (slot : Nat) (c found : Cmd) : Dev :=
  d.updCmd slot fun y => { y with
    done := c.done + 1, rested := false, cursor := found.cursor, rstate := found.rstate, hits := found.hits, aux := found.aux }

/-- A chunk of a test under way that writes its words counts as done; the last one ends the test with the number of failing blocks. -/
theorem exec_diagMemTest_of_chunk {s : State} {slot : Nat} {bad : List (Nat × Bool)} {c found : Cmd} {d : Dev}
    (hrun : s.dev.RoutineRuns slot 0x0802 c) (hbegun : c.total ≠ 0) (hleft : c.done < c.total)
    (hchunk : Dev.memTestChunk bad c s.dev = (d, .ok found)) :
    exec (.diagMemTest slot bad) s = .next (s.after
      ((if c.done + 1 = c.total then (d.memTested slot c found).okCmd slot found.hits else d.memTested slot c found).memTestEnd slot)) := by
  refine (exec_diagMemTest ..).trans <| State.run_of_effect ?_
  simp only [hrun.found]
  exact congrArg (Dev.memTestEnd · slot) (Dev.longRun_chunk hrun hbegun hleft hchunk)

/-- Settles O27, row by row. -/
theorem tableReductionTestComplete : Obligations.TableReductionTestComplete := by
  refine ⟨?load, ?release, ?readBack, ?reduce, ?test⟩
  case load =>
    exact fun _ _ _ _ _ hrun hpower hop hfirst howned hread hlegal =>
      exec_sfuTableLoad_of_load hrun hpower hop hfirst howned hread hlegal
  case release => exact fun _ _ _ hrun hpower hop => exec_sfuTableLoad_of_release hrun hpower hop
  case readBack =>
    exact fun _ _ _ _ hrun hpower hop howned hloaded hwrite =>
      exec_sfuTableLoad_of_readBack hrun hpower hop rfl rfl howned hloaded hwrite
  case reduce =>
    exact fun _ _ _ _ _ _ hstart hpower hsrc hdst hin hout hapart hread hwrite =>
      exec_ruRun_of_reduced hstart hpower hsrc hdst hin hout hapart hread hwrite
  case test => exact fun _ _ _ _ _ _ hrun hbegun hleft hchunk => exec_diagMemTest_of_chunk hrun hbegun hleft hchunk

end Sys2Proof.Machine
end

