-- ==== Sys2Proof/Proofs/ScanUnit.lean ====
section
/-!
PROOFS. The scan unit (chapter 11): the four SCAN descriptors, and SCAN_RUN with its look-back. Reverse chunks start from step 0,
FINAL_ONLY writes the last state of the direction, CONJ leaves P alone, with CORE = 3 the first share is the larger half, and carry entries
are keyed by chunk number (the model's choices, notes/assumptions/24.md); a stage of SCAN_RUN is done directly (the model's choice,
notes/assumptions/18.md).
-/
namespace Sys2Proof.Machine

/-! ### The meaning of each row -/

theorem exec_scan (id : Nat) (s : State) : exec (.scan id) s = execScan id s := by rfl

theorem exec_reverseScan (id : Nat) (s : State) : exec (.reverseScan id) s = execReverseScan id s := by rfl

theorem exec_chunkSummary (id : Nat) (s : State) : exec (.chunkSummary id) s = execChunkSummary id s := by rfl

theorem exec_carryCombine (id : Nat) (s : State) : exec (.carryCombine id) s = execCarryCombine id s := by rfl

theorem exec_scanRun (slot : Nat) (s : State) : exec (.scanRun slot) s = execScanRun slot s := by rfl

theorem exec_lookbackStep (slot share : Nat) (s : State) :
    exec (.lookbackStep slot share) s = execLookbackStep slot share s := by rfl

theorem exec_carryTimeout (slot share : Nat) (s : State) :
    exec (.carryTimeout slot share) s = execCarryTimeout slot share s := by rfl

theorem exec_carryRead (s : State) : exec .carryRead s = execCarryRead s := by rfl

theorem exec_carryData (s : State) : exec .carryData s = execCarryData s := by rfl

/-! ### SCAN descriptors (R290–R296) -/

/-- A SCAN descriptor is done: its steps are counted and it finishes. -/
def Dev.scanFinished (d : Dev) (id : Nat) (t : Td) (p : ScanParam) : Dev :=
  (d.incMod (Reg.SU_STEPS.COUNT t.core) p.steps).finishTd id

section Descriptors
variable {s : State} {id : Nat} {t : Td} {p : ScanParam} {d d' : Dev}

/-- The guard of SCAN descriptors finishes one that starts and whose effect succeeds. -/
theorem State.run_onScan {op : Nat} {f : Td → ScanParam → Dev → Put} (hstart : s.dev.ScanStarts id op t p d)
    (heffect : f t p d = ⟨d', none⟩) : s.run (fun d => d.onScan id op f) = .next (s.after (d'.scanFinished id t p)) :=
  State.run_of_effect (Dev.onScan_starts hstart f heffect)

/-- SCAN takes the steps forwards (R293, OP 0). -/
theorem exec_scan_of_written (hstart : s.dev.ScanStarts id 0 t p d) (hstates : d.scanStates t p false = ⟨d', none⟩) :
    exec (.scan id) s = .next (s.after (d'.scanFinished id t p)) :=
  (exec_scan ..).trans (State.run_onScan hstart hstates)

/-- REVERSE_SCAN takes them backwards (R293, OP 3). -/
theorem exec_reverseScan_of_written (hstart : s.dev.ScanStarts id 3 t p d) (hstates : d.scanStates t p true = ⟨d', none⟩) :
    exec (.reverseScan id) s = .next (s.after (d'.scanFinished id t p)) :=
  (exec_reverseScan ..).trans (State.run_onScan hstart hstates)

/-- CHUNK_SUMMARY writes the record of every chunk, from chunk 0 on (R293, OP 1; R294). -/
theorem exec_chunkSummary_of_written (hstart : s.dev.ScanStarts id 1 t p d)
    (hrecords : d.scanSummaries t p 0 (stepChunks p.steps p.chunk false) = ⟨d', none⟩) :
    exec (.chunkSummary id) s = .next (s.after (d'.scanFinished id t p)) :=
  (exec_chunkSummary ..).trans (State.run_onScan hstart hrecords)

/-- CARRY_COMBINE applies the records in turn to the carry-in it has read (R293, OP 2). -/
theorem exec_carryCombine_of_written {d₁ : Dev} {h : List Nat} (hstart : s.dev.ScanStarts id 2 t p d)
    (hcarry : d.scanCarry t.core t.ctx p = (d₁, .ok h)) (hrecords : d₁.scanCombine t p h (List.range p.steps) = ⟨d', none⟩) :
    exec (.carryCombine id) s = .next (s.after (d'.scanFinished id t p)) :=
  (exec_carryCombine ..).trans (State.run_onScan hstart (by simp only [hcarry, hrecords]))

end Descriptors

/-- Settles O31, row by row. -/
theorem scanDescriptorsComplete : Obligations.ScanDescriptorsComplete := by
  refine fun _ _ _ _ _ _ => ⟨?scan, ?reverse, ?summary, ?combine⟩
  case scan => exact exec_scan_of_written
  case reverse => exact exec_reverseScan_of_written
  case summary => exact exec_chunkSummary_of_written
  case combine => exact fun _ _ hstart hcarry hrecords => exec_carryCombine_of_written hstart hcarry hrecords

/-! ### SCAN_RUN begins and runs a stage (R300, R301, R311) -/

/-- A SCAN_RUN begins with a snapshot of its segment map: its shares are fixed, and it has a stage for each chunk of its segment. -/
def Dev.scanBegun (d : Dev) (slot : Nat) (c : Cmd) (segs : List Segment) : Dev :=
  let x := c.runScan
  let shares := scanShares (segs.getD x.seg ⟨0, 0, 0, 0, 0, 0⟩) (if x.core = 3 then 0 else d.pickCore x.core) (x.core == 3)
  ((d.assign slot (shares.map fun y => y.core)).updCmd slot fun y => { y with total := x.chunks }).setScan slot ⟨segs, shares⟩

/-- A share may run a stage: it has one left, is in no walk, and its core is neither asked to park nor, in MODE 2, without its array. -/
def Dev.scanShareFree (d : Dev) (c : Cmd) (y : ScanShare) : Bool :=
  decide (y.phase ≤ 3) && y.walk.isNone && !c.preempt.contains y.core && !c.suspended.contains y.core
    && (c.runScan.mode != 2 || (d.arrOf y.core).owner.isNone)

section Stages
variable {s : State} {slot : Nat} {c : Cmd} (hrun : s.dev.RoutineRuns slot 0x0303 c)
include hrun

/-- The first command of a SCAN_RUN whose map is read and whose carry slot is bound begins it. -/
theorem exec_scanRun_of_first {d d' : Dev} {bs : List Byte} (hfirst : s.dev.scan? slot = none)
    (hmap : s.dev.readAll byCp c.ctx [(c.runScan.map, 32 * c.runScan.segs)] = (d, .ok [bs]))
    (hbind : d.bindCarry c c.runScan.chunks = (d', true)) :
    exec (.scanRun slot) s = .next (s.after (d'.scanBegun slot c (segsOf bs c.runScan.segs))) := by
  refine (exec_scanRun ..).trans <| State.run_of_effect <| (Dev.onRoutine_runs hrun _).trans ?_
  simp only [hfirst, hmap, hbind]
  rfl

/-- A later command runs the next stage of the first share that may run one. -/
theorem exec_scanRun_of_begun {i : Nat} {r : ScanRun} {sh : ScanShare} (hbegun : s.dev.scan? slot = some r)
    (hfree : r.shares.findIdx? (s.dev.scanShareFree c) = some i) (hshare : r.shares[i]? = some sh) :
    exec (.scanRun slot) s = .next (s.after (s.dev.scanStage c r i sh)) := by
  unfold Dev.scanShareFree at hfree
  refine (exec_scanRun ..).trans <| State.run_of_effect <| (Dev.onRoutine_runs hrun _).trans ?_
  simp only [hbegun, hfree, hshare]

end Stages

/-! ### The walk goes on, or gives up (R305, R307) -/

section Walks
variable {s : State} {slot share : Nat} {c : Cmd} {r : ScanRun} {sh : ScanShare} {w : Walk}
  (hwalk : s.dev.WalkOf slot share c r sh w)
include hwalk

/-- A waiting walk goes on once its sync object, not a STALE mirror, has moved past the value it saw. -/
theorem exec_lookbackStep_of_moved (hlive : s.dev.soKind (walkSo r w) ≠ 3 ∨ s.dev.soStale (walkSo r w) = false)
    (hwaiting : w.waiting = true) (hmoved : w.seen < s.dev.soValue (walkSo r w)) :
    exec (.lookbackStep slot share) s = .next (s.after (s.dev.walkRun c r share sh w (walkFuel r))) := by
  have hnotStale : ¬ (s.dev.soKind (walkSo r w) = 3 ∧ s.dev.soStale (walkSo r w) = true) := fun ⟨hkind, hstale⟩ =>
    hlive.elim (· hkind) (Bool.eq_false_iff.1 · hstale)
  exact (exec_lookbackStep ..).trans <| State.run_of_effect <| (Dev.onWalk_of hwalk _).trans <|
    (if_neg hnotStale).trans (if_pos (by simpa [hwaiting] using hmoved))

/-- A walk that waits, or has asked another device, gives up when its time is over. -/
theorem exec_carryTimeout_of_open (hopen : w.waiting = true ∨ w.asked = true) :
    exec (.carryTimeout slot share) s = .next (s.after (s.dev.walkTimeout c r sh w)) :=
  (exec_carryTimeout ..).trans <| State.run_of_effect <| (Dev.onWalk_of hwalk _).trans (if_pos (by simpa using hopen))

end Walks

/-! ### Carry reads (R304) -/

/-- A context other than `ctx` holds a carry slot. -/
def Dev.carryForeign (d : Dev) (slot ctx : Nat) : Bool :=
  match kvGet slot d.carry with
  | some x => x.ctx != ctx
  | none => false

theorem Dev.carryForeign_eq_false {d : Dev} {slot ctx : Nat} (howned : ∀ x, kvGet slot d.carry = some x → x.ctx = ctx) :
    d.carryForeign slot ctx = false := by
  cases hslot : kvGet slot d.carry with
  | none => simp [Dev.carryForeign, hslot]
  | some x => simp [Dev.carryForeign, hslot, howned x hslot]

/-- The entry of chunk `j` as a reader of an epoch sees it: INCOMPLETE in a slot that is unbound or holds another epoch. -/
def Dev.carryEntryAt (d : Dev) (slot epoch j : Nat) : CarryEntry :=
  match kvGet slot d.carry with
  | some x => if x.epoch = epoch then d.carryEntry slot j else entry0
  | none => entry0

/-- The CARRY_DATA that answers a carry read for chunk `j`: as many bytes of the entry as its state calls for (15 R400). -/
def FabPkt.carryAnswer (k : FabPkt) (d : Dev) (j : Nat) : FabPkt :=
  let epoch := fieldAt k.data 0 8
  let e := d.carryEntryAt (k.addr % 16) epoch j
  { k with
    typ := ptCarryData, adaptive := false, dst := k.src, src := d.rd Reg.FAB_ID.DEVICE_ID, dctx := k.sctx, sctx := k.dctx
    hops := 0, status := 0, arg := j, data := (entryBytes e j epoch).take (entryLen e.state) }

/-- A well-formed read of 1–64 chunks, from a context the device accepts and no other context's slot, is answered chunk by chunk. -/
theorem exec_carryRead_of_accepted {s : State} {k : FabPkt} {d : Dev} (htaken : s.dev.PktTaken ptCarryRead k d)
    (hlen : k.data.length = 16) (hone : 1 ≤ fieldAt k.data 8 2) (hmax : fieldAt k.data 8 2 ≤ 64)
    (haccept : d.on (Reg.CTX_FAB.ACCEPT k.dctx) = true)
    (howned : ∀ x, kvGet (k.addr % 16) d.carry = some x → x.ctx = k.dctx) :
    exec .carryRead s = .next (s.after ((d.incMod Reg.CARRY_READS.COUNT).forEach (List.range (fieldAt k.data 8 2)) fun i d =>
      (d.sendPkt (k.carryAnswer d (k.arg + i))).1)) := by
  have hmine : ¬ (!d.on (Reg.CTX_FAB.ACCEPT k.dctx) || d.carryForeign (k.addr % 16) k.dctx) = true := by
    simp [haccept, Dev.carryForeign_eq_false howned]
  exact (exec_carryRead s).trans <| State.run_of_effect <| (Dev.onPkt_taken htaken _).trans <|
    (if_neg (by simp [hlen, hone, hmax])).trans (if_neg hmine)

/-- A walk takes the entry that it has come to, and goes on unless that ends it or makes it wait. -/
def Dev.walkTakes (d : Dev) (c : Cmd) (r : ScanRun) (share : Nat) (sh : ScanShare) (w : Walk) (e : CarryEntry) : Dev :=
  match d.walkEntry c r share sh w e with
  | (d, none) => d
  | (d, some (r, sh, w)) => d.walkRun c r share sh w (walkFuel r)

/-- The entry of the chunk that a walk has asked another device for closes the read and feeds the walk. -/
theorem exec_carryData_of_asked {s : State} {k : FabPkt} {d : Dev} {t : Txn} {id : Nat} {c : Cmd} {r : ScanRun} {sh : ScanShare}
    {w : Walk} (htaken : s.dev.PktTaken ptCarryData k d)
    (htxn : (d.fab.txns.find? fun t => t.tag == k.tag && t.typ == ptCarryRead) = some t) (hwho : t.who = .carry id)
    (hwalk : (d.closeTxn k.tag).WalkOf (id / 2) (id % 2) c r sh w) (hasked : w.asked = true) (hchunk : w.j = k.arg) :
    exec .carryData s = .next (s.after
      ((d.closeTxn k.tag).walkTakes c r (id % 2) sh w (entryOf c.runScan.width k.data))) := by
  refine (exec_carryData s).trans <| State.run_of_effect <| (Dev.onPkt_taken htaken _).trans ?_
  simp only [htxn, hwho]
  exact (Dev.onWalk_of hwalk _).trans (if_pos (by simp [hasked, hchunk]))

/-- Settles O32, row by row. -/
theorem scanRunCommandsComplete : Obligations.ScanRunCommandsComplete := by
  refine ⟨?begin, ?stage, ?walk, ?read, ?data⟩
  case begin => exact fun _ _ _ _ _ _ hrun hfirst hmap hbind => exec_scanRun_of_first hrun hfirst hmap hbind
  case stage => exact fun _ _ _ _ _ _ hrun hbegun hfree hshare => exec_scanRun_of_begun hrun hbegun hfree hshare
  case walk => exact fun _ _ _ _ _ _ _ hwalk => ⟨exec_lookbackStep_of_moved hwalk, exec_carryTimeout_of_open hwalk⟩
  case read =>
    exact fun _ _ _ htaken hlen hone hmax haccept howned => exec_carryRead_of_accepted htaken hlen hone hmax haccept howned
  case data =>
    exact fun _ _ _ _ _ _ _ _ _ htaken htxn hwho hwalk hasked hchunk =>
      exec_carryData_of_asked htaken htxn hwho hwalk hasked hchunk

end Sys2Proof.Machine
end

