-- ==== Sys2Proof/Proofs/StepAndReset.lean ====
section
/-!
PROOFS. One step of the block, what a command answers, and the state right after reset. Memory that nothing has written reads zero (the
model's choice, notes/assumptions/7.md); an empty queue passes one SCLK cycle (the model's choice, notes/assumptions/1.md).
-/
namespace Sys2Proof.Machine

/-! ### One step -/

theorem step_of_cons {s : State} {c : Instr} {rest : List Instr} (h : s.pending = c :: rest) :
    step s = exec c { s with pending := rest } := by
  unfold step
  rw [h]

theorem step_of_nil {s : State} (h : s.pending = []) : step s = .next { s with dev := s.dev.idle } := by
  unfold step
  rw [h]

/-- Settles O1: a queue is empty or has a front. -/
theorem stepTakesTheFront : Obligations.StepTakesTheFront :=
  ⟨fun _ _ _ h => step_of_cons h, fun _ h => step_of_nil h⟩

/-- Settles O5: the meaning of every command runs an effect on the device. -/
theorem everyCommandAnswersNext : Obligations.EveryCommandAnswersNext := by
  intro c s
  obtain ⟨f, hf⟩ := exec_eq_run c s
  exact ⟨f s.dev, hf.trans (State.run_after s f)⟩

/-! ### Right after reset -/

/-- An empty memory reads zero everywhere. -/
theorem memGetList_nil (a n : Nat) : memGetList [] a n = zeros n := by
  induction n generalizing a with
  | zero => rfl
  | succ n ih => exact congrArg (memUnlisted :: ·) (ih (a + 1))

theorem reset_peek (a n : Nat) : State.reset.dev.peek a n = zeros n :=
  (Dev.peek_of_defined rfl a n).trans (memGetList_nil a n)

theorem reset_consistent : State.reset.Consistent where
  alert   := show _ = _ by decide
  pending := show _ = _ by decide
  hold    := show _ ∧ _ by decide
  waiters := show _ = _ by decide
  queues  := show ∀ _ < 2, ∀ _ < 4, _ = _ by decide

/-- Settles O2: the fields are read off the reset values, and nothing is stored in either memory. -/
theorem resetState : Obligations.ResetState := by
  unfold Obligations.ResetState
  intro d
  have hfields : State.reset.pending = [] ∧ d.ready = false ∧ d.rd Reg.RST_STATUS.STAGE = 0 ∧ d.rd Reg.DBG_STATUS.LEVEL = 0
      ∧ d.rd Reg.MGT_STATUS.EID = 0 ∧ d.rd Reg.ERR_EVT_PENDING.COUNT = 0 ∧ d.rd Reg.SO_STATUS.WAITERS = 0
      ∧ d.rd Reg.HOST_HOLD_STATUS.USED = 0 ∧ d.cp0.cmds = [] := by decide
  obtain ⟨hqueue, hready, hstage, hlevel, heid, hevents, hwaits, hused, hcmds⟩ := hfields
  exact ⟨hqueue, hready, hstage, hlevel, heid, hevents, hwaits, hused, hcmds, reset_peek, reset_consistent, reset_memory_wf⟩

end Sys2Proof.Machine
end

