-- ==== Sys2Proof/Proofs/AlertsAndViews.lean ====
section
/-!
PROOFS. MGT_ALERT_STATUS as management writes it, and a unit's state by its two views (21 R563, R565). The condition of HOST_PATH is
that the link is down (deduced, notes/assumptions/34.md).
-/
namespace Sys2Proof.Machine

/-! ### A write of MGT_ALERT_STATUS (R563) -/

/-- The bit of alert condition `i` in MGT_ALERT_STATUS. -/
def alertBit (i : Nat) : Fld := ⟨Reg.MGT_ALERT_STATUS.RAIL.reg, i, 1⟩

/-- What a write of `v` does to the bit of condition `i`. -/
def Dev.alertBitWrite (v i : Nat) (d : Dev) : Dev := if bitAt v i && !d.alertLasts i then d.wr (alertBit i) 0 else d

theorem Dev.alertWrite_eq (d : Dev) (v : Nat) : d.alertWrite v = d.forEach (List.range 7) (Dev.alertBitWrite v) := rfl

/-- Whether a condition lasts does not depend on MGT_ALERT_STATUS. -/
theorem Dev.alertLasts_wr (d : Dev) (i j v : Nat) : (d.wr (alertBit j) v).alertLasts i = d.alertLasts i := by
  have hrd {f : Fld} (hf : f.reg ≠ (alertBit j).reg) : (d.wr (alertBit j) v).rd f = d.rd f := Dev.rd_wr_ne hf d v
  have hviews (u : Nat) : (Reg.MGT_UNIT.WORK u).reg ≠ (alertBit j).reg := by
    simp only [alertBit, Reg.MGT_UNIT.WORK, Reg.MGT_ALERT_STATUS.RAIL]
    omega
  have hdom {u : Nat} (hu : u < 64) : (Reg.PWR_DOM.STATE u).reg ≠ (alertBit j).reg := by
    simp only [alertBit, Reg.PWR_DOM.STATE, Reg.MGT_ALERT_STATUS.RAIL]
    omega
  have hdies : Reg.CTL_ASSEMBLY.IODIES.reg ≠ Reg.MGT_ALERT_STATUS.RAIL.reg := by decide
  have hstate (u : Nat) : (d.wr (alertBit j) v).unitState u = d.unitState u := by
    simp only [Dev.unitState, Dev.on, hrd (hviews u), hrd (f := Reg.MGT_UNIT.SAFETY u) (hviews u)]
  have hpresent (u : Nat) : (d.wr (alertBit j) v).unitPresent u = d.unitPresent u := by
    simp only [Dev.unitPresent, Dev.domPresent, Dev.ports, Dev.ioDies, hrd hdies]
    split
    · rw [hrd (hdom ‹_›)]
    · rfl
  unfold Dev.alertLasts
  simp only [hstate, hpresent, Dev.wr_board, Dev.wr_pwr, Dev.wr_mgt, Dev.wr_pci]

/-- Writing one bit leaves every condition. -/
theorem Dev.alertLasts_alertBitWrite (v i j : Nat) (d : Dev) : (d.alertBitWrite v j).alertLasts i = d.alertLasts i := by
  unfold Dev.alertBitWrite
  split
  · exact d.alertLasts_wr i j 0
  · rfl

/-- The bit written is cleared where it is written 1 and its condition has ended. -/
theorem Dev.on_alertBitWrite_self {i : Nat} (hi : i < 7) (v : Nat) (d : Dev) :
    (d.alertBitWrite v i).on (alertBit i) = (d.on (alertBit i) && !(bitAt v i && !d.alertLasts i)) := by
  have hcleared : (d.wr (alertBit i) 0).on (alertBit i) = false :=
    Dev.on_wr_self (f := alertBit i) (by simp only [alertBit]; omega) (by simp [alertBit]) d false
  unfold Dev.alertBitWrite
  split <;> simp [*]

/-- The other bits stay. -/
theorem Dev.on_alertBitWrite_ne {i j : Nat} (hi : i < 7) (hne : i ≠ j) (v : Nat) (d : Dev) :
    (d.alertBitWrite v j).on (alertBit i) = d.on (alertBit i) := by
  unfold Dev.alertBitWrite
  split
  · refine congrArg (· != 0) (Dev.rd_wr_disjoint (by simp only [alertBit]; omega) (.inr ?_) d 0)
    simp only [alertBit]
    omega
  · rfl

/-- Over any list of conditions, a write clears the listed bits that it writes 1 to and whose condition has ended. -/
theorem Dev.on_forEach_alertBitWrite {i : Nat} (hi : i < 7) (v : Nat) (l : List Nat) (d : Dev) :
    (d.forEach l (Dev.alertBitWrite v)).on (alertBit i)
      = (d.on (alertBit i) && !(decide (i ∈ l) && (bitAt v i && !d.alertLasts i))) := by
  induction l generalizing d with
  | nil => simp
  | cons j l ih =>
    rw [Dev.forEach_cons, ih, Dev.alertLasts_alertBitWrite]
    by_cases hne : i = j
    · subst hne
      rw [Dev.on_alertBitWrite_self hi]
      cases d.on (alertBit i) <;> cases (bitAt v i && !d.alertLasts i) <;> simp
    · rw [Dev.on_alertBitWrite_ne hi hne]
      simp [hne]

/-- Settles O12: each of the seven bits is written once, by its own rule. -/
theorem alertWriteClearsEnded : Obligations.AlertWriteClearsEnded := by
  intro d v i hi
  have h := Dev.on_forEach_alertBitWrite hi v (List.range 7) d
  rw [← Dev.alertWrite_eq, decide_eq_true (List.mem_range.2 hi), Bool.true_and] at h
  exact h

/-! ### The two views of a unit (R565) -/

/-- Settles O13: the state by the two views, and the refusal by the state. -/
theorem unitStateFollowsItsViews : Obligations.UnitStateFollowsItsViews := by
  intro d u
  refine ⟨fun hwork hsafety => ?inService, fun hwork hsafety => ?outOfService, fun hdiffer => ?quarantined⟩
  case inService =>
    have h : d.unitState u = 0 := by simp only [Dev.unitState, hwork, hsafety]
    exact ⟨h, by simp only [Dev.unitRefusal, h]⟩
  case outOfService =>
    have h : d.unitState u = 1 := by simp only [Dev.unitState, hwork, hsafety]
    exact ⟨h, by simp only [Dev.unitRefusal, h]⟩
  case quarantined =>
    have h : d.unitState u = 2 := by
      cases hwork : d.on (Reg.MGT_UNIT.WORK u) <;> cases hsafety : d.on (Reg.MGT_UNIT.SAFETY u) <;>
        simp_all [Dev.unitState]
    exact ⟨h, by simp only [Dev.unitRefusal, h]⟩

end Sys2Proof.Machine
end

