-- ==== Sys2Proof/Proofs/GuardedEffects.lean ====
section
/-!
PROOFS. A row whose meaning guards an effect, once the guard lets it through: the state after the effect.
-/
namespace Sys2Proof.Machine

variable {s : State} {d e : Dev} {slot op : Nat} {c : Cmd}

theorem State.run_onCmd {f : Cmd → Dev → Dev} (h : s.dev.CmdRuns slot op c) (heffect : f c s.dev = d) :
    s.run (fun d => d.onCmd slot op f) = .next (s.after d) :=
  State.run_of_effect <| (Dev.onCmd_runs h f).trans heffect

theorem State.run_onRoutine {f : Cmd → Dev → Dev} (h : s.dev.RoutineRuns slot op c) (heffect : f c s.dev = d) :
    s.run (fun d => d.onRoutine slot op f) = .next (s.after d) :=
  State.run_of_effect <| (Dev.onRoutine_runs h f).trans heffect

theorem State.run_onTd {id kind : Nat} {kinds : List Nat} {t : Td} {f : Td → Dev → Dev} (h : s.dev.TdStarts id kind t)
    (hkind : kinds.contains kind = true) (heffect : f t (s.dev.tdStart t) = d) :
    s.run (fun d => d.onTd id kinds f) = .next (s.after d) :=
  State.run_of_effect <| (Dev.onTd_starts h hkind f).trans heffect

theorem State.run_onPorter {p x : Nat} {r : PorterRun} {f : PrtEffect} (h : s.dev.PorterTakes p op r x d)
    (heffect : f p { r with waitOk := true } x d = e) : s.run (fun d => d.onPorter p op f) = .next (s.after e) :=
  State.run_of_effect <| (Dev.onPorter_takes h f).trans heffect

theorem State.run_onPkt {typ : Nat} {k : FabPkt} {f : FabPkt → Dev → Dev} (h : s.dev.PktTaken typ k d) (heffect : f k d = e) :
    s.run (fun d => d.onPkt typ f) = .next (s.after e) :=
  State.run_of_effect <| (Dev.onPkt_taken h f).trans heffect

theorem State.run_onClass {off : Nat} {cls : Cmd → Nat} {f : Cmd → Nat → Dev → Dev} (h : s.dev.ClassRuns slot op c (cls c))
    (heffect : f c (cls c) s.dev = d) : s.run (fun d => d.onClass slot op off cls f) = .next (s.after d.innStatus) :=
  State.run_of_effect <| (Dev.onClass_runs h f).trans <| congrArg Dev.innStatus heffect

theorem State.run_onRoom {r : Room} {f : Cmd → Room → Dev → Dev} (h : s.dev.RoomRuns slot op c r) (heffect : f c r s.dev = d) :
    s.run (fun d => d.onRoom slot op f) = .next (s.after d.innStatus) :=
  State.run_of_effect <| (Dev.onRoom_runs h f).trans <| congrArg Dev.innStatus heffect

theorem State.run_onLedger {f : Cmd → Dev → Dev} (h : s.dev.LedgerRuns slot op c) (heffect : f c s.dev = d) :
    s.run (fun d => d.onLedger slot op f) = .next (s.after d) :=
  State.run_of_effect <| (Dev.onLedger_runs h f).trans heffect

theorem State.run_onTrain {r : TrainRun} {f : TrainRun → Cmd → Dev → Dev} (h : s.dev.StepRuns slot c r) (heffect : f r c s.dev = d) :
    s.run (fun d => d.onTrain slot f) = .next (s.after d) :=
  State.run_of_effect <| (Dev.onTrain_runs h f).trans heffect

end Sys2Proof.Machine
end

