-- ==== Sys2Proof/Proofs/SolverUnit.lean ====
section
/-!
PROOFS. The solver (chapter 12): its descriptors, and a stage of SOLVE. A descriptor's step count is cut to the steps that are left, and
with blocks flagged the low half of RESULT is a free value (the model's choices, notes/assumptions/25.md).
-/
namespace Sys2Proof.Machine

/-! ### SOLVE descriptors (R317, R318, R320–R325) -/

/-- A row of descriptors: its command, its routine, and for routine 3 its operation. -/
abbrev SolveRow := (Nat → Instr) × Nat × Option Nat

/-- The machine gives the command of a row the row's routine and operation. -/
def SolveRow.Means (x : SolveRow) : Prop := ∀ id s, exec (x.1 id) s = s.run fun d => d.slvDesc id x.2.1 x.2.2

/-- A descriptor that starts, whose block is read and whose steps run, finishes. -/
theorem SolveRow.Means.finishes {x : SolveRow} (hmeans : x.Means) {s : State} {id : Nat} {t : Td} {d : Dev} {blk : List Byte} {ran : SlvRan}
    (hstart : s.dev.TdStarts id 0x40 t) (hroutine : t.f 0x20 1 = x.2.1)
    (hop : ∀ o, x.2.2 = some o → s.dev.peekNat (t.f 0x18 8 + 0x34) 2 = o)
    (hpower : (s.dev.tdStart t).unitBlocked [domSlv t.core] 0x0C10 = none)
    (hblock : (s.dev.tdStart t).coreRead t.core t.ctx (t.f 0x18 8) 64 = ⟨d, .ok blk⟩)
    (hran : ran = (let y : Slv := ⟨t.core, t.ctx, x.2.1, t.f 0x22 2, blk⟩
      let left := y.count * y.steps.length - y.stepFirst
      if x.2.1 = 3 then d.slvRun y 0 y.count
      else d.slvRun y y.stepFirst (if y.stepCount = 0 then left else min y.stepCount left)))
    (hok : ran.err = none) : exec (x.1 id) s = .next (s.after (ran.dev.finishTd id)) :=
  (hmeans id s).trans <| State.run_of_effect <| Dev.slvDesc_runs hstart hroutine hop hpower hblock ran hran hok

section Rows
variable (id : Nat) (s : State)

theorem exec_zeroOrderHold : exec (.zeroOrderHold id) s = s.run fun d => d.slvDesc id 0 none := by rfl

theorem exec_newtonSchulz : exec (.newtonSchulz id) s = s.run fun d => d.slvDesc id 1 none := by rfl

theorem exec_cholesky : exec (.cholesky id) s = s.run fun d => d.slvDesc id 2 none := by rfl

theorem exec_slvDiv : exec (.slvDiv id) s = s.run fun d => d.slvDesc id 3 (some 0) := by rfl

theorem exec_slvSqrt : exec (.slvSqrt id) s = s.run fun d => d.slvDesc id 3 (some 1) := by rfl

theorem exec_slvRsqrt : exec (.slvRsqrt id) s = s.run fun d => d.slvDesc id 3 (some 2) := by rfl

theorem exec_slvFma : exec (.slvFma id) s = s.run fun d => d.slvDesc id 3 (some 3) := by rfl

theorem exec_zoh1 : exec (.zoh1 id) s = s.run fun d => d.slvDesc id 3 (some 4) := by rfl

theorem exec_qFromF64 : exec (.qFromF64 id) s = s.run fun d => d.slvDesc id 3 (some 5) := by rfl

theorem exec_qToF64 : exec (.qToF64 id) s = s.run fun d => d.slvDesc id 3 (some 6) := by rfl

theorem exec_qadd : exec (.qadd id) s = s.run fun d => d.slvDesc id 3 (some 7) := by rfl

theorem exec_qsub : exec (.qsub id) s = s.run fun d => d.slvDesc id 3 (some 8) := by rfl

theorem exec_qmul : exec (.qmul id) s = s.run fun d => d.slvDesc id 3 (some 9) := by rfl

theorem exec_qfma : exec (.qfma id) s = s.run fun d => d.slvDesc id 3 (some 10) := by rfl

end Rows

/-- Settles O33, row by row. -/
theorem solveDescriptorsComplete : Obligations.SolveDescriptorsComplete := by
  intro x hx
  have hmeans : SolveRow.Means x := by
    revert x
    simp only [List.forall_mem_cons]
    exact ⟨exec_zeroOrderHold, exec_newtonSchulz, exec_cholesky, exec_slvDiv, exec_slvSqrt, exec_slvRsqrt, exec_slvFma, exec_zoh1,
      exec_qFromF64, exec_qToF64, exec_qadd, exec_qsub, exec_qmul, exec_qfma, List.forall_mem_nil _⟩
  exact fun _ _ _ _ _ hstart hroutine hop hpower hblock hok => hmeans.finishes hstart hroutine hop hpower hblock rfl hok

/-! ### SOLVE (R316, R319; 06 R166) -/

theorem exec_solve (slot : Nat) (s : State) : exec (.solve slot) s = execSolve slot s := by rfl

/-- The run that a SOLVE asks of the solver with its block: the step fields of routines 0 to 2 are ignored. -/
def Cmd.solveRun (c : Cmd) (b : List Byte) : Slv :=
  ⟨c.par 9 1 % 2, c.ctx, c.par 8 1, c.par 0x0A 2, if c.par 8 1 = 3 then b else blkKey b⟩

/-- Where a SOLVE has its block from: memory at the first stage, the command afterwards. -/
def Dev.SolveBlock (d : Dev) (c : Cmd) (e : Dev) (b : List Byte) : Prop :=
  c.total = 0 ∧ d.coreRead (c.par 9 1 % 2) c.ctx (c.par 0 8) 64 = ⟨e, .ok b⟩
    ∨ c.total ≠ 0 ∧ e = d ∧ b = leBytes 64 (c.aux.headD 0)

/-- The device on which a stage runs: the first one has fixed the command's core and stages. -/
def Dev.solveOpened (d : Dev) (slot : Nat) (c : Cmd) (x : Slv) : Dev :=
  if c.total = 0 then
    (d.assign slot [c.par 9 1 % 2]).updCmd slot fun c => { c with total := x.stages.length, aux := [leNat x.blk] }
  else d

/-- The next stage of a SOLVE, with what it flags. -/
def Dev.solveStage (d : Dev) (c : Cmd) (x : Slv) : SlvRan :=
  d.slvRun x (x.stages.getD c.done (0, 0)).1 (x.stages.getD c.done (0, 0)).2

/-- A stage counts as done, with the blocks it flagged. -/
def SlvRan.counted (r : SlvRan) (slot : Nat) : Dev :=
  (r.dev.pieceDone slot).updCmd slot fun c => { c with hits := c.hits + r.flagged }

/-- After a stage: the last one completes the command, with INVALID and a RESULT when blocks were flagged. -/
def Dev.solveEnd (d : Dev) (slot : Nat) : Dev :=
  match d.cmd? slot with
  | some c =>
    if c.done < c.total then d
    else if c.hits = 0 then d.okCmd slot c.progress
    else d.freeNext.endCmd slot 0x01 0x0C20 (d.freeVal % 2 ^ 32 + c.hits % 2 ^ 32 * 2 ^ 32)
  | none => d

theorem exec_solve_of_stage {s : State} {slot : Nat} {c : Cmd} {d : Dev} {b : List Byte} (hrun : s.dev.RoutineRuns slot 0x0304 c)
    (hpower : s.dev.unitBlocked [domSlv (c.par 9 1 % 2)] 0x0C10 = none) (hblock : s.dev.SolveBlock c d b)
    (hlegal : (c.solveRun b).refusal = none)
    (hok : ((d.solveOpened slot c (c.solveRun b)).solveStage c (c.solveRun b)).err = none) :
    exec (.solve slot) s = .next (s.after
      ((((d.solveOpened slot c (c.solveRun b)).solveStage c (c.solveRun b)).counted slot).solveEnd slot)) := by
  have hgot : (if c.total = 0 then s.dev.coreRead (c.par 9 1 % 2) c.ctx (c.par 0 8) 64
      else ⟨s.dev, .ok (leBytes 64 (c.aux.headD 0))⟩) = (⟨d, .ok b⟩ : Got) := by
    obtain ⟨hfirst, hread⟩ | ⟨hlater, rfl, rfl⟩ := hblock
    · exact (if_pos hfirst).trans hread
    · exact if_neg hlater
  refine (exec_solve ..).trans <| State.run_onRoutine hrun ?_
  unfold Cmd.solveRun at hlegal hok
  unfold Dev.solveStage Dev.solveOpened at hok
  simp only [hpower, hgot, hlegal, hok]
  rfl

/-- Settles O34: by what is left after the stage. -/
theorem solveCommandCompletes : Obligations.SolveCommandCompletes := by
  intro s slot c c' d₀ b hrun core hpower hblock r blk x hlegal d st ran hok e hcmd
  have hstage : exec (.solve slot) s = .next (s.after (e.solveEnd slot)) := exec_solve_of_stage hrun hpower hblock hlegal hok
  rw [hstage, Dev.solveEnd, hcmd]
  refine ⟨fun hleft => ?goesOn, fun hdone hclean => ?ok, fun hdone hflagged => ?invalid⟩
  case goesOn => simp only [if_pos hleft]
  case ok => simp only [if_neg (Nat.not_lt.2 hdone), if_pos hclean]
  case invalid => simp only [if_neg (Nat.not_lt.2 hdone), if_neg hflagged]

end Sys2Proof.Machine
end

