-- ==== Sys2Proof/Proofs/Porters.lean ====
section
/-!
PROOFS. Porter lists, their operations, and the memory commands (13 R342–R351). A memory command takes the lowest porters of its class in
turn (the model's choice, notes/assumptions/17.md).
-/
namespace Sys2Proof.Machine

/-! ### The meaning of each row -/

theorem exec_porterList (id : Nat) (s : State) : exec (.porterList id) s = execPorterList id s := by rfl

theorem exec_porterNop (porter : Nat) (s : State) : exec (.porterNop porter) s = execPorterNop porter s := by rfl

theorem exec_prtCopy (porter : Nat) (s : State) : exec (.prtCopy porter) s = execPrtCopy porter s := by rfl

theorem exec_prtFill (porter : Nat) (s : State) : exec (.prtFill porter) s = execPrtFill porter s := by rfl

theorem exec_prtCheck (porter : Nat) (s : State) : exec (.prtCheck porter) s = execPrtCheck porter s := by rfl

theorem exec_prtTranspose (porter : Nat) (s : State) : exec (.prtTranspose porter) s = execPrtTranspose porter s := by rfl

theorem exec_remoteWrite (porter : Nat) (s : State) : exec (.remoteWrite porter) s = execRemoteWrite porter s := by rfl

theorem exec_remoteRead (porter : Nat) (s : State) : exec (.remoteRead porter) s = execRemoteRead porter s := by rfl

/-! ### Porter lists (R342, R344) -/

/-- The run of a porter that begins the list of a PORTER descriptor. -/
def Td.porterRun (t : Td) (id : Nat) : PorterRun :=
  { td := id, cmd := t.cmd, ctx := t.ctx, list := t.f 0x18 8, count := t.f 0x22 2, index := 0
    waitOk := false, pos := 0, crc := 0, signals := [] }

/-- A porter begins a list: its status shows it busy, with the list's context, at its first descriptor. -/
def Dev.porterBegun (d : Dev) (p : Nat) (r : PorterRun) : Dev :=
  ((({ d with porters := kvPut p r d.porters } : Dev).wr (Reg.PRT_STATUS.BUSY p) 1).wr (Reg.PRT_STATUS.CTX p) r.ctx).wr
    (Reg.PRT_STATUS.INDEX p) 0

theorem exec_porterList_of_free {s : State} {id : Nat} {t : Td} (hstart : s.dev.TdStarts id 0x60 t)
    (hfree : kvGet (t.f 0x20 1) s.dev.porters = none)
    (hpower : (s.dev.tdStart t).unitBlocked [domPorters t.core] 0x0D21 = none) :
    exec (.porterList id) s = .next (s.after ((s.dev.tdStart t).porterBegun (t.f 0x20 1) (t.porterRun id))) := by
  refine (exec_porterList ..).trans <| State.run_of_effect ?_
  simp only [hstart.found]
  refine (if_neg (by simp [hfree])).trans <| (Dev.onTd_starts hstart (by decide) _).trans ?_
  simp only [hpower]
  rfl

/-! ### The operations of a porter (R345) -/

/-- The end of a local operation that wrote everything: its descriptor is performed. -/
theorem Dev.porterMoved_of_ok {m : Moved} (hok : m.err = none) (p : Nat) (r : PorterRun) (x : Nat) :
    Dev.porterMoved p r x m = m.dev.porterNext p r x m.done := by
  simp only [Dev.porterMoved, hok]

/-- The pieces of rows that one address and one stride place, each row cut into bursts: FILL's destination, CHECK's source. -/
def rowBursts (rows rowBytes a stride : Nat) : List (Nat × Nat) :=
  (List.range rows).flatMap fun i => (burstsOf (a + i * stride) rowBytes).map fun b => (a + i * stride + b.1, b.2)

section Takes
variable {s : State} {p x : Nat} {r : PorterRun} {d : Dev}

theorem exec_porterNop_of_taken (h : s.dev.PorterTakes p 0 r x d) :
    exec (.porterNop p) s = .next (s.after (d.porterNext p { r with waitOk := true } x 0)) :=
  (exec_porterNop ..).trans <| State.run_onPorter h rfl

theorem exec_prtCopy_of_moved {m : Moved} (h : s.dev.PorterTakes p 1 r x d)
    (hmoved : d.movePieces (byPorter p) r.ctx
      (rowPieces (pdRows x) (pdRowBytes x) (pdSrc x) (pdSrcStride x) (pdDst x) (pdDstStride x)) 0 = m) (hok : m.err = none) :
    exec (.prtCopy p) s = .next (s.after (m.dev.porterNext p { r with waitOk := true } x m.done)) := by
  subst hmoved
  exact (exec_prtCopy ..).trans <| State.run_onPorter h <| Dev.porterMoved_of_ok hok ..

theorem exec_prtFill_of_filled {m : Moved} (h : s.dev.PorterTakes p 2 r x d)
    (hfilled : d.fillPieces (byPorter p) r.ctx (pdAux x) (rowBursts (pdRows x) (pdRowBytes x) (pdDst x) (pdDstStride x)) 0 = m)
    (hok : m.err = none) :
    exec (.prtFill p) s = .next (s.after (m.dev.porterNext p { r with waitOk := true } x m.done)) := by
  subst hfilled
  exact (exec_prtFill ..).trans <| State.run_onPorter h <| Dev.porterMoved_of_ok hok ..

/-- CHECK writes the running register and the finished CRC. -/
theorem exec_prtCheck_of_written {v : Nat} {d₁ d₂ : Dev} (h : s.dev.PorterTakes p 3 r x d)
    (hcrc : d.crcPieces (byPorter p) r.ctx (rowBursts (pdRows x) (pdRowBytes x) (pdSrc x) (pdSrcStride x)) (pdAux x) = (d₁, .ok v))
    (hwrite : d₁.write (byPorter p) r.ctx (pdDst x) (leBytes 8 v ++ leBytes 8 (v ^^^ ones64)) = ⟨d₂, none⟩) :
    exec (.prtCheck p) s = .next (s.after (d₂.porterNext p { r with waitOk := true } x 16)) := by
  unfold rowBursts at hcrc
  refine (exec_prtCheck ..).trans <| State.run_onPorter h ?_
  simp only [hcrc, hwrite]

theorem exec_prtTranspose_of_moved {m : Moved} (h : s.dev.PorterTakes p 4 r x d)
    (hmoved : d.movePieces (byPorter p) r.ctx (transposePieces (pdRows x) (pdRowBytes x / elemSize (pdElem x)) (elemSize (pdElem x))
      (pdSrc x) (pdSrcStride x) (pdDst x) (pdDstStride x)) 0 = m) (hok : m.err = none) :
    exec (.prtTranspose p) s = .next (s.after (m.dev.porterNext p { r with waitOk := true } x m.done)) := by
  subst hmoved
  exact (exec_prtTranspose ..).trans <| State.run_onPorter h <| Dev.porterMoved_of_ok hok ..

/-- A descriptor just taken up issues its writes from its first piece on. -/
theorem exec_remoteWrite_of_taken (h : s.dev.PorterTakes p 5 r x d) :
    exec (.remoteWrite p) s = .next (s.after (d.issueWrites p { r with waitOk := true } x 0 (pdPieces x) 0)) :=
  (exec_remoteWrite ..).trans <| State.run_onPorter h <| by simp only [h.fresh, List.drop_zero]

theorem exec_remoteRead_of_taken (h : s.dev.PorterTakes p 6 r x d) :
    exec (.remoteRead p) s = .next (s.after (d.issueReads p { r with waitOk := true } x (pdPieces x))) :=
  (exec_remoteRead ..).trans <| State.run_onPorter h rfl

end Takes

/-- Settles O24, row by row. -/
theorem porterCommandsComplete : Obligations.PorterCommandsComplete := by
  refine ⟨?list, ?nop, ?copy, ?fill, ?check, ?transpose, ?write, ?read⟩
  case list => exact fun _ _ _ hstart hfree hpower => exec_porterList_of_free hstart hfree hpower
  case nop => exact fun _ _ _ _ _ h => exec_porterNop_of_taken h
  case copy => exact fun _ _ _ _ _ h hok => exec_prtCopy_of_moved h rfl hok
  case fill => exact fun _ _ _ _ _ h hok => exec_prtFill_of_filled h rfl hok
  case check => exact fun _ _ _ _ _ _ _ _ h hcrc hwrite => exec_prtCheck_of_written h hcrc hwrite
  case transpose => exact fun _ _ _ _ _ h hok => exec_prtTranspose_of_moved h rfl hok
  case write => exact fun _ _ _ _ _ h => exec_remoteWrite_of_taken h
  case read => exact fun _ _ _ _ _ h => exec_remoteRead_of_taken h

/-! ### Memory commands (R350, R351; 06 R158, R170) -/

/-- A row of memory commands: its command and its opcode. -/
abbrev MemRow := (Nat → Instr) × Nat

/-- The machine gives the command of a row the row's opcode. -/
def MemRow.Means (x : MemRow) : Prop := ∀ slot s, exec (x.1 slot) s = s.run fun d => d.memRun slot x.2

/-- The device on which a memory command's chunk runs: a command that begins with at most one chunk has its core and needs no tab. -/
def Dev.LongOpened (d : Dev) (slot core total : Nat) (c : Cmd) (e : Dev) : Prop :=
  c.total ≠ 0 ∧ e = d
    ∨ c.total = 0 ∧ total ≤ 1 ∧ e = (d.assign slot [core]).updCmd slot fun c => { c with total := total }

/-- A chunk counts as done, and the command goes on with what the chunk leaves it. -/
def Dev.chunkDone (d : Dev) (slot : Nat) (c c' : Cmd) : Dev :=
  d.updCmd slot fun y =>
    { y with done := c.done + 1, rested := false, cursor := c'.cursor, rstate := c'.rstate, hits := c'.hits, aux := c'.aux }

/-- The next chunk of a LONG command that has begun, or begins without a tab; the last one completes it. -/
theorem Dev.longRun_opened {d e e' : Dev} {slot op core total epoch : Nat} {c₀ c c' : Cmd} {result : Cmd → Nat}
    {chunk : Cmd → Dev → Dev × Except Fail Cmd} (hrun : d.RoutineRuns slot op c₀) (hopened : d.LongOpened slot core total c₀ e)
    (hcmd : e.cmd? slot = some c) (hleft : c.done < c.total) (hchunk : chunk c e = (e', .ok c')) :
    d.longRun slot op total epoch [core] result chunk =
      if c.done + 1 = c.total then (e'.chunkDone slot c c').okCmd slot (result { c' with done := c.done + 1, rested := false })
      else e'.chunkDone slot c c' := by
  refine (Dev.onRoutine_runs hrun _).trans ?_
  obtain ⟨hbegun, rfl⟩ | ⟨hfirst, hone, rfl⟩ := hopened
  · simp only [bne_iff_ne.2 hbegun, if_true, hcmd, if_neg (Nat.not_le.2 hleft), hchunk]
    rfl
  · simp only [hfirst, bne_self_eq_false, Bool.false_eq_true, if_false, if_pos hone, hcmd, if_neg (Nat.not_le.2 hleft), hchunk]
    rfl

/-- A chunk of a memory command completes; the last one completes the command. -/
theorem MemRow.Means.completes {x : MemRow} (hmeans : x.Means) {s : State} {slot : Nat} {c₀ c c' : Cmd} {d d' : Dev}
    (hrun : s.dev.RoutineRuns slot x.2 c₀)
    (hopened : s.dev.LongOpened slot (s.dev.pickCore 2) (cdiv (memBytes c₀) s.dev.memChunk) c₀ d)
    (hcmd : d.cmd? slot = some c) (hleft : c.done < c.total) (hchunk : d.memChunkRun c = (d', .ok c')) :
    exec (x.1 slot) s = .next (s.after
      (if c.done + 1 = c.total then
        (d'.chunkDone slot c c').okCmd slot (memResult { c' with done := c.done + 1, rested := false })
      else d'.chunkDone slot c c')) := by
  refine (hmeans slot s).trans <| State.run_of_effect ?_
  simp only [Dev.memRun, hrun.found]
  exact Dev.longRun_opened hrun hopened hcmd hleft hchunk

section Rows
variable (slot : Nat) (s : State)

theorem exec_memCopy : exec (.memCopy slot) s = s.run fun d => d.memRun slot 0x0201 := by rfl

theorem exec_memFill : exec (.memFill slot) s = s.run fun d => d.memRun slot 0x0202 := by rfl

theorem exec_memCopy2d : exec (.memCopy2d slot) s = s.run fun d => d.memRun slot 0x0203 := by rfl

theorem exec_memTranspose : exec (.memTranspose slot) s = s.run fun d => d.memRun slot 0x0204 := by rfl

theorem exec_memCheck : exec (.memCheck slot) s = s.run fun d => d.memRun slot 0x0205 := by rfl

end Rows

/-- Settles O25, row by row. -/
theorem memoryCommandsComplete : Obligations.MemoryCommandsComplete := by
  intro x hx
  have hmeans : MemRow.Means x := by
    revert x
    simp only [List.forall_mem_cons]
    exact ⟨exec_memCopy, exec_memFill, exec_memCopy2d, exec_memTranspose, exec_memCheck, List.forall_mem_nil _⟩
  exact fun _ _ _ _ _ _ _ hrun hopened hcmd hleft hchunk => hmeans.completes hrun hopened hcmd hleft hchunk

end Sys2Proof.Machine
end

