-- ==== Sys2Proof/Proofs/InnClasses.lean ====
section
/-!
PROOFS. The Inn's commands on classes and on rooms (14 R360–R367, R376, R379). A class takes the lowest free run of the backing region
(the model's choice, notes/assumptions/23.md); errors of stored words come in by the row's operand (the model's choice,
notes/assumptions/26.md).
-/
namespace Sys2Proof.Machine

/-! ### The meaning of each row -/

theorem exec_innClassSet (slot : Nat) (s : State) : exec (.innClassSet slot) s = execInnClassSet slot s := by rfl

theorem exec_innTemplateLoad (slot : Nat) (s : State) : exec (.innTemplateLoad slot) s = execInnTemplateLoad slot s := by rfl

theorem exec_innLodge (slot : Nat) (s : State) : exec (.innLodge slot) s = execInnLodge slot s := by rfl

theorem exec_innRelease (slot : Nat) (s : State) : exec (.innRelease slot) s = execInnRelease slot s := by rfl

theorem exec_innPin (slot : Nat) (s : State) : exec (.innPin slot) s = execInnPin slot s := by rfl

theorem exec_innUnpin (slot : Nat) (s : State) : exec (.innUnpin slot) s = execInnUnpin slot s := by rfl

theorem exec_innReadRoom (slot : Nat) (bad : List (Nat × Bool)) (s : State) :
    exec (.innReadRoom slot bad) s = execInnReadRoom slot bad s := by rfl

theorem exec_innQuery (slot : Nat) (s : State) : exec (.innQuery slot) s = execInnQuery slot s := by rfl

/-! ### INN_CLASS_SET (R360) -/

/-- INN_CLASS of a class that a command creates. -/
def Cmd.newClass (c : Cmd) : Nat :=
  let lock := if c.par 8 2 = 0 then 100 else c.par 8 2
  1 + c.par 2 1 * 2 + c.ctx * 2 ^ 8 + c.par 3 1 % 8 * 2 ^ 12 + lock * 2 ^ 16 + c.par 4 4 * 2 ^ 32

/-- INN_CAPACITY follows the classes, and so does the Inn's status. -/
def Dev.classesChanged (d : Dev) : Dev := (d.wr Reg.INN_CAPACITY.SUM d.capacitySum).innStatus

/-- A class has its registers and its backing run. -/
def Dev.classCreated (d : Dev) (c : Cmd) (a : Nat) : Dev :=
  let d := d.setReg (Reg.INN_CLASS.EXISTS (c.par 0 1)).reg c.newClass
  ({ d with inn := { d.inn with classes := kvPut (c.par 0 1) ⟨a, []⟩ d.inn.classes } } : Dev).classesChanged

/-- A class goes with its rooms. -/
def Dev.classDeleted (d : Dev) (k : Nat) : Dev :=
  let d := d.forEach (d.roomsOf fun r => r.cls == k) fun r d => d.dropRoom r
  let d : Dev := { d with inn := { d.inn with classes := kvDel k d.inn.classes } }
  (d.setReg (Reg.INN_CLASS.EXISTS k).reg 0).classesChanged

theorem exec_innClassSet_of_create {s : State} {slot a : Nat} {c : Cmd} (hrun : s.dev.CmdRuns slot 0x0401 c) (hop : c.par 1 1 = 0)
    (hnew : s.dev.classOn (c.par 0 1) = false) (hsum : s.dev.capacitySum + c.par 4 4 ≤ 16777216)
    (hfit : s.dev.backingFit (c.par 4 4 * 2 ^ c.par 2 1) = some a)
    (hdefault : bitAt (c.par 3 1) 1 = true →
      ∀ q < 16, s.dev.classOn q = true → s.dev.classCtx q = c.ctx → s.dev.on (Reg.INN_CLASS.DEFAULT q) = false) :
    exec (.innClassSet slot) s = .next (s.after ((s.dev.classCreated c a).okCmd slot)) := by
  have hclash : (bitAt (c.par 3 1) 1 && (List.range 16).any fun q =>
      s.dev.classOn q && s.dev.classCtx q == c.ctx && s.dev.on (Reg.INN_CLASS.DEFAULT q)) = false := by
    rw [Bool.and_eq_false_imp]
    intro hflag
    refine List.any_eq_false.2 fun q hq => ?_
    have := hdefault hflag q (List.mem_range.1 hq)
    simp_all
  refine (exec_innClassSet ..).trans <| State.run_onCmd hrun <| (if_pos hop).trans <| (if_neg (by simp [hnew])).trans <|
    (if_neg (Nat.not_lt.2 hsum)).trans ?_
  generalize hfound : s.dev.backingFit _ = found
  obtain rfl : found = some a := hfound.symm.trans hfit
  exact if_neg (Bool.eq_false_iff.1 hclash)

theorem exec_innClassSet_of_delete {s : State} {slot : Nat} {c : Cmd} (hrun : s.dev.ClassRuns slot 0x0401 c (c.par 0 1))
    (hop : c.par 1 1 ≠ 0)
    (hidle : ∀ r ∈ s.dev.roomsOf fun r => r.cls == c.par 0 1, r.state ≠ .locked ∧ r.state ≠ .staged ∧ r.state ≠ .busy) :
    exec (.innClassSet slot) s = .next (s.after ((s.dev.classDeleted (c.par 0 1)).okCmd slot)) := by
  have hunlocked : ¬ ((s.dev.roomsOf fun r => r.cls == c.par 0 1).any fun r => r.state == .locked || r.state == .staged) = true := by
    simp only [List.any_eq_true, Bool.or_eq_true, beq_iff_eq]
    rintro ⟨r, hr, hlocked | hstaged⟩
    · exact (hidle r hr).1 hlocked
    · exact (hidle r hr).2.1 hstaged
  have hquiet : ¬ ((s.dev.roomsOf fun r => r.cls == c.par 0 1).any fun r => r.state == .busy) = true := by
    simp only [List.any_eq_true, beq_iff_eq]
    rintro ⟨r, hr, hbusy⟩
    exact (hidle r hr).2.2 hbusy
  refine (exec_innClassSet ..).trans <| State.run_onCmd hrun.toCmdRuns <| (if_neg hop).trans ?_
  simp only [hrun.owned]
  exact (if_neg hunlocked).trans (if_neg hquiet)

/-! ### INN_TEMPLATE_LOAD and INN_LODGE (R363, R364) -/

/-- A class has its template replaced. -/
def Dev.classTemplate (d : Dev) (k : Nat) (x : InnClass) (bs : List Byte) : Dev :=
  { d with inn := { d.inn with classes := kvPut k { x with tmpl := bs } d.inn.classes } }

theorem exec_innTemplateLoad_of_clear {s : State} {slot : Nat} {c : Cmd} {x : InnClass}
    (hrun : s.dev.ClassRuns slot 0x0402 c (c.par 8 1)) (hop : c.par 9 1 = 0) (hclass : kvGet (c.par 8 1) s.dev.inn.classes = some x) :
    exec (.innTemplateLoad slot) s = .next (s.after ((s.dev.classTemplate (c.par 8 1) x []).okCmd slot).innStatus) := by
  refine (exec_innTemplateLoad ..).trans <| State.run_onClass hrun <| (if_pos hop).trans ?_
  simp only [hclass]
  rfl

theorem exec_innTemplateLoad_of_read {s : State} {slot : Nat} {c : Cmd} {x : InnClass} {d : Dev} {bs : List Byte}
    (hrun : s.dev.ClassRuns slot 0x0402 c (c.par 8 1)) (hop : c.par 9 1 ≠ 0)
    (hread : s.dev.read byInn c.ctx (c.par 0 8) (s.dev.roomSize (c.par 8 1) - 32) = ⟨d, .ok bs⟩)
    (hclass : kvGet (c.par 8 1) d.inn.classes = some x) :
    exec (.innTemplateLoad slot) s = .next (s.after ((d.classTemplate (c.par 8 1) x bs).okCmd slot).innStatus) := by
  refine (exec_innTemplateLoad ..).trans <| State.run_onClass hrun <| (if_neg hop).trans ?_
  simp only [hread, hclass]
  rfl

/-- The image that INN_LODGE gives a room: the class's template, or what its context holds at an address. -/
def Dev.lodgeImage (d : Dev) (c : Cmd) : Got :=
  if c.par 0 8 = 0 then ⟨d, .ok (d.template (c.par 0x0B 1 % 16))⟩
  else d.read byInn c.ctx (c.par 0 8) (d.roomSize (c.par 0x0B 1 % 16) - 32)

/-- A lodged room starts anew with an image and a step, where it lies. -/
def Dev.roomReplaced (d : Dev) (k g step : Nat) (bs : List Byte) (r : Room) : Dev :=
  (d.innWrite r.addr (roomHeader k g step 0 0 (d.roomSize k) ++ bs)).setRoom { r with
    state := .idle, bad := false, step := step, epoch := 0, expired := none, prev := none, staged := none }

section Lodge
variable {s : State} {slot : Nat} {c : Cmd} {d : Dev} {bs : List Byte} (hrun : s.dev.ClassRuns slot 0x0403 c (c.par 0x0B 1 % 16))
  (himage : s.dev.lodgeImage c = ⟨d, .ok bs⟩)
include hrun himage

theorem exec_innLodge_of_free (hfree : s.dev.room? (c.par 0x0B 1 % 16) (c.par 8 3) = none)
    (hroom : s.dev.classFull (c.par 0x0B 1 % 16) = false) :
    exec (.innLodge slot) s = .next (s.after ((d.lodge (c.par 0x0B 1 % 16) (c.par 8 3) (c.par 0x10 4) bs).okCmd slot).innStatus) := by
  unfold Dev.lodgeImage at himage
  refine (exec_innLodge ..).trans <| State.run_onClass hrun ?_
  simp only [hfree, hroom, himage, Option.bind_none, Option.isSome_none, Option.isNone_none, Bool.false_and, Bool.and_false,
    Bool.false_eq_true, if_false]

theorem exec_innLodge_of_lodged {r : Room} (hroom : s.dev.room? (c.par 0x0B 1 % 16) (c.par 8 3) = some r)
    (hquiet : roomBusy r.state = none) (hreplace : bitAt (c.par 0x0C 1) 0 = true) :
    exec (.innLodge slot) s =
      .next (s.after ((d.roomReplaced (c.par 0x0B 1 % 16) (c.par 8 3) (c.par 0x10 4) bs r).okCmd slot).innStatus) := by
  unfold Dev.lodgeImage at himage
  refine (exec_innLodge ..).trans <| State.run_onClass hrun ?_
  simp only [hroom, hquiet, hreplace, himage, Option.bind_some, Option.isSome_some, Option.isNone_some, Bool.not_true, Bool.and_false,
    Bool.false_and, Bool.false_eq_true, if_false]
  rfl

end Lodge

/-- Settles O38, row by row. -/
theorem innClassCommandsComplete : Obligations.InnClassCommandsComplete := by
  refine ⟨?create, ?delete, ?template, ?lodge⟩
  case create =>
    exact fun _ _ _ _ hrun hop hnew hsum hfit hdefault =>
      (exec_innClassSet_of_create hrun hop hnew hsum hfit hdefault :)
  case delete => exact fun _ _ _ hrun hop hidle => (exec_innClassSet_of_delete hrun hop hidle :)
  case template =>
    exact fun _ _ _ _ hrun => ⟨fun hop hclass => (exec_innTemplateLoad_of_clear hrun hop hclass :),
      fun _ _ hop hread hclass => (exec_innTemplateLoad_of_read hrun hop hread hclass :)⟩
  case lodge =>
    exact fun _ _ _ _ _ hrun himage => ⟨fun hfree hroom => (exec_innLodge_of_free hrun himage hfree hroom :),
      fun _ hroom hquiet hreplace => (exec_innLodge_of_lodged hrun himage hroom hquiet hreplace :)⟩

/-! ### Commands on rooms (R366, R367, R376, R379) -/

section Rooms
variable {s : State} {slot : Nat} {c : Cmd} {r : Room}

theorem exec_innRelease_of_quiet (hrun : s.dev.RoomRuns slot 0x0404 c r) (hquiet : roomBusy r.state = none) :
    exec (.innRelease slot) s = .next (s.after ((s.dev.dropRoom r).okCmd slot).innStatus) :=
  (exec_innRelease ..).trans <| State.run_onRoom hrun <| by simp only [hquiet]

section Pin
variable (hrun : s.dev.RoomRuns slot 0x0405 c r) (hbusy : r.state ≠ .busy) (hpoisoned : r.state ≠ .poisoned) (hgood : r.bad = false)
include hrun hbusy hpoisoned hgood

theorem exec_innPin_of_pinned (hpinned : r.pinned = true) :
    exec (.innPin slot) s = .next (s.after (s.dev.okCmd slot).innStatus) :=
  (exec_innPin ..).trans <| State.run_onRoom hrun <| (if_neg hbusy).trans <| (if_neg (by simp [hpoisoned, hgood])).trans (if_pos hpinned)

theorem exec_innPin_of_withinQuota (hpinned : r.pinned = false)
    (hquota : s.dev.pinnedBytes c.ctx + s.dev.roomSize r.cls ≤ s.dev.rd (Reg.INN_PIN_QUOTA.QUOTA c.ctx) * 0x10000) :
    exec (.innPin slot) s = .next (s.after ((s.dev.setRoom { r with pinned := true }).okCmd slot).innStatus) :=
  (exec_innPin ..).trans <| State.run_onRoom hrun <| (if_neg hbusy).trans <| (if_neg (by simp [hpoisoned, hgood])).trans <|
    (if_neg (by simp [hpinned])).trans (if_neg (Nat.not_lt.2 hquota))

end Pin

theorem exec_innUnpin_of_lodged (hrun : s.dev.RoomRuns slot 0x0406 c r) :
    exec (.innUnpin slot) s = .next (s.after ((s.dev.setRoom { r with pinned := false, clamped := false }).okCmd slot).innStatus) :=
  (exec_innUnpin ..).trans <| State.run_onRoom hrun rfl

/-- The words of a room's image that turn out bad are known. -/
def Dev.imageSprout (d : Dev) (r : Room) (bad : List (Nat × Bool)) : Dev :=
  d.sprout (bad.filter fun x => touchesWord r.addr (d.roomSize r.cls) (x.1 / 8 * 8))

theorem exec_innReadRoom_of_written {bad : List (Nat × Bool)} {d d' : Dev} {bs : List Byte} (hrun : s.dev.RoomRuns slot 0x0407 c r)
    (hbusy : r.state ≠ .busy) (hpoisoned : r.state ≠ .poisoned) (hgood : r.bad = false)
    (hread : (s.dev.imageSprout r bad).innRead c.ctx r.addr (s.dev.roomSize r.cls) = (d, .ok bs))
    (hwrite : d.write byInn c.ctx (c.par 8 8) bs = ⟨d', none⟩) :
    exec (.innReadRoom slot bad) s = .next (s.after (d'.okCmd slot).innStatus) := by
  unfold Dev.imageSprout at hread
  refine (exec_innReadRoom ..).trans <| State.run_onRoom hrun <| (if_neg hbusy).trans <| (if_neg (by simp [hpoisoned, hgood])).trans ?_
  simp only [hread, hwrite]

end Rooms

section Query
variable {s : State} {slot : Nat} {c : Cmd} (hrun : s.dev.ClassRuns slot 0x0408 c (c.par 3 1 % 16))
include hrun

theorem exec_innQuery_of_free (hop : c.par 4 1 = 0) (hfree : s.dev.room? (c.par 3 1 % 16) (c.par 0 3) = none) :
    exec (.innQuery slot) s = .next (s.after (s.dev.okCmd slot).innStatus) :=
  (exec_innQuery ..).trans <| State.run_onClass hrun <| (if_pos hop).trans <| by simp only [hfree]

theorem exec_innQuery_of_lodged {r : Room} (hop : c.par 4 1 = 0) (hroom : s.dev.room? (c.par 3 1 % 16) (c.par 0 3) = some r) :
    let st := if r.bad then 5 else roomCode r.state
    exec (.innQuery slot) s = .next (s.after
      (s.dev.okCmd slot (r.step + st * 2 ^ 32 + b2n r.pinned * 2 ^ 35 + b2n (inHall r.addr) * 2 ^ 36)).innStatus) :=
  (exec_innQuery ..).trans <| State.run_onClass hrun <| (if_pos hop).trans <| by simp only [hroom]

theorem exec_innQuery_of_class (hop : c.par 4 1 ≠ 0) :
    let rs := s.dev.roomsOf fun r => r.cls == c.par 3 1 % 16
    exec (.innQuery slot) s = .next (s.after
      (s.dev.okCmd slot (rs.length + (rs.countP fun r => inHall r.addr) * 2 ^ 32)).innStatus) :=
  (exec_innQuery ..).trans <| State.run_onClass hrun <| if_neg hop

end Query

/-- Settles O39, row by row. -/
theorem innRoomCommandsComplete : Obligations.InnRoomCommandsComplete := by
  refine ⟨?release, ?pin, ?unpin, ?read, ?query⟩
  case release => exact fun _ _ _ _ hrun hquiet => exec_innRelease_of_quiet hrun hquiet
  case pin =>
    exact fun _ _ _ _ hrun hbusy hpoisoned hgood => ⟨exec_innPin_of_pinned hrun hbusy hpoisoned hgood,
      exec_innPin_of_withinQuota hrun hbusy hpoisoned hgood⟩
  case unpin => exact fun _ _ _ _ hrun => exec_innUnpin_of_lodged hrun
  case read =>
    exact fun _ _ _ _ _ _ _ _ hrun hbusy hpoisoned hgood hread hwrite =>
      exec_innReadRoom_of_written hrun hbusy hpoisoned hgood hread hwrite
  case query =>
    exact fun _ _ _ hrun => ⟨exec_innQuery_of_free hrun, fun _ => exec_innQuery_of_lodged hrun, exec_innQuery_of_class hrun⟩

end Sys2Proof.Machine
end

