-- ==== Sys2Proof/Proofs/InnDescriptors.lean ====
section
/-!
PROOFS. Check-in, check-out and unlock, and what the Inn and the HBM controllers do by themselves (13 R335; 14 R368–R380). The victim's
order and the lowest free hall slot follow notes/assumptions/23.md (deduced, and the model's choice); errors of stored words come in by
the row's operand (the model's choice, notes/assumptions/26.md).
-/
namespace Sys2Proof.Machine

/-! ### The meaning of each row -/

theorem exec_checkIn (id : Nat) (bad : List (Nat × Bool)) (s : State) : exec (.checkIn id bad) s = execCheckIn id bad s := by rfl

theorem exec_checkOut (id : Nat) (bad : List (Nat × Bool)) (s : State) : exec (.checkOut id bad) s = execCheckOut id bad s := by rfl

theorem exec_unlock (id : Nat) (s : State) : exec (.unlock id) s = execUnlock id s := by rfl

theorem exec_lockExpiry (cls guest : Nat) (s : State) : exec (.lockExpiry cls guest) s = execLockExpiry cls guest s := by rfl

theorem exec_innEviction (cls guest : Nat) (bad : List (Nat × Bool)) (s : State) :
    exec (.innEviction cls guest bad) s = execInnEviction cls guest bad s := by rfl

theorem exec_pinMoveToHall (cls guest : Nat) (s : State) : exec (.pinMoveToHall cls guest) s = execPinMoveToHall cls guest s := by rfl

theorem exec_scrubRead (stack addr : Nat) (outcome : Ecc) (s : State) :
    exec (.scrubRead stack addr outcome) s = execScrubRead stack addr outcome s := by rfl

/-! ### INN_OP descriptors (R368–R371) -/

/-- What an INN_OP writes behind the guests of its list: each guest with its outcome. -/
def outcomeBytes (gs ocs : List Nat) : List Byte := (gs.zip ocs).flatMap fun p => leBytes 3 p.1 ++ leBytes 1 p.2

/-- The guard of INN_OPs finishes one that starts, whose effect answers outcomes, once they are written. -/
theorem State.run_onInnOp {s : State} {e d₁ d₂ : Dev} {id op : Nat} {t : Td} {gs ocs : List Nat} {waits : InnOp → List Nat → Dev → Bool}
    {f : InnOp → List Nat → Dev → Dev × Except Fail (List Nat)} (hstart : s.dev.InnOpStarts id op t gs e)
    (hready : s.dev.innRefusal t.innOp = none →
      waits t.innOp ((List.range t.innOp.count).map fun i => s.dev.peekNat (t.innOp.list + 4 * i) 3) s.dev = false)
    (heffect : f t.innOp gs e = (d₁, .ok ocs))
    (hwrite : d₁.innStatus.writeRaw byInn (some t.innOp.ctx) t.innOp.list (outcomeBytes gs ocs) = ⟨d₂, none⟩) :
    s.run (fun d => d.onInnOp id op waits f) = .next (s.after (d₂.finishTd id)) :=
  State.run_of_effect <| Dev.onInnOp_starts hstart hready heffect hwrite

/-- One guest of a CHECK_OUT, its outcome behind those before it. -/
def Dev.checkOutNext (x : InnOp) (acc : Dev × List Nat) (p : Nat × Nat) : Dev × List Nat :=
  ((acc.1.checkOutRoom x p.1 p.2).1, acc.2 ++ [(acc.1.checkOutRoom x p.1 p.2).2])

/-- One guest of an UNLOCK, its outcome behind those before it. -/
def Dev.unlockNext (x : InnOp) (acc : Dev × List Nat) (g : Nat) : Dev × List Nat :=
  match acc.1.room? x.cls g with
  | some r =>
    if r.state = .locked ∧ r.lock = some x.cmd then
      ((acc.1.trace 3 x.core (some x.ctx) none (some g) (some 2) (some r.step)).unlock r none, acc.2 ++ [ocDone])
    else (acc.1, acc.2 ++ [if r.expired = some x.cmd then ocExpired else ocNotLocked])
  | none => (acc.1, acc.2 ++ [ocNotLocked])

section Descriptors
variable {s : State} {id : Nat} {t : Td} {gs ocs : List Nat} {d d₁ d₂ : Dev}

/-- CHECK_IN on a device on which the words that turn out bad are known, where the hall can take the new images. -/
theorem exec_checkIn_of_written {bad : List (Nat × Bool)} {e : Dev} (hstart : s.dev.InnOpStarts id 0 t gs d)
    (hfits : s.dev.innRefusal t.innOp = none →
      s.dev.checkInFits t.innOp ((List.range t.innOp.count).map fun i => s.dev.peekNat (t.innOp.list + 4 * i) 3) = true)
    (hsprout : e = d.sprout (bad.filter fun b => inHall b.1 || d.region b.1 == .reserved))
    (hgo : e.checkInGo t.innOp
      ((List.range gs.length).zip (gs.zip (e.checkInPlan t.innOp gs [] (e.classLeft t.innOp.cls)))) [] = (d₁, .ok ocs))
    (hwrite : d₁.innStatus.writeRaw byInn (some t.innOp.ctx) t.innOp.list (outcomeBytes gs ocs) = ⟨d₂, none⟩) :
    exec (.checkIn id bad) s = .next (s.after (d₂.finishTd id)) := by
  subst hsprout
  exact (exec_checkIn ..).trans <| State.run_onInnOp hstart (fun h => by simp only [hfits h, Bool.not_true]) hgo hwrite

theorem exec_checkOut_of_written {bad : List (Nat × Bool)} {out : Dev × List Nat} (hstart : s.dev.InnOpStarts id 1 t gs d)
    (hout : out = ((List.range gs.length).zip gs).foldl (Dev.checkOutNext t.innOp)
      (d.sprout (bad.filter fun b => d.region b.1 == .spm t.innOp.core), []))
    (hwrite : (out.1.innCeil t.innOp.ctx (out.1.inn.rooms.length + 1)).srvWake.innStatus.writeRaw byInn (some t.innOp.ctx)
      t.innOp.list (outcomeBytes gs out.2) = ⟨d₂, none⟩) :
    exec (.checkOut id bad) s = .next (s.after (d₂.finishTd id)) := by
  subst hout
  exact (exec_checkOut ..).trans <| State.run_onInnOp hstart (fun _ => rfl) rfl hwrite

theorem exec_unlock_of_written {out : Dev × List Nat} (hstart : s.dev.InnOpStarts id 2 t gs d)
    (hout : out = gs.foldl (Dev.unlockNext t.innOp) (d, []))
    (hwrite : out.1.srvWake.innStatus.writeRaw byInn (some t.innOp.ctx) t.innOp.list (outcomeBytes gs out.2) = ⟨d₂, none⟩) :
    exec (.unlock id) s = .next (s.after (d₂.finishTd id)) := by
  subst hout
  exact (exec_unlock ..).trans <| State.run_onInnOp hstart (fun _ => rfl) rfl hwrite

end Descriptors

/-! ### What happens to a room by itself (R372, R378–R380) -/

/-- A room's lock has expired: it is counted and reported, with the command that held it. -/
def Dev.lockExpired (d : Dev) (r : Room) (cls guest : Nat) : Dev :=
  let e := (d.unlock r r.lock).inc Reg.INN_ERR.LOCK_EXPIRED
  (e.raise 0x0E02 clsContained (some (e.classCtx cls)) cls guest (r.lock.getD 0) 0).innStatus.srvWake

section Events
variable {s : State} {cls guest : Nat} {r : Room} (hroom : s.dev.room? cls guest = some r)
include hroom

theorem exec_lockExpiry_of_locked (hlocked : r.state = .locked) :
    exec (.lockExpiry cls guest) s = .next (s.after (s.dev.lockExpired r cls guest)) := by
  refine (exec_lockExpiry ..).trans <| State.run_of_effect ?_
  simp only [hroom]
  exact if_pos hlocked

theorem exec_innEviction_of_victim (bad : List (Nat × Bool)) (hvictim : s.dev.victim (fun _ => true) = some r) :
    exec (.innEviction cls guest bad) s = .next (s.after
      ((s.dev.sprout (bad.filter fun x => touchesWord r.addr (s.dev.roomSize cls) (x.1 / 8 * 8))).evict r).innStatus) := by
  refine (exec_innEviction ..).trans <| State.run_of_effect ?_
  simp only [hroom]
  exact if_pos (by simp [hvictim])

theorem exec_pinMoveToHall_of_space {d d' : Dev} {a : Nat} {bs : List Byte} (hpinned : r.pinned = true)
    (houtside : inHall r.addr = false) (hidle : r.state = .idle) (hspace : s.dev.hallSlotFor (s.dev.roomSize cls) = (d, some a))
    (hread : d.innRead (d.classCtx cls) r.addr (d.roomSize cls) = (d', .ok bs)) :
    exec (.pinMoveToHall cls guest) s = .next (s.after
      ((d'.innWrite a bs).setRoom { r with addr := a, clamped := false }).innStatus) := by
  refine (exec_pinMoveToHall ..).trans <| State.run_of_effect ?_
  simp only [hroom]
  refine (if_pos (by simp [hpinned, houtside, hidle])).trans ?_
  simp only [hspace, hread]

end Events

/-! ### SCRUB_READ (13 R335; R376) -/

/-- What a scrub finds in a word is known. -/
def Dev.scrubFinds (d : Dev) (w : Nat) : Ecc → Dev
  | .clean => d
  | .corrected => d.sprout [(w, false)]
  | .uncorrectable => d.sprout [(w, true)]

/-- A scrub has met an uncorrectable word, which the ledger keeps. -/
def Dev.scrubMet (d : Dev) (w : Nat) : Dev :=
  ({ d with led := { d.led with scrubbed := w :: d.led.scrubbed.filter fun x => x != w && d.ue.contains x } } : Dev).meetUe 3 w none

/-- The first room whose published image a word belongs to is poisoned. -/
def Dev.scrubPoison (d : Dev) (w : Nat) : Dev :=
  match (d.roomsOf fun r => touchesWord r.addr (d.roomSize r.cls) w && r.state != .poisoned && !r.bad).head? with
  | some r => (d.poison r).innStatus
  | none => d

section Scrub
variable {s : State} {stack addr : Nat} (haddr : addr < s.dev.hbmTop) (hstack : s.dev.stackOf addr = stack)
  (hready : s.dev.stackReady stack = true)
include haddr hstack hready

theorem exec_scrubRead_of_ready (o : Ecc) {d : Dev} (hfound : d = s.dev.scrubFinds (addr / 8 * 8) o) :
    exec (.scrubRead stack addr o) s = .next (s.after
      (if d.ue.contains (addr / 8 * 8) then (d.scrubMet (addr / 8 * 8)).scrubPoison (addr / 8 * 8)
      else d.correctRange (addr / 8 * 8) 8)) := by
  subst hfound
  refine (exec_scrubRead ..).trans <| State.run_of_effect ((if_neg (by simp [haddr, hstack, hready])).trans ?_)
  cases o <;> rfl

theorem exec_scrubRead_of_correctable (o : Ecc) {d : Dev} (hfound : d = s.dev.scrubFinds (addr / 8 * 8) o)
    (hclean : d.ue.contains (addr / 8 * 8) = false) :
    exec (.scrubRead stack addr o) s = .next (s.after (d.correctRange (addr / 8 * 8) 8)) := by
  rw [exec_scrubRead_of_ready haddr hstack hready o hfound, if_neg (Bool.eq_false_iff.1 hclean)]

theorem exec_scrubRead_of_uncorrectable (o : Ecc) {d : Dev} (hfound : d = s.dev.scrubFinds (addr / 8 * 8) o)
    (hue : d.ue.contains (addr / 8 * 8) = true) :
    exec (.scrubRead stack addr o) s = .next (s.after ((d.scrubMet (addr / 8 * 8)).scrubPoison (addr / 8 * 8))) := by
  rw [exec_scrubRead_of_ready haddr hstack hready o hfound, if_pos hue]

end Scrub

/-- Settles O40, row by row. -/
theorem innDescriptorsAndEventsComplete : Obligations.InnDescriptorsAndEventsComplete := by
  refine ⟨?checkIn, ?checkOut, ?unlock, ?room, ?scrub⟩
  case checkIn =>
    exact fun _ _ _ _ _ _ _ _ _ hstart hfits hgo hwrite => (exec_checkIn_of_written hstart hfits rfl hgo hwrite :)
  case checkOut => exact fun _ _ _ _ _ _ _ hstart hwrite => (exec_checkOut_of_written hstart rfl hwrite :)
  case unlock => exact fun _ _ _ _ _ _ hstart hwrite => (exec_unlock_of_written hstart rfl hwrite :)
  case room =>
    exact fun _ _ _ _ hroom => ⟨exec_lockExpiry_of_locked hroom, exec_innEviction_of_victim hroom,
      fun _ _ _ _ hpinned houtside hidle hspace hread =>
        exec_pinMoveToHall_of_space hroom hpinned houtside hidle hspace hread⟩
  case scrub =>
    intro s stack addr o haddr hstack hready w d
    have hfound : d = s.dev.scrubFinds w o := by cases o <;> rfl
    exact ⟨exec_scrubRead_of_correctable haddr hstack hready o hfound, exec_scrubRead_of_uncorrectable haddr hstack hready o hfound⟩

end Sys2Proof.Machine
end

