-- ==== Sys2Proof/Proofs/PowerAndSensors.lean ====
section
/-!
PROOFS. Power domains and the adaptive loops (chapter 19), sensors, regulators and unit states (21 R553–R569). A draining domain may
drain on to another low target, a superseded WAIT ends by its timer, a current at EDC lowers both cores by 250 MHz at the first and by
500 MHz at each further reading, SENSOR_FENCE has writer 1, a regulator fault is raised at its onset (the model's choices,
notes/assumptions/30.md).
-/
namespace Sys2Proof.Machine

/-! ### The meaning of each row -/

theorem exec_pwrDomainSet (slot : Nat) (s : State) : exec (.pwrDomainSet slot) s = execPwrDomainSet slot s := by rfl

theorem exec_domainDrainDone (dom : Nat) (s : State) : exec (.domainDrainDone dom) s = execDomainDrainDone dom s := by rfl

theorem exec_domainPowerDownDone (dom : Nat) (s : State) : exec (.domainPowerDownDone dom) s = execDomainPowerDownDone dom s := by rfl

theorem exec_domainDwellEnd (dom : Nat) (s : State) : exec (.domainDwellEnd dom) s = execDomainDwellEnd dom s := by rfl

theorem exec_domainWakeDone (dom : Nat) (s : State) : exec (.domainWakeDone dom) s = execDomainWakeDone dom s := by rfl

theorem exec_pwrPolicySet (slot : Nat) (s : State) : exec (.pwrPolicySet slot) s = execPwrPolicySet slot s := by rfl

theorem exec_clockGovernorEval (core w1s w1ms : Nat) (idle : Bool) (s : State) :
    exec (.clockGovernorEval core w1s w1ms idle) s = execClockGovernorEval core w1s w1ms idle s := by rfl

theorem exec_hbmTempRead (stack temp : Nat) (s : State) : exec (.hbmTempRead stack temp) s = execHbmTempRead stack temp s := by rfl

theorem exec_laneWidthEval (port util : Nat) (stalled : Bool) (s : State) :
    exec (.laneWidthEval port util stalled) s = execLaneWidthEval port util stalled s := by rfl

theorem exec_avsCurrentRead (amps : Nat) (ok : Bool) (s : State) : exec (.avsCurrentRead amps ok) s = execAvsCurrentRead amps ok s := by rfl

theorem exec_avsVoltageSettled (vdone : Bool) (s : State) : exec (.avsVoltageSettled vdone) s = execAvsVoltageSettled vdone s := by rfl

theorem exec_avsVdoneTimeout (s : State) : exec .avsVdoneTimeout s = execAvsVdoneTimeout s := by rfl

theorem exec_policyReleased (loop target : Nat) (s : State) :
    exec (.policyReleased loop target) s = execPolicyReleased loop target s := by rfl

theorem exec_sensorUpdate (sensor : Nat) (present : Bool) (value : Int) (s : State) :
    exec (.sensorUpdate sensor present value) s = execSensorUpdate sensor present value s := by rfl

theorem exec_sensorFence (sensor : Nat) (s : State) : exec (.sensorFence sensor) s = execSensorFence sensor s := by rfl

theorem exec_pmbusPoll (rail mv status : Nat) (ok fault : Bool) (s : State) :
    exec (.pmbusPoll rail mv status ok fault) s = execPmbusPoll rail mv status ok fault s := by rfl

theorem exec_unitStateSet (slot : Nat) (s : State) : exec (.unitStateSet slot) s = execUnitStateSet slot s := by rfl

theorem exec_unitStateQuery (slot : Nat) (s : State) : exec (.unitStateQuery slot) s = execUnitStateQuery slot s := by rfl

/-! ### PWR_DOMAIN_SET (19 R511; 21 R568) -/

/-- Management asks more of one of the domains than a request does. -/
def Dev.mgmtHolds (d : Dev) (pd t : Nat) : Bool :=
  (d.domsOf pd).any fun x => d.on (Reg.MGT_UNIT.PWR_BY_MGMT x) && decide (t < d.rd (Reg.MGT_UNIT.PWR_TARGET x))

/-- A command waits until its domain has reached a state. -/
def Dev.domWaiting (d : Dev) (slot pd t : Nat) : Dev :=
  { d with pwr := { d.pwr with waiting := d.pwr.waiting ++ [(slot, pd, t)] } }

section DomainSet
variable {s : State} {slot : Nat} {c : Cmd} (hrun : s.dev.CmdRuns slot 0x0702 c)
  (hnew : (s.dev.pwr.waiting.any fun x => x.1 == slot) = false) (hallowed : s.dev.domRefusal (c.par 0 1) (c.par 1 1) = none)
  (hfree : s.dev.mgmtHolds (c.par 0 1) (c.par 1 1) = false)
include hrun hnew hallowed hfree

/-- A request that is accepted is under way; with WAIT the command stays until it is done. -/
theorem exec_pwrDomainSet_of_accepted :
    exec (.pwrDomainSet slot) s = .next (s.after
      (if bitAt (c.par 2 1) 0 then (s.dev.domWaiting slot (c.par 0 1) (c.par 1 1)).domAccept (c.par 0 1) (c.par 1 1) false
      else (s.dev.domAccept (c.par 0 1) (c.par 1 1) false).okCmd slot
        ((s.dev.domAccept (c.par 0 1) (c.par 1 1) false).domState (c.par 0 1)))) := by
  refine (exec_pwrDomainSet ..).trans <| State.run_onCmd hrun <| (if_neg (Bool.eq_false_iff.1 hnew)).trans ?_
  simp only [hallowed]
  exact if_neg (Bool.eq_false_iff.1 hfree)

theorem exec_pwrDomainSet_of_noWait (hwait : bitAt (c.par 2 1) 0 = false) :
    exec (.pwrDomainSet slot) s = .next (s.after ((s.dev.domAccept (c.par 0 1) (c.par 1 1) false).okCmd slot
      ((s.dev.domAccept (c.par 0 1) (c.par 1 1) false).domState (c.par 0 1)))) := by
  rw [exec_pwrDomainSet_of_accepted hrun hnew hallowed hfree, if_neg (Bool.eq_false_iff.1 hwait)]

theorem exec_pwrDomainSet_of_wait (hwait : bitAt (c.par 2 1) 0 = true) :
    exec (.pwrDomainSet slot) s = .next (s.after
      ((s.dev.domWaiting slot (c.par 0 1) (c.par 1 1)).domAccept (c.par 0 1) (c.par 1 1) false)) := by
  rw [exec_pwrDomainSet_of_accepted hrun hnew hallowed hfree, if_pos hwait]

end DomainSet

/-! ### The transitions of a domain (R502–R509) -/

section Transitions
variable {s : State} {dom : Nat}

/-- An Inn quarter first moves the images that are free to move; a drained domain is isolated. -/
theorem exec_domainDrainDone_of_drained {d : Dev} (hstate : s.dev.domState dom = stDraining)
    (hvacated : d = if domClass dom = .inn then (s.dev.hallVacate (dom - 42)).1 else s.dev) (hdrained : d.drained dom = true) :
    exec (.domainDrainDone dom) s = .next (s.after (d.setDom dom stIsolated)) := by
  subst hvacated
  exact (exec_domainDrainDone ..).trans <| State.run_of_effect <| (if_neg (not_not_intro hstate)).trans (if_pos hdrained)

theorem exec_domainPowerDownDone_of_isolated (hstate : s.dev.domState dom = stIsolated) :
    exec (.domainPowerDownDone dom) s = .next (s.after (s.dev.domDown dom)) :=
  (exec_domainPowerDownDone ..).trans <| State.run_of_effect <| if_neg (not_not_intro hstate)

theorem exec_domainDwellEnd_of_low (hstate : s.dev.domState dom = stRetention ∨ s.dev.domState dom = stOff)
    (hdwells : s.dev.pwr.dwell.contains dom = false) :
    exec (.domainDwellEnd dom) s = .next (s.after
      (({ s.dev with pwr := { s.dev.pwr with dwell := dom :: s.dev.pwr.dwell } } : Dev).domAct dom)) :=
  (exec_domainDwellEnd ..).trans <| State.run_of_effect <| if_pos ⟨hstate, by rw [hdwells, Bool.not_false]⟩

theorem exec_domainWakeDone_of_ready (hstate : s.dev.domState dom = stWaking) (hready : s.dev.wakeReady dom = true) :
    exec (.domainWakeDone dom) s = .next (s.after (s.dev.domUp dom)) :=
  (exec_domainWakeDone ..).trans <| State.run_of_effect <| if_neg (by simp [hstate, hready])

end Transitions

/-- Settles O47, row by row. -/
theorem powerDomainsComplete : Obligations.PowerDomainsComplete := by
  refine ⟨?set, ?drain, ?down, ?dwell, ?wake⟩
  case set =>
    exact fun _ _ _ hrun hnew hallowed hfree => ⟨fun hwait => (exec_pwrDomainSet_of_noWait hrun hnew hallowed hfree hwait :),
      fun hwait => (exec_pwrDomainSet_of_wait hrun hnew hallowed hfree hwait :)⟩
  case drain => exact fun _ _ _ hstate hvacated hdrained => exec_domainDrainDone_of_drained hstate hvacated hdrained
  case down => exact fun _ _ hstate => exec_domainPowerDownDone_of_isolated hstate
  case dwell => exact fun _ _ hstate hdwells => exec_domainDwellEnd_of_low hstate hdwells
  case wake => exact fun _ _ hstate hready => exec_domainWakeDone_of_ready hstate hready

/-! ### The adaptive loops (13 R336; 19 R513–R522; 21 R561) -/

/-- The targets whose control a PWR_POLICY_SET writes. -/
def Dev.policySet (d : Dev) (c : Cmd) : List Nat :=
  if c.par 0 1 = 1 ∨ c.par 0 1 = 4 then [0]
  else if c.par 1 1 = 0xFF then List.range (d.policyTargets (c.par 0 1)) else [c.par 1 1]

/-- A control is written for targets, and the command waits for the evaluation of each. -/
def Dev.policyWaits (d : Dev) (slot : Nat) (c : Cmd) (ts : List Nat) : Dev :=
  let d := d.forEach ts fun t d => d.policyPut (c.par 0 1) (c.par 2 1) (c.par 4 4) t
  { d with pwr := { d.pwr with policy := d.pwr.policy ++ ts.map fun t => (slot, c.par 0 1, t) } }

theorem exec_pwrPolicySet_of_new {s : State} {slot : Nat} {c : Cmd} (hrun : s.dev.CmdRuns slot 0x0701 c)
    (hnew : (s.dev.pwr.policy.any fun x => x.1 == slot) = false) :
    exec (.pwrPolicySet slot) s = .next (s.after (s.dev.policyWaits slot c (s.dev.policySet c))) :=
  (exec_pwrPolicySet ..).trans <| State.run_onCmd hrun <| if_neg (Bool.eq_false_iff.1 hnew)

section Governs
variable {s : State} (hgoverns : s.dev.governs = true)
include hgoverns

theorem exec_clockGovernorEval_of_governs (core w1s w1ms : Nat) (idle : Bool) :
    exec (.clockGovernorEval core w1s w1ms idle) s = .next (s.after (s.dev.governEval core w1s w1ms idle)) :=
  (exec_clockGovernorEval ..).trans <| State.run_of_effect <| if_neg (by simp [hgoverns])

theorem exec_hbmTempRead_of_governs {stack : Nat} (temp : Nat) (hstack : stack < s.dev.stacks) :
    exec (.hbmTempRead stack temp) s = .next (s.after (s.dev.hbmTemp stack temp)) :=
  (exec_hbmTempRead ..).trans <| State.run_of_effect <| if_neg (by simp [hstack, hgoverns])

theorem exec_laneWidthEval_of_governs {port : Nat} (util : Nat) (stalled : Bool) (hport : port < s.dev.ports) :
    exec (.laneWidthEval port util stalled) s = .next (s.after (s.dev.laneEval port util stalled)) :=
  (exec_laneWidthEval ..).trans <| State.run_of_effect <| if_neg (by simp [hport, hgoverns])

/-- A good current reading ends a row of failed frames; the next one finds whether this one was at EDC. -/
def Dev.currentTaken (d : Dev) (atEdc : Bool) : Dev := { d with pwr := { d.pwr with avsFails := 0, overEdc := atEdc } }

/-- A good current reading lowers both cores when it is at EDC, 900 A. -/
theorem exec_avsCurrentRead_of_governs {amps : Nat} {atEdc : Bool} (hamps : decide (900 ≤ amps) = atEdc) :
    exec (.avsCurrentRead amps true) s = .next (s.after
      (if atEdc then (s.dev.currentTaken atEdc).governBy (if s.dev.pwr.overEdc then 500 else 250) else s.dev.currentTaken atEdc)) := by
  subst hamps
  exact (exec_avsCurrentRead ..).trans <| State.run_of_effect <| (if_neg (by simp [hgoverns])).trans (if_neg (by simp))

theorem exec_avsCurrentRead_of_below {amps : Nat} (hbelow : amps < 900) :
    exec (.avsCurrentRead amps true) s = .next (s.after (s.dev.currentTaken false)) := by
  rw [exec_avsCurrentRead_of_governs hgoverns (decide_eq_false (Nat.not_le.2 hbelow)), if_neg Bool.false_ne_true]

theorem exec_avsCurrentRead_of_atEdc {amps : Nat} (hat : 900 ≤ amps) :
    exec (.avsCurrentRead amps true) s = .next (s.after
      ((s.dev.currentTaken true).governBy (if s.dev.pwr.overEdc then 500 else 250))) := by
  rw [exec_avsCurrentRead_of_governs hgoverns (decide_eq_true hat), if_pos rfl]

end Governs

section Releases
variable {s : State}

theorem exec_avsVdoneTimeout_of_open (hopen : s.dev.pwr.avsOpen = true) :
    exec .avsVdoneTimeout s = .next (s.after (s.dev.inc Reg.MGT_ERR.PMBUS_ERR).avsBroken) :=
  (exec_avsVdoneTimeout ..).trans <| State.run_of_effect <| if_pos hopen

/-- The bandwidth clamp of a stack ends with its cap. -/
theorem exec_policyReleased_of_uncapped {stack : Nat} (huncapped : s.dev.on (Reg.MEM_STATUS.BW_CAPPED stack) = false) :
    exec (.policyReleased 2 stack) s = .next (s.after (s.dev.unclamp 2 stack)) :=
  (exec_policyReleased ..).trans <| State.run_of_effect <| if_neg (Bool.eq_false_iff.1 huncapped)

/-- The margin clamp ends once 0.900 V has room for the pin. -/
theorem exec_policyReleased_of_margin (hroom : s.dev.rd Reg.PWR_AVS.MARGIN ≤ s.dev.marginHeld s.dev.cclkTop) :
    exec (.policyReleased 1 0) s = .next (s.after (s.dev.unclamp 1 0).avsEval) :=
  (exec_policyReleased ..).trans <| State.run_of_effect <| if_neg (Nat.not_lt.2 hroom)

end Releases

/-- Settles O48, row by row. -/
theorem governorsComplete : Obligations.GovernorsComplete := by
  refine ⟨?policy, ?loops, ?settled, ?timeout, ?uncapped, ?margin⟩
  case policy => exact fun _ _ _ hrun hnew => (exec_pwrPolicySet_of_new hrun hnew :)
  case loops =>
    exact fun _ hgoverns => ⟨exec_clockGovernorEval_of_governs hgoverns, fun _ temp => exec_hbmTempRead_of_governs hgoverns temp,
      fun _ util stalled => exec_laneWidthEval_of_governs hgoverns util stalled,
      fun _ hbelow => (exec_avsCurrentRead_of_below hgoverns hbelow :), fun _ hat => (exec_avsCurrentRead_of_atEdc hgoverns hat :)⟩
  case settled => exact fun s vdone => (exec_avsVoltageSettled vdone s).trans (State.run_after s _)
  case timeout => exact fun _ hopen => exec_avsVdoneTimeout_of_open hopen
  case uncapped => exact fun _ _ huncapped => exec_policyReleased_of_uncapped huncapped
  case margin => exact fun _ hroom => exec_policyReleased_of_margin hroom

/-! ### Sensors and regulators (21 R553–R555, R562) -/

section Sensors
variable {s : State} {id : Nat}

theorem exec_sensorUpdate_of_plausible {v : Int} (hfitted : s.dev.sensorFitted id = true) (hv : sensorPlausible id v = true) :
    exec (.sensorUpdate id true v) s = .next (s.after (s.dev.sensorGood id v)) :=
  (exec_sensorUpdate ..).trans <| State.run_of_effect <| (if_neg (by simp [hfitted])).trans (if_pos (by simp [hv]))

/-- A reading that is missing or implausible is none; only the latter counts as a dropped one. -/
theorem exec_sensorUpdate_of_bad {present : Bool} {v : Int} (hfitted : s.dev.sensorFitted id = true)
    (hv : (present && sensorPlausible id v) = false) :
    exec (.sensorUpdate id present v) s = .next (s.after (s.dev.sensorBad id present)) :=
  (exec_sensorUpdate ..).trans <| State.run_of_effect <| (if_neg (by simp [hfitted])).trans (if_neg (Bool.eq_false_iff.1 hv))

/-- The units that an unavailable sensor fences: the stack's, or those of the I/O die. -/
def Dev.fencedUnits (d : Dev) (id : Nat) : List Nat :=
  if id < 2 then []
  else if id < 2 + d.ioDies then [46 + 3 * (id - 2), 47 + 3 * (id - 2)] ++ rangeFrom (64 + 8 * (id - 2)) (72 + 8 * (id - 2))
  else if 0x10 ≤ id ∧ id < 0x10 + d.stacks then [30 + (id - 0x10)]
  else []

theorem exec_sensorFence_of_unavailable {x : Sensor} (hsensor : kvGet id s.dev.mgt.sensors = some x) (hgone : x.unavailable = true) :
    exec (.sensorFence id) s = .next (s.after (s.dev.forEach (s.dev.fencedUnits id) fun u d => d.unitWrite u true 1 1)) := by
  refine (exec_sensorFence ..).trans <| State.run_of_effect ?_
  simp only [hsensor]
  exact if_pos hgone

theorem Dev.fencedUnits_of_stack {d : Dev} (hdies : 2 + d.ioDies ≤ id) (hlo : 0x10 ≤ id) (hhi : id < 0x10 + d.stacks) :
    d.fencedUnits id = [30 + (id - 0x10)] :=
  (if_neg (by omega)).trans <| (if_neg (by omega)).trans (if_pos ⟨hlo, hhi⟩)

theorem Dev.fencedUnits_of_ioDie {d : Dev} (hlo : 2 ≤ id) (hhi : id < 2 + d.ioDies) :
    d.fencedUnits id = [46 + 3 * (id - 2), 47 + 3 * (id - 2)] ++ rangeFrom (64 + 8 * (id - 2)) (72 + 8 * (id - 2)) :=
  (if_neg (by omega)).trans (if_pos hhi)

/-- The rails with a regulator fault, after a poll of one. -/
def Dev.regFaults (d : Dev) (rail : Nat) (fault : Bool) : Dev :=
  let others := d.mgt.regFault.filter fun x => x != rail
  { d with mgt := { d.mgt with regFault := if fault then rail :: others else others } }

/-- A poll that is answered reads the rail's voltage; a fault is reported when it appears. -/
theorem exec_pmbusPoll_of_answered {rail : Nat} (mv status : Nat) (fault : Bool) {d : Dev}
    (hread : d = s.dev.sensorRead (0x40 + rail) true mv) :
    exec (.pmbusPoll rail mv status true fault) s = .next (s.after
      (if fault && !d.mgt.regFault.contains rail then (d.regFaults rail fault).regulatorFault rail status
      else d.regFaults rail fault)) := by
  subst hread
  exact (exec_pmbusPoll ..).trans <| State.run_of_effect <| if_neg (by decide)

theorem exec_pmbusPoll_of_noFault {rail : Nat} (mv status : Nat) {d : Dev} (hread : d = s.dev.sensorRead (0x40 + rail) true mv) :
    exec (.pmbusPoll rail mv status true false) s = .next (s.after (d.regFaults rail false)) :=
  exec_pmbusPoll_of_answered mv status false hread

theorem exec_pmbusPoll_of_onset {rail : Nat} (mv status : Nat) {d : Dev} (hread : d = s.dev.sensorRead (0x40 + rail) true mv)
    (hnew : d.mgt.regFault.contains rail = false) :
    exec (.pmbusPoll rail mv status true true) s = .next (s.after ((d.regFaults rail true).regulatorFault rail status)) := by
  rw [exec_pmbusPoll_of_answered mv status true hread, hnew, Bool.not_false, Bool.and_true, if_pos rfl]

end Sensors

/-! ### UNIT_STATE_SET and UNIT_STATE_QUERY (21 R567, R569) -/

section UnitCommands
variable {s : State} {slot : Nat} {c : Cmd}

theorem exec_unitStateSet_of_allowed (hrun : s.dev.CmdRuns slot 0x0703 c) (hpresent : s.dev.unitPresent (c.par 0 1) = true)
    (hfixed : unitFixed (c.par 0 1) = false)
    (hgen : bitAt (c.par 2 1) 0 = false ∨ c.par 4 4 = s.dev.rd (Reg.MGT_UNIT.GEN (c.par 0 1))) :
    exec (.unitStateSet slot) s = .next (s.after ((s.dev.unitWrite (c.par 0 1) false (c.par 1 1) 0).okCmd slot
      ((s.dev.unitWrite (c.par 0 1) false (c.par 1 1) 0).unitResult (c.par 0 1)))) := by
  have hcurrent : ¬ (bitAt (c.par 2 1) 0 && c.par 4 4 != s.dev.rd (Reg.MGT_UNIT.GEN (c.par 0 1))) = true := by
    rcases hgen with hgen | hgen <;> simp [hgen]
  exact (exec_unitStateSet ..).trans <| State.run_onCmd hrun <| (if_neg (by simp [hpresent])).trans <|
    (if_neg (Bool.eq_false_iff.1 hfixed)).trans (if_neg hcurrent)

theorem exec_unitStateQuery_of_present (hrun : s.dev.CmdRuns slot 0x0704 c) (hpresent : s.dev.unitPresent (c.par 0 1) = true) :
    exec (.unitStateQuery slot) s = .next (s.after (s.dev.okCmd slot (s.dev.unitResult (c.par 0 1)))) :=
  (exec_unitStateQuery ..).trans <| State.run_onCmd hrun <| if_neg (by simp [hpresent])

end UnitCommands

/-- Settles O49, row by row. -/
theorem sensorsAndUnitsComplete : Obligations.SensorsAndUnitsComplete := by
  refine ⟨?update, ?fence, ?poll, ?set, ?query⟩
  case update =>
    exact fun _ _ _ hfitted => ⟨exec_sensorUpdate_of_plausible hfitted, fun hv => exec_sensorUpdate_of_bad hfitted hv,
      exec_sensorUpdate_of_bad hfitted rfl⟩
  case fence =>
    intro s id x hsensor hgone
    rw [exec_sensorFence_of_unavailable hsensor hgone]
    refine ⟨fun hdies hlo hhi => ?stack, fun hlo hhi => ?ioDie⟩
    case stack => rw [Dev.fencedUnits_of_stack hdies hlo hhi, Dev.forEach_cons, Dev.forEach_nil]
    case ioDie => rw [Dev.fencedUnits_of_ioDie hlo hhi]
  case poll =>
    exact fun _ _ mv status => ⟨(exec_pmbusPoll_of_noFault mv status rfl :), fun hnew => (exec_pmbusPoll_of_onset mv status rfl hnew :)⟩
  case set => exact fun _ _ _ hrun hpresent hfixed hgen => (exec_unitStateSet_of_allowed hrun hpresent hfixed hgen :)
  case query => exact fun _ _ _ hrun hpresent => exec_unitStateQuery_of_present hrun hpresent

end Sys2Proof.Machine
end

