-- ==== Sys2Proof/Proofs/FabricLinks.lean ====
section
/-!
PROOFS. Fabric ports: their training and what ends it (15 R391–R395, R421), flits, retry and routing at the switch (R394–R404). A port
raises FAB_LINK_DOWN also when it leaves RETRAIN for DOWN or DISABLED (deduced, notes/assumptions/15.md); the drop of a request alone is
answered UNREACHABLE (deduced, notes/assumptions/14.md).
-/
namespace Sys2Proof.Machine

/-! ### The meaning of each row -/

theorem exec_portSignalDetect (port : Nat) (s : State) : exec (.portSignalDetect port) s = execPortSignalDetect port s := by rfl

theorem exec_equalizeDone (port gen : Nat) (s : State) : exec (.equalizeDone port gen) s = execEqualizeDone port gen s := by rfl

theorem exec_equalizeTimeout (port : Nat) (s : State) : exec (.equalizeTimeout port) s = execEqualizeTimeout port s := by rfl

theorem exec_alignDone (port bad : Nat) (s : State) : exec (.alignDone port bad) s = execAlignDone port bad s := by rfl

theorem exec_initFlit (port dev peerPort : Nat) (bufs : List Nat) (s : State) :
    exec (.initFlit port dev peerPort bufs) s = execInitFlit port dev peerPort bufs s := by rfl

theorem exec_downRetry (port : Nat) (s : State) : exec (.downRetry port) s = execDownRetry port s := by rfl

theorem exec_retrainTimeout (port : Nat) (s : State) : exec (.retrainTimeout port) s = execRetrainTimeout port s := by rfl

theorem exec_laneSignalLoss (port lanes : Nat) (s : State) : exec (.laneSignalLoss port lanes) s = execLaneSignalLoss port lanes s := by rfl

theorem exec_fecErrorBurst (port : Nat) (s : State) : exec (.fecErrorBurst port) s = execFecErrorBurst port s := by rfl

theorem exec_widthFlit (port width : Nat) (s : State) : exec (.widthFlit port width) s = execWidthFlit port width s := by rfl

theorem exec_portFlushTimeout (port : Nat) (s : State) : exec (.portFlushTimeout port) s = execPortFlushTimeout port s := by rfl

theorem exec_flitReceive (port : Nat) (flit : Flit) (s : State) : exec (.flitReceive port flit) s = execFlitReceive port flit s := by rfl

theorem exec_nakReceive (port ack : Nat) (s : State) : exec (.nakReceive port ack) s = execNakReceive port ack s := by rfl

theorem exec_replayTimer (port : Nat) (s : State) : exec (.replayTimer port) s = execReplayTimer port s := by rfl

theorem exec_packetRoute (s : State) : exec .packetRoute s = execPacketRoute s := by rfl

theorem exec_fabCreditStall (port vc : Nat) (s : State) : exec (.fabCreditStall port vc) s = execFabCreditStall port vc s := by rfl

/-! ### Equalization and alignment (R391) -/

section Training
variable {s : State} {p : Nat}

theorem exec_portSignalDetect_of_down (hstate : s.dev.portState p = psDown) (hpower : s.dev.portPowered p = true) :
    exec (.portSignalDetect p) s = .next (s.after (s.dev.wr (Reg.FAB_PORT_STATUS.STATE p) psEqualize)) :=
  (exec_portSignalDetect ..).trans <| State.run_of_effect <| if_pos ⟨hstate, hpower⟩

/-- A port trains at Gen 2, or at Gen 1 when Gen 2 has failed or lies above its limit. -/
theorem exec_equalizeDone_of_expected {gen : Nat} (hstate : s.dev.portState p = psEqualize)
    (hgen : gen = 1 ∧ ((s.dev.port p).gen1Tried = true ∨ (s.dev.port p).maxGen = 1)
      ∨ gen = 2 ∧ (s.dev.port p).maxGen = 2 ∧ (s.dev.port p).gen1Tried = false) :
    exec (.equalizeDone p gen) s = .next (s.after ((s.dev.wr (Reg.FAB_PORT_STATUS.STATE p) psAlign).setPort p
      { s.dev.port p with gen := gen, gen1Tried := false, eqSaved := true })) :=
  (exec_equalizeDone ..).trans <| State.run_of_effect <| if_pos ⟨hstate, by simpa using hgen⟩

theorem exec_equalizeTimeout_of_gen2 (hstate : s.dev.portState p = psEqualize) (hmax : (s.dev.port p).maxGen = 2)
    (huntried : (s.dev.port p).gen1Tried = false) :
    exec (.equalizeTimeout p) s = .next (s.after (s.dev.setPort p { s.dev.port p with gen1Tried := true })) :=
  (exec_equalizeTimeout ..).trans <| State.run_of_effect <| (if_pos hstate).trans (if_pos ⟨hmax, by simp [huntried]⟩)

theorem exec_equalizeTimeout_of_gen1 (hstate : s.dev.portState p = psEqualize)
    (hlast : (s.dev.port p).maxGen ≠ 2 ∨ (s.dev.port p).gen1Tried = true) :
    exec (.equalizeTimeout p) s = .next (s.after ((s.dev.inc (Reg.FAB_PORT_TRAIN.FAIL p)).portTo p psDown)) :=
  (exec_equalizeTimeout ..).trans <| State.run_of_effect <| (if_pos hstate).trans <| if_neg fun ⟨hmax, huntried⟩ =>
    hlast.elim (· hmax) fun htried => by simp [htried] at huntried

/-- The lanes of a port that have failed, with those that an alignment finds bad. -/
def Dev.badWith (d : Dev) (p bad : Nat) : Nat := (d.port p).badLanes ||| (bad % 16)

/-- A port takes up what an alignment found: its bad lanes, and the width that they leave. -/
def Dev.portAligned (d : Dev) (p bad : Nat) : Dev :=
  d.setPort p { d.port p with badLanes := d.badWith p bad, width := lanesUp (d.badWith p bad) }

theorem exec_alignDone_of_align {bad : Nat} (hstate : s.dev.portState p = psAlign) (hlanes : lanesUp (s.dev.badWith p bad) ≠ 0) :
    exec (.alignDone p bad) s = .next (s.after
      (((s.dev.portAligned p bad).wr (Reg.FAB_PORT_STATUS.STATE p) psInit).sendInit p)) := by
  refine (exec_alignDone ..).trans <| State.run_of_effect <| (if_pos (.inl hstate)).trans <| (if_neg hlanes).trans ?_
  simp only [if_pos hstate]
  rfl

theorem exec_alignDone_of_retrain {bad : Nat} (hstate : s.dev.portState p = psRetrain) (hlanes : lanesUp (s.dev.badWith p bad) ≠ 0) :
    exec (.alignDone p bad) s = .next (s.after (s.dev.portAligned p bad)) := by
  have hnew : s.dev.portState p ≠ psAlign := by rw [hstate]; decide
  refine (exec_alignDone ..).trans <| State.run_of_effect <| (if_pos (.inr hstate)).trans <| (if_neg hlanes).trans ?_
  simp only [if_neg hnew]
  rfl

theorem exec_alignDone_of_noLane {bad : Nat} (hstate : s.dev.portState p = psAlign ∨ s.dev.portState p = psRetrain)
    (hlanes : lanesUp (s.dev.badWith p bad) = 0) :
    exec (.alignDone p bad) s = .next (s.after ((s.dev.inc (Reg.FAB_PORT_TRAIN.FAIL p)).portTo p psDown)) :=
  (exec_alignDone ..).trans <| State.run_of_effect <| (if_pos hstate).trans (if_pos hlanes)

/-! ### INIT flits (R392) -/

/-- An INIT flit brings a port UP: its peer is known, its status shows generation, width and degradation, FAB_LINK_UP is raised. -/
def Dev.portCameUp (d : Dev) (p dev peer : Nat) (was now : Port) : Dev :=
  let d := (d.wr (Reg.FAB_PORT_PEER.DEV p) dev).wr (Reg.FAB_PORT_PEER.PORT p) peer
  let d := (d.setPort p now).setReg (Reg.FAB_PORT_STATUS.STATE p).reg
    (psUp + was.gen * 2 ^ 3 + was.width * 2 ^ 5 + b2n (was.badLanes != 0) * 2 ^ 8)
  d.raise 0x0F01 clsInfo none (was.gen * 16 + was.width) p (dev % 4096 * 2 ^ 16 + peer % 32) 0

theorem exec_initFlit_of_init {dev peer : Nat} {bufs : List Nat} (hstate : s.dev.portState p = psInit)
    (hwidth : (s.dev.port p).width ≠ 0) :
    exec (.initFlit p dev peer bufs) s = .next (s.after ((s.dev.portCameUp p dev peer (s.dev.port p) { s.dev.port p with
      credits := (bufs ++ [0, 0, 0, 0]).take 4, rxSeq := 1, retry := [], nakSent := false }).pumpPort p)) := by
  have hfirst : s.dev.portState p ≠ psRetrain := by rw [hstate]; decide
  refine (exec_initFlit ..).trans <| State.run_of_effect <| (if_pos ⟨.inl hstate, hwidth⟩).trans ?_
  simp only [if_pos hstate, if_neg hfirst]
  rfl

/-- After a RETRAIN the link goes on where it stood and replays its retry buffer. -/
theorem exec_initFlit_of_retrain {dev peer : Nat} {bufs : List Nat} (hstate : s.dev.portState p = psRetrain)
    (hwidth : (s.dev.port p).width ≠ 0) :
    exec (.initFlit p dev peer bufs) s = .next (s.after (((s.dev.portCameUp p dev peer (s.dev.port p) { s.dev.port p with
      tries := 0, nakSent := false }).portReplay p).pumpPort p)) := by
  have hagain : s.dev.portState p ≠ psInit := by rw [hstate]; decide
  refine (exec_initFlit ..).trans <| State.run_of_effect <| (if_pos ⟨.inr hstate, hwidth⟩).trans ?_
  simp only [if_pos hstate, if_neg hagain]
  rfl

/-! ### What ends the training, and what an UP port meets (R391, R393, R395, R421) -/

theorem exec_downRetry_of_down (hstate : s.dev.portState p = psDown) (hpower : s.dev.portPowered p = true) :
    exec (.downRetry p) s = .next (s.after ((s.dev.wr (Reg.FAB_PORT_STATUS.STATE p) psEqualize).setPort p
      { s.dev.port p with gen1Tried := false })) :=
  (exec_downRetry ..).trans <| State.run_of_effect <| if_pos ⟨hstate, hpower⟩

theorem exec_retrainTimeout_of_retrain (hstate : s.dev.portState p = psRetrain) :
    exec (.retrainTimeout p) s = .next (s.after ((s.dev.inc (Reg.FAB_PORT_TRAIN.FAIL p)).portTo p psDown)) :=
  (exec_retrainTimeout ..).trans <| State.run_of_effect <| if_pos hstate

theorem exec_laneSignalLoss_of_all {lanes : Nat} (hstate : s.dev.portState p ≠ psDisabled) (hall : lanes % 16 = 15) :
    exec (.laneSignalLoss p lanes) s = .next (s.after (s.dev.portTo p psDown)) :=
  (exec_laneSignalLoss ..).trans <| State.run_of_effect <| (if_neg (by simp [hstate, hall])).trans (if_pos hall)

theorem exec_laneSignalLoss_of_some {lanes : Nat} (hstate : s.dev.portState p ≠ psDisabled) (hnotAll : lanes % 16 ≠ 15)
    (hsome : lanes % 16 ≠ 0) :
    exec (.laneSignalLoss p lanes) s = .next (s.after
      ((s.dev.setPort p { s.dev.port p with badLanes := (s.dev.port p).badLanes ||| (lanes % 16) }).portRetrain p)) :=
  (exec_laneSignalLoss ..).trans <| State.run_of_effect <| (if_neg (by simp [hstate, hsome])).trans (if_neg hnotAll)

theorem exec_fecErrorBurst_of_up (hstate : s.dev.portState p = psUp) :
    exec (.fecErrorBurst p) s = .next (s.after ((s.dev.inc (Reg.FAB_PORT_FEC.UNCORRECTED p) 1024).portRetrain p)) :=
  (exec_fecErrorBurst ..).trans <| State.run_of_effect <| if_pos hstate

theorem exec_widthFlit_of_up {w : Nat} (hstate : s.dev.portState p = psUp) (hw : w = 1 ∨ w = 2 ∨ w = 4) :
    exec (.widthFlit p w) s =
      .next (s.after ((s.dev.wr (Reg.FAB_PORT_STATUS.WIDTH p) w).setPort p { s.dev.port p with width := w })) :=
  (exec_widthFlit ..).trans <| State.run_of_effect <| if_pos ⟨hstate, hw⟩

theorem exec_portFlushTimeout_of_flushing (hflush : (s.dev.port p).flushing = true) :
    exec (.portFlushTimeout p) s = .next (s.after (s.dev.portTo p psDisabled)) :=
  (exec_portFlushTimeout ..).trans <| State.run_of_effect <| if_pos hflush

theorem exec_portFlushTimeout_of_drain (hflush : (s.dev.port p).flushing = false) (hdrain : (s.dev.port p).drain = true) :
    exec (.portFlushTimeout p) s = .next (s.after (s.dev.portTo p psDown)) :=
  (exec_portFlushTimeout ..).trans <| State.run_of_effect <| (if_neg (Bool.eq_false_iff.1 hflush)).trans (if_pos hdrain)

end Training

/-- Settles O17, row by row. -/
theorem portTrainingCommandsComplete : Obligations.PortTrainingCommandsComplete := by
  refine ⟨?detect, ?equalized, ?gen2Late, ?gen1Late, ?aligned, ?realigned, ?noLane, ?init, ?reinit, ?retry, ?retrainLate, ?lossAll,
    ?lossSome, ?burst, ?width, ?flushed, ?drained⟩
  case detect => exact fun _ _ hstate hpower => exec_portSignalDetect_of_down hstate hpower
  case equalized => exact fun _ _ _ hstate hgen => exec_equalizeDone_of_expected hstate hgen
  case gen2Late => exact fun _ _ hstate hmax huntried => exec_equalizeTimeout_of_gen2 hstate hmax huntried
  case gen1Late => exact fun _ _ hstate hlast => exec_equalizeTimeout_of_gen1 hstate hlast
  case aligned => exact fun _ _ _ hstate hlanes => (exec_alignDone_of_align hstate hlanes :)
  case realigned => exact fun _ _ _ hstate hlanes => (exec_alignDone_of_retrain hstate hlanes :)
  case noLane => exact fun _ _ _ hstate hlanes => exec_alignDone_of_noLane hstate hlanes
  case init => exact fun _ _ _ _ _ hstate hwidth => (exec_initFlit_of_init hstate hwidth :)
  case reinit => exact fun _ _ _ _ _ hstate hwidth => (exec_initFlit_of_retrain hstate hwidth :)
  case retry => exact fun _ _ hstate hpower => exec_downRetry_of_down hstate hpower
  case retrainLate => exact fun _ _ hstate => exec_retrainTimeout_of_retrain hstate
  case lossAll => exact fun _ _ _ hstate hall => exec_laneSignalLoss_of_all hstate hall
  case lossSome => exact fun _ _ _ hstate hnotAll hsome => exec_laneSignalLoss_of_some hstate hnotAll hsome
  case burst => exact fun _ _ hstate => exec_fecErrorBurst_of_up hstate
  case width => exact fun _ _ _ hstate hw => exec_widthFlit_of_up hstate hw
  case flushed => exact fun _ _ hflush => exec_portFlushTimeout_of_flushing hflush
  case drained => exact fun _ _ hflush hdrain => exec_portFlushTimeout_of_drain hflush hdrain

/-! ### Flits (R394–R397) -/

/-- A flit in order is taken: its ACK and its credits, then its body by its kind; what may go out now does. -/
def Dev.flitTaken (d : Dev) (p : Nat) (f : Flit) : Dev :=
  let d := d.takeAck p f.ack
  let vc := f.vcFlags / 16 % 4
  let x := d.port p
  let d := d.setPort p { x with credits := x.credits.set vc (x.creditsOf vc + f.credits) }
  (if f.kind = 1 then d.acceptFlit p f else if f.kind = 4 then d.portWidth p (fieldAt f.body 0 1) else d).pumpPort p

section Flits
variable {s : State} {p : Nat}

section Receive
variable {f : Flit} (hup : s.dev.portState p = psUp) (hclocks : s.dev.fabClocks = true) (hpins : s.dev.dbg.pinsTaken = false)
include hup hclocks hpins

/-- An UP port whose clocks run and whose pins the TAP leaves alone looks at a flit. -/
theorem flits_looked_at : ¬ (s.dev.portState p != psUp || !s.dev.fabClocks || s.dev.dbg.pinsTaken) = true := by
  simp [hup, hclocks, hpins]

theorem exec_flitReceive_of_badCrc (hcrc : f.crcOk = false) :
    exec (.flitReceive p f) s = .next (s.after
      (((s.dev.inc (Reg.FAB_PORT_LINK.CRC_ERR p)).corrected 4 p 1).sendNak p)) :=
  (exec_flitReceive ..).trans <| State.run_of_effect <| (if_neg (flits_looked_at hup hclocks hpins)).trans (if_pos (by simp [hcrc]))

variable (hcrc : f.crcOk = true)
include hcrc

theorem exec_flitReceive_of_nak (hkind : f.kind = 2) :
    exec (.flitReceive p f) s = .next (s.after ((s.dev.takeAck p f.ack).portReplay p)) :=
  (exec_flitReceive ..).trans <| State.run_of_effect <| (if_neg (flits_looked_at hup hclocks hpins)).trans <|
    (if_neg (by simp [hcrc])).trans (if_pos hkind)

theorem exec_flitReceive_of_outOfOrder (hkind : f.kind = 1) (hseq : f.seq ≠ (s.dev.port p).rxSeq) :
    exec (.flitReceive p f) s = .next (s.after (s.dev.sendNak p)) :=
  (exec_flitReceive ..).trans <| State.run_of_effect <| (if_neg (flits_looked_at hup hclocks hpins)).trans <|
    (if_neg (by simp [hcrc])).trans <| (if_neg (by simp [hkind])).trans (if_pos ⟨hkind, hseq⟩)

theorem exec_flitReceive_of_inOrder (hkind : f.kind ≠ 2) (hseq : f.kind = 1 → f.seq = (s.dev.port p).rxSeq) :
    exec (.flitReceive p f) s = .next (s.after (s.dev.flitTaken p f)) :=
  (exec_flitReceive ..).trans <| State.run_of_effect <| (if_neg (flits_looked_at hup hclocks hpins)).trans <|
    (if_neg (by simp [hcrc])).trans <| (if_neg hkind).trans (if_neg fun ⟨h, hne⟩ => hne (hseq h))

end Receive

theorem exec_nakReceive_of_up (ack : Nat) (hup : s.dev.portState p = psUp) :
    exec (.nakReceive p ack) s = .next (s.after ((s.dev.takeAck p ack).portReplay p)) :=
  (exec_nakReceive ..).trans <| State.run_of_effect <| if_pos hup

theorem exec_replayTimer_of_up (hup : s.dev.portState p = psUp) :
    exec (.replayTimer p) s = .next (s.after (s.dev.portReplay p)) :=
  (exec_replayTimer ..).trans <| State.run_of_effect <| if_pos hup

theorem exec_fabCreditStall_of_queued {vc : Nat} (hqueued : ((s.dev.port p).queue.any fun k => vcOf k.typ == vc) = true) :
    exec (.fabCreditStall p vc) s = .next (s.after (s.dev.raise 0x0F03 clsInfo none vc p 0 0)) :=
  (exec_fabCreditStall ..).trans <| State.run_of_effect <| if_pos hqueued

end Flits

/-! ### Routing at the switch (R403, R404) -/

/-- A packet that found no route is dropped and counted; a request is answered UNREACHABLE. -/
def Dev.pktUnrouted (d : Dev) (k : FabPkt) : Dev :=
  let d := ((d.returnCredits k).inc Reg.FAB_UNROUTABLE.COUNT).occur clsDropped
  if vcOf k.typ = 0 then d.ackPkt k 2 else d

/-- The oldest packet at the switch leaves it; its buffer is free again unless this device took it in. -/
theorem exec_packetRoute_of_arrived {s : State} {k : FabPkt} {rest : List FabPkt} {d : Dev} {sent : Bool}
    (harrived : s.dev.fab.arrived = k :: rest) (hclocks : s.dev.fabClocks = true)
    (hsend : ({ s.dev with fab := { s.dev.fab with arrived := rest } } : Dev).sendPkt k = (d, sent)) :
    exec .packetRoute s = .next (s.after
      (if sent then (if k.dst = d.rd Reg.FAB_ID.DEVICE_ID then d else d.returnCredits k) else d.pktUnrouted k)) := by
  have hrest : ({ s.dev with fab := { s.dev.fab with arrived := rest } } : Dev).fabClocks = true := hclocks
  refine (exec_packetRoute s).trans <| State.run_of_effect ?_
  simp only [harrived]
  refine (if_neg (by simp [hrest])).trans ?_
  simp only [hsend]
  cases sent <;> rfl

/-- Settles O18, row by row. -/
theorem flitCommandsComplete : Obligations.FlitCommandsComplete := by
  refine ⟨?receive, ?nak, ?replay, ?route, ?stall⟩
  case receive =>
    exact fun _ _ _ hup hclocks hpins => ⟨exec_flitReceive_of_badCrc hup hclocks hpins,
      fun hcrc hkind => exec_flitReceive_of_nak hup hclocks hpins hcrc hkind,
      fun hcrc hkind hseq => exec_flitReceive_of_outOfOrder hup hclocks hpins hcrc hkind hseq,
      fun hcrc hkind hseq => (exec_flitReceive_of_inOrder hup hclocks hpins hcrc hkind hseq :)⟩
  case nak => exact fun _ _ ack hup => exec_nakReceive_of_up ack hup
  case replay => exact fun _ _ hup => exec_replayTimer_of_up hup
  case route => exact fun _ _ _ _ _ harrived hclocks hsend => (exec_packetRoute_of_arrived harrived hclocks hsend :)
  case stall => exact fun _ _ _ hqueued => exec_fabCreditStall_of_queued hqueued

end Sys2Proof.Machine
end

