-- ==== Sys2Proof/Proofs/Remote.lean ====
section
/-!
PROOFS. Collectives, remote transactions and the fabric's commands (15 R402, R405–R407, R411–R423). The stages of a collective and their
slices are the model's choice (notes/assumptions/13.md), and so are an SO_OP on a local mirror that is forwarded and acknowledged at once
and the 9 flits of a LOOPBACK packet (notes/assumptions/14.md), its patterns (22.md) and the porters REMOTE_COPY takes in turn (17.md).
-/
namespace Sys2Proof.Machine

/-! ### The meaning of each row -/

theorem exec_collRun (slot : Nat) (s : State) : exec (.collRun slot) s = execCollRun slot s := by rfl

theorem exec_collData (s : State) : exec .collData s = execCollData s := by rfl

theorem exec_earlyBufferExpiry (s : State) : exec .earlyBufferExpiry s = execEarlyBufferExpiry s := by rfl

theorem exec_collTimeout (slot part : Nat) (s : State) : exec (.collTimeout slot part) s = execCollTimeout slot part s := by rfl
theorem exec_memWrite (s : State) : exec .memWrite s = execMemWrite s := by rfl

theorem exec_memRead (s : State) : exec .memRead s = execMemRead s := by rfl

theorem exec_soOpPkt (ue : Bool) (s : State) : exec (.soOpPkt ue) s = execSoOpPkt ue s := by rfl

theorem exec_ack (s : State) : exec .ack s = execAck s := by rfl

theorem exec_readData (s : State) : exec .readData s = execReadData s := by rfl

theorem exec_fabTransactionTimeout (tag : Nat) (s : State) : exec (.fabTransactionTimeout tag) s = execFabTransactionTimeout tag s := by rfl
theorem exec_fabRouteLoad (slot : Nat) (s : State) : exec (.fabRouteLoad slot) s = execFabRouteLoad slot s := by rfl

theorem exec_fabPortCtl (slot : Nat) (s : State) : exec (.fabPortCtl slot) s = execFabPortCtl slot s := by rfl

theorem exec_remoteCopy (slot : Nat) (s : State) : exec (.remoteCopy slot) s = execRemoteCopy slot s := by rfl

theorem exec_diagLoopback (slot bad : Nat) (s : State) : exec (.diagLoopback slot bad) s = execDiagLoopback slot bad s := by rfl

theorem exec_loopback (s : State) : exec .loopback s = execLoopback s := by rfl

/-! ### Collectives (R411–R418) -/

section Collectives
variable {s : State} {slot : Nat} {c : Cmd}

/-- COLL_RUN takes the number of its collective's stages and starts it. -/
theorem exec_collRun_of_starts {g : Group} {d : Dev} (hrun : s.dev.RoutineRuns slot 0x0602 c) (hfirst : c.total = 0)
    (hgroup : s.dev.group? c.collOf.slot = some g)
    (hstarts : (s.dev.updCmd slot fun x =>
      { x with total := collStages g c.collOf.op c.collOf.count c.collOf.inSize }).collStart c.collOf = some d) :
    exec (.collRun slot) s = .next (s.after d) := by
  refine (exec_collRun ..).trans <| State.run_onRoutine hrun <| (if_pos hfirst).trans ?_
  simp only [hgroup, hstarts]

variable {x : Coll} {d : Dev} (hrun : s.dev.RoutineRuns slot 0x0602 c) (hbegun : c.total ≠ 0) (hcoll : s.dev.coll? slot 0 = some x)
  (hidle : x.busy = false)
include hrun hbegun hcoll hidle

theorem exec_collRun_of_goesOn (hnext : (s.dev.pieceDone slot).collNext slot 0 = (d, false)) :
    exec (.collRun slot) s = .next (s.after d) := by
  refine (exec_collRun ..).trans <| State.run_onRoutine hrun <| (if_neg hbegun).trans ?_
  simp only [hcoll, hidle, hnext, Bool.false_eq_true, if_false]

theorem exec_collRun_of_ends {c' : Cmd} (hnext : (s.dev.pieceDone slot).collNext slot 0 = (d, true)) (hcmd : d.cmd? slot = some c') :
    exec (.collRun slot) s = .next (s.after (d.okCmd slot c'.progress)) := by
  refine (exec_collRun ..).trans <| State.run_onRoutine hrun <| (if_neg hbegun).trans ?_
  simp only [hcoll, hidle, hnext, hcmd, Bool.false_eq_true, if_false]

end Collectives

section CollectiveData
variable {s : State} {k : FabPkt} (hclocks : s.dev.fabClocks = true)
  (holdest : (s.dev.fab.inbox.find? fun k => k.typ == ptCollData) = some k)
include hclocks holdest

theorem exec_collData_of_match {c : Coll} {k' : FabPkt} {d : Dev} (hmatch : s.dev.collMatch k = some c)
    (hnext : s.dev.nextIn ptCollData = some (k', d)) : exec .collData s = .next (s.after (d.collTake c k')) := by
  refine (exec_collData ..).trans <| State.run_of_effect <| (if_neg (by simp [hclocks])).trans ?_
  simp only [holdest, hmatch, hnext]

/-- A collective packet goes from the receive buffer into the early buffer. -/
def Dev.heldEarly (d : Dev) (k : FabPkt) : Dev :=
  { d with fab := { d.fab with inbox := d.fab.inbox.erase k, early := d.fab.early ++ [(k, d.timeNs)] } }

theorem exec_collData_of_early (hmatch : s.dev.collMatch k = none) :
    exec .collData s = .next (s.after ((s.dev.heldEarly k).tracePkt (min k.port 255) k)) := by
  refine (exec_collData ..).trans <| State.run_of_effect <| (if_neg (by simp [hclocks])).trans ?_
  simp only [holdest, hmatch]
  rfl

end CollectiveData

/-- The oldest packet of the early buffer is dropped: its buffer is free again, the drop is counted. -/
def Dev.earlyDropped (d : Dev) (x : FabPkt × Nat) (rest : List (FabPkt × Nat)) : Dev :=
  ((({ d with fab := { d.fab with early := rest } } : Dev).returnCredits x.1).inc Reg.FAB_COLL_DROPS.COUNT).occur clsDropped

theorem exec_earlyBufferExpiry_of_held {s : State} {x : FabPkt × Nat} {rest : List (FabPkt × Nat)}
    (hheld : s.dev.fab.early = x :: rest) : exec .earlyBufferExpiry s = .next (s.after (s.dev.earlyDropped x rest)) := by
  refine (exec_earlyBufferExpiry ..).trans <| State.run_of_effect ?_
  simp only [hheld]
  rfl

theorem exec_collTimeout_of_busy {s : State} {slot part : Nat} {c : Coll} (hcoll : s.dev.coll? slot part = some c)
    (hbusy : c.busy = true) :
    exec (.collTimeout slot part) s = .next (s.after (s.dev.collFail c ⟨0x05, 0x0F21, 0⟩ true)) := by
  refine (exec_collTimeout ..).trans <| State.run_of_effect ?_
  simp only [hcoll, hbusy, if_true]

/-- Settles O35, row by row. -/
theorem collectiveCommandsComplete : Obligations.CollectiveCommandsComplete := by
  refine ⟨?start, ?next, ?data, ?expiry, ?timeout⟩
  case start => exact fun _ _ _ _ _ hrun hfirst hgroup hstarts => exec_collRun_of_starts hrun hfirst hgroup hstarts
  case next =>
    exact fun _ _ _ _ _ hrun hbegun hcoll hidle => ⟨exec_collRun_of_goesOn hrun hbegun hcoll hidle,
      fun _ hnext hcmd => exec_collRun_of_ends hrun hbegun hcoll hidle hnext hcmd⟩
  case data =>
    exact fun _ _ hclocks holdest => ⟨fun _ _ _ hmatch hnext => exec_collData_of_match hclocks holdest hmatch hnext,
      fun hmatch => (exec_collData_of_early hclocks holdest hmatch :)⟩
  case expiry => exact fun _ _ _ hheld => (exec_earlyBufferExpiry_of_held hheld :)
  case timeout => exact fun _ _ _ _ hcoll hbusy => exec_collTimeout_of_busy hcoll hbusy

/-! ### Remote transactions at the home (R405) -/

/-- A remote request that passes its checks has its effect. -/
theorem Dev.onRemote_admitted {d : Dev} {k : FabPkt} {wr : Bool} {n : Nat} (hchecks : d.remoteRefused k wr n = none)
    (hepoch : d.epochDiffers k = false) (f : Dev → Dev) : d.onRemote k wr n f = f d := by
  simp only [Dev.onRemote, hchecks, hepoch, Bool.false_eq_true, if_false]

section Home
variable {s : State} {k : FabPkt} {d d' : Dev}

theorem exec_memWrite_of_written (htaken : s.dev.PktTaken ptMemWrite k d) (hchecks : d.remoteRefused k true k.data.length = none)
    (hepoch : d.epochDiffers k = false) (hwrite : d.writeRaw byFabric (some k.dctx) (k.addr % 2 ^ 48) k.data = ⟨d', none⟩) :
    exec .memWrite s = .next (s.after (d'.ackPkt k 0)) := by
  refine (exec_memWrite ..).trans <| State.run_onPkt htaken <| (Dev.onRemote_admitted hchecks hepoch _).trans ?_
  simp only [hwrite]

/-- The bytes read at the home go back to the request's source. -/
def Dev.readAnswered (d : Dev) (k : FabPkt) (bs : List Byte) : Dev :=
  (d.sendPkt { k with typ := ptReadData, adaptive := true, dst := k.src, src := d.myId, dctx := k.sctx, sctx := k.dctx, hops := 0
                      status := 0, data := bs, port := 32 }).1

theorem exec_memRead_of_read {bs : List Byte} (htaken : s.dev.PktTaken ptMemRead k d)
    (hchecks : d.remoteRefused k false k.arg = none) (hepoch : d.epochDiffers k = false)
    (hread : d.readRaw byFabric (some k.dctx) (k.addr % 2 ^ 48) k.arg = ⟨d', .ok bs⟩) :
    exec .memRead s = .next (s.after (d'.readAnswered k bs)) := by
  refine (exec_memRead ..).trans <| State.run_onPkt htaken <| (Dev.onRemote_admitted hchecks hepoch _).trans ?_
  simp only [hread]
  rfl

/-- An operation on a synchronization object that does not fail is acknowledged, done here or sent on to its home. -/
theorem exec_soOpPkt_of_served {o : SoRes} (htaken : s.dev.PktTaken ptSoOp k d) (hchecks : d.soRemoteDetail k = 0)
    (hepoch : d.epochDiffers k = false) (hop : d.soOp .none k.dctx (k.addr % 4096) (bitAt k.arg 0) (leNat k.data) = ⟨d', o⟩)
    (hserved : ∀ mj dt, o ≠ .fail mj dt) : exec (.soOpPkt false) s = .next (s.after (d'.ackPkt k 0)) := by
  refine (exec_soOpPkt ..).trans <| State.run_onPkt htaken <| (if_neg (by simp [hchecks])).trans <|
    (if_neg (Bool.eq_false_iff.1 hepoch)).trans ?_
  simp only [Bool.false_eq_true, if_false, hop]
  cases o with
  | fail mj dt => exact absurd rfl (hserved mj dt)
  | _ => rfl

end Home

/-! ### Remote transactions at the source (R406, R407) -/

/-- The open transaction that a packet answers. -/
def Dev.answeredBy (d : Dev) (k : FabPkt) : Option Txn := d.fab.txns.find? fun t => t.tag == k.tag

theorem Dev.onResponse_open {d : Dev} {k : FabPkt} {t : Txn} (hopen : d.answeredBy k = some t) (f : Txn → Dev → Dev) :
    d.onResponse k f = f t d := by
  unfold Dev.answeredBy at hopen
  simp only [Dev.onResponse, hopen]

section Source
variable {s : State} {k : FabPkt} {d d' : Dev} {t : Txn}

theorem exec_ack_of_ok (htaken : s.dev.PktTaken ptAck k d) (hopen : d.answeredBy k = some t) (hstatus : k.status = 0) :
    exec .ack s = .next (s.after (d.txnDone t)) :=
  (exec_ack ..).trans <| State.run_onPkt htaken <| (Dev.onResponse_open hopen _).trans (if_pos hstatus)

theorem exec_ack_of_failed (htaken : s.dev.PktTaken ptAck k d) (hopen : d.answeredBy k = some t) (hstatus : k.status ≠ 0)
    (hbind : ∀ x, t.who ≠ .bind x) (hway : ∀ x, t.who ≠ .way x) :
    exec .ack s = .next (s.after (d.txnFail t (statusFail k.status))) := by
  refine (exec_ack ..).trans <| State.run_onPkt htaken <| (Dev.onResponse_open hopen _).trans <| (if_neg hstatus).trans ?_
  cases hwho : t.who with
  | bind x => exact absurd hwho (hbind x)
  | way x => exact absurd hwho (hway x)
  | _ => rfl

theorem exec_ack_of_late (htaken : s.dev.PktTaken ptAck k d) (hlate : d.answeredBy k = none) :
    exec .ack s = .next (s.after ((d.inc Reg.FAB_LATE_RSP.COUNT).occur clsDropped)) := by
  unfold Dev.answeredBy at hlate
  refine (exec_ack ..).trans <| State.run_onPkt htaken ?_
  simp only [Dev.onResponse, hlate]

theorem exec_readData_of_group (htaken : s.dev.PktTaken ptReadData k d) (hopen : d.answeredBy k = some t)
    (hwho : ∀ id, t.who ≠ .td id) (hwrite : d.write (byPorter t.group) t.ctx t.dst (k.data.take t.len) = ⟨d', none⟩) :
    exec .readData s = .next (s.after (d'.txnDone t)) := by
  refine (exec_readData ..).trans <| State.run_onPkt htaken <| (Dev.onResponse_open hopen _).trans ?_
  cases h : t.who with
  | td id => exact absurd h (hwho id)
  | _ => simp only [hwrite]

theorem exec_readData_of_porter {id p : Nat} {r : PorterRun} (htaken : s.dev.PktTaken ptReadData k d)
    (hopen : d.answeredBy k = some t) (hwho : t.who = .td id) (hporter : d.porterOf id = some (p, r))
    (hwrite : d.write (byPorter p) t.ctx t.dst (k.data.take t.len) = ⟨d', none⟩) :
    exec .readData s = .next (s.after (d'.txnDone t)) := by
  refine (exec_readData ..).trans <| State.run_onPkt htaken <| (Dev.onResponse_open hopen _).trans ?_
  simp only [hwho, hporter, hwrite]

theorem exec_fabTransactionTimeout_of_open {tag : Nat}
    (hopen : (s.dev.fab.txns.find? fun t =>
      t.tag == tag && ([ptMemWrite, ptMemRead, ptSoOp, ptWayWrite] : List Nat).contains t.typ) = some t) :
    exec (.fabTransactionTimeout tag) s = .next (s.after (s.dev.txnFail t ⟨0x05, 0x0F20, 0⟩)) := by
  refine (exec_fabTransactionTimeout ..).trans <| State.run_of_effect ?_
  simp only [hopen]

end Source

/-- Settles O36, row by row. -/
theorem remoteTransactionsComplete : Obligations.RemoteTransactionsComplete := by
  refine ⟨?write, ?read, ?soOp, ?ack, ?late, ?data, ?porterData, ?timeout⟩
  case write => exact fun _ _ _ _ htaken hchecks hepoch hwrite => exec_memWrite_of_written htaken hchecks hepoch hwrite
  case read => exact fun _ _ _ _ _ htaken hchecks hepoch hread => exec_memRead_of_read htaken hchecks hepoch hread
  case soOp => exact fun _ _ _ _ _ htaken hchecks hepoch hop hserved => exec_soOpPkt_of_served htaken hchecks hepoch hop hserved
  case ack =>
    exact fun _ _ _ _ htaken hopen => ⟨exec_ack_of_ok htaken hopen,
      fun hstatus hbind hway => exec_ack_of_failed htaken hopen hstatus hbind hway⟩
  case late => exact fun _ _ _ htaken hlate => exec_ack_of_late htaken hlate
  case data => exact fun _ _ _ _ _ htaken hopen hwho hwrite => exec_readData_of_group htaken hopen hwho hwrite
  case porterData =>
    exact fun _ _ _ _ _ _ _ _ htaken hopen hwho hporter hwrite => exec_readData_of_porter htaken hopen hwho hporter hwrite
  case timeout => exact fun _ _ _ hopen => exec_fabTransactionTimeout_of_open hopen

/-! ### FAB_ROUTE_LOAD (R402, R411, R420) -/

section RouteLoad
variable {s : State} {slot : Nat} {c : Cmd} (hrun : s.dev.CmdRuns slot 0x0601 c)
include hrun

theorem exec_fabRouteLoad_of_clear (hclear : c.par 0x0A 1 = 1) (hfree : s.dev.groupBusy (c.par 9 1) = false) :
    exec (.fabRouteLoad slot) s = .next (s.after ((s.dev.setGroups (kvDel (c.par 9 1) s.dev.fab.groups)).okCmd slot)) :=
  (exec_fabRouteLoad ..).trans <| State.run_onCmd hrun <| (if_pos hclear).trans (if_neg (Bool.eq_false_iff.1 hfree))

variable {d : Dev} {bs : List Byte} (hload : c.par 0x0A 1 ≠ 1)
  (hread : s.dev.read byCp c.ctx (c.par 0 8) (c.par 0x0C 4) = ⟨d, .ok bs⟩)
include hload hread

theorem exec_fabRouteLoad_of_group {g : Group} (hkind : c.par 8 1 = 1) (hgroup : groupOf d.myId bs = some g)
    (hfree : d.groupBusy (c.par 9 1) = false) :
    exec (.fabRouteLoad slot) s = .next (s.after ((d.setGroups (kvPut (c.par 9 1) g d.fab.groups)).okCmd slot)) := by
  refine (exec_fabRouteLoad ..).trans <| State.run_onCmd hrun <| (if_neg hload).trans ?_
  simp only [hread, if_pos hkind, hgroup, hfree, Bool.false_eq_true, if_false]

/-- The entries of a route table that name a port or are adaptive. -/
def routesOf (bs : List Byte) : List (Nat × Nat × Bool) :=
  ((List.range 4096).map fun k =>
    (k, fieldAt bs (64 + 8 * k) 8 % 2 ^ 32, bitAt (fieldAt bs (64 + 8 * k) 8) 32)).filter fun x => x.2.1 != 0 || x.2.2

/-- A route table takes effect, with the device ID it gives. -/
def Dev.routesLoaded (d : Dev) (bs : List Byte) : Dev :=
  ({ d with fab := { d.fab with routes := routesOf bs } } : Dev).wr Reg.FAB_ID.DEVICE_ID (fieldAt bs 0 2 % 4096)

/-- A table that fails its checks is INVALID; one that changes the ID while something carries the old one is refused. -/
theorem exec_fabRouteLoad_of_table (hkind : c.par 8 1 ≠ 1) :
    exec (.fabRouteLoad slot) s = .next (s.after
      (if routeTableOk bs then
        if fieldAt bs 0 2 % 4096 = d.myId ∨ d.idInUse = false then (d.routesLoaded bs).okCmd slot else d.endCmd slot 0x04 0x0F10 0
      else d.endCmd slot 0x02 0x0F02 0x20)) := by
  refine (exec_fabRouteLoad ..).trans <| State.run_onCmd hrun <| (if_neg hload).trans ?_
  simp only [hread, if_neg hkind]
  cases hok : routeTableOk bs with
  | false => rfl
  | true =>
    refine (if_neg (by decide)).trans ?_
    by_cases hid : fieldAt bs 0 2 % 4096 = d.myId ∨ d.idInUse = false
    · rw [if_neg fun ⟨hne, huse⟩ => hid.elim hne fun h => by simp [h] at huse]
      simp only [if_true, if_pos hid]
      rfl
    · rw [if_pos (by simpa using hid)]
      simp only [if_true, if_neg hid]

end RouteLoad

/-! ### FAB_PORT_CTL (R421) -/

/-- The port that FAB_PORT_CTL names takes its highest generation and its media bit. -/
def Dev.portSetBy (d : Dev) (c : Cmd) : Dev :=
  d.setPort (c.par 0 1) { d.port (c.par 0 1) with maxGen := if c.par 2 1 = 0 then 2 else c.par 2 1, c2m := c.par 3 1 == 1 }

theorem retry_sent_iff {l : List Flit} : (!l.isEmpty) = true ↔ l ≠ [] := by simp

section PortControl
variable {s : State} {slot : Nat} {c : Cmd} (hrun : s.dev.CmdRuns slot 0x0604 c)
include hrun

theorem exec_fabPortCtl_of_disable (hop : c.par 1 1 = 0)
    (hempty : ¬(((s.dev.portSetBy c).portState (c.par 0 1) = psUp ∨ (s.dev.portSetBy c).portState (c.par 0 1) = psRetrain)
      ∧ ((s.dev.portSetBy c).port (c.par 0 1)).retry ≠ [])) :
    exec (.fabPortCtl slot) s = .next (s.after (((s.dev.portSetBy c).portTo (c.par 0 1) psDisabled).okCmd slot)) := by
  refine (exec_fabPortCtl ..).trans <| State.run_onCmd hrun <| (if_neg (by simp [hop])).trans ?_
  simp only [hop]
  exact congrArg (Dev.okCmd · slot) <| if_neg fun ⟨hup, hsent⟩ =>
    hempty ⟨hup, retry_sent_iff.1 hsent⟩

theorem exec_fabPortCtl_of_flush (hop : c.par 1 1 = 0)
    (hup : (s.dev.portSetBy c).portState (c.par 0 1) = psUp ∨ (s.dev.portSetBy c).portState (c.par 0 1) = psRetrain)
    (hsent : ((s.dev.portSetBy c).port (c.par 0 1)).retry ≠ []) :
    exec (.fabPortCtl slot) s = .next (s.after
      (((s.dev.portSetBy c).setPort (c.par 0 1) { (s.dev.portSetBy c).port (c.par 0 1) with flushing := true }).okCmd slot)) := by
  refine (exec_fabPortCtl ..).trans <| State.run_onCmd hrun <| (if_neg (by simp [hop])).trans ?_
  simp only [hop]
  exact congrArg (Dev.okCmd · slot) <| if_pos ⟨hup, retry_sent_iff.2 hsent⟩

theorem exec_fabPortCtl_of_enable (hop : c.par 1 1 = 1) (hpower : s.dev.domOn (domPort (c.par 0 1)) = true) :
    exec (.fabPortCtl slot) s = .next (s.after
      ((if (s.dev.portSetBy c).portState (c.par 0 1) = psDisabled then (s.dev.portSetBy c).portTo (c.par 0 1) psDown
        else s.dev.portSetBy c).okCmd slot)) := by
  refine (exec_fabPortCtl ..).trans <| State.run_onCmd hrun <| (if_neg (by simp [hpower])).trans ?_
  simp only [hop]
  rfl

theorem exec_fabPortCtl_of_retrain (hop : c.par 1 1 = 2) :
    exec (.fabPortCtl slot) s = .next (s.after (((s.dev.portSetBy c).portRetrain (c.par 0 1)).okCmd slot)) := by
  refine (exec_fabPortCtl ..).trans <| State.run_onCmd hrun <| (if_neg (by simp [hop])).trans ?_
  simp only [hop]
  rfl

end PortControl

/-! ### REMOTE_COPY (R422) -/

/-- The porter that moves the present chunk of a REMOTE_COPY. -/
def Dev.remotePorter (d : Dev) (c : Cmd) : Nat := 20 + 2 * c.cores.headD 0 + c.done % min 2 d.memPorters

/-- The bursts of the present chunk of a REMOTE_COPY, by their offset in the whole copy. -/
def Dev.remoteBursts (d : Dev) (c : Cmd) : List (Nat × Nat) :=
  (burstsOf (c.par 8 8 + c.done * d.memChunk) (min d.memChunk (c.par 0x10 8 - c.done * d.memChunk))).map fun b =>
    (c.done * d.memChunk + b.1, b.2)

/-- A chunk of a REMOTE_COPY is moved: the command's next chunk starts at its first burst, the porter counts a descriptor. -/
def Dev.remoteChunkDone (d : Dev) (slot p : Nat) : Dev :=
  ((d.pieceDone slot).updCmd slot fun c => { c with aux := [0] }).inc (Reg.PRT_DESCS.COUNT p)

section RemoteCopy
variable {s : State} {slot k : Nat} {c₀ c : Cmd} {d d' : Dev} (hrun : s.dev.RoutineRuns slot 0x0603 c₀)
  (hopened : s.dev.LongOpened slot (s.dev.pickCore (c₀.par 0x1C 1)) (cdiv (c₀.par 0x10 8) s.dev.memChunk) c₀ d)
  (hcmd : d.cmd? slot = some c) (hleft : c.done < c.total) (hpower : d.unitBlocked [domPorters (c.cores.headD 0)] 0x0D21 = none)
  (hissued : d.remoteIssue c (d.remotePorter c) ((d.remoteBursts c).drop (c.aux.headD 0)) (c.aux.headD 0) = (d', .ok k))
include hrun hopened hcmd hleft hpower hissued

/-- What a REMOTE_COPY does once its present chunk has issued what may go out, up to burst `k`. -/
theorem exec_remoteCopy_of_issued :
    exec (.remoteCopy slot) s = .next (s.after
      (if k < (d.remoteBursts c).length ∨ d'.cmdTxns slot ≠ 0 then d'.updCmd slot fun c => { c with aux := [k] }
      else if c.done + 1 = c.total then (d'.remoteChunkDone slot (d.remotePorter c)).okCmd slot (c.par 0x10 8)
      else d'.remoteChunkDone slot (d.remotePorter c))) := by
  unfold Dev.remotePorter Dev.remoteBursts at hissued
  refine (exec_remoteCopy ..).trans <| State.run_onRoutine hrun ?_
  obtain ⟨hbegun, rfl⟩ | ⟨hfirst, hone, rfl⟩ := hopened
  · simp only [bne_iff_ne.2 hbegun, if_true, hcmd, if_neg (Nat.not_le.2 hleft), hpower, hissued]
    rfl
  · simp only [hfirst, bne_self_eq_false, Bool.false_eq_true, if_false, if_pos hone, hcmd, if_neg (Nat.not_le.2 hleft), hpower, hissued]
    rfl

theorem exec_remoteCopy_of_open (hmore : k < (d.remoteBursts c).length ∨ d'.cmdTxns slot ≠ 0) :
    exec (.remoteCopy slot) s = .next (s.after (d'.updCmd slot fun c => { c with aux := [k] })) := by
  rw [exec_remoteCopy_of_issued hrun hopened hcmd hleft hpower hissued, if_pos hmore]

theorem exec_remoteCopy_of_moved (hall : (d.remoteBursts c).length ≤ k) (hnone : d'.cmdTxns slot = 0) :
    exec (.remoteCopy slot) s = .next (s.after
      (if c.done + 1 = c.total then (d'.remoteChunkDone slot (d.remotePorter c)).okCmd slot (c.par 0x10 8)
      else d'.remoteChunkDone slot (d.remotePorter c))) := by
  rw [exec_remoteCopy_of_issued hrun hopened hcmd hleft hpower hissued, if_neg fun h => h.elim (Nat.not_lt.2 hall) (· hnone)]

end RemoteCopy

/-! ### Loopback (R423) -/

/-- A far-end test begins with its packets counted and the place of its patterns, and sends its first packet. -/
def Dev.loopBegun (d : Dev) (slot : Nat) (c : Cmd) : Dev :=
  let n := cdiv (c.par 4 4) 9
  (({ d with free := d.free + 256 * n } : Dev).updCmd slot fun c => { c with total := n, aux := [d.free] }).loopSend c d.free 0

/-- The running far-end test that a LOOPBACK packet belongs to. -/
def Dev.loopOf (d : Dev) (k : FabPkt) : Option Cmd :=
  d.cp0.cmds.find? fun c => c.slot == k.tag && c.opcode == 0x0803 && c.phase == .running && c.par 0 1 == k.port

/-- The flits found different so far, with those of the packet `k`. -/
def Cmd.loopBad (c : Cmd) (k : FabPkt) : Nat := c.hits + loopDiffer (loopPattern (c.aux.headD 0) k.arg) k.data

/-- A returned packet is compared: the test ends, or sends its next packet. -/
def Dev.loopCompared (d : Dev) (c : Cmd) (k : FabPkt) : Dev :=
  let e := d.updCmd c.slot fun y => { y with hits := c.loopBad k }
  if c.total ≤ c.done + 1 then e.loopEnd c.slot (c.loopBad k) else (e.pieceDone c.slot).loopSend c (c.aux.headD 0) (c.done + 1)

/-- Another device's packet goes back on the port it came by. -/
def Dev.loopReturned (d : Dev) (k : FabPkt) : Dev :=
  (d.setPort k.port { d.port k.port with
    queue := (d.port k.port).queue ++ [{ k with dst := k.src, src := d.myId, hops := 1 }] }).pumpPort k.port

section Loopback
variable {s : State}

section Test
variable {slot : Nat} {c : Cmd} (hrun : s.dev.RoutineRuns slot 0x0803 c)
include hrun

theorem exec_diagLoopback_of_near (bad : Nat) (hnear : c.par 1 1 = 0) (hstate : s.dev.portState (c.par 0 1) = psDisabled) :
    exec (.diagLoopback slot bad) s = .next (s.after
      ((s.dev.updCmd slot fun c => { c with total := 1 }).loopEnd slot (min bad (c.par 4 4)))) :=
  (exec_diagLoopback ..).trans <| State.run_onRoutine hrun <| (if_pos hnear).trans (if_neg (not_not_intro hstate))

theorem exec_diagLoopback_of_far (bad : Nat) (hfar : c.par 1 1 ≠ 0) (hfirst : c.total = 0)
    (hstate : s.dev.portState (c.par 0 1) = psUp) :
    exec (.diagLoopback slot bad) s = .next (s.after (s.dev.loopBegun slot c)) :=
  (exec_diagLoopback ..).trans <| State.run_onRoutine hrun <| (if_neg hfar).trans <| (if_pos hfirst).trans <|
    if_neg (not_not_intro hstate)

end Test

variable {k : FabPkt} {d : Dev} (htaken : s.dev.PktTaken ptLoopback k d)
include htaken

theorem exec_loopback_of_own {c : Cmd} (hown : d.loopOf k = some c) :
    exec .loopback s = .next (s.after (d.loopCompared c k)) := by
  unfold Dev.loopOf at hown
  refine (exec_loopback ..).trans <| State.run_onPkt htaken ?_
  simp only [hown]
  rfl

theorem exec_loopback_of_other (hother : d.loopOf k = none) (hport : k.port < 32) :
    exec .loopback s = .next (s.after (d.loopReturned k)) := by
  unfold Dev.loopOf at hother
  refine (exec_loopback ..).trans <| State.run_onPkt htaken ?_
  simp only [hother, if_pos hport]
  rfl

end Loopback

/-- Settles O37, row by row. -/
theorem fabricCommandsComplete : Obligations.FabricCommandsComplete := by
  refine ⟨?clear, ?load, ?port, ?remoteCopy, ?loopTest, ?loopPacket⟩
  case clear => exact fun _ _ _ hrun hclear hfree => exec_fabRouteLoad_of_clear hrun hclear hfree
  case load =>
    exact fun _ _ _ _ _ hrun hload hread =>
      ⟨fun _ hkind hgroup hfree => exec_fabRouteLoad_of_group hrun hload hread hkind hgroup hfree,
        fun hkind => (exec_fabRouteLoad_of_table hrun hload hread hkind :)⟩
  case port =>
    exact fun _ _ _ hrun => ⟨fun hop hempty => (exec_fabPortCtl_of_disable hrun hop hempty :),
      fun hop hup hsent => (exec_fabPortCtl_of_flush hrun hop hup hsent :),
      fun hop hpower => (exec_fabPortCtl_of_enable hrun hop hpower :), fun hop => (exec_fabPortCtl_of_retrain hrun hop :)⟩
  case remoteCopy =>
    exact fun _ _ _ _ _ _ _ hrun hopened hcmd hleft hpower hissued =>
      ⟨fun hmore => (exec_remoteCopy_of_open hrun hopened hcmd hleft hpower hissued hmore :),
        fun hall hnone => (exec_remoteCopy_of_moved hrun hopened hcmd hleft hpower hissued hall hnone :)⟩
  case loopTest =>
    exact fun _ _ bad _ hrun => ⟨exec_diagLoopback_of_near hrun bad,
      fun hfar hfirst hstate => (exec_diagLoopback_of_far hrun bad hfar hfirst hstate :)⟩
  case loopPacket =>
    exact fun _ _ _ htaken => ⟨fun _ hown => (exec_loopback_of_own htaken hown :),
      fun hother hport => (exec_loopback_of_other htaken hother hport :)⟩

end Sys2Proof.Machine
end

