-- ==== Sys2Proof/Proofs/Training.lean ====
section
/-!
PROOFS. The training machinery and replays (chapter 16; 17 R476, R477). Patches are latched at load, the next entry's lists are copied
when the entry before is done, a step that opens clears the norm record, and the stage totals and the digest comparison are the model's
choices (notes/assumptions/12.md).
-/
namespace Sys2Proof.Machine

/-! ### The meaning of each row -/

theorem exec_timetableLoad (slot : Nat) (s : State) : exec (.timetableLoad slot) s = execTimetableLoad slot s := by rfl

theorem exec_maskSeedSet (slot : Nat) (s : State) : exec (.maskSeedSet slot) s = execMaskSeedSet slot s := by rfl

theorem exec_bucketReduceStart (slot : Nat) (s : State) : exec (.bucketReduceStart slot) s = execBucketReduceStart slot s := by rfl

theorem exec_stageTimeout (slot : Nat) (s : State) : exec (.stageTimeout slot) s = execStageTimeout slot s := by rfl

theorem exec_timetableEntry (slot : Nat) (s : State) : exec (.timetableEntry slot) s = execTimetableEntry slot s := by rfl

theorem exec_trainStep (slot : Nat) (s : State) : exec (.trainStep slot) s = execTrainStep slot s := by rfl

theorem exec_optStep (slot : Nat) (s : State) : exec (.optStep slot) s = execOptStep slot s := by rfl

theorem exec_replayStep (slot : Nat) (s : State) : exec (.replayStep slot) s = execReplayStep slot s := by rfl

/-! ### Timetables and the seed (16 R426–R430, R438) -/

/-- A timetable slot takes the timetable `t` and its patches; its register shows what was loaded. -/
def Dev.ttLoaded (d : Dev) (ctx k : Nat) (t : List Byte) (m : KV (List (Nat × Nat))) : Dev :=
  ({ d with trn := { d.trn with slots := kvPut k ⟨t, m⟩ d.trn.slots } } : Dev).setReg (Reg.TRN_TT.LOADED k).reg
    (1 + ctx * 2 ^ 4 + ttEntries t * 2 ^ 8 + ttMb t % 4096 * 2 ^ 32 + ttStages t % 512 * 2 ^ 44 + ttStage t % 512 * 2 ^ 53)

section Timetable
variable {s : State} {slot : Nat} {c : Cmd}

section Load
variable (hrun : s.dev.CmdRuns slot 0x0501 c) (hown : s.dev.ttForeign c.ctx (c.par 0x0C 1) = false)
  (hidle : s.dev.on (Reg.TRN_TT.RUNNING (c.par 0x0C 1)) = false)
include hrun hown hidle

theorem exec_timetableLoad_of_free (hop : c.par 0x0D 1 = 1) :
    exec (.timetableLoad slot) s = .next (s.after ((s.dev.ttFree (c.par 0x0C 1)).okCmd slot)) :=
  (exec_timetableLoad ..).trans <| State.run_onCmd hrun <| (if_neg (Bool.eq_false_iff.1 hown)).trans <|
    (if_neg (Bool.eq_false_iff.1 hidle)).trans (if_pos hop)

theorem exec_timetableLoad_of_checked {d d' : Dev} {t : List Byte} {m : KV (List (Nat × Nat))} (hop : c.par 0x0D 1 = 0)
    (hread : s.dev.read byCp c.ctx (c.par 0 8) (c.par 8 4) = ⟨d, .ok t⟩) (hcheck : d.ttCheck c.ctx (c.par 8 4) t = (d', .ok m)) :
    exec (.timetableLoad slot) s = .next (s.after ((d'.ttLoaded c.ctx (c.par 0x0C 1) t m).okCmd slot)) := by
  refine (exec_timetableLoad ..).trans <| State.run_onCmd hrun <| (if_neg (Bool.eq_false_iff.1 hown)).trans <|
    (if_neg (Bool.eq_false_iff.1 hidle)).trans <| (if_neg (by simp [hop])).trans ?_
  simp only [hread, hcheck]
  rfl

end Load

theorem exec_maskSeedSet_of_idle (hrun : s.dev.CmdRuns slot 0x0506 c) (hidle : s.dev.trainBusy c.ctx = false) :
    exec (.maskSeedSet slot) s = .next (s.after ((s.dev.wr (Reg.TRN_SEED.SEED c.ctx) (c.par 0 8)).okCmd slot)) :=
  (exec_maskSeedSet ..).trans <| State.run_onCmd hrun (if_neg (Bool.eq_false_iff.1 hidle))

/-! ### A step that runs: its buckets and its entries (16 R432–R440) -/

variable {r : TrainRun} (hrun : s.dev.StepRuns slot c r)
include hrun

/-- The next bucket's reduce-scatter starts once its object has reached the bucket's value. -/
theorem exec_bucketReduceStart_of_final {x : Bucket} {l : List Bucket} {d : Dev} (hphase : r.phase ≤ 2)
    (hnext : (bucketsOf r.buckets).drop r.started = x :: l) (harrived : s.dev.soArrived x.so x.value = .ok true)
    (hstart : (s.dev.updRun slot fun r => { r with started := r.started + 1 }).collStart (r.coll r.started x) = some d) :
    exec (.bucketReduceStart slot) s = .next (s.after d) := by
  refine (exec_bucketReduceStart ..).trans <| State.run_onTrain hrun <| (if_neg (Nat.not_lt.2 hphase)).trans ?_
  simp only [hnext, harrived, hstart]

/-- The timetable of a run, and the entry it is at. -/
def Dev.runTable (d : Dev) (r : TrainRun) : List Byte := (d.runTt r).bytes

def Dev.runEntry (d : Dev) (r : TrainRun) : TtEntry := ttEntry (d.runTable r) r.entry

variable (hphase : r.phase = 1)
include hphase

theorem exec_stageTimeout_of_waiting {so v : Nat} (hpart : r.part = 0)
    (harrival : r.arrival (s.dev.runTable r) (s.dev.runEntry r) = some (so, v)) (hwait : s.dev.soValue so < v) :
    exec (.stageTimeout slot) s = .next (s.after ((s.dev.inc Reg.TRN_ERR.STAGE_TIMEOUT).failStaged slot ⟨0x05, 0x1020, 0⟩)) := by
  unfold Dev.runEntry Dev.runTable at harrival
  refine (exec_stageTimeout ..).trans <| State.run_onTrain hrun <| if_pos ⟨hphase, hpart, ?_⟩
  simp only [harrival, hwait, decide_true]

variable (hlists : s.dev.cmdTds slot = []) (htodo : c.todo = [])
include hlists htodo

omit hrun in
/-- An entry whose descriptors are all done goes on. -/
theorem entry_goes_on : ¬ (r.phase ≠ 1 ∨ (!((s.dev.cmdTds slot).isEmpty && c.todo.isEmpty)) = true) := by
  simp [hphase, hlists, htodo]

theorem exec_timetableEntry_of_alone (hpart : r.part = 0)
    (harrival : r.arrival (s.dev.runTable r) (s.dev.runEntry r) = none) :
    exec (.timetableEntry slot) s = .next (s.after (s.dev.entryBegin slot r)) := by
  unfold Dev.runEntry Dev.runTable at harrival
  refine (exec_timetableEntry ..).trans <| State.run_onTrain hrun <| (if_neg (entry_goes_on hphase hlists htodo)).trans ?_
  simp only [hpart, harrival]

theorem exec_timetableEntry_of_arrived {so v : Nat} (hpart : r.part = 0)
    (harrival : r.arrival (s.dev.runTable r) (s.dev.runEntry r) = some (so, v)) (harrived : s.dev.soArrived so v = .ok true) :
    exec (.timetableEntry slot) s = .next (s.after (s.dev.entryBegin slot r)) := by
  unfold Dev.runEntry Dev.runTable at harrival
  refine (exec_timetableEntry ..).trans <| State.run_onTrain hrun <| (if_neg (entry_goes_on hphase hlists htodo)).trans ?_
  simp only [hpart, harrival, harrived]

theorem exec_timetableEntry_of_checkedIn (hpart : r.part = 1) (hrooms : s.dev.roomFailed (s.dev.runEntry r) = none) :
    exec (.timetableEntry slot) s = .next (s.after (s.dev.entryLists slot r (ttCore (s.dev.runTable r)))) := by
  unfold Dev.runEntry Dev.runTable at hrooms
  refine (exec_timetableEntry ..).trans <| State.run_onTrain hrun <| (if_neg (entry_goes_on hphase hlists htodo)).trans ?_
  simp only [hpart, hrooms]
  rfl

theorem exec_timetableEntry_of_noRooms (hpart : r.part = 2) (hrooms : (s.dev.runEntry r).rooms = false) :
    exec (.timetableEntry slot) s = .next (s.after (s.dev.entryDone slot (ttEntries (s.dev.runTable r)))) := by
  unfold Dev.runEntry Dev.runTable at hrooms
  refine (exec_timetableEntry ..).trans <| State.run_onTrain hrun <| (if_neg (entry_goes_on hphase hlists htodo)).trans ?_
  simp only [hpart]
  exact if_neg (Bool.eq_false_iff.1 hrooms)

/-- The rooms of an entry that has run its lists are checked out. -/
theorem exec_timetableEntry_of_rooms (hpart : r.part = 2) (hrooms : (s.dev.runEntry r).rooms = true) :
    exec (.timetableEntry slot) s = .next (s.after
      ((s.dev.addTodo slot [(ttCore (s.dev.runTable r), roomTd 1 (s.dev.runEntry r))]).updRun slot fun r => { r with part := 3 })) := by
  unfold Dev.runEntry Dev.runTable at hrooms
  refine (exec_timetableEntry ..).trans <| State.run_onTrain hrun <| (if_neg (entry_goes_on hphase hlists htodo)).trans ?_
  simp only [hpart]
  exact if_pos hrooms

theorem exec_timetableEntry_of_checkedOut (hpart : 2 < r.part) (hrooms : s.dev.roomFailed (s.dev.runEntry r) = none) :
    exec (.timetableEntry slot) s = .next (s.after (s.dev.entryDone slot (ttEntries (s.dev.runTable r)))) := by
  unfold Dev.runEntry Dev.runTable at hrooms
  refine (exec_timetableEntry ..).trans <| State.run_onTrain hrun <| (if_neg (entry_goes_on hphase hlists htodo)).trans ?_
  split
  next h => simp [h] at hpart
  next h => simp [h] at hpart
  next h => simp [h] at hpart
  next => simp only [hrooms]; rfl

end Timetable

/-- Settles O45, row by row. -/
theorem timetableCommandsComplete : Obligations.TimetableCommandsComplete := by
  refine ⟨?load, ?seed, ?bucket, ?entry⟩
  case load =>
    exact fun _ _ _ hrun hown hidle => ⟨exec_timetableLoad_of_free hrun hown hidle,
      fun _ _ _ _ hop hread hcheck => (exec_timetableLoad_of_checked hrun hown hidle hop hread hcheck :)⟩
  case seed => exact fun _ _ _ hrun hidle => exec_maskSeedSet_of_idle hrun hidle
  case bucket =>
    exact fun _ _ _ _ _ _ _ hrun hphase hnext harrived hstart => exec_bucketReduceStart_of_final hrun hphase hnext harrived hstart
  case entry =>
    exact fun _ _ _ _ hrun hphase =>
      ⟨fun _ _ hpart harrival hwait => exec_stageTimeout_of_waiting hrun hphase hpart harrival hwait,
        fun hlists htodo =>
          ⟨fun hpart harrival => exec_timetableEntry_of_alone hrun hphase hlists htodo hpart harrival,
            fun _ _ hpart harrival harrived => exec_timetableEntry_of_arrived hrun hphase hlists htodo hpart harrival harrived,
            fun hpart hrooms => exec_timetableEntry_of_checkedIn hrun hphase hlists htodo hpart hrooms,
            fun hpart hrooms => exec_timetableEntry_of_noRooms hrun hphase hlists htodo hpart hrooms,
            fun hpart hrooms => exec_timetableEntry_of_rooms hrun hphase hlists htodo hpart hrooms,
            fun hpart hrooms => exec_timetableEntry_of_checkedOut hrun hphase hlists htodo hpart hrooms⟩⟩

/-! ### TRAIN_STEP (16 R431, R441) -/

/-- The run that a TRAIN_STEP opens: its parameter block, the ledger's record and the context's seed. -/
def Dev.trainRun (d : Dev) (slot : Nat) (c : Cmd) : TrainRun :=
  { trainRun0 slot c.ctx with
    train := c.parBytes 0 32, step := d.ledRec.step, epoch := d.ledRec.epoch, scaleE := d.ledRec.scaleE
    seed := d.rd (Reg.TRN_SEED.SEED c.ctx) }

/-- TRAIN_STEP ends with its norm; a flagged norm ends it with its flag. -/
def Dev.trainEnd (d : Dev) (slot g2 fl : Nat) : Dev := if fl = 0 then d.okCmd slot g2 else d.endCmd slot 0x01 0x1030 (g2 + fl * 2 ^ 32)

section TrainStep
variable {s : State} {slot : Nat} {c : Cmd} (hrun : s.dev.RoutineRuns slot 0x0502 c)
include hrun

theorem exec_trainStep_of_open {r : TrainRun} (hopen : s.dev.run? slot = some r) :
    exec (.trainStep slot) s = .next (s.after (s.dev.exchangeGo slot r fun g2 fl d => d.trainEnd slot g2 fl)) := by
  refine (exec_trainStep ..).trans <| State.run_onRoutine hrun ?_
  simp only [hopen]
  rfl

theorem exec_trainStep_of_first {d : Dev} {bs : List Byte} (hnew : s.dev.run? slot = none) (hfirst : c.total = 0)
    (hallowed : s.dev.trainRefusal c.ctx (c.par 0 1) = none) (hchecks : s.dev.trainChecks (s.dev.trainRun slot c) = (d, .ok bs)) :
    exec (.trainStep slot) s = .next (s.after (d.trainOpen { s.dev.trainRun slot c with buckets := bs })) := by
  unfold Dev.trainRun at hchecks
  refine (exec_trainStep ..).trans <| State.run_onRoutine hrun ?_
  simp only [hnew]
  refine (if_neg (not_not_intro hfirst)).trans ?_
  simp only [hallowed, hchecks]
  rfl

end TrainStep

/-! ### OPT_STEP (16 R443, R444) -/

/-- What the ledger keeps for a REVERT is given up before a bank is written. -/
def Dev.revertForgotten (d : Dev) : Dev := if d.ledRec.revertible then d.ledWrite fun l => { l with revertible := false } else d

/-- The run that an OPT_STEP opens, with its shard table `bs`; `d` has read the table. -/
def Dev.optRun (e : Dev) (slot : Nat) (c : Cmd) (d : Dev) (bs : List Byte) : TrainRun :=
  { trainRun0 slot c.ctx with
    opt := c.parBytes 0 48, shards := bs, step := e.ledRec.step, epoch := e.ledRec.epoch, scaleE := e.ledRec.scaleE
    seed := d.rd (Reg.TRN_SEED.SEED c.ctx) }

section OptStep
variable {s : State} {slot : Nat} {c : Cmd} (hrun : s.dev.RoutineRuns slot 0x0503 c)
include hrun

theorem exec_optStep_of_open {r : TrainRun} (hopen : s.dev.run? slot = some r) :
    exec (.optStep slot) s = .next (s.after (s.dev.optGo slot r c fun d => d.okCmd slot)) := by
  refine (exec_optStep ..).trans <| State.run_onRoutine hrun ?_
  simp only [hopen]

variable {e : Dev} (hnew : s.dev.run? slot = none) (hfirst : c.total = 0) (hidle : s.dev.trainBusy c.ctx = false)
  (howner : s.dev.ledRefusal c.ctx = none) (hforgot : e = s.dev.revertForgotten) (hbank : e.wayReads (1 - e.ledRec.cur) = false)
  (hnorm : e.hasNorm c.ctx = true)
include hnew hfirst hidle howner hforgot hbank hnorm

/-- A flagged norm skips the update. -/
theorem exec_optStep_of_flagged (hflag : e.on (Reg.TRN_NORM.NONFINITE c.ctx) = true) :
    exec (.optStep slot) s = .next (s.after ((e.optSkip e.ledRec.step (c.parBytes 0 48)).endCmd slot 0x01 0x1031 0)) := by
  have hkept : ¬ (!e.hasNorm c.ctx) = true := by simp [hnorm]
  subst hforgot
  refine (exec_optStep ..).trans <| State.run_onRoutine hrun ?_
  simp only [hnew]
  refine (if_neg (not_not_intro hfirst)).trans <| (if_neg (Bool.eq_false_iff.1 hidle)).trans ?_
  simp only [howner]
  exact (if_neg (Bool.eq_false_iff.1 hbank)).trans <| (if_neg hkept).trans (if_pos hflag)

theorem exec_optStep_of_checked {d d' : Dev} {bs : List Byte} (hfinite : e.on (Reg.TRN_NORM.NONFINITE c.ctx) = false)
    (hread : e.read byCp c.ctx (c.par 0 8) (64 + 64 * c.par 8 2) = ⟨d, .ok bs⟩)
    (hchecks : d.shardChecks (e.optRun slot c d bs) = ⟨d', none⟩) :
    exec (.optStep slot) s = .next (s.after (d'.optOpen (e.optRun slot c d bs))) := by
  have hkept : ¬ (!e.hasNorm c.ctx) = true := by simp [hnorm]
  subst hforgot
  unfold Dev.optRun at hchecks
  refine (exec_optStep ..).trans <| State.run_onRoutine hrun ?_
  simp only [hnew]
  refine (if_neg (not_not_intro hfirst)).trans <| (if_neg (Bool.eq_false_iff.1 hidle)).trans ?_
  simp only [howner]
  refine (if_neg (Bool.eq_false_iff.1 hbank)).trans <| (if_neg hkept).trans <|
    (if_neg (Bool.eq_false_iff.1 hfinite)).trans ?_
  unfold Dev.revertForgotten at hread hchecks
  simp only [hread, hchecks]
  rfl

end OptStep

/-! ### REPLAY_STEP (17 R476, R477) -/

/-- The run that a REPLAY_STEP opens from the step record `b`. -/
def Dev.replayRun (d : Dev) (slot ctx : Nat) (b : List Byte) : TrainRun :=
  { trainRun0 slot ctx with
    train := (b.drop 0x20).take 32, opt := (b.drop 0x40).take 48, replay := true, step := d.ledRec.step, epoch := d.ledRec.epoch
    scaleE := fieldAt b 6 1, seed := fieldAt b 0x10 8 }

section ReplayStep
variable {s : State} {slot : Nat} {c : Cmd} {r : TrainRun} (hrun : s.dev.RoutineRuns slot 0x0904 c)
include hrun

theorem exec_replayStep_of_update (hopen : s.dev.run? slot = some r) (hphase : r.phase = 4) :
    exec (.replayStep slot) s = .next (s.after (s.dev.optGo slot r c fun d => d.replayEnd slot 0 0 r.g2)) := by
  refine (exec_replayStep ..).trans <| State.run_onRoutine hrun ?_
  simp only [hopen, hphase]

theorem exec_replayStep_of_waiting (hopen : s.dev.run? slot = some r) (hphase : r.phase = 5) :
    exec (.replayStep slot) s = .next (s.after (s.dev.replayOpt slot (s.dev.rd (Reg.TRN_NORM.G2 r.ctx)) 0)) := by
  refine (exec_replayStep ..).trans <| State.run_onRoutine hrun ?_
  simp only [hopen, hphase]

theorem exec_replayStep_of_exchange (hopen : s.dev.run? slot = some r) (hphase : r.phase ≤ 3) :
    exec (.replayStep slot) s = .next (s.after (s.dev.exchangeGo slot r fun g2 fl d => d.replayOpt slot g2 fl)) := by
  refine (exec_replayStep ..).trans <| State.run_onRoutine hrun ?_
  simp only [hopen]
  split
  next h => simp [h] at hphase
  next h => simp [h] at hphase
  next => rfl

theorem exec_replayStep_of_first {b : List Byte} {d : Dev} {bs : List Byte} (hnew : s.dev.run? slot = none) (hfirst : c.total = 0)
    (hallowed : s.dev.replayRefusal c.ctx (c.par 0 4) = none) (hrecord : s.dev.stepRec (c.par 0 4) = some b)
    (hchecks : s.dev.trainChecks (s.dev.replayRun slot c.ctx b) = (d, .ok bs)) :
    exec (.replayStep slot) s = .next (s.after (d.trainOpen { s.dev.replayRun slot c.ctx b with buckets := bs })) := by
  unfold Dev.replayRun at hchecks
  refine (exec_replayStep ..).trans <| State.run_onRoutine hrun ?_
  simp only [hnew]
  refine (if_neg (not_not_intro hfirst)).trans ?_
  simp only [hallowed, hrecord, hchecks]
  rfl

end ReplayStep

/-- Settles O46, row by row. -/
theorem trainingStepsComplete : Obligations.TrainingStepsComplete := by
  refine ⟨?train, ?opt, ?replay⟩
  case train =>
    exact fun _ _ _ hrun => ⟨fun _ hopen => (exec_trainStep_of_open hrun hopen :),
      fun _ _ hnew hfirst hallowed hchecks => (exec_trainStep_of_first hrun hnew hfirst hallowed hchecks :)⟩
  case opt =>
    exact fun _ _ _ hrun => ⟨fun _ hopen => exec_optStep_of_open hrun hopen,
      fun _ hnew hfirst hidle howner hforgot hbank hnorm =>
        ⟨fun hflag => exec_optStep_of_flagged hrun hnew hfirst hidle howner hforgot hbank hnorm hflag,
          fun _ _ _ hfinite hread hchecks =>
            (exec_optStep_of_checked hrun hnew hfirst hidle howner hforgot hbank hnorm hfinite hread hchecks :)⟩⟩
  case replay =>
    exact fun _ _ _ hrun =>
      ⟨fun _ hopen => ⟨exec_replayStep_of_update hrun hopen, exec_replayStep_of_waiting hrun hopen,
          exec_replayStep_of_exchange hrun hopen⟩,
        fun _ _ _ hnew hfirst hallowed hrecord hchecks => (exec_replayStep_of_first hrun hnew hfirst hallowed hrecord hchecks :)⟩

end Sys2Proof.Machine
end

