-- ==== Sys2Proof/Proofs/LedgerWay.lean ====
section
/-!
PROOFS. The waystation and the ledger (chapter 17). That hosting empties both slots, that bit 0 of ARG marks a restore, and where the slots
lie are the model's choices (notes/assumptions/27.md); so are that ADOPT completes like a VOTE and that a vote before its commit is matched
by group and rank and kept (notes/assumptions/12.md).
-/
namespace Sys2Proof.Machine

/-! ### The meaning of each row -/

theorem exec_waystationSet (slot : Nat) (s : State) : exec (.waystationSet slot) s = execWaystationSet slot s := by rfl

theorem exec_fastCheckpoint (s : State) : exec .fastCheckpoint s = execFastCheckpoint s := by rfl

theorem exec_waystationFull (slot : Nat) (s : State) : exec (.waystationFull slot) s = execWaystationFull slot s := by rfl

theorem exec_waystationRestore (slot : Nat) (s : State) : exec (.waystationRestore slot) s = execWaystationRestore slot s := by rfl

theorem exec_waystationWrite (s : State) : exec .waystationWrite s = execWaystationWrite s := by rfl
theorem exec_ledgerOpen (slot : Nat) (s : State) : exec (.ledgerOpen slot) s = execLedgerOpen slot s := by rfl

theorem exec_ledgerClose (slot : Nat) (s : State) : exec (.ledgerClose slot) s = execLedgerClose slot s := by rfl

theorem exec_scaleSet (slot : Nat) (s : State) : exec (.scaleSet slot) s = execScaleSet slot s := by rfl

theorem exec_ledgerQuery (slot : Nat) (s : State) : exec (.ledgerQuery slot) s = execLedgerQuery slot s := by rfl

theorem exec_ledgerVote (slot : Nat) (s : State) : exec (.ledgerVote slot) s = execLedgerVote slot s := by rfl

theorem exec_voteCast (slot : Nat) (late : Bool) (s : State) : exec (.voteCast slot late) s = execVoteCast slot late s := by rfl

theorem exec_vote (s : State) : exec .vote s = execVote s := by rfl

theorem exec_commitTimeout (s : State) : exec .commitTimeout s = execCommitTimeout s := by rfl

theorem exec_ledgerAdopt (slot : Nat) (s : State) : exec (.ledgerAdopt slot) s = execLedgerAdopt slot s := by rfl

theorem exec_ledgerRevert (slot : Nat) (s : State) : exec (.ledgerRevert slot) s = execLedgerRevert slot s := by rfl

/-! ### WAYSTATION_SET (R465) -/

/-- The device hosts a partner's checkpoints, both slots empty. -/
def Dev.wayHosting (d : Dev) (c : Cmd) : Dev :=
  let d := d.wayCut true
  let d : Dev := { d with way := { d.way with
    host := true, hostDev := c.par 8 2 % 4096, hostCtx := c.par 0x0A 1 % 16, slotGib := c.par 0x10 2 } }
  ((d.poke (d.waySlot 0) (zeros 256)).poke (d.waySlot 1) (zeros 256)).wayShow

/-- The shard table that WAYSTATION_SET has read. -/
def Cmd.shardTab (c : Cmd) (bs : List Byte) : ShardTab := ⟨shardsOf bs, c.par 0x12 1, bitAt (c.par 0x13 1) 0⟩

section WaySet
variable {s : State} {slot : Nat} {c : Cmd} (hrun : s.dev.CmdRuns slot 0x0901 c) (hnew : s.dev.way.acceptCmd ≠ some slot)
include hrun hnew

theorem exec_waystationSet_of_host (hop : c.par 0x0B 1 = 1) (hroom : 2 * c.par 0x10 2 ≤ s.dev.wayGib) :
    exec (.waystationSet slot) s = .next (s.after ((s.dev.wayHosting c).okCmd slot)) := by
  refine (exec_waystationSet ..).trans <| State.run_onCmd hrun <| (if_neg hnew).trans ?_
  simp only [hop, if_true]
  exact if_neg (Nat.not_lt.2 hroom)

theorem exec_waystationSet_of_clear (hop : c.par 0x0B 1 = 2) :
    exec (.waystationSet slot) s = .next (s.after (s.dev.wayDropTabs.wayClear.wayShow.okCmd slot)) := by
  refine (exec_waystationSet ..).trans <| State.run_onCmd hrun <| (if_neg hnew).trans ?_
  simp only [hop]
  rfl

variable {d : Dev} {bs : List Byte}
  (hread : s.dev.wayDropTabs.read byCp c.ctx (c.par 0 8) (64 + 64 * c.par 0x0C 2) = ⟨d, .ok bs⟩)
include hread

theorem exec_waystationSet_of_bind (hop : c.par 0x0B 1 = 0) :
    exec (.waystationSet slot) s = .next (s.after
      ((d.wayBind (c.shardTab bs) (c.par 8 2 % 4096) (c.par 0x0A 1 % 16) (c.par 0x0E 2)).wayShow.okCmd slot)) := by
  refine (exec_waystationSet ..).trans <| State.run_onCmd hrun <| (if_neg hnew).trans ?_
  simp only [hop]
  refine (if_neg fun h => absurd h.1 (by decide)).trans ?_
  simp only [show ((0 : Nat) = 1) = False by simp, if_false, hread]
  rfl

theorem exec_waystationSet_of_accept (hop : c.par 0x0B 1 = 3)
    (hledger : s.dev.wayDropTabs.ledRec.state = lsFree ∨ s.dev.wayDropTabs.ledRec.state = lsReady) :
    exec (.waystationSet slot) s = .next (s.after
      (d.wayAccept slot c (c.shardTab bs) (c.par 8 2 % 4096) (c.par 0x0A 1 % 16)).wayShow) := by
  refine (exec_waystationSet ..).trans <| State.run_onCmd hrun <| (if_neg hnew).trans ?_
  simp only [hop]
  refine (if_neg fun ⟨_, hfree, hready⟩ => hledger.elim hfree hready).trans ?_
  simp only [show ((3 : Nat) = 1) = False by simp, if_false, hread]
  rfl

end WaySet

/-! ### Checkpoints and restores (R469–R474) -/

/-- The checkpoint that is due starts, into the slot and with the number that come next. -/
def Dev.fastStarted (d : Dev) (t : ShardTab) : Dev :=
  let x := d.waySeqNext
  let y := x.1.wayImage t none false d.waySlotNext x.2
  ({ y.1 with way := { y.1.way with due := none } } : Dev).wayStart false y.2

theorem exec_fastCheckpoint_of_due {s : State} {n : Nat} {t : ShardTab} (hdue : s.dev.way.due = some n)
    (hbound : s.dev.way.sender = some t) (hidle : s.dev.way.job = none) (hlive : s.dev.live = true) :
    exec .fastCheckpoint s = .next (s.after (s.dev.fastStarted t)) := by
  refine (exec_fastCheckpoint ..).trans <| State.run_of_effect ?_
  simp only [hdue, hbound, hidle]
  exact if_neg (by simp [hlive])

/-- The transfer of a WAYSTATION_FULL, new or as its tab says it stands. -/
def Dev.fullImage (d : Dev) (slot : Nat) (t : ShardTab) (rs : List Byte) : Dev × WayJob :=
  if rs.length < 16 then d.waySeqNext.1.wayImage t (some slot) true d.waySlotNext d.waySeqNext.2
  else d.wayImage t (some slot) true (fieldAt rs 0 1 % 2) (fieldAt rs 1 4)

section Full
variable {s : State} {slot : Nat} {c : Cmd} (hrun : s.dev.RoutineRuns slot 0x0902 c)
include hrun

theorem exec_waystationFull_of_own {j : WayJob} (hjob : s.dev.way.job = some j) (hown : j.cmd = some slot) :
    exec (.waystationFull slot) s = .next (s.after (s.dev.wayChunk false c j)) := by
  refine (exec_waystationFull ..).trans <| State.run_onRoutine hrun ?_
  simp only [hjob, if_pos hown]

theorem exec_waystationFull_of_first {t : ShardTab} (hidle : s.dev.way.job = none) (hfirst : c.total = 0)
    (hbound : s.dev.way.sender = some t) :
    exec (.waystationFull slot) s = .next (s.after
      (s.dev.wayLong false c (s.dev.wayImage t (some slot) true 0 0).2.head.body s.dev.ledRec.epoch
        fun d rs => d.fullImage slot t rs)) := by
  refine (exec_waystationFull ..).trans <| State.run_onRoutine hrun ?_
  simp only [hidle]
  refine (if_neg (not_not_intro hfirst)).trans ?_
  simp only [hbound]
  rfl

end Full

/-- The slot that a WAYSTATION_RESTORE sends: the one it names, or the newest VALID one. -/
def Dev.restoreSlot (d : Dev) (c : Cmd) : Nat := if c.par 0 1 = 0xFF then d.newestHosted else c.par 0 1

/-- The transfer of a hosted slot back to its partner. -/
def Dev.restoreJob (d : Dev) (slot k : Nat) (h : WayHead) : WayJob :=
  { cmd := some slot, slot := k, dev := d.way.hostDev, ctx := d.way.hostCtx, head := h, segs := [(d.waySlot k + wayBodyOff, h.body)]
    tail := [], sent := 0, upto := 0, phase := 0, crc := ones64 }

section Restore
variable {s : State} {slot : Nat} {c : Cmd} (hrun : s.dev.RoutineRuns slot 0x0903 c)
include hrun

theorem exec_waystationRestore_of_own {j : WayJob} (hjob : s.dev.way.rjob = some j) (hown : j.cmd = some slot) :
    exec (.waystationRestore slot) s = .next (s.after (s.dev.wayChunk true c j)) := by
  refine (exec_waystationRestore ..).trans <| State.run_onRoutine hrun ?_
  simp only [hjob, if_pos hown]

theorem exec_waystationRestore_of_first {h : WayHead} (hidle : s.dev.way.rjob = none) (hfirst : c.total = 0)
    (hhost : s.dev.way.host = true) (hhead : s.dev.hostedHead (s.dev.restoreSlot c) = some h) (hvalid : h.state = wsValid) :
    exec (.waystationRestore slot) s = .next (s.after
      (s.dev.wayLong true c h.body 0 fun d _ => (d, d.restoreJob slot (s.dev.restoreSlot c) h))) := by
  unfold Dev.restoreSlot at hhead
  refine (exec_waystationRestore ..).trans <| State.run_onRoutine hrun ?_
  simp only [hidle]
  refine (if_neg (not_not_intro hfirst)).trans <| (if_neg (by simp [hhost])).trans ?_
  simp only [hhead]
  exact if_neg (not_not_intro hvalid)

end Restore

section WayWrite
variable {s : State} {k : FabPkt} {d : Dev} (htaken : s.dev.PktTaken ptWayWrite k d) (hepoch : d.epochDiffers k = false)
include htaken hepoch

theorem exec_waystationWrite_of_restore (hrestore : bitAt k.arg 0 = true) :
    exec .waystationWrite s = .next (s.after (d.restoreWrite k)) :=
  (exec_waystationWrite ..).trans <| State.run_onPkt htaken <| (if_neg (Bool.eq_false_iff.1 hepoch)).trans (if_pos hrestore)

theorem exec_waystationWrite_of_hosted (hhosted : bitAt k.arg 0 = false) :
    exec .waystationWrite s = .next (s.after (d.hostedWrite k)) :=
  (exec_waystationWrite ..).trans <| State.run_onPkt htaken <| (if_neg (Bool.eq_false_iff.1 hepoch)).trans
    (if_neg (Bool.eq_false_iff.1 hhosted))

end WayWrite

/-- Settles O43, row by row. -/
theorem waystationCommandsComplete : Obligations.WaystationCommandsComplete := by
  refine ⟨?set, ?fast, ?full, ?restore, ?write⟩
  case set =>
    exact fun _ _ _ hrun hnew => ⟨fun hop hroom => (exec_waystationSet_of_host hrun hnew hop hroom :),
      fun hop => exec_waystationSet_of_clear hrun hnew hop,
      fun _ _ hread => ⟨fun hop => (exec_waystationSet_of_bind hrun hnew hread hop :),
        fun hop hledger => (exec_waystationSet_of_accept hrun hnew hread hop hledger :)⟩⟩
  case fast => exact fun _ _ _ hdue hbound hidle hlive => (exec_fastCheckpoint_of_due hdue hbound hidle hlive :)
  case full =>
    exact fun _ _ _ hrun => ⟨fun _ hjob hown => exec_waystationFull_of_own hrun hjob hown,
      fun _ hidle hfirst hbound => (exec_waystationFull_of_first hrun hidle hfirst hbound :)⟩
  case restore =>
    exact fun _ _ _ hrun => ⟨fun _ hjob hown => exec_waystationRestore_of_own hrun hjob hown,
      fun _ hidle hfirst hhost hhead hvalid => (exec_waystationRestore_of_first hrun hidle hfirst hhost hhead hvalid :)⟩
  case write =>
    exact fun _ _ _ htaken hepoch => ⟨exec_waystationWrite_of_restore htaken hepoch, exec_waystationWrite_of_hosted htaken hepoch⟩

/-! ### OPEN, CLOSE, SCALE_SET, LEDGER_QUERY (R449, R453, R462, R463) -/

/-- A context opens the ledger at the step and epoch it gives, without step records. -/
def Dev.ledOpened (d : Dev) (c : Cmd) : Dev :=
  let e := d.rd Reg.LEDG_SCALE_CFG.INIT
  ({ d with led := { d.led with steps := [], failed := false } } : Dev).ledWrite fun r => { r with
    state := lsReady, cur := 0, scaleE := e, ctx := c.ctx, step := c.par 4 4, epoch := c.par 8 8, clean := 0, last := voNone
    retain := false, skips := 0, aborts := 0, prevE := e, revertible := false, prevClean := 0 }

/-- The ledger is free, without step records. -/
def Dev.ledClosed (d : Dev) : Dev :=
  ({ d with led := { d.led with steps := [] } } : Dev).ledWrite fun r =>
    { r with state := lsFree, ctx := 0, retain := false, revertible := false }

/-- The ledger's status as LEDGER_QUERY answers it. -/
def LedRec.summary (r : LedRec) : Nat :=
  r.step + r.state * 2 ^ 32 + r.cur * 2 ^ 35 + b2n r.retain * 2 ^ 36 + (if r.last = voNone then 7 else r.last) * 2 ^ 37
    + r.scaleE * 2 ^ 40 + b2n r.revertible * 2 ^ 48

section Ledger
variable {s : State} {slot : Nat} {c : Cmd}

theorem exec_ledgerOpen_of_free (hrun : s.dev.CmdRuns slot 0x0504 c) (hop : c.par 0 1 = 1) (hfree : s.dev.ledRec.state = lsFree) :
    exec (.ledgerOpen slot) s = .next (s.after ((s.dev.ledOpened c).okCmd slot)) :=
  (exec_ledgerOpen ..).trans <| State.run_onCmd hrun <| (if_neg (not_not_intro hop)).trans (if_neg (not_not_intro hfree))

theorem exec_ledgerClose_of_ready (hrun : s.dev.LedgerRuns slot 3 c) (hready : s.dev.ledRec.state = lsReady) :
    exec (.ledgerClose slot) s = .next (s.after (s.dev.ledClosed.okCmd slot)) :=
  (exec_ledgerClose ..).trans <| State.run_onLedger hrun (if_neg (not_not_intro hready))

theorem exec_scaleSet_of_owner (hrun : s.dev.CmdRuns slot 0x0507 c) (howner : s.dev.ledRefusal c.ctx = none) :
    exec (.scaleSet slot) s = .next (s.after
      ((s.dev.ledWrite fun r => { r with scaleE := c.par 0 1, clean := if bitAt (c.par 1 1) 0 then 0 else r.clean }).okCmd slot)) := by
  refine (exec_scaleSet ..).trans <| State.run_onCmd hrun ?_
  simp only [howner]

section Query
variable (hrun : s.dev.CmdRuns slot 0x0505 c)
include hrun

theorem exec_ledgerQuery_of_status (hop : c.par 0 1 = 0) :
    exec (.ledgerQuery slot) s = .next (s.after (s.dev.okCmd slot s.dev.ledRec.summary)) := by
  refine (exec_ledgerQuery ..).trans <| State.run_onCmd hrun ?_
  simp only [hop]
  rfl

theorem exec_ledgerQuery_of_epoch (hop : c.par 0 1 = 1) :
    exec (.ledgerQuery slot) s = .next (s.after (s.dev.okCmd slot s.dev.ledRec.epoch)) := by
  refine (exec_ledgerQuery ..).trans <| State.run_onCmd hrun ?_
  simp only [hop]

variable (hrecord : (s.dev.stepRec (c.par 4 4)).isSome = true)
include hrecord

theorem exec_ledgerQuery_of_gradDigest (hop : c.par 0 1 = 2) :
    exec (.ledgerQuery slot) s = .next (s.after (s.dev.okCmd slot (s.dev.recField (c.par 4 4) 0x78 8))) := by
  refine (exec_ledgerQuery ..).trans <| State.run_onCmd hrun ?_
  simp only [hop]
  exact if_neg (mt Option.isNone_iff_eq_none.1 (Option.isSome_iff_ne_none.1 hrecord))

theorem exec_ledgerQuery_of_bankDigest (hop : c.par 0 1 = 3) :
    exec (.ledgerQuery slot) s = .next (s.after (s.dev.okCmd slot (s.dev.recField (c.par 4 4) 0x80 8))) := by
  refine (exec_ledgerQuery ..).trans <| State.run_onCmd hrun ?_
  simp only [hop]
  exact if_neg (mt Option.isNone_iff_eq_none.1 (Option.isSome_iff_ne_none.1 hrecord))

end Query

/-! ### The vote (R454–R457; 15 R417) -/

section Vote
variable (hrun : s.dev.LedgerRuns slot 0 c) (hopen : s.dev.ledRec.state = lsOpen)
include hrun hopen

/-- The commit of a member of its group waits for its vote to be cast. -/
theorem exec_ledgerVote_of_member {g : Group} (hnew : c.aux = []) (hgroup : s.dev.group? (c.par 1 1) = some g)
    (hmember : (g.rings.headD []).contains s.dev.myId = true) :
    exec (.ledgerVote slot) s = .next (s.after (s.dev.updCmd slot fun c => { c with aux := [1] })) := by
  refine (exec_ledgerVote ..).trans <| State.run_onLedger hrun <| (if_neg (by simp [hnew])).trans <|
    (if_neg (not_not_intro hopen)).trans ?_
  simp only [hgroup, hmember]
  rfl

theorem exec_voteCast_of_decided {late : Bool} {v : Nat} (hwaits : c.aux = [1]) (hidle : s.dev.trainBusy c.ctx = false)
    (hvote : s.dev.ownVote late = some v) :
    exec (.voteCast slot late) s = .next (s.after
      ((s.dev.updCmd slot fun c => { c with aux := [2] }).voteCast (some slot) (c.par 1 1) v)) := by
  refine (exec_voteCast ..).trans <| State.run_onLedger hrun <| (if_neg (by simp [hwaits, hidle])).trans <|
    (if_neg (not_not_intro hopen)).trans ?_
  simp only [hvote]

end Vote

end Ledger

section VotePacket
variable {s : State} {k : FabPkt} (hclocks : s.dev.fabClocks = true)
  (holdest : (s.dev.fab.inbox.find? fun k => k.typ == ptVote) = some k)
include hclocks holdest

theorem exec_vote_of_match {b : Ballot} {g : Group} {k' : FabPkt} {d : Dev} (hmatch : s.dev.voteMatch k = some (b, g))
    (hnext : s.dev.nextIn ptVote = some (k', d)) : exec .vote s = .next (s.after (d.voteTake b g k').voteCheck) := by
  refine (exec_vote ..).trans <| State.run_of_effect <| (if_neg (by simp [hclocks])).trans ?_
  simp only [holdest, hmatch, hnext]

/-- A vote before its commit is kept in the early buffer. -/
theorem exec_vote_of_early (hmatch : s.dev.voteMatch k = none) :
    exec .vote s = .next (s.after ((s.dev.heldEarly k).tracePkt (min k.port 255) k)) := by
  refine (exec_vote ..).trans <| State.run_of_effect <| (if_neg (by simp [hclocks])).trans ?_
  simp only [holdest, hmatch]
  rfl

end VotePacket

theorem exec_commitTimeout_of_ballot {s : State} {b : Ballot} {g : Group} (hballot : s.dev.ballotGroup = some (b, g)) :
    exec .commitTimeout s = .next (s.after (s.dev.voteDecide b g)) := by
  refine (exec_commitTimeout ..).trans <| State.run_of_effect ?_
  simp only [hballot]

/-! ### ADOPT and REVERT (R459, R461) -/

/-- A REVERT takes the device back to the step before: the rooms, the record, the step record, the event, the checkpoint. -/
def Dev.ledReverted (d : Dev) (slot : Nat) : Dev :=
  let r := d.ledRec
  let step := (r.step + 2 ^ 32 - 1) % 2 ^ 32
  let d := d.innRevert.ledWrite fun r => { r with
    epoch := (r.epoch + 2 ^ 64 - 1) % 2 ^ 64, step := step, cur := 1 - r.cur, scaleE := r.prevE, clean := r.prevClean, last := voAbort
    aborts := satAdd 32 r.aborts 1, retain := false, revertible := false }
  ((d.recWrite step [(4, leBytes 1 voAbort)]).ledEvent voAbort none).wayRevert slot r.step

section Adopt
variable {s : State} {slot : Nat} {c : Cmd}

section
variable (hrun : s.dev.LedgerRuns slot 2 c) (hready : s.dev.ledRec.state = lsReady) (haborted : s.dev.ledRec.last = voAbort)
  (hretain : s.dev.ledRec.retain = true) (hepoch : c.par 8 8 = s.dev.ledRec.epoch) (hstep : c.par 4 4 = s.dev.ledRec.step)
include hrun hready haborted hretain hepoch hstep

theorem exec_ledgerAdopt_of_commit (hop : c.par 1 1 = voCommit) (hupdated : s.dev.recHas s.dev.ledRec.step 1 = true) :
    let d := s.dev.ledOutcome voCommit none
    exec (.ledgerAdopt slot) s = .next (s.after (d.okCmd slot (d.ledRec.step + voCommit * 2 ^ 32 + 0xFFFF * 2 ^ 48))) := by
  refine (exec_ledgerAdopt ..).trans <| State.run_onLedger hrun <|
    (if_neg (by simp [hready, haborted, hretain, hepoch, hstep, hop, hupdated, voCommit])).trans ?_
  simp only [hop, if_true]

theorem exec_ledgerAdopt_of_skip (hop : c.par 1 1 = voSkip) :
    let d := s.dev.ledOutcome voSkip none
    exec (.ledgerAdopt slot) s = .next (s.after (d.endCmd slot 0x01 0x1140 (d.ledRec.step + voSkip * 2 ^ 32 + 0xFFFF * 2 ^ 48))) := by
  refine (exec_ledgerAdopt ..).trans <| State.run_onLedger hrun <|
    (if_neg (by simp [hready, haborted, hretain, hepoch, hstep, hop, voCommit, voSkip])).trans ?_
  simp only [hop]
  rfl

end

theorem exec_ledgerRevert_of_revertible (hrun : s.dev.LedgerRuns slot 4 c) (hready : s.dev.ledRec.state = lsReady)
    (hcommitted : s.dev.ledRec.last = voCommit) (hkept : s.dev.ledRec.revertible = true) (hepoch : c.par 8 8 = s.dev.ledRec.epoch)
    (hstep : c.par 4 4 = s.dev.ledRec.step) :
    exec (.ledgerRevert slot) s = .next (s.after
      ((s.dev.ledReverted slot).okCmd slot ((s.dev.ledRec.step + 2 ^ 32 - 1) % 2 ^ 32))) :=
  (exec_ledgerRevert ..).trans <| State.run_onLedger hrun <| if_neg (by simp [hready, hcommitted, hkept, hepoch, hstep])

end Adopt

/-- Settles O44, row by row. -/
theorem ledgerCommandsComplete : Obligations.LedgerCommandsComplete := by
  refine ⟨?opened, ?close, ?scale, ?query, ?vote, ?packet, ?timeout, ?adopt, ?revert⟩
  case opened => exact fun _ _ _ hrun hop hfree => (exec_ledgerOpen_of_free hrun hop hfree :)
  case close => exact fun _ _ _ hrun hready => (exec_ledgerClose_of_ready hrun hready :)
  case scale => exact fun _ _ _ hrun howner => exec_scaleSet_of_owner hrun howner
  case query =>
    exact fun _ _ _ hrun => ⟨fun hop => (exec_ledgerQuery_of_status hrun hop :), exec_ledgerQuery_of_epoch hrun,
      fun hop hrecord => exec_ledgerQuery_of_gradDigest hrun hrecord hop,
      fun hop hrecord => exec_ledgerQuery_of_bankDigest hrun hrecord hop⟩
  case vote =>
    exact fun _ _ _ hrun hopen => ⟨fun _ hnew hgroup hmember => exec_ledgerVote_of_member hrun hopen hnew hgroup hmember,
      fun _ _ hwaits hidle hvote => exec_voteCast_of_decided hrun hopen hwaits hidle hvote⟩
  case packet =>
    exact fun _ _ hclocks holdest => ⟨fun _ _ _ _ hmatch hnext => exec_vote_of_match hclocks holdest hmatch hnext,
      fun hmatch => (exec_vote_of_early hclocks holdest hmatch :)⟩
  case timeout => exact fun _ _ _ hballot => exec_commitTimeout_of_ballot hballot
  case adopt =>
    exact fun _ _ _ hrun hready haborted hretain hepoch hstep =>
      ⟨exec_ledgerAdopt_of_commit hrun hready haborted hretain hepoch hstep,
        exec_ledgerAdopt_of_skip hrun hready haborted hretain hepoch hstep⟩
  case revert =>
    exact fun _ _ _ hrun hready hcommitted hkept hepoch hstep =>
      (exec_ledgerRevert_of_revertible hrun hready hcommitted hkept hepoch hstep :)

end Sys2Proof.Machine
end

