-- ==== Sys2Proof/Proofs/ServingBatches.lean ====
section
/-!
PROOFS. Serving (18 R481–R489, R494). That a frame held in a gap counts as in flight for RESULT_RING_SET, the order of the gap policy and
where a batch is placed are the model's choices (notes/assumptions/29.md).
-/
namespace Sys2Proof.Machine

/-! ### The meaning of each row -/

theorem exec_srvRegisterWrite (ctx off : Nat) (value : QWord) (s : State) :
    exec (.srvRegisterWrite ctx off value) s = execSrvRegisterWrite ctx off value s := by rfl

theorem exec_srvRingHeadWrite (ctx : Nat) (value : Word) (s : State) :
    exec (.srvRingHeadWrite ctx value) s = execSrvRingHeadWrite ctx value s := by rfl

theorem exec_resultRingSet (slot : Nat) (s : State) : exec (.resultRingSet slot) s = execResultRingSet slot s := by rfl

theorem exec_sampleBatch (slot : Nat) (s : State) : exec (.sampleBatch slot) s = execSampleBatch slot s := by rfl

theorem exec_gapTimeout (ctx guest : Nat) (s : State) : exec (.gapTimeout ctx guest) s = execGapTimeout ctx guest s := by rfl

theorem exec_batchWindowExpiry (ctx : Nat) (s : State) : exec (.batchWindowExpiry ctx) s = execBatchWindowExpiry ctx s := by rfl

theorem exec_reservePeriod (s : State) : exec .reservePeriod s = execReservePeriod s := by rfl

theorem exec_batchRun (tag : Nat) (s : State) : exec (.batchRun tag) s = execBatchRun tag s := by rfl

/-! ### The serving registers and the result ring (R481, R490, R491) -/

section Registers
variable {s : State} {ctx : Nat} (hserved : s.dev.hostRegsServed = true)
include hserved

theorem exec_srvRegisterWrite_of_served (off : Nat) (v : QWord) :
    exec (.srvRegisterWrite ctx off v) s = .next (s.after (s.dev.srvRegWrite ctx off v.toNat)) :=
  (exec_srvRegisterWrite ..).trans <| State.run_of_effect <| if_pos hserved

theorem exec_srvRingHeadWrite_of_served (v : Word) :
    exec (.srvRingHeadWrite ctx v) s = .next (s.after ((s.dev.wr (Reg.SRV_RING_HEAD.HEAD ctx) v.toNat).srvClose ctx)) :=
  (exec_srvRingHeadWrite ..).trans <| State.run_of_effect <| if_pos hserved

end Registers

/-- A context's result ring is the one that RESULT_RING_SET gives, empty, in its first phase. -/
def Dev.ringSet (d : Dev) (c : Cmd) : Dev :=
  let r : SrvRing := ⟨c.par 0 8, c.par 8 8, c.par 0x10 1, c.par 0x11 1, c.par 0x12 2⟩
  let d : Dev := { d with srv := { d.srv with rings := kvPut c.ctx r d.srv.rings } }
  ((d.wr (Reg.SRV_RING_HEAD.HEAD c.ctx) 0).wr (Reg.SRV_RING_TAIL.TAIL c.ctx) 0).wr (Reg.SRV_RING_TAIL.PHASE c.ctx) 1

theorem exec_resultRingSet_of_idle {s : State} {slot : Nat} {c : Cmd} (hrun : s.dev.CmdRuns slot 0x0104 c)
    (hidle : s.dev.srvFrames c.ctx = []) : exec (.resultRingSet slot) s = .next (s.after ((s.dev.ringSet c).okCmd slot)) :=
  (exec_resultRingSet ..).trans <| State.run_onCmd hrun <| if_neg (by simp [hidle])

/-! ### SAMPLE_BATCH (R483) -/

/-- A context keeps the serving list `l`. -/
def Dev.listKept (d : Dev) (ctx : Nat) (l : SrvList) : Dev := { d with srv := { d.srv with lists := kvPut ctx l d.srv.lists } }

/-- A context has its serving list: it had one, or its registers' list has been read and passes its checks. -/
def Dev.ListTaken (d : Dev) (ctx k : Nat) (r : SrvRing) (d' : Dev) : Prop :=
  (kvGet ctx d.srv.lists).isSome = true ∧ d' = d
    ∨ ∃ (e : Dev) (l : SrvList), (kvGet ctx d.srv.lists).isSome = false
      ∧ d.srvSnap ctx (d.rd (Reg.SRV_LIST.ADDR ctx)) (d.rd (Reg.SRV_LIST_INFO.COUNT ctx)) k r.size = (e, .ok l) ∧ d' = e.listKept ctx l

/-- The open batches of a context close as soon as they may. -/
def Dev.batchesFlushed (d : Dev) (ctx : Nat) : Dev :=
  ({ d with srv := { d.srv with batches := d.srv.batches.map fun b =>
    if b.ctx = ctx ∧ b.layout.isNone then { b with flush := true } else b } } : Dev).srvClose ctx

/-- A frame table is ingested; with FLUSH the context's open batches close. -/
def Dev.tableIngested (d : Dev) (slot : Nat) (c : Cmd) (t : List Byte) : Dev :=
  let e := (d.updCmd slot fun c => { c with aux := 0 :: c.aux.drop 1 }).ingestAll slot (chunksOf 32 t)
  if bitAt (c.par 0x0C 1) 0 then e.batchesFlushed c.ctx else e

theorem exec_sampleBatch_of_first {s : State} {slot k : Nat} {c : Cmd} {r : SrvRing} {d d' : Dev} {t : List Byte}
    (hrun : s.dev.CmdRuns slot 0x0410 c) (hown : c.ofBatch = false) (hnew : c.aux.headD 0 = 0)
    (hclass : s.dev.defaultClass c.ctx = some k) (hring : kvGet c.ctx s.dev.srv.rings = some r)
    (hlist : s.dev.ListTaken c.ctx k r d) (hread : d.read byCp c.ctx (c.par 0 8) (32 * c.par 8 4) = ⟨d', .ok t⟩) :
    exec (.sampleBatch slot) s = .next (s.after
      (((d'.tableIngested slot c t).updCmd slot fun c => { c with aux := 1 :: c.aux.drop 1 }).sampleDone slot)) := by
  refine (exec_sampleBatch ..).trans <| State.run_onCmd hrun <| (if_neg (Bool.eq_false_iff.1 hown)).trans ?_
  simp only [hrun.stop, hnew, hclass, hring]
  obtain ⟨hhad, rfl⟩ | ⟨e, l, hnone, hsnap, rfl⟩ := hlist
  · simp only [hhad, if_true, hread]
    rfl
  · unfold Dev.listKept at hread
    simp only [hnone, Bool.false_eq_true, if_false, hsnap, hread]
    rfl

/-! ### Timers (R485, R487, R494) -/

theorem exec_gapTimeout_of_gap {s : State} {ctx guest : Nat} (hlive : s.dev.live = true)
    (hgap : s.dev.srvGap ctx guest (s.dev.srvGuest ctx guest) ≠ none) :
    exec (.gapTimeout ctx guest) s = .next (s.after ((s.dev.gapPolicy ctx guest).srvNext ctx guest)) :=
  (exec_gapTimeout ..).trans <| State.run_of_effect <| if_pos (by rw [hlive, Option.isSome_iff_ne_none.2 hgap, Bool.and_true])

theorem exec_batchWindowExpiry_of_open {s : State} {ctx : Nat} {b : Batch} (hlive : s.dev.live = true)
    (holdest : (s.dev.srv.batches.find? fun b => b.ctx == ctx && b.layout.isNone && !b.due) = some b) :
    exec (.batchWindowExpiry ctx) s = .next (s.after ((s.dev.updBatch b.tag fun b => { b with due := true }).srvClose ctx)) := by
  refine (exec_batchWindowExpiry ..).trans <| State.run_of_effect <| (if_neg (by simp [hlive])).trans ?_
  simp only [holdest]

/-! ### BATCH_RUN (R488) -/

/-- What follows the step that a batch's descriptors have done. -/
def Dev.batchNext (d : Dev) (b : Batch) (l : SrvList) (r : SrvRing) : Dev :=
  match b.step with
  | 1 => d.batchList b l
  | 2 => d.batchCheckOut b l r
  | _ => d.batchPublished b l

section BatchSteps
variable {d : Dev} {b : Batch} {l : SrvList} {r : SrvRing}

theorem Dev.batchNext_of_checkedIn (hstep : b.step = 1) : d.batchNext b l r = d.batchList b l := by simp only [Dev.batchNext, hstep]

theorem Dev.batchNext_of_listed (hstep : b.step = 2) : d.batchNext b l r = d.batchCheckOut b l r := by simp only [Dev.batchNext, hstep]

theorem Dev.batchNext_of_checkedOut (hstep : b.step = 3) : d.batchNext b l r = d.batchPublished b l := by
  simp only [Dev.batchNext, hstep]

end BatchSteps

section BatchRun
variable {s : State} {tag : Nat} {b : Batch} {l : SrvList} {r : SrvRing}
  (hbatch : (s.dev.srv.batches.find? fun b => b.tag == tag) = some b) (hlayout : b.layout = some l)
  (hring : kvGet b.ctx s.dev.srv.rings = some r) (hlive : s.dev.live = true)
include hbatch hlayout hring hlive

theorem exec_batchRun_of_placed {core half : Nat} (hstep : b.step = 0) (hplace : s.dev.placeBatch b l = some (core, half)) :
    exec (.batchRun tag) s = .next (s.after (s.dev.batchBegin b l core half)) := by
  refine (exec_batchRun ..).trans <| State.run_of_effect ?_
  simp only [hbatch, hlayout, hring]
  refine (if_neg (by simp [hlive])).trans <| (if_pos hstep).trans ?_
  simp only [hplace]

theorem exec_batchRun_of_results (hstep : b.step = 4) :
    exec (.batchRun tag) s = .next (s.after (s.dev.batchWrite b l r)) := by
  refine (exec_batchRun ..).trans <| State.run_of_effect ?_
  simp only [hbatch, hlayout, hring]
  exact (if_neg (by simp [hlive])).trans <| (if_neg (by simp [hstep])).trans (if_pos hstep)

/-- A batch whose descriptors have all run goes on with its next step. -/
theorem exec_batchRun_of_idle {c : Cmd} (hcmd : s.dev.cmd? tag = some c) (hphase : c.phase = .running) (hstop : c.stop = none)
    (htodo : c.todo = []) (hlists : s.dev.cmdTds tag = []) (hbegun : b.step ≠ 0) (hruns : b.step ≠ 4) :
    exec (.batchRun tag) s = .next (s.after (s.dev.batchNext b l r)) := by
  refine (exec_batchRun ..).trans <| State.run_of_effect ?_
  simp only [hbatch, hlayout, hring]
  refine (if_neg (by simp [hlive])).trans <| (if_neg hbegun).trans <| (if_neg hruns).trans ?_
  simp only [hcmd]
  exact (if_neg (by rw [hphase]; decide)).trans (if_neg (by simp [hstop, htodo, hlists]))

end BatchRun

/-- Settles O41, row by row. -/
theorem servingCommandsComplete : Obligations.ServingCommandsComplete := by
  refine ⟨?register, ?head, ?ring, ?sample, ?gap, ?window, ?period, ?run⟩
  case register => exact fun _ _ off v hserved => exec_srvRegisterWrite_of_served hserved off v
  case head => exact fun _ _ v hserved => exec_srvRingHeadWrite_of_served hserved v
  case ring => exact fun _ _ _ hrun hidle => (exec_resultRingSet_of_idle hrun hidle :)
  case sample =>
    exact fun _ _ _ _ _ _ _ _ hrun hown hnew hclass hring hlist hread =>
      (exec_sampleBatch_of_first hrun hown hnew hclass hring hlist hread :)
  case gap => exact fun _ _ _ hlive hgap => exec_gapTimeout_of_gap hlive hgap
  case window => exact fun _ _ _ hlive holdest => exec_batchWindowExpiry_of_open hlive holdest
  case period => exact exec_reservePeriod
  case run =>
    intro s tag b l r hbatch hlayout hring hlive
    refine ⟨fun _ _ hstep hplace => exec_batchRun_of_placed hbatch hlayout hring hlive hstep hplace,
      exec_batchRun_of_results hbatch hlayout hring hlive, fun c hcmd hphase hstop htodo hlists => ?_⟩
    have hnext (hbegun : b.step ≠ 0) (hruns : b.step ≠ 4) :=
      exec_batchRun_of_idle hbatch hlayout hring hlive hcmd hphase hstop htodo hlists hbegun hruns
    exact ⟨fun hstep => by rw [hnext (by omega) (by omega), Dev.batchNext_of_checkedIn hstep],
      fun hstep => by rw [hnext (by omega) (by omega), Dev.batchNext_of_listed hstep],
      fun hstep => by rw [hnext (by omega) (by omega), Dev.batchNext_of_checkedOut hstep]⟩

end Sys2Proof.Machine
end

