-- ==== Sys2Proof/Proofs/ResetsFirmware.lean ====
section
/-!
PROOFS. Resets, the event ring, the trace unit and the firmware commands (chapter 20; 22 R579–R582; 23 R601). SUB and SEQ of the record
that CP_WATCHDOG leaves are free values, and an FLR resets its registers as it ends (the model's choices, notes/assumptions/32.md); so does
the read-back of a boot configuration without a valid copy give the defaults (33.md).
-/
namespace Sys2Proof.Machine

/-! ### The meaning of each row -/

theorem exec_rstWarm (s : State) : exec .rstWarm s = execRstWarm s := by rfl

theorem exec_rstCold (s : State) : exec .rstCold s = execRstCold s := by rfl

theorem exec_rstCore (target : Nat) (s : State) : exec (.rstCore target) s = execRstCore target s := by rfl

theorem exec_rstContext (target : Nat) (s : State) : exec (.rstContext target) s = execRstContext target s := by rfl

theorem exec_flr (s : State) : exec .flr s = execFlr s := by rfl

theorem exec_perst (s : State) : exec .perst s = execPerst s := by rfl

theorem exec_cpWatchdog (s : State) : exec .cpWatchdog s = execCpWatchdog s := by rfl

theorem exec_coreResetForceStop (core : Nat) (s : State) : exec (.coreResetForceStop core) s = execCoreResetForceStop core s := by rfl

theorem exec_resetComplete (kind target : Nat) (fails : List Nat) (s : State) :
    exec (.resetComplete kind target fails) s = execResetComplete kind target fails s := by rfl
theorem exec_eventRingSet (slot : Nat) (s : State) : exec (.eventRingSet slot) s = execEventRingSet slot s := by rfl

theorem exec_errEvtHeadWrite (value : Word) (s : State) : exec (.errEvtHeadWrite value) s = execErrEvtHeadWrite value s := by rfl

theorem exec_traceCtl (slot : Nat) (s : State) : exec (.traceCtl slot) s = execTraceCtl slot s := by rfl

theorem exec_fwStage (slot : Nat) (ok : Bool) (s : State) : exec (.fwStage slot ok) s = execFwStage slot ok s := by rfl

theorem exec_fwActivate (slot : Nat) (s : State) : exec (.fwActivate slot) s = execFwActivate slot s := by rfl

theorem exec_bootCfgWrite (slot : Nat) (s : State) : exec (.bootCfgWrite slot) s = execBootCfgWrite slot s := by rfl

/-! ### Requests (20 R526, R527, R541, R546) -/

/-- The reset that a request starts. -/
def Dev.resetStart (d : Dev) (kind : ResetKind) (target cause : Nat) : Dev :=
  match kind with
  | .cold => d.coldReset cause
  | .warm => d.warmReset cause
  | .flr => d.flrStart
  | .core => d.coreStart target
  | .context => d.contextStart target

/-- A request that the device takes and no running reset covers starts its reset. -/
theorem Dev.resetRequest_starts {d : Dev} {kind : ResetKind} {target : Nat} (htrip : d.board.tripped = false)
    (hboot : d.board.bootFailed = false ∨ kind = .warm) (hnew : d.resetCovered kind target = false) (cause : Nat) :
    d.resetRequest kind target cause = d.resetStart kind target cause := by
  refine (if_neg ?_).trans (if_neg (Bool.eq_false_iff.1 hnew))
  rcases hboot with hboot | rfl
  · simp [htrip, hboot]
  · simp [htrip]

/-- A device that answers the host has neither tripped nor failed its boot. -/
theorem Dev.hostAnswers_iff (d : Dev) :
    d.hostAnswers = true ↔ d.board.tripped = false ∧ d.board.bootFailed = false ∧ d.board.coldHeld = false := by
  simp [Dev.hostAnswers, and_assoc]

section Requests
variable {s : State} (hanswers : s.dev.hostAnswers = true)
include hanswers

/-- A request of the host that no running reset covers starts its reset. -/
theorem hostRequest_starts {kind : ResetKind} {target : Nat} (hnew : s.dev.resetCovered kind target = false) (cause : Nat) :
    s.dev.resetRequest kind target cause = s.dev.resetStart kind target cause := by
  obtain ⟨htrip, hboot, -⟩ := s.dev.hostAnswers_iff.1 hanswers
  exact Dev.resetRequest_starts htrip (.inl hboot) hnew cause

theorem exec_rstWarm_of_new (hnew : s.dev.resetCovered .warm 0 = false) :
    exec .rstWarm s = .next (s.after (s.dev.warmReset 2)) :=
  (exec_rstWarm ..).trans <| State.run_of_effect <| (if_pos hanswers).trans (hostRequest_starts hanswers hnew 2)

theorem exec_rstCold_of_new (hnew : s.dev.resetCovered .cold 0 = false) :
    exec .rstCold s = .next (s.after (s.dev.coldReset 2)) :=
  (exec_rstCold ..).trans <| State.run_of_effect <| (if_pos hanswers).trans (hostRequest_starts hanswers hnew 2)

omit hanswers in
/-- KIND 3 of RST_CTL with its key requests the reset of a core that the device has. -/
theorem Dev.rstCtlWrite_core (d : Dev) {core : Nat} (hcore : core < 2) :
    d.rstCtlWrite (0x52A70003 + 16 * core) = d.resetRequest .core core 2 := by
  have hkind : bits (0x52A70003 + 16 * core) 0 3 = 3 := by unfold bits; omega
  have htarget : bits (0x52A70003 + 16 * core) 4 4 = core := by unfold bits; omega
  have hkey : bits (0x52A70003 + 16 * core) 16 16 = 0x52A7 := by unfold bits; omega
  refine (if_neg (not_not_intro hkey)).trans ?_
  simp only [hkind, htarget]
  exact if_neg (by omega)

omit hanswers in
/-- KIND 4 of RST_CTL with its key requests the reset of a context. -/
theorem Dev.rstCtlWrite_context (d : Dev) {ctx : Nat} (hctx : ctx < 16) :
    d.rstCtlWrite (0x52A70004 + 16 * ctx) = d.resetRequest .context ctx 2 := by
  have hkind : bits (0x52A70004 + 16 * ctx) 0 3 = 4 := by unfold bits; omega
  have htarget : bits (0x52A70004 + 16 * ctx) 4 4 = ctx := by unfold bits; omega
  have hkey : bits (0x52A70004 + 16 * ctx) 16 16 = 0x52A7 := by unfold bits; omega
  refine (if_neg (not_not_intro hkey)).trans ?_
  simp only [hkind, htarget]

theorem exec_rstCore_of_new {core : Nat} (hcore : core < 2) (hnew : s.dev.resetCovered .core core = false) :
    exec (.rstCore core) s = .next (s.after (s.dev.coreStart core)) :=
  (exec_rstCore ..).trans <| State.run_of_effect <| (if_pos hanswers).trans <| (s.dev.rstCtlWrite_core hcore).trans
    (hostRequest_starts hanswers hnew 2)

theorem exec_rstContext_of_new {ctx : Nat} (hctx : ctx < 16) (hnew : s.dev.resetCovered .context ctx = false) :
    exec (.rstContext ctx) s = .next (s.after (s.dev.contextStart ctx)) :=
  (exec_rstContext ..).trans <| State.run_of_effect <| (if_pos hanswers).trans <| (s.dev.rstCtlWrite_context hctx).trans
    (hostRequest_starts hanswers hnew 2)

theorem exec_flr_of_new (hlink : s.dev.pci.link ≠ .down) (hnew : s.dev.resetCovered .flr 0 = false) :
    exec .flr s = .next (s.after s.dev.flrStart) :=
  (exec_flr ..).trans <| State.run_of_effect <| (if_neg (by simpa using hlink)).trans (hostRequest_starts hanswers hnew 0)

end Requests

/-! ### PERST and the watchdog (R526) -/

section Causes
variable {s : State} (htrip : s.dev.board.tripped = false) (hcold : s.dev.coldRuns = false)
include htrip hcold

section Perst
variable (hpins : s.dev.dbg.pinsTaken = false)
include hpins

/-- A running device whose pins the TAP leaves alone sees PERST. -/
theorem perst_seen : ¬ (s.dev.board.tripped || s.dev.coldRuns || s.dev.dbg.pinsTaken) = true := by simp [htrip, hcold, hpins]

theorem exec_perst_of_warm (hkind : fieldAt s.dev.dlDown.cfgLatched 0x18 1 = 1) :
    exec .perst s = .next (s.after (s.dev.dlDown.resetRequest .warm 0 7)) :=
  (exec_perst ..).trans <| State.run_of_effect <| (if_neg (perst_seen htrip hcold hpins)).trans (if_pos hkind)

theorem exec_perst_of_flr (hkind : fieldAt s.dev.dlDown.cfgLatched 0x18 1 ≠ 1) :
    exec .perst s = .next (s.after (s.dev.dlDown.resetRequest .flr 0 0)) :=
  (exec_perst ..).trans <| State.run_of_effect <| (if_neg (perst_seen htrip hcold hpins)).trans (if_neg hkind)

end Perst

theorem exec_cpWatchdog_of_running (hboot : s.dev.board.bootFailed = false) :
    exec .cpWatchdog s = .next (s.after
      ((((s.dev.occur clsFatal).fatal 0 (bits s.dev.freeVal 16 8) (bits s.dev.freeVal 24 32)).freeNext).resetRequest .warm 0 4)) :=
  (exec_cpWatchdog ..).trans <| State.run_of_effect <| if_neg (by simp [htrip, hcold, hboot])

end Causes

/-! ### How resets end (R530–R532, R540) -/

section CoreEnd
variable {s : State} {core : Nat} (hreset : s.dev.coreResets core = true) (hclocks : s.dev.coreClocks = true)
include hreset hclocks

theorem exec_coreResetForceStop_of_reset :
    exec (.coreResetForceStop core) s = .next (s.after (s.dev.forEach (s.dev.onCore core) fun c d => d.forceStop c)) :=
  (exec_coreResetForceStop ..).trans <| State.run_of_effect <| if_pos (by simp [hreset, hclocks])

theorem exec_resetComplete_of_core (fails : List Nat) (hcmds : s.dev.onCore core = [])
    (htds : (s.dev.seq.tds.any fun t => t.core == core) = false) :
    exec (.resetComplete 1 core fails) s = .next (s.after (s.dev.coreClose core fails)) := by
  refine (exec_resetComplete ..).trans <| State.run_of_effect <| if_neg ?_
  rw [hreset, hclocks, hcmds, htds]
  decide

end CoreEnd

theorem exec_resetComplete_of_flr {s : State} (fails : List Nat) (hflr : s.dev.boot.flr = true)
    (hcmds : (s.dev.cp0.cmds.any fun c => c.phase != .ended) = false) :
    exec (.resetComplete 0 0 fails) s = .next (s.after s.dev.flrClose.activateNow) := by
  refine (exec_resetComplete ..).trans <| State.run_of_effect <| congrArg Dev.activateNow <| if_neg ?_
  rw [hflr, hcmds]
  decide

theorem exec_resetComplete_of_context {s : State} {ctx : Nat} (fails : List Nat)
    (hreset : bitAt (s.dev.rd Reg.RST_BUSY.CONTEXT) ctx = true) (hclocks : s.dev.coreClocks = true)
    (hcmds : (s.dev.cp0.cmds.any fun c => c.ctx == ctx && !(c.ofBatch && c.phase == .ended)) = false) :
    exec (.resetComplete 2 ctx fails) s = .next (s.after (s.dev.contextClose ctx)) := by
  refine (exec_resetComplete ..).trans <| State.run_of_effect <| if_neg ?_
  rw [hreset, hclocks, hcmds]
  decide

/-- Settles O51, row by row. -/
theorem resetsComplete : Obligations.ResetsComplete := by
  refine ⟨?request, ?cause, ?core, ?flr, ?context⟩
  case request =>
    exact fun _ hanswers => ⟨exec_rstWarm_of_new hanswers, exec_rstCold_of_new hanswers,
      fun _ hcore hnew => exec_rstCore_of_new hanswers hcore hnew, fun _ hctx hnew => exec_rstContext_of_new hanswers hctx hnew,
      exec_flr_of_new hanswers⟩
  case cause =>
    refine fun _ htrip hcold => ⟨?_, exec_cpWatchdog_of_running htrip hcold⟩
    rintro _ hpins rfl
    exact ⟨exec_perst_of_warm htrip hcold hpins, exec_perst_of_flr htrip hcold hpins⟩
  case core =>
    exact fun _ _ hreset hclocks => ⟨exec_coreResetForceStop_of_reset hreset hclocks,
      fun fails hcmds htds => exec_resetComplete_of_core hreset hclocks fails hcmds htds⟩
  case flr => exact fun _ fails hflr hcmds => exec_resetComplete_of_flr fails hflr hcmds
  case context => exact fun _ _ fails hreset hclocks hcmds => exec_resetComplete_of_context fails hreset hclocks hcmds

/-! ### The event ring (22 R579, R581) -/

/-- The event ring's registers take its place and size, and the ring is empty, in its first phase. -/
def Dev.evtRingRegs (d : Dev) (c : Cmd) : Dev :=
  (((((d.wr Reg.ERR_EVT_BASE.BASE (c.par 0 8 / 4096)).wr Reg.ERR_EVT_CFG.LOG2 (c.par 8 1)).wr Reg.ERR_EVT_CFG.EN 1).wr
    Reg.ERR_EVT_HEAD.HEAD 0).wr Reg.ERR_EVT_TAIL.TAIL 0).wr Reg.ERR_EVT_TAIL.PHASE 1

/-- The event ring is set; a ring in host memory has its host address latched. -/
def Dev.evtRingSet (d : Dev) (c : Cmd) : Dev :=
  let r := c.par 0 8
  let host := d.region r == .host
  let e := d.evtRingRegs c
  { e with evt := { e.evt with ringHost := host, ringAddr := if host then e.hostAddr c.ctx r else r } }

section EventRing
variable {s : State} {slot : Nat} {c : Cmd} (hrun : s.dev.CmdRuns slot 0x0105 c)
include hrun

theorem exec_eventRingSet_of_close (hop : c.par 9 1 = 1) :
    exec (.eventRingSet slot) s = .next (s.after ((s.dev.wr Reg.ERR_EVT_CFG.EN 0).okCmd slot)) :=
  (exec_eventRingSet ..).trans <| State.run_onCmd hrun (if_pos hop)

theorem exec_eventRingSet_of_set (hop : c.par 9 1 = 0) :
    exec (.eventRingSet slot) s = .next (s.after ((s.dev.evtRingSet c).okCmd slot)) :=
  (exec_eventRingSet ..).trans <| State.run_onCmd hrun (if_neg (by simp [hop]))

end EventRing

theorem exec_errEvtHeadWrite_of_running {s : State} (v : Word) (htrip : s.dev.board.tripped = false) :
    exec (.errEvtHeadWrite v) s = .next (s.after (s.dev.wr Reg.ERR_EVT_HEAD.HEAD (bits v.toNat 0 16))) :=
  (exec_errEvtHeadWrite ..).trans <| State.run_of_effect (if_neg (Bool.eq_false_iff.1 htrip))

/-! ### TRACE_CTL (23 R601) -/

section Trace
variable {s : State} {slot : Nat} {c : Cmd} (hrun : s.dev.CmdRuns slot 0x0804 c)
include hrun

section Control
variable (howner : s.dev.rd Reg.DBG_STATUS.OWNER ≠ 2)
include howner

theorem exec_traceCtl_of_stop (hop : c.par 0 1 = 0) :
    exec (.traceCtl slot) s = .next (s.after (s.dev.traceStop.okCmd slot)) := by
  refine (exec_traceCtl ..).trans <| State.run_onCmd hrun ?_
  simp [hop, howner]

theorem exec_traceCtl_of_start (hop : c.par 0 1 = 1) (hpower : s.dev.unitBlocked [domDebug] 0x1703 = none) :
    exec (.traceCtl slot) s =
      .next (s.after ((s.dev.traceStart 1 (c.par 1 1) (c.par 3 1) (c.par 2 1 == 1)).okCmd slot)) := by
  refine (exec_traceCtl ..).trans <| State.run_onCmd hrun ?_
  simp [hop, howner, hpower]

theorem exec_traceCtl_of_clear (hop : c.par 0 1 = 2) :
    exec (.traceCtl slot) s = .next (s.after (s.dev.traceClear.okCmd slot)) := by
  refine (exec_traceCtl ..).trans <| State.run_onCmd hrun ?_
  simp [hop, howner]

end Control

theorem exec_traceCtl_of_dump {d : Dev} (hop : c.par 0 1 = 3) (hpower : s.dev.unitBlocked [domDebug] 0x1703 = none)
    (hwrite : s.dev.write byCp c.ctx (c.par 8 8) (s.dev.traceNewest (c.par 4 4)).flatten = ⟨d, none⟩) :
    exec (.traceCtl slot) s = .next (s.after (d.okCmd slot (s.dev.traceNewest (c.par 4 4)).length)) := by
  refine (exec_traceCtl ..).trans <| State.run_onCmd hrun ?_
  simp [hop, hpower, hwrite]

end Trace

/-! ### FW_STAGE, FW_ACTIVATE, BOOT_CFG_WRITE (20 R542, R543, R545) -/

section Firmware
variable {s : State} {slot : Nat} {c : Cmd}

/-- A FW_STAGE that has begun programs its next chunk; the last one completes it. -/
theorem exec_fwStage_of_chunk {ok : Bool} {c' : Cmd} {d : Dev} (hrun : s.dev.RoutineRuns slot 0x0A03 c) (hbegun : c.total ≠ 0)
    (hleft : c.done < c.total) (hchunk : s.dev.fwChunk c ok = (d, .ok c')) :
    exec (.fwStage slot ok) s = .next (s.after
      (if c.done + 1 = c.total then (d.chunkDone slot c c').okCmd slot (c'.par 8 4) else d.chunkDone slot c c')) := by
  refine (exec_fwStage ..).trans <| State.run_of_effect ?_
  rw [Dev.onRoutine_runs hrun, if_neg hbegun]
  simp only [hrun.found]
  exact Dev.longRun_chunk hrun hbegun hleft hchunk

/-- A slot that may be activated is selected, and with MODE 1 what runs is stopped. -/
def Dev.fwActivated (d : Dev) (slot : Nat) (c : Cmd) : Dev :=
  let d := d.fwSelect (c.par 0 1) (bitAt (c.par 2 1) 0) (c.par 1 1 == 1)
  if c.par 1 1 = 1 then d.fwStopAll (some slot) else d

theorem exec_fwActivate_of_runs (hrun : s.dev.CmdRuns slot 0x0A04 c) :
    exec (.fwActivate slot) s = .next (s.after
      (match s.dev.fwActivateFault (c.par 0 1) with
        | some (mj, dt) => s.dev.endCmd slot mj dt 0
        | none => (s.dev.fwActivated slot c).okCmd slot)) := by
  refine (exec_fwActivate ..).trans <| State.run_onCmd hrun ?_
  cases hfault : s.dev.fwActivateFault (c.par 0 1) with
  | some f => rfl
  | none => simp only [Dev.fwActivated, beq_iff_eq]

/-- The boot configuration record that stands in the flash, or the defaults. -/
def Dev.cfgRecord (d : Dev) : List Byte := d.cfgStored.getD d.cfgDefault

/-- The older copy of the boot configuration takes the record `b` with the HBM repairs of `old`, the next GEN and its CRC. -/
def Dev.cfgWritten (d : Dev) (old b : List Byte) : Dev :=
  let b := b.take 0x50 ++ (old.drop 0x50).take 0x60 ++ b.drop 0xB0
  let new := sealCopy 256 (bytesPut b [(0xB0, 4, fieldAt old 0xB0 4 + 1)])
  if writesA 256 0xB0 d.boot.cfgA d.boot.cfgB then { d with boot := { d.boot with cfgA := new } }
  else { d with boot := { d.boot with cfgB := new } }

variable {d : Dev} (hrun : s.dev.CmdRuns slot 0x0A05 c)
include hrun

theorem exec_bootCfgWrite_of_readBack (hop : c.par 8 1 = 1)
    (hwrite : s.dev.write byCp c.ctx (c.par 0 8) s.dev.cfgRecord = ⟨d, none⟩) :
    exec (.bootCfgWrite slot) s = .next (s.after (d.okCmd slot)) := by
  unfold Dev.cfgRecord at hwrite
  refine (exec_bootCfgWrite ..).trans <| State.run_onCmd hrun <| (if_pos hop).trans ?_
  simp only [hwrite]

theorem exec_bootCfgWrite_of_good {b : List Byte} (hop : c.par 8 1 = 0)
    (hread : s.dev.read byCp c.ctx (c.par 0 8) 256 = ⟨d, .ok b⟩) (hgood : d.cfgBad b = false) :
    exec (.bootCfgWrite slot) s = .next (s.after ((d.cfgWritten s.dev.cfgRecord b).okCmd slot)) := by
  refine (exec_bootCfgWrite ..).trans <| State.run_onCmd hrun <| (if_neg (by simp [hop])).trans ?_
  simp only [hread]
  exact if_neg (Bool.eq_false_iff.1 hgood)

end Firmware

/-- Settles O53, row by row. -/
theorem ringTraceFirmwareComplete : Obligations.RingTraceFirmwareComplete := by
  refine ⟨?ring, ?head, ?trace, ?stage, ?activate, ?config⟩
  case ring =>
    exact fun _ _ _ hrun => ⟨exec_eventRingSet_of_close hrun, fun hop => (exec_eventRingSet_of_set hrun hop :)⟩
  case head => exact fun _ v htrip => exec_errEvtHeadWrite_of_running v htrip
  case trace =>
    exact fun _ _ _ hrun => ⟨fun howner => ⟨exec_traceCtl_of_stop hrun howner, exec_traceCtl_of_start hrun howner,
      exec_traceCtl_of_clear hrun howner⟩, fun _ hop hpower hwrite => exec_traceCtl_of_dump hrun hop hpower hwrite⟩
  case stage => exact fun _ _ _ _ _ _ hrun hbegun hleft hchunk => (exec_fwStage_of_chunk hrun hbegun hleft hchunk :)
  case activate => exact fun _ _ _ hrun => (exec_fwActivate_of_runs hrun :)
  case config =>
    exact fun _ _ _ hrun => ⟨fun _ hop hwrite => exec_bootCfgWrite_of_readBack hrun hop hwrite,
      fun _ _ hop hread hgood => (exec_bootCfgWrite_of_good hrun hop hread hgood :)⟩

end Sys2Proof.Machine
end

