-- ==== Sys2Proof/Proofs/Endpoint.lean ====
section
/-!
PROOFS. The management endpoint (21 R548–R560): MCTP, PLDM types 0, 2 and 5, SPDM. The codes and layouts of DSP0236, DSP0240, DSP0248,
DSP0267 and DSP0274 are presumed; the reassembly rules, the refusals, the image kept in the state, the numbers of its states, the request
order and the portion bound are the model's choices (notes/assumptions/35.md).
-/
namespace Sys2Proof.Machine

/-! ### The meaning of each row -/

theorem exec_mctpPacket (vdm good : Bool) (dest typ : Nat) (som eom : Bool) (data : List Byte) (s : State) :
    exec (.mctpPacket vdm good dest typ som eom data) s = execMctpPacket vdm good dest typ som eom data s := by rfl

theorem exec_setEndpointId (vdm : Bool) (eid : Nat) (s : State) : exec (.setEndpointId vdm eid) s = execSetEndpointId vdm eid s := by rfl

theorem exec_getEndpointId (vdm : Bool) (s : State) : exec (.getEndpointId vdm) s = execGetEndpointId vdm s := by rfl

theorem exec_getEndpointUuid (vdm : Bool) (s : State) : exec (.getEndpointUuid vdm) s = execGetEndpointUuid vdm s := by rfl

theorem exec_getMctpVersionSupport (vdm : Bool) (s : State) :
    exec (.getMctpVersionSupport vdm) s = execGetMctpVersionSupport vdm s := by rfl

theorem exec_getMessageTypeSupport (vdm : Bool) (s : State) :
    exec (.getMessageTypeSupport vdm) s = execGetMessageTypeSupport vdm s := by rfl
theorem exec_getTid (vdm : Bool) (s : State) : exec (.getTid vdm) s = execGetTid vdm s := by rfl

theorem exec_getPldmVersion (vdm : Bool) (typ : Nat) (s : State) : exec (.getPldmVersion vdm typ) s = execGetPldmVersion vdm typ s := by rfl

theorem exec_getPldmTypes (vdm : Bool) (s : State) : exec (.getPldmTypes vdm) s = execGetPldmTypes vdm s := by rfl

theorem exec_getPldmCommands (vdm : Bool) (typ : Nat) (s : State) :
    exec (.getPldmCommands vdm typ) s = execGetPldmCommands vdm typ s := by rfl
theorem exec_getPdrRepositoryInfo (vdm : Bool) (s : State) : exec (.getPdrRepositoryInfo vdm) s = execGetPdrRepositoryInfo vdm s := by rfl

theorem exec_getPdr (vdm : Bool) (record : Nat) (s : State) : exec (.getPdr vdm record) s = execGetPdr vdm record s := by rfl

theorem exec_getSensorReading (vdm : Bool) (sensor : Nat) (s : State) :
    exec (.getSensorReading vdm sensor) s = execGetSensorReading vdm sensor s := by rfl

theorem exec_getStateSensorReadings (vdm : Bool) (sensor : Nat) (s : State) :
    exec (.getStateSensorReadings vdm sensor) s = execGetStateSensorReadings vdm sensor s := by rfl

theorem exec_setStateEffecterStates (vdm : Bool) (effecter value : Nat) (s : State) :
    exec (.setStateEffecterStates vdm effecter value) s = execSetStateEffecterStates vdm effecter value s := by rfl

theorem exec_getStateEffecterStates (vdm : Bool) (effecter : Nat) (s : State) :
    exec (.getStateEffecterStates vdm effecter) s = execGetStateEffecterStates vdm effecter s := by rfl
theorem exec_setEventReceiver (vdm recvVdm : Bool) (mode : Nat) (s : State) :
    exec (.setEventReceiver vdm recvVdm mode) s = execSetEventReceiver vdm recvVdm mode s := by rfl

theorem exec_platformEventMessage (s : State) : exec .platformEventMessage s = execPlatformEventMessage s := by rfl

theorem exec_pollForPlatformEventMessage (vdm ack get : Bool) (s : State) :
    exec (.pollForPlatformEventMessage vdm ack get) s = execPollForPlatformEventMessage vdm ack get s := by rfl
theorem exec_requestUpdate (vdm : Bool) (maxXfer : Nat) (s : State) :
    exec (.requestUpdate vdm maxXfer) s = execRequestUpdate vdm maxXfer s := by rfl

theorem exec_passComponentTable (vdm : Bool) (cls ident : Nat) (s : State) :
    exec (.passComponentTable vdm cls ident) s = execPassComponentTable vdm cls ident s := by rfl

theorem exec_updateComponent (vdm : Bool) (cls ident total : Nat) (s : State) :
    exec (.updateComponent vdm cls ident total) s = execUpdateComponent vdm cls ident total s := by rfl

theorem exec_requestFirmwareData (data : List Byte) (s : State) :
    exec (.requestFirmwareData data) s = execRequestFirmwareData data s := by rfl

theorem exec_transferComplete (s : State) : exec .transferComplete s = execTransferComplete s := by rfl

theorem exec_verifyComplete (s : State) : exec .verifyComplete s = execVerifyComplete s := by rfl

theorem exec_applyComplete (ok : Bool) (s : State) : exec (.applyComplete ok) s = execApplyComplete ok s := by rfl
theorem exec_activateFirmware (vdm self : Bool) (s : State) :
    exec (.activateFirmware vdm self) s = execActivateFirmware vdm self s := by rfl

theorem exec_getStatus (vdm : Bool) (s : State) : exec (.getStatus vdm) s = execGetStatus vdm s := by rfl

theorem exec_cancelUpdateComponent (vdm : Bool) (s : State) :
    exec (.cancelUpdateComponent vdm) s = execCancelUpdateComponent vdm s := by rfl

theorem exec_cancelUpdate (vdm : Bool) (s : State) : exec (.cancelUpdate vdm) s = execCancelUpdate vdm s := by rfl

theorem exec_queryDeviceIdentifiers (vdm : Bool) (s : State) :
    exec (.queryDeviceIdentifiers vdm) s = execQueryDeviceIdentifiers vdm s := by rfl

theorem exec_getFirmwareParameters (vdm : Bool) (s : State) :
    exec (.getFirmwareParameters vdm) s = execGetFirmwareParameters vdm s := by rfl

theorem exec_updateInactivityTimeout (s : State) : exec .updateInactivityTimeout s = execUpdateInactivityTimeout s := by rfl
theorem exec_getVersion (vdm : Bool) (s : State) : exec (.getVersion vdm) s = execGetVersion vdm s := by rfl

theorem exec_getCapabilities (vdm : Bool) (s : State) : exec (.getCapabilities vdm) s = execGetCapabilities vdm s := by rfl

theorem exec_negotiateAlgorithms (vdm : Bool) (asym hash meas : Nat) (s : State) :
    exec (.negotiateAlgorithms vdm asym hash meas) s = execNegotiateAlgorithms vdm asym hash meas s := by rfl

theorem exec_getDigests (vdm : Bool) (s : State) : exec (.getDigests vdm) s = execGetDigests vdm s := by rfl

theorem exec_getCertificate (vdm : Bool) (certSlot offset len : Nat) (s : State) :
    exec (.getCertificate vdm certSlot offset len) s = execGetCertificate vdm certSlot offset len s := by rfl

theorem exec_challenge (vdm : Bool) (certSlot : Nat) (s : State) : exec (.challenge vdm certSlot) s = execChallenge vdm certSlot s := by rfl

theorem exec_getMeasurements (vdm : Bool) (index : Nat) (signed : Bool) (s : State) :
    exec (.getMeasurements vdm index signed) s = execGetMeasurements vdm index signed s := by rfl

/-! ### Requests that are served -/

section Serve
variable {s : State} {vdm early : Bool} {typ cmd : Nat} {d e : Dev} {f : Dev → Dev}

theorem State.run_served (h : s.dev.Serves vdm typ early d) (heffect : f d = e) :
    s.run (fun d => d.serve vdm typ cmd early f) = .next (s.after e) :=
  State.run_of_effect <| (Dev.serve_runs h f).trans heffect

theorem State.run_servedUpd {states : List Nat} (h : s.dev.Serves vdm mtPldm true d) (hstate : d.updBad states = none)
    (heffect : f d = e) : s.run (fun d => d.serveUpd vdm cmd states f) = .next (s.after e) :=
  State.run_of_effect <| (Dev.serveUpd_runs h hstate f).trans heffect

theorem State.run_servedSpdm {stage : Nat} (h : s.dev.Serves vdm mtSpdm early d) (hstage : stage ≤ d.mgt.spdm) (heffect : f d = e) :
    s.run (fun d => d.serveSpdm vdm cmd stage early f) = .next (s.after e) :=
  State.run_of_effect <| (Dev.serveSpdm_runs h hstage f).trans heffect

end Serve

/-! ### MCTP (R548, R549) -/

section Packet
variable {s : State} {vdm : Bool} {dest typ : Nat} {data : List Byte} (hreached : s.dev.reached vdm = true)
include hreached

theorem exec_mctpPacket_of_bad (som eom : Bool) :
    exec (.mctpPacket vdm false dest typ som eom data) s = .next (s.after
      (s.dev.inc (if vdm then Reg.MGT_ERR.VDM_DROPS else Reg.MGT_ERR.SMB_DROPS))) :=
  (exec_mctpPacket ..).trans <| State.run_of_effect <| (if_neg (by simp [hreached])).trans (if_pos (by simp))

/-- What a packet of the endpoint does to the message that it belongs to: `old` holds what came of it before. -/
def Dev.packetIn (d : Dev) (vdm : Bool) (typ : Nat) (eom : Bool) (old data : List Byte) : Dev :=
  let key := 2 * typ + b2n vdm
  let d : Dev := { d with mgt := { d.mgt with asm := kvDel key d.mgt.asm } }
  if eom then d.messageIn vdm typ (old ++ data) else { d with mgt := { d.mgt with asm := kvPut key (old ++ data) d.mgt.asm } }

variable (htyp : typ ∈ ([0, 1, 5] : List Nat)) (hdest : dest = s.dev.rd Reg.MGT_STATUS.EID) (hdata : data.length ≤ 64)
include htyp hdest hdata

theorem exec_mctpPacket_of_first (eom : Bool) :
    exec (.mctpPacket vdm true dest typ true eom data) s = .next (s.after (s.dev.packetIn vdm typ eom [] data)) := by
  refine (exec_mctpPacket ..).trans <| State.run_of_effect <| (if_neg (by simp [hreached])).trans <|
    (if_neg (by simp [hdest, hdata])).trans <| (if_neg (by rw [List.contains_iff_mem.2 htyp]; decide)).trans ?_
  exact if_neg (by simp only [List.nil_append]; omega)

theorem exec_mctpPacket_of_last {old : List Byte} (hold : kvGet (2 * typ + b2n vdm) s.dev.mgt.asm = some old)
    (hroom : (old ++ data).length < 4096) :
    exec (.mctpPacket vdm true dest typ false true data) s = .next (s.after (s.dev.packetIn vdm typ true old data)) := by
  refine (exec_mctpPacket ..).trans <| State.run_of_effect <| (if_neg (by simp [hreached])).trans <|
    (if_neg (by simp [hdest, hdata])).trans <| (if_neg (by rw [List.contains_iff_mem.2 htyp]; decide)).trans ?_
  simp only [Bool.false_eq_true, if_false, hold]
  exact if_neg (Nat.not_le.2 hroom)

end Packet

section Base
variable {s : State} {vdm : Bool} {d : Dev}

theorem exec_setEndpointId_of_served {eid : Nat} (h : s.dev.Serves vdm mtControl true d) (hlow : eid ≠ 0) (hhigh : eid ≠ 0xFF) :
    exec (.setEndpointId vdm eid) s = .next (s.after
      ((d.wr Reg.MGT_STATUS.EID eid).reply mtControl 1 0 (leBytes 1 0 ++ leBytes 1 eid ++ leBytes 1 0))) :=
  (exec_setEndpointId ..).trans <| State.run_served h (if_neg (by simp [hlow, hhigh]))

theorem exec_getPldmCommands_of_served {typ : Nat} (h : s.dev.Serves vdm mtPldm true d) (htyp : typ ∈ ([0, 2, 5] : List Nat)) :
    exec (.getPldmCommands vdm typ) s = .next (s.after
      (d.reply mtPldm 5 0 (leBytes 32 ((pldmCommands typ).map fun c => 2 ^ c).sum))) := by
  have hsome : ∀ typ ∈ ([0, 2, 5] : List Nat), (pldmCommands typ).isEmpty = false := by decide
  exact (exec_getPldmCommands ..).trans <| State.run_served h (if_neg (Bool.eq_false_iff.1 (hsome typ htyp)))

end Base

/-- Settles O54, row by row. -/
theorem endpointRequestsComplete : Obligations.EndpointRequestsComplete := by
  refine ⟨?packet, ?control, ?base⟩
  case packet =>
    exact fun _ _ _ _ _ hreached => ⟨exec_mctpPacket_of_bad hreached, fun htyp hdest hdata =>
      ⟨(exec_mctpPacket_of_first hreached htyp hdest hdata true :), (exec_mctpPacket_of_first hreached htyp hdest hdata false :),
        fun _ hold hroom => (exec_mctpPacket_of_last hreached htyp hdest hdata hold hroom :)⟩⟩
  case control =>
    exact fun _ _ _ h => ⟨fun _ hlow hhigh => exec_setEndpointId_of_served h hlow hhigh,
      (exec_getEndpointId ..).trans (State.run_served h rfl), (exec_getEndpointUuid ..).trans (State.run_served h rfl),
      (exec_getMctpVersionSupport ..).trans (State.run_served h rfl), (exec_getMessageTypeSupport ..).trans (State.run_served h rfl)⟩
  case base =>
    exact fun _ _ _ h => ⟨(exec_getTid ..).trans (State.run_served h rfl), (exec_getPldmVersion ..).trans (State.run_served h rfl),
      (exec_getPldmVersion ..).trans (State.run_served h rfl), (exec_getPldmTypes ..).trans (State.run_served h rfl),
      fun _ htyp => exec_getPldmCommands_of_served h htyp⟩

/-! ### PLDM type 2 (R551–R553, R556) -/

section Platform
variable {s : State} {vdm : Bool} {d : Dev}

section Always
variable (h : s.dev.Serves vdm mtPldm false d)
include h

theorem exec_getPdr_of_served {r : Nat} (hrecord : r < d.pdrCount) :
    exec (.getPdr vdm r) s = .next (s.after (d.reply mtPldm 0x51 0 (Config.standardBytes (0x10000 + r)))) :=
  (exec_getPdr ..).trans <| State.run_served h (if_pos hrecord)

theorem exec_getStateEffecterStates_of_unit {id : Nat} (hlow : 0x100 ≤ id) (hhigh : id < 0x160)
    (hfitted : d.unitPresent (id - 0x100) = true) :
    exec (.getStateEffecterStates vdm id) s = .next (s.after
      (d.reply mtPldm 0x3A 0 (leBytes 1 (d.rd (Reg.MGT_UNIT.SAFETY (id - 0x100)) + 1)))) :=
  (exec_getStateEffecterStates ..).trans <| State.run_served h (if_pos ⟨hlow, by omega, hfitted⟩)

theorem exec_getStateEffecterStates_of_domain {id : Nat} (hlow : 0x300 ≤ id) (hhigh : id < 0x340)
    (hfitted : d.domPresent (id - 0x300) = true) :
    exec (.getStateEffecterStates vdm id) s = .next (s.after
      (d.reply mtPldm 0x3A 0 (leBytes 1 (d.rd (Reg.MGT_UNIT.PWR_TARGET (id - 0x300)) + 1)))) :=
  (exec_getStateEffecterStates ..).trans <| State.run_served h <| (if_neg (by omega)).trans (if_pos ⟨hlow, by omega, hfitted⟩)

/-- Events go to the receiver of a mode over a binding; none has been polled. -/
def Dev.receiverSet (d : Dev) (recvVdm : Bool) (mode : Nat) : Dev :=
  let e : Dev := { d with mgt := { d.mgt with mode := mode, binding := b2n recvVdm, polled := false } }
  (e.wr Reg.MGT_STATUS.RECEIVER (b2n (mode != 0))).wr Reg.MGT_STATUS.POLLING (b2n (mode == 2))

theorem exec_setEventReceiver_of_served {recvVdm : Bool} {mode : Nat} (hmode : mode < 3) (hasync : ¬ (mode = 1 ∧ recvVdm = false)) :
    exec (.setEventReceiver vdm recvVdm mode) s = .next (s.after ((d.receiverSet recvVdm mode).reply mtPldm 4 0)) :=
  (exec_setEventReceiver ..).trans <| State.run_served h <| if_neg fun hbad =>
    hbad.elim (Nat.not_le.2 hmode) fun ⟨hone, hvdm⟩ => hasync ⟨hone, by simpa using hvdm⟩

theorem exec_pollForPlatformEventMessage_of_pending {x : Event} {rest : List Event} (hmode : d.mgt.mode = 2)
    (hpending : d.evt.mgmt = x :: rest) :
    exec (.pollForPlatformEventMessage vdm false true) s = .next (s.after
      (({ d with mgt := { d.mgt with polled := true } } : Dev).emit (.mgmtEvent x))) := by
  refine (exec_pollForPlatformEventMessage ..).trans <| State.run_served h <| (if_neg (not_not_intro hmode)).trans ?_
  simp only [Bool.false_and, Bool.false_eq_true, if_false, hpending]

end Always

section Sensor
variable {id : Nat} (h : s.dev.Serves vdm mtPldm (s.dev.sensorEarly id) d) (hfitted : d.sensorFitted id = true)
include h hfitted

theorem exec_getSensorReading_of_clock (hlow : 0x30 ≤ id) (hhigh : id < 0x40) :
    exec (.getSensorReading vdm id) s = .next (s.after
      (d.reply mtPldm 0x11 0 (leBytes 1 0 ++ leBytes 2 (d.rd (Reg.CLK_CCLK.CUR_MHZ (id - 0x30)))))) :=
  (exec_getSensorReading ..).trans <| State.run_of_effect <| (Dev.serve_runs h _).trans <| (if_neg (by simp [hfitted])).trans
    (if_pos ⟨hlow, hhigh⟩)

theorem exec_getSensorReading_of_reading {x : Sensor} (hother : ¬ (0x30 ≤ id ∧ id < 0x40)) (hread : kvGet id d.mgt.sensors = some x) :
    exec (.getSensorReading vdm id) s = .next (s.after
      (d.reply mtPldm 0x11 0 (leBytes 1 (if x.unavailable then 2 else 0) ++ sint16 x.value))) := by
  refine (exec_getSensorReading ..).trans <| State.run_of_effect <| (Dev.serve_runs h _).trans <| (if_neg (by simp [hfitted])).trans <|
    (if_neg hother).trans ?_
  simp only [hread]

end Sensor

section StateSensor
variable {id : Nat} (h : s.dev.Serves vdm mtPldm (id == 0x200 || decide (5 < s.dev.rd Reg.RST_STATUS.STAGE)) d)
include h

theorem exec_getStateSensorReadings_of_device (hid : id = 0x200) :
    exec (.getStateSensorReadings vdm id) s = .next (s.after (d.reply mtPldm 0x21 0 (leBytes 1 d.deviceState))) :=
  (exec_getStateSensorReadings ..).trans <| State.run_of_effect <| (Dev.serve_runs h _).trans (if_pos hid)

theorem exec_getStateSensorReadings_of_unit (hlow : 0x100 ≤ id) (hhigh : id < 0x160) (hfitted : d.unitPresent (id - 0x100) = true) :
    exec (.getStateSensorReadings vdm id) s = .next (s.after
      (d.reply mtPldm 0x21 0 (leBytes 1 (d.unitState (id - 0x100) + 1)))) :=
  (exec_getStateSensorReadings ..).trans <| State.run_of_effect <| (Dev.serve_runs h _).trans <| (if_neg (by omega)).trans
    (if_pos ⟨hlow, by omega, hfitted⟩)

end StateSensor

theorem exec_platformEventMessage_of_pending {e : Event} {rest : List Event} (hpending : s.dev.evt.mgmt = e :: rest)
    (hmode : s.dev.mgt.mode = 1) (hreached : s.dev.reached true = true) :
    exec .platformEventMessage s = .next (s.after
      (({ s.dev with evt := { s.dev.evt with mgmt := rest } } : Dev).emit (.mgmtEvent e))) := by
  refine (exec_platformEventMessage ..).trans <| State.run_of_effect ?_
  simp only [hpending]
  exact if_pos (by simp [hmode, hreached])

end Platform

/-- Settles O55, row by row. -/
theorem platformRequestsComplete : Obligations.PlatformRequestsComplete := by
  refine ⟨?always, ?sensor, ?state, ?event⟩
  case always =>
    exact fun _ _ _ h => ⟨(exec_getPdrRepositoryInfo ..).trans (State.run_served h rfl), fun _ hrecord => exec_getPdr_of_served h hrecord,
      fun _ _ => (exec_setStateEffecterStates ..).trans (State.run_served h rfl),
      fun _ hlow hhigh hfitted => exec_getStateEffecterStates_of_unit h hlow hhigh hfitted,
      fun _ hlow hhigh hfitted => exec_getStateEffecterStates_of_domain h hlow hhigh hfitted,
      fun _ _ hmode hasync => (exec_setEventReceiver_of_served h hmode hasync :),
      fun _ _ hmode hpending => exec_pollForPlatformEventMessage_of_pending h hmode hpending⟩
  case sensor =>
    exact fun _ _ _ _ h hfitted => ⟨exec_getSensorReading_of_clock h hfitted,
      fun _ hother hread => exec_getSensorReading_of_reading h hfitted hother hread⟩
  case state => exact fun _ _ _ _ h => ⟨exec_getStateSensorReadings_of_device h, exec_getStateSensorReadings_of_unit h⟩
  case event => exact fun _ _ _ hpending hmode hreached => exec_platformEventMessage_of_pending hpending hmode hreached

/-! ### PLDM type 5: the requests (R557, R558) -/

section Update
variable {s : State} {vdm : Bool} {d : Dev} (h : s.dev.Serves vdm mtPldm true d)
include h

theorem exec_requestUpdate_of_idle {n : Nat} (hidle : d.mgt.upd.active = false) (hallowed : d.updRefused = false) (hsize : 32 ≤ n) :
    exec (.requestUpdate vdm n) s = .next (s.after
      ((d.setUpd { update0 with active := true, state := 1, piece := min n 1024 }).reply mtPldm 0x10 0)) :=
  (exec_requestUpdate ..).trans <| State.run_served h <| (if_neg (Bool.eq_false_iff.1 hidle)).trans <|
    (if_neg (Bool.eq_false_iff.1 hallowed)).trans (if_neg (Nat.not_lt.2 hsize))

/-- The device's own component, of a size that fits a slot, begins its transfer. -/
theorem exec_updateComponent_of_own {n : Nat} (hstate : d.updBad [2] = none) (hsome : 0 < n) (hfits : n ≤ slotBytes) :
    exec (.updateComponent vdm 0x000A 0x0880 n) s = .next (s.after
      ((((d.setUpd { d.mgt.upd with state := 3, offset := 0, total := n, image := [], verified := false }).reply mtPldm 0x14 0
        (leBytes 1 0)).askPiece))) := by
  refine (exec_updateComponent ..).trans <| State.run_servedUpd h hstate <| if_neg ?_
  have hown : ourComponent 0x000A 0x0880 = true := rfl
  simp only [hown, Bool.not_true, Bool.false_or, Bool.or_eq_true, beq_iff_eq, decide_eq_true_eq]
  omega

section Activate
variable {self : Bool} (hstate : d.updBad [2] = none) (hverified : d.mgt.upd.verified = true)
include hstate hverified

/-- The boot ROM selects slot A and performs a COLD reset. -/
theorem exec_activateFirmware_of_rom (hrom : d.romUpdate = true) :
    exec (.activateFirmware vdm self) s = .next (s.after
      (if d.fwActivateFault d.updSlot = none then
        (((d.selWrite [(0, 1, 0)]).setUpd update0).reply mtPldm 0x1A 0).resetRequest .cold 0 3
      else d.reply mtPldm 0x1A 0x84)) := by
  refine (exec_activateFirmware ..).trans <| State.run_servedUpd h hstate <| (if_neg (by simp [hverified])).trans ?_
  cases hfault : d.fwActivateFault d.updSlot with
  | some f => simp only [reduceCtorEq, if_false]
  | none => simp only [hrom, if_true]

/-- The slot that was written is selected; with `self` the WARM reset follows once nothing is in flight. -/
def Dev.updActivated (d : Dev) (self : Bool) : Dev :=
  let e := (d.fwSelect d.updSlot false self).reply mtPldm 0x1A 0
  if self then ((e.setUpd { update0 with active := true, state := 6 }).fwStopAll none).activateNow else (e.setUpd update0).fwShow

theorem exec_activateFirmware_of_running (hrom : d.romUpdate = false) :
    exec (.activateFirmware vdm self) s = .next (s.after
      (if d.fwActivateFault d.updSlot = none then d.updActivated self else d.reply mtPldm 0x1A 0x84)) := by
  refine (exec_activateFirmware ..).trans <| State.run_servedUpd h hstate <| (if_neg (by simp [hverified])).trans ?_
  cases hfault : d.fwActivateFault d.updSlot with
  | some f => simp only [reduceCtorEq, if_false]
  | none => simp only [hrom, Bool.false_eq_true, if_false, if_true, Dev.updActivated]

end Activate

end Update

/-! ### PLDM type 5: the steps (20 R536, R542) -/

/-- The piece asked for is gathered behind what has come. -/
def Dev.pieceTaken (d : Dev) (data : List Byte) : Dev :=
  let u := d.mgt.upd
  { d with mgt := { d.mgt with upd := { u with image := u.image ++ data, offset := u.offset + data.length } } }

/-- The transferred image is acceptable and fills what was announced. -/
def Dev.imageGood (d : Dev) : Bool :=
  (d.fwFault d.updImage).isNone && fieldAt d.updImage 0x10 4 + 0x1000 == d.mgt.upd.total

section Steps
variable {s : State} (htrip : s.dev.board.tripped = false)
include htrip

theorem exec_requestFirmwareData_of_asked {data : List Byte} (hstate : s.dev.mgt.upd.state = 3) (hrom : s.dev.romUpdate = false)
    (hlength : data.length = min s.dev.mgt.upd.piece (s.dev.mgt.upd.total - s.dev.mgt.upd.offset)) (hsome : data ≠ []) :
    exec (.requestFirmwareData data) s = .next (s.after
      (if s.dev.mgt.upd.offset + data.length = s.dev.mgt.upd.total then s.dev.pieceTaken data else (s.dev.pieceTaken data).askPiece)) := by
  have hpos : 0 < data.length := List.length_pos_iff.2 hsome
  refine (exec_requestFirmwareData ..).trans <| State.run_of_effect ?_
  simp only [← hlength]
  refine (if_neg (by simp [hstate, htrip, hsome])).trans <| (if_neg (not_not_intro rfl)).trans ?_
  simp only [hrom, Bool.false_eq_true, if_false]
  rfl

theorem exec_transferComplete_of_whole (hstate : s.dev.mgt.upd.state = 3) (hwhole : s.dev.mgt.upd.offset = s.dev.mgt.upd.total) :
    exec .transferComplete s = .next (s.after
      ((s.dev.setUpd { s.dev.mgt.upd with state := 4 }).reply mtPldm 0x16 0 (leBytes 1 0))) :=
  (exec_transferComplete ..).trans <| State.run_of_effect <| if_neg (by simp [hstate, hwhole, htrip])

theorem exec_verifyComplete_of_transferred (hstate : s.dev.mgt.upd.state = 4) :
    exec .verifyComplete s = .next (s.after
      (if s.dev.imageGood then (s.dev.setUpd { s.dev.mgt.upd with state := 5 }).reply mtPldm 0x17 0 (leBytes 1 0)
      else (s.dev.setUpd update0).reply mtPldm 0x17 0 (leBytes 1 1))) :=
  (exec_verifyComplete ..).trans <| State.run_of_effect <| if_neg (by simp [hstate, htrip])

/-- The verified image is programmed into the slot that is not active, which is VALID then. -/
def Dev.updApplied (d : Dev) : Dev :=
  (((d.fwMark d.updSlot fwWriting).setSlot d.updSlot d.mgt.upd.image).fwMark d.updSlot fwValid).setUpd
    { d.mgt.upd with state := 2, image := [], verified := true }

theorem exec_applyComplete_of_verified (hstate : s.dev.mgt.upd.state = 5) (hrom : s.dev.romUpdate = false) :
    exec (.applyComplete true) s = .next (s.after (s.dev.updApplied.reply mtPldm 0x18 0 (leBytes 1 0))) := by
  refine (exec_applyComplete ..).trans <| State.run_of_effect <| (if_neg (by simp [hstate, htrip])).trans ?_
  simp only [hrom, Bool.false_eq_true, if_false, if_true]
  rfl

theorem exec_updateInactivityTimeout_of_active (hactive : s.dev.mgt.upd.active = true) (hstate : s.dev.mgt.upd.state ≠ 6) :
    exec .updateInactivityTimeout s = .next (s.after (s.dev.setUpd update0)) :=
  (exec_updateInactivityTimeout ..).trans <| State.run_of_effect <| if_pos (by simp [hactive, hstate, htrip])

end Steps

/-- Settles O56, row by row. -/
theorem firmwareUpdateComplete : Obligations.FirmwareUpdateComplete := by
  refine ⟨?request, ?step⟩
  case request =>
    exact fun _ _ _ h => ⟨fun _ hidle hallowed hsize => exec_requestUpdate_of_idle h hidle hallowed hsize,
      fun _ _ hstate => (exec_passComponentTable ..).trans (State.run_servedUpd h hstate rfl),
      fun _ hstate hsome hfits => exec_updateComponent_of_own h hstate hsome hfits,
      fun _ hstate hverified => ⟨exec_activateFirmware_of_rom h hstate hverified,
        fun hrom => (exec_activateFirmware_of_running h hstate hverified hrom :)⟩,
      (exec_getStatus ..).trans (State.run_served h rfl),
      fun hstate => (exec_cancelUpdateComponent ..).trans (State.run_servedUpd h hstate rfl),
      fun hstate => (exec_cancelUpdate ..).trans (State.run_servedUpd h hstate rfl),
      (exec_queryDeviceIdentifiers ..).trans (State.run_served h rfl), (exec_getFirmwareParameters ..).trans (State.run_served h rfl)⟩
  case step =>
    exact fun _ htrip =>
      ⟨fun _ hstate hrom hlength hsome => (exec_requestFirmwareData_of_asked htrip hstate hrom hlength hsome :),
        exec_transferComplete_of_whole htrip, fun hstate => (exec_verifyComplete_of_transferred htrip hstate :),
        fun hstate hrom => (exec_applyComplete_of_verified htrip hstate hrom :), exec_updateInactivityTimeout_of_active htrip⟩

/-! ### SPDM (R559, R560) -/

section Attestation
variable {s : State} {vdm : Bool} {d : Dev}

section Early
variable (h : s.dev.Serves vdm mtSpdm true d)
include h

theorem exec_negotiateAlgorithms_of_offered {asym hash meas : Nat} (hstage : 2 ≤ d.mgt.spdm) (hasym : bitAt asym 7 = true)
    (hhash : bitAt hash 1 = true) (hmeas : bitAt meas 0 = true) :
    exec (.negotiateAlgorithms vdm asym hash meas) s = .next (s.after
      (({ d with mgt := { d.mgt with spdm := 3 } } : Dev).reply mtSpdm 0xE3 0
        (leBytes 1 1 ++ leBytes 4 4 ++ leBytes 4 0x80 ++ leBytes 4 2))) :=
  (exec_negotiateAlgorithms ..).trans <| State.run_servedSpdm h hstage <| if_pos (by rw [hasym, hhash, hmeas]; decide)

/-- The measurement blocks that exist. -/
def Dev.measured (d : Dev) : List Nat := ([1, 2, 3, 4, 5] : List Nat).filter fun i => (d.measurement i).isSome

/-- The answer's fields: how many blocks there are, and the blocks asked for. -/
def Dev.measurementFields (d : Dev) (index : Nat) : List Byte :=
  leBytes 1 d.measured.length ++ (if index = 0 then [] else d.measurements (if index = 0xFF then d.measured else [index]))

theorem exec_getMeasurements_of_index {index : Nat} (signed : Bool) (hstage : 3 ≤ d.mgt.spdm)
    (hindex : index = 0 ∨ index = 0xFF ∨ index ∈ d.measured) :
    exec (.getMeasurements vdm index signed) s = .next (s.after
      (if signed then d.replySigned 0xE0 (d.measurementFields index) else d.reply mtSpdm 0xE0 0 (d.measurementFields index))) := by
  refine (exec_getMeasurements ..).trans <| State.run_servedSpdm h hstage <| if_neg fun ⟨hzero, hall, hnone⟩ => ?_
  have hout : (!d.measured.contains index) = true := hnone
  exact absurd ((hindex.resolve_left hzero).resolve_left hall) (by simpa using hout)

end Early

section Ready
variable (h : s.dev.Serves vdm mtSpdm false d) (hstage : 3 ≤ d.mgt.spdm)
include h hstage

/-- A portion of the identity chain of slot 0, and what remains behind it. -/
def chainFields (offset len : Nat) : List Byte :=
  let p := (identityChain.drop offset).take (min len 4000)
  leBytes 2 p.length ++ leBytes 2 (identityChain.length - offset - p.length) ++ p

theorem exec_getCertificate_of_slot0 (offset len : Nat) :
    exec (.getCertificate vdm 0 offset len) s = .next (s.after
      (if identityChain.length ≤ offset then d.reply mtSpdm 0x82 1 else d.reply mtSpdm 0x82 0 (chainFields offset len))) := by
  refine (exec_getCertificate ..).trans <| State.run_servedSpdm h hstage ?_
  simp only [ne_eq, not_true_eq_false, false_or]
  rfl

theorem exec_challenge_of_slot0 :
    exec (.challenge vdm 0) s = .next (s.after (d.replySigned 0x83 (Config.sha384 identityChain))) :=
  (exec_challenge ..).trans <| State.run_servedSpdm h hstage (if_neg (not_not_intro rfl))

end Ready

end Attestation

/-- Settles O57, row by row. -/
theorem attestationRequestsComplete : Obligations.AttestationRequestsComplete := by
  refine ⟨?early, ?ready⟩
  case early =>
    exact fun _ _ _ h => ⟨(exec_getVersion ..).trans (State.run_servedSpdm h (Nat.zero_le _) rfl),
      fun hstage => (exec_getCapabilities ..).trans (State.run_servedSpdm h hstage rfl),
      fun _ _ _ hstage hasym hhash hmeas => exec_negotiateAlgorithms_of_offered h hstage hasym hhash hmeas,
      fun hstage signed _ hindex => (exec_getMeasurements_of_index h signed hstage hindex :)⟩
  case ready =>
    exact fun _ _ _ h hstage => ⟨(exec_getDigests ..).trans (State.run_servedSpdm h hstage rfl),
      fun offset len => (exec_getCertificate_of_slot0 h hstage offset len :), exec_challenge_of_slot0 h hstage⟩

end Sys2Proof.Machine
end

