-- ==== Sys2Proof/Proofs/Monitor.lean ====
section
/-!
PROOFS. The Hehus monitor and the TAP (chapter 23). The texts of the answers, what a refusal maps to, the corners of an access, a line per
dump row, the line buffer of 256 bytes, ERR 7 on a timeout and the formats that the TAP shifts out are the model's choices
(notes/assumptions/36.md).
-/
namespace Sys2Proof.Machine

/-! ### The meaning of each row -/

theorem exec_hehusHelp (s : State) : exec .hehusHelp s = execHehusHelp s := by rfl

theorem exec_hehusInfo (s : State) : exec .hehusInfo s = execHehusInfo s := by rfl

theorem exec_hehusUnlock (level : Nat) (s : State) : exec (.hehusUnlock level) s = execHehusUnlock level s := by rfl

theorem exec_hehusResp (sig : List Byte) (s : State) : exec (.hehusResp sig) s = execHehusResp sig s := by rfl

theorem exec_hehusLock (s : State) : exec .hehusLock s = execHehusLock s := by rfl

theorem exec_hehusBaud (rate : Nat) (s : State) : exec (.hehusBaud rate) s = execHehusBaud rate s := by rfl

theorem exec_hehusRd (addr count : Nat) (s : State) : exec (.hehusRd addr count) s = execHehusRd addr count s := by rfl

theorem exec_hehusWr (addr value : Nat) (s : State) : exec (.hehusWr addr value) s = execHehusWr addr value s := by rfl

theorem exec_hehusFill (addr len value : Nat) (s : State) : exec (.hehusFill addr len value) s = execHehusFill addr len value s := by rfl

theorem exec_hehusSo (n : Nat) (ue : Bool) (s : State) : exec (.hehusSo n ue) s = execHehusSo n ue s := by rfl

theorem exec_hehusSoSet (n value : Nat) (s : State) : exec (.hehusSoSet n value) s = execHehusSoSet n value s := by rfl

theorem exec_hehusSoAdd (n value : Nat) (s : State) : exec (.hehusSoAdd n value) s = execHehusSoAdd n value s := by rfl
theorem exec_hehusInn (cls guest : Nat) (s : State) : exec (.hehusInn cls guest) s = execHehusInn cls guest s := by rfl

theorem exec_hehusInnImage (cls guest : Nat) (bad : List (Nat × Bool)) (s : State) :
    exec (.hehusInnImage cls guest bad) s = execHehusInnImage cls guest bad s := by rfl

theorem exec_hehusPwr (s : State) : exec .hehusPwr s = execHehusPwr s := by rfl

theorem exec_hehusPwrSet (dom target : Nat) (s : State) : exec (.hehusPwrSet dom target) s = execHehusPwrSet dom target s := by rfl

theorem exec_hehusUnit (u : Nat) (s : State) : exec (.hehusUnit u) s = execHehusUnit u s := by rfl

theorem exec_hehusUnitSet (u : Nat) (offline : Bool) (s : State) : exec (.hehusUnitSet u offline) s = execHehusUnitSet u offline s := by rfl

theorem exec_hehusEvents (s : State) : exec .hehusEvents s = execHehusEvents s := by rfl

theorem exec_hehusTraceStart (mask : Nat) (wrap : Bool) (s : State) :
    exec (.hehusTraceStart mask wrap) s = execHehusTraceStart mask wrap s := by rfl

theorem exec_hehusTraceStop (s : State) : exec .hehusTraceStop s = execHehusTraceStop s := by rfl

theorem exec_hehusTraceClear (s : State) : exec .hehusTraceClear s = execHehusTraceClear s := by rfl
theorem exec_hehusReset (value : Nat) (s : State) : exec (.hehusReset value) s = execHehusReset value s := by rfl

theorem exec_hehusLine (line : List Byte) (s : State) : exec (.hehusLine line) s = execHehusLine line s := by rfl

theorem exec_hehusInterrupt (s : State) : exec .hehusInterrupt s = execHehusInterrupt s := by rfl

theorem exec_hehusAccessTimeout (s : State) : exec .hehusAccessTimeout s = execHehusAccessTimeout s := by rfl

theorem exec_hehusDump (addr len : Nat) (s : State) : exec (.hehusDump addr len) s = execHehusDump addr len s := by rfl

theorem exec_hehusTraceDump (count : Nat) (s : State) : exec (.hehusTraceDump count) s = execHehusTraceDump count s := by rfl

theorem exec_baudSwitch (s : State) : exec .baudSwitch s = execBaudSwitch s := by rfl

theorem exec_nonceExpiry (s : State) : exec .nonceExpiry s = execNonceExpiry s := by rfl

theorem exec_unlockBackoffEnd (s : State) : exec .unlockBackoffEnd s = execUnlockBackoffEnd s := by rfl
theorem exec_bypass (s : State) : exec .bypass s = execBypass s := by rfl

theorem exec_idcode (s : State) : exec .idcode s = execIdcode s := by rfl

theorem exec_samplePreload (s : State) : exec .samplePreload s = execSamplePreload s := by rfl

theorem exec_extest (s : State) : exec .extest s = execExtest s := by rfl

theorem exec_extestPulse (s : State) : exec .extestPulse s = execExtestPulse s := by rfl

theorem exec_extestTrain (s : State) : exec .extestTrain s = execExtestTrain s := by rfl

theorem exec_tapClamp (s : State) : exec .tapClamp s = execTapClamp s := by rfl

theorem exec_highz (s : State) : exec .highz s = execHighz s := by rfl

theorem exec_tapRelease (s : State) : exec .tapRelease s = execTapRelease s := by rfl

theorem exec_dbgAuth (op level : Nat) (sig : List Byte) (s : State) : exec (.dbgAuth op level sig) s = execDbgAuth op level sig s := by rfl

theorem exec_dbgMem (write : Bool) (addr value : Nat) (s : State) :
    exec (.dbgMem write addr value) s = execDbgMem write addr value s := by rfl

/-! ### Commands that Hehus takes (R593, R596) -/

section Takes
variable {s : State} {d e : Dev} {level : Nat} {f : Dev → Dev}

theorem State.run_hehus (h : s.dev.HehusTakes true level) (heffect : f s.dev = e) : s.runHehus f = .next (s.after e) :=
  State.run_of_effect <| (if_pos h.idle).trans heffect

/-- A command whose arguments are in range has its effect. -/
theorem Dev.hCmd_of_args {args : Bool} (h : d.HehusTakes true level) (hargs : args = true) (heffect : f d = e) :
    d.hCmd args level f = e := by
  subst hargs
  exact (Dev.hCmd_takes h f).trans heffect

/-- A trace command of a unit that the host does not own and whose power is as it needs has its effect. -/
theorem Dev.hTrace_of_free {args power : Bool} (h : d.HehusTakes true 2) (hargs : args = true)
    (hpower : power = true → d.domOn domDebug = true) (howner : d.rd Reg.DBG_STATUS.OWNER ≠ 1) :
    d.hTrace args power f = (f d).hOk := by
  refine Dev.hCmd_of_args h hargs <| (if_neg fun hoff => ?_).trans (if_neg howner)
  obtain ⟨hneeds, hout⟩ := (Bool.and_eq_true_iff).1 hoff
  rw [hpower hneeds] at hout
  cases hout

end Takes

section Level0
variable {s : State} (h : s.dev.HehusTakes true 0)
include h

theorem exec_hehusUnlock_of_level {level n : Nat} {d : Dev} (hlevel : level = 1 ∨ level = 2)
    (hnonce : s.dev.askNonce level = (d, .ok n)) : exec (.hehusUnlock level) s = .next (s.after (d.hPut "CHAL" n).hOk) := by
  refine (exec_hehusUnlock ..).trans <| State.run_hehus h <| Dev.hCmd_of_args h (by simpa using hlevel) ?_
  simp only [hnonce]

theorem exec_hehusResp_of_length {sig : List Byte} (hlength : sig.length = 96) :
    exec (.hehusResp sig) s = .next (s.after
      (if (s.dev.respond sig).2 then (s.dev.respond sig).1.hOk else (s.dev.respond sig).1.hErr 8)) :=
  (exec_hehusResp ..).trans <| State.run_hehus h <| Dev.hCmd_of_args h (by simp [hlength]) rfl

theorem exec_hehusBaud_of_rate {rate : Nat} (hrate : bauds.contains rate = true) :
    exec (.hehusBaud rate) s = .next (s.after
      ({ s.dev with dbg := { s.dev.dbg with baudNext := some (bauds.idxOf rate) } } : Dev).hOk) :=
  (exec_hehusBaud ..).trans <| State.run_hehus h <| Dev.hCmd_of_args h hrate rfl

end Level0

section Level1
variable {s : State} (h : s.dev.HehusTakes true 1)
include h

theorem exec_hehusRd_of_args {a n : Nat} (haligned : a % 4 = 0) (hsome : 1 ≤ n) (hmax : n ≤ 256) :
    exec (.hehusRd a n) s = .next (s.after ((s.dev.hReads a n).1.hEnd (s.dev.hReads a n).2)) :=
  (exec_hehusRd ..).trans <| State.run_hehus h <| Dev.hCmd_of_args h (by simp [haligned, hsome, hmax]) rfl

section SyncObject
variable {n : Nat} (hn : n < 4096) (hserved : s.dev.dbgHeld soBase = false)
include hn hserved

theorem exec_hehusSo_of_ue (hue : s.dev.so.ue.contains n = true) :
    exec (.hehusSo n false) s = .next (s.after (s.dev.hPut "UE" n).hOk) :=
  (exec_hehusSo ..).trans <| State.run_hehus h <| Dev.hCmd_of_args h (decide_eq_true hn) <|
    (if_neg (Bool.eq_false_iff.1 hserved)).trans (if_pos hue)

/-- A sync object as `so` prints it: its value, its configuration, its waits. -/
def Dev.soPrinted (d : Dev) (n : Nat) : Dev :=
  let e := (d.hPut "VALUE" (d.soValue n)).hPut "CFG" (d.reg (Reg.SO_CFG.KIND n).reg)
  e.forEach (e.so.waiters.filter fun w => w.so == n) fun w d => (d.hPut "WAIT" w.cond).hPut "CMP" w.cmp

theorem exec_hehusSo_of_good (hgood : s.dev.so.ue.contains n = false) :
    exec (.hehusSo n false) s = .next (s.after (s.dev.soPrinted n).hOk) :=
  (exec_hehusSo ..).trans <| State.run_hehus h <| Dev.hCmd_of_args h (decide_eq_true hn) <|
    (if_neg (Bool.eq_false_iff.1 hserved)).trans (if_neg (Bool.eq_false_iff.1 hgood))

end SyncObject

theorem exec_hehusInn_of_room {cls guest : Nat} {r : Room} (hargs : s.dev.innArgs cls guest = true) (hclocks : s.dev.coreClocks = true)
    (hroom : s.dev.room? cls guest = some r) :
    exec (.hehusInn cls guest) s = .next (s.after (s.dev.hPut "INN"
      (r.step + (if r.bad then 5 else roomCode r.state) * 2 ^ 32 + b2n r.pinned * 2 ^ 35 + b2n (inHall r.addr) * 2 ^ 36)).hOk) := by
  refine (exec_hehusInn ..).trans <| State.run_hehus h <| Dev.hCmd_of_args h hargs <| (if_neg (by simp [hclocks])).trans ?_
  simp only [hroom]

/-- A room's words turn out bad as the row says; then its published image is read. -/
theorem exec_hehusInnImage_of_read {cls guest : Nat} {bad : List (Nat × Bool)} {r : Room} {d e : Dev} {bs : List Byte}
    (hfound : s.dev.room? cls guest = some r)
    (hbad : e = s.dev.sprout (bad.filter fun x => touchesWord r.addr (s.dev.roomSize cls) (x.1 / 8 * 8))) (htakes : e.HehusTakes true 1)
    (hargs : e.innArgs cls guest = true) (hclocks : e.coreClocks = true) (hroom : e.room? cls guest = some r) (hfree : r.state ≠ .busy)
    (hclean : r.state ≠ .poisoned) (hgood : r.bad = false)
    (hread : e.innRead (e.classCtx cls) r.addr (e.roomSize cls) = (d, .ok bs)) :
    exec (.hehusInnImage cls guest bad) s = .next (s.after (d.hPut "IMAGE" (leNat bs)).hOk) := by
  refine (exec_hehusInnImage ..).trans <| State.run_hehus h ?_
  simp only [hfound, ← hbad]
  refine Dev.hCmd_of_args htakes hargs <| (if_neg (by simp [hclocks])).trans ?_
  simp only [hroom]
  refine (if_neg hfree).trans <| (if_neg (by simp [hclean, hgood])).trans ?_
  simp only [hread]

theorem exec_hehusUnit_of_unit {u : Nat} (hu : u < 96) :
    exec (.hehusUnit u) s = .next (s.after (s.dev.hPut "MGT_UNIT" (s.dev.reg (Reg.MGT_UNIT.WORK u).reg)).hOk) :=
  (exec_hehusUnit ..).trans <| State.run_hehus h <| Dev.hCmd_of_args h (decide_eq_true hu) rfl

end Level1

section Level2
variable {s : State} (h : s.dev.HehusTakes true 2)
include h

theorem exec_hehusWr_of_args {a v : Nat} (haligned : a % 4 = 0) (hv : v < 2 ^ 32) :
    exec (.hehusWr a v) s = .next (s.after
      ((s.dev.dbgWrite a (leBytes 4 v)).1.hEnd (s.dev.dbgWrite a (leBytes 4 v)).2)) :=
  (exec_hehusWr ..).trans <| State.run_hehus h <| Dev.hCmd_of_args h (by rw [haligned, decide_eq_true hv]; decide) rfl

theorem exec_hehusFill_of_args {a len v : Nat} (haligned : a % 8 = 0) (hwords : len % 8 = 0) (hsome : 8 ≤ len) (hmax : len ≤ 0x100000)
    (hv : v < 2 ^ 64) :
    exec (.hehusFill a len v) s = .next (s.after ((s.dev.hFills a v (len / 8)).1.hEnd (s.dev.hFills a v (len / 8)).2)) :=
  (exec_hehusFill ..).trans <| State.run_hehus h <| Dev.hCmd_of_args h
    (by rw [haligned, hwords, decide_eq_true hsome, decide_eq_true hmax, decide_eq_true hv]; decide) rfl

section SyncObject
variable {n v : Nat} (hn : n < 4096) (hserved : s.dev.dbgHeld soBase = false)
include hn hserved

/-- SET rewrites an uncorrectable object whole. -/
theorem exec_hehusSoSet_of_args (hv : v < 2 ^ 64) :
    exec (.hehusSoSet n v) s = .next (s.after
      (({ s.dev with so := { s.dev.so with ue := s.dev.so.ue.filter fun x => x != n } } : Dev).soHost n true v).hOk) :=
  (exec_hehusSoSet ..).trans <| State.run_hehus h <|
    Dev.hCmd_of_args h (by rw [decide_eq_true hn, if_pos rfl, decide_eq_true hv]; decide) <|
    (if_neg (Bool.eq_false_iff.1 hserved)).trans (if_pos rfl)

theorem exec_hehusSoAdd_of_args (hv : v < 2 ^ 32) (hgood : s.dev.so.ue.contains n = false) :
    exec (.hehusSoAdd n v) s = .next (s.after (s.dev.soHost n false v).hOk) :=
  (exec_hehusSoAdd ..).trans <| State.run_hehus h <|
    Dev.hCmd_of_args h (by rw [decide_eq_true hn, if_neg Bool.false_ne_true, decide_eq_true hv]; decide) <|
    (if_neg (Bool.eq_false_iff.1 hserved)).trans <| (if_neg Bool.false_ne_true).trans <|
    congrArg Dev.hOk (if_neg (Bool.eq_false_iff.1 hgood))

end SyncObject

theorem exec_hehusPwrSet_of_live {dom : Nat} (v : Nat) (hdom : dom < 64) (hlive : s.dev.live = true) :
    exec (.hehusPwrSet dom v) s = .next (s.after
      ((s.dev.mgmtDomain dom v).1.hEnd (mgmtErr (s.dev.mgmtDomain dom v).2))) :=
  (exec_hehusPwrSet ..).trans <| State.run_hehus h <| Dev.hCmd_of_args h (decide_eq_true hdom) (if_neg (by simp [hlive]))

theorem exec_hehusUnitSet_of_live {u : Nat} (off : Bool) (hu : u < 96) (hlive : s.dev.live = true) :
    exec (.hehusUnitSet u off) s = .next (s.after
      ((s.dev.mgmtUnit u (1 + b2n off)).1.hEnd (mgmtErr (s.dev.mgmtUnit u (1 + b2n off)).2))) :=
  (exec_hehusUnitSet ..).trans <| State.run_hehus h <| Dev.hCmd_of_args h (decide_eq_true hu) (if_neg (by simp [hlive]))

section Trace
variable (howner : s.dev.rd Reg.DBG_STATUS.OWNER ≠ 1)
include howner

theorem exec_hehusTraceStart_of_args {mask : Nat} (wrap : Bool) (hmask : mask < 256) (hpower : s.dev.domOn domDebug = true) :
    exec (.hehusTraceStart mask wrap) s = .next (s.after (s.dev.traceStart 2 mask 0xFF wrap).hOk) :=
  (exec_hehusTraceStart ..).trans <| State.run_hehus h <| Dev.hTrace_of_free h (decide_eq_true hmask) (fun _ => hpower) howner

theorem exec_hehusTraceStop_of_free : exec .hehusTraceStop s = .next (s.after s.dev.traceStop.hOk) :=
  (exec_hehusTraceStop ..).trans <| State.run_hehus h <| Dev.hTrace_of_free h rfl (fun hno => nomatch hno) howner

theorem exec_hehusTraceClear_of_free : exec .hehusTraceClear s = .next (s.after s.dev.traceClear.hOk) :=
  (exec_hehusTraceClear ..).trans <| State.run_hehus h <| Dev.hTrace_of_free h rfl (fun hno => nomatch hno) howner

end Trace

/-- The reply leaves before the reset begins. -/
theorem exec_hehusReset_of_value {v : Nat} (hvalue : (resetOf v).isSome = true) (htrip : s.dev.board.tripped = false)
    (hboot : s.dev.board.bootFailed = false) : exec (.hehusReset v) s = .next (s.after (s.dev.hOk.mgmtReset v).1) :=
  (exec_hehusReset ..).trans <| State.run_hehus h <| Dev.hCmd_of_args h hvalue (if_neg (by simp [htrip, hboot]))

end Level2

/-- Settles O58, row by row. -/
theorem monitorCommandsComplete : Obligations.MonitorCommandsComplete := by
  refine ⟨?level0, ?level1, ?level2⟩
  case level0 =>
    exact fun _ h => ⟨(exec_hehusHelp ..).trans (State.run_hehus h (Dev.hCmd_of_args h rfl rfl)),
      (exec_hehusInfo ..).trans (State.run_hehus h (Dev.hCmd_of_args h rfl rfl)),
      fun _ _ _ hlevel hnonce => exec_hehusUnlock_of_level h hlevel hnonce,
      fun _ hlength => (exec_hehusResp_of_length h hlength :),
      (exec_hehusLock ..).trans (State.run_hehus h (Dev.hCmd_of_args h rfl rfl)), fun _ hrate => exec_hehusBaud_of_rate h hrate⟩
  case level1 =>
    exact fun _ h => ⟨fun _ _ haligned hsome hmax => exec_hehusRd_of_args h haligned hsome hmax,
      fun _ hn hserved => ⟨exec_hehusSo_of_ue h hn hserved, fun hgood => (exec_hehusSo_of_good h hn hserved hgood :)⟩,
      fun _ _ _ hargs hclocks hroom => exec_hehusInn_of_room h hargs hclocks hroom,
      fun _ _ _ _ _ _ _ hfound hbad htakes hargs hclocks hroom hfree hclean hgood hread =>
        exec_hehusInnImage_of_read h hfound hbad htakes hargs hclocks hroom hfree hclean hgood hread,
      (exec_hehusPwr ..).trans (State.run_hehus h (Dev.hCmd_of_args h rfl rfl)), fun _ hu => exec_hehusUnit_of_unit h hu,
      (exec_hehusEvents ..).trans (State.run_hehus h (Dev.hCmd_of_args h rfl rfl))⟩
  case level2 =>
    exact fun _ h => ⟨fun _ _ haligned hv => exec_hehusWr_of_args h haligned hv,
      fun _ _ _ haligned hwords hsome hmax hv => exec_hehusFill_of_args h haligned hwords hsome hmax hv,
      fun _ _ hn hv hserved => exec_hehusSoSet_of_args h hn hserved hv,
      fun _ _ hn hv hserved hgood => exec_hehusSoAdd_of_args h hn hserved hv hgood,
      fun _ v hdom hlive => exec_hehusPwrSet_of_live h v hdom hlive, fun _ off hu hlive => exec_hehusUnitSet_of_live h off hu hlive,
      fun howner => ⟨fun _ wrap hmask hpower => exec_hehusTraceStart_of_args h howner wrap hmask hpower,
        exec_hehusTraceStop_of_free h howner, exec_hehusTraceClear_of_free h howner⟩,
      fun _ hvalue htrip hboot => exec_hehusReset_of_value h hvalue htrip hboot⟩

/-! ### Lines, dumps and timers (R592–R599, R601) -/

/-- A dump is set up, which its first line begins. -/
def Dev.dumpBegun (d : Dev) (x : HehusDump) : Dev := { d with dbg := { d.dbg with dump := some x } }

section Lines
variable {s : State} (hpins : s.dev.dbg.pinsTaken = false)
include hpins

theorem exec_hehusLine_of_idle (line : List Byte) (hidle : s.dev.dbg.dump = none) :
    exec (.hehusLine line) s = .next (s.after
      (({ s.dev with dbg := { s.dev.dbg with buf := [] } } : Dev).runLine (s.dev.dbg.buf ++ line))) :=
  (exec_hehusLine ..).trans <| State.run_of_effect <| (if_neg (Bool.eq_false_iff.1 hpins)).trans (if_neg (by simp [hidle]))

theorem exec_hehusAccessTimeout_of_pins : exec .hehusAccessTimeout s = .next (s.after (s.dev.dumpOver 7)) :=
  (exec_hehusAccessTimeout ..).trans <| State.run_of_effect (if_neg (Bool.eq_false_iff.1 hpins))

section Dump
variable (hdump : s.dev.dbg.dump ≠ none)
include hdump

theorem exec_hehusLine_of_dump (line : List Byte) :
    exec (.hehusLine line) s = .next (s.after
      { s.dev with dbg := { s.dev.dbg with buf := (s.dev.dbg.buf ++ line ++ [0x0D]).take 256 } }) :=
  (exec_hehusLine ..).trans <| State.run_of_effect <| (if_neg (Bool.eq_false_iff.1 hpins)).trans
    (if_pos (Option.isSome_iff_ne_none.2 hdump))

theorem exec_hehusInterrupt_of_dump : exec .hehusInterrupt s = .next (s.after (s.dev.dumpOver 0)) :=
  (exec_hehusInterrupt ..).trans <| State.run_of_effect <| if_neg (by simp [hpins, hdump])

theorem exec_hehusDump_of_dump (a len : Nat) : exec (.hehusDump a len) s = .next (s.after (s.dev.dumpLine.runBuffer 257)) :=
  (exec_hehusDump ..).trans <| State.run_of_effect <| (if_neg (Bool.eq_false_iff.1 hpins)).trans <|
    congrArg (Dev.runBuffer · 257) (if_pos (Option.isSome_iff_ne_none.2 hdump))

theorem exec_hehusTraceDump_of_dump (n : Nat) : exec (.hehusTraceDump n) s = .next (s.after (s.dev.dumpLine.runBuffer 257)) :=
  (exec_hehusTraceDump ..).trans <| State.run_of_effect <| (if_neg (Bool.eq_false_iff.1 hpins)).trans <|
    congrArg (Dev.runBuffer · 257) (if_pos (Option.isSome_iff_ne_none.2 hdump))

end Dump

/-- Hehus takes a command: no dump runs. -/
theorem no_dump_of_takes {level : Nat} (h : s.dev.HehusTakes true level) : ¬ s.dev.dbg.dump.isSome = true := by
  have hidle := h.idle
  simp only [Dev.hIdle, hpins, Bool.not_false, Bool.true_and, Option.isNone_iff_eq_none] at hidle
  simp [hidle]

theorem exec_hehusDump_of_args {len : Nat} (a : Nat) (h : s.dev.HehusTakes true 1) (hsome : 1 ≤ len) (hmax : len ≤ 0x100000) :
    exec (.hehusDump a len) s = .next (s.after ((s.dev.dumpBegun ⟨false, a, len, []⟩).dumpLine.runBuffer 257)) :=
  (exec_hehusDump ..).trans <| State.run_of_effect <| (if_neg (Bool.eq_false_iff.1 hpins)).trans <|
    congrArg (Dev.runBuffer · 257) <| (if_neg (no_dump_of_takes hpins h)).trans <|
    Dev.hCmd_of_args h (by rw [decide_eq_true hsome, decide_eq_true hmax, Bool.and_true]) rfl

theorem exec_hehusTraceDump_of_args {n : Nat} (h : s.dev.HehusTakes true 1) (hmax : n ≤ traceSize)
    (hpower : s.dev.domOn domDebug = true) :
    exec (.hehusTraceDump n) s = .next (s.after
      ((s.dev.dumpBegun ⟨true, 0, 0, if n = 0 then s.dev.dbg.trace else s.dev.traceNewest n⟩).dumpLine.runBuffer 257)) :=
  (exec_hehusTraceDump ..).trans <| State.run_of_effect <| (if_neg (Bool.eq_false_iff.1 hpins)).trans <|
    congrArg (Dev.runBuffer · 257) <| (if_neg (no_dump_of_takes hpins h)).trans <|
    Dev.hCmd_of_args h (decide_eq_true hmax) (if_neg (by simp [hpower]))

end Lines

theorem exec_baudSwitch_of_next {s : State} {i : Nat} (hnext : s.dev.dbg.baudNext = some i) :
    exec .baudSwitch s = .next (s.after
      (({ s.dev with dbg := { s.dev.dbg with baudNext := none } } : Dev).wr Reg.DBG_STATUS.BAUD i)) := by
  refine (exec_baudSwitch ..).trans <| State.run_of_effect ?_
  simp only [hnext]

theorem exec_unlockBackoffEnd_of_backoff {s : State} (hbackoff : s.dev.on Reg.DBG_UNLOCK.BACKOFF = true) :
    exec .unlockBackoffEnd s = .next (s.after
      (({ s.dev with dbg := { s.dev.dbg with failRun := 0 } } : Dev).wr Reg.DBG_UNLOCK.BACKOFF 0)) :=
  (exec_unlockBackoffEnd ..).trans <| State.run_of_effect (if_pos hbackoff)

/-- Settles O59, row by row. -/
theorem monitorLinesComplete : Obligations.MonitorLinesComplete := by
  refine ⟨?line, ?baud, ?nonce, ?backoff⟩
  case line =>
    exact fun _ hpins => ⟨exec_hehusLine_of_idle hpins, fun line hdump => exec_hehusLine_of_dump hpins hdump line,
      exec_hehusInterrupt_of_dump hpins, exec_hehusAccessTimeout_of_pins hpins,
      fun a len hdump => exec_hehusDump_of_dump hpins hdump a len, fun n hdump => exec_hehusTraceDump_of_dump hpins hdump n,
      fun a _ h hsome hmax => (exec_hehusDump_of_args hpins a h hsome hmax :),
      fun _ h hmax hpower => (exec_hehusTraceDump_of_args hpins h hmax hpower :)⟩
  case baud => exact fun _ _ hnext => exec_baudSwitch_of_next hnext
  case nonce => exact exec_nonceExpiry
  case backoff => exact fun _ hbackoff => exec_unlockBackoffEnd_of_backoff hbackoff

/-! ### The TAP (R595, R598, R603, R604) -/

/-- A row of instructions that shift out sampled pins: its command and its code. -/
abbrev PinsRow := Instr × Nat

/-- The machine gives the instruction of a row the row's code. -/
def PinsRow.Means (x : PinsRow) : Prop := ∀ s, exec x.1 s = s.run fun d => (d.tapSelect x.2).tdoPins

/-- What DBG_AUTH shifts out: the level, the error of its step, the nonce. -/
def Dev.authOut (d : Dev) (err nonce : Nat) : Dev := d.emit (.tdo (d.rd Reg.DBG_STATUS.LEVEL + err * 4 + nonce * 64))

/-- What DBG_MEM shifts out for a read: the error, or the dword above it; 15 for an uncorrectable one. -/
def DbgGot.shifted (g : DbgGot) : Nat :=
  match g.val with
  | some v => v * 16
  | none => if g.err = 0 then 15 else g.err

section Tap
variable {s : State} {e : Dev}

section Auth
variable (hselect : e = s.dev.tapSelect 8)
include hselect

theorem exec_dbgAuth_of_status (level : Nat) (sig : List Byte) :
    exec (.dbgAuth 0 level sig) s = .next (s.after (e.authOut (if e.board.debugDisable then 3 else 0) 0)) := by
  subst hselect
  exact exec_dbgAuth ..

theorem exec_dbgAuth_of_request {level n : Nat} (sig : List Byte) {d : Dev} (hlevel : level = 1 ∨ level = 2)
    (hnonce : e.askNonce level = (d, .ok n)) : exec (.dbgAuth 1 level sig) s = .next (s.after (d.authOut 0 n)) := by
  subst hselect
  refine (exec_dbgAuth ..).trans <| State.run_of_effect <|
    (if_neg (by rcases hlevel with rfl | rfl <;> decide)).trans ?_
  simp only [hnonce]
  rfl

theorem exec_dbgAuth_of_response (level : Nat) {sig : List Byte} (henabled : e.board.debugDisable = false) (hlength : sig.length = 96) :
    exec (.dbgAuth 2 level sig) s = .next (s.after ((e.respond sig).1.authOut (if (e.respond sig).2 then 0 else 8) 0)) := by
  subst hselect
  exact (exec_dbgAuth ..).trans <| State.run_of_effect <| (if_neg (Bool.eq_false_iff.1 henabled)).trans (if_neg (not_not_intro hlength))

end Auth

section Mem
variable {a v : Nat} (hselect : e = s.dev.tapSelect 9) (haligned : a % 4 = 0) (hv : v < 2 ^ 32)
include hselect haligned hv

theorem exec_dbgMem_of_read (hlevel : 1 ≤ e.rd Reg.DBG_STATUS.LEVEL) :
    exec (.dbgMem false a v) s = .next (s.after ((e.dbgRead a).dev.emit (.tdo (e.dbgRead a).shifted))) := by
  subst hselect
  exact (exec_dbgMem ..).trans <| State.run_of_effect <|
    (if_neg fun hbad => hbad.elim (· haligned) (Nat.not_le.2 hv)).trans <| (if_neg (Nat.not_lt.2 hlevel)).trans (if_neg Bool.false_ne_true)

theorem exec_dbgMem_of_write (hlevel : 2 ≤ e.rd Reg.DBG_STATUS.LEVEL) :
    exec (.dbgMem true a v) s = .next (s.after
      ((e.dbgWrite a (leBytes 4 v)).1.emit (.tdo (e.dbgWrite a (leBytes 4 v)).2))) := by
  subst hselect
  exact (exec_dbgMem ..).trans <| State.run_of_effect <|
    (if_neg fun hbad => hbad.elim (· haligned) (Nat.not_le.2 hv)).trans <| (if_neg (Nat.not_lt.2 hlevel)).trans (if_pos rfl)

end Mem

end Tap

/-- Settles O60, row by row. -/
theorem tapInstructionsComplete : Obligations.TapInstructionsComplete := by
  intro s d
  refine ⟨exec_bypass s, exec_idcode s, ?pins, exec_tapClamp s, exec_highz s, exec_tapRelease s, ?auth, ?mem⟩
  case pins =>
    intro x hx
    have hmeans : PinsRow.Means x := by
      revert x
      simp only [List.forall_mem_cons]
      exact ⟨exec_samplePreload, exec_extest, exec_extestPulse, exec_extestTrain, List.forall_mem_nil _⟩
    exact hmeans s
  case auth =>
    rintro e _ hselect rfl
    exact ⟨exec_dbgAuth_of_status hselect, fun _ sig _ _ hlevel hnonce => exec_dbgAuth_of_request hselect sig hlevel hnonce,
      fun level _ henabled hlength => exec_dbgAuth_of_response hselect level henabled hlength⟩
  case mem =>
    exact fun _ _ _ hselect haligned hv => ⟨fun hlevel => (exec_dbgMem_of_read hselect haligned hv hlevel :),
      exec_dbgMem_of_write hselect haligned hv⟩

end Sys2Proof.Machine
end
